-- ==== Sys2Proof/Word.lean ====
section
/-! DEFINITION. The words of the RQ9 model and the operand types that the commands of Syntax.lean carry.
Numbers of physical units are `Fin n` with the ranges of R19, so no command can name a unit that does not exist. -/
namespace Sys2Proof

/-- One byte (R12). -/
abbrev Byte := BitVec 8
/-- A 32-bit register (R14) or argument. -/
abbrev W32 := BitVec 32
/-- A 64-bit register (R14), a scalar register (R253) or an FTB count (R29). -/
abbrev W64 := BitVec 64
/-- One 512-byte row (R157) or vector register (R293). -/
abbrev Row := BitVec 4096

/-- Physical Lanterns L0–L35 (R19). -/
abbrev LnId := Fin 36
/-- Physical Wicks W0–W51 (R19). -/
abbrev WkId := Fin 52
/-- The paths that reach a register (R543), in the order in which accesses of one cycle take effect. -/
inductive Path where
  | saddler (p : Fin 4)
  | bar0
  | app
  | smbus
deriving DecidableEq, Repr

/-- Size and place of an access to a 64-bit register: one 8-byte access, or one half (R14). -/
inductive Half where
  | low
  | high
  | full
deriving DecidableEq, Repr

/-- A physical Lantern or Wick (R20). -/
inductive UnitId where
  | lantern (n : LnId)
  | wick (n : WkId)
deriving DecidableEq, Repr, Inhabited

/-- One timetable instance: job frame, entry index, instance index (R184). -/
structure Inst where
  frame : Nat
  entry : Nat
  inst  : Nat
deriving DecidableEq, Repr, Inhabited

/-- Outcome of the start test of one Lantern (R499): located lines, or an unlocated failure, and whether the
second run passes after steering. -/
structure LnStartFail where
  unit       : LnId
  unlocated  : Bool
  rows       : List (Fin 257)
  cols       : List (Fin 257)
  secondPass : Bool
deriving DecidableEq, Repr

/-- What a start-up meets from outside the die: the outcome of the start test (R498–R499), of HBM training (R497),
of the identity rebuild (R484), the sampled presence controls (R489) and the time to READY (R494). -/
structure StartCond where
  micros   : Nat
  lnFail   : List LnStartFail
  wkFail   : List WkId
  hbmFail  : List (Fin 4)
  /-- none: key rebuilt and unwrapped; some 0: fingerprint fails; some 1: unwrap fails (R493). -/
  idFail   : Option (Fin 2)
  jumper   : Bool
  sealOpen : Bool
deriving DecidableEq, Repr

/-- Which reads or writes of memory outside the die fail during a ring command (R424, R430). -/
structure IoFail where
  sqRead  : Bool
  source  : Bool
  dest    : Bool
  cqWrite : Bool
deriving DecidableEq, Repr

/-- A ring pair or the event ring (R421). -/
inductive RingSel where
  | pair (k : Fin 64)
  | event
deriving DecidableEq, Repr

/-- Where a fault acts in a chain (R72–R76, R457). -/
inductive LnFaultKind where
  /-- Adds `delta` to a data column's output. -/
  | column
  /-- Adds `delta` to the checksum column's output. -/
  | checkColumn
  /-- The row operand's parity bit is wrong. -/
  | rowParity
  /-- A residue mismatch in the outlier lane; `delta` 0 when the repeat matches. -/
  | outlierResidue
  /-- A residue mismatch in the Winograd output transform, the requantiser or the global-average unit. -/
  | resultResidue
deriving DecidableEq, Repr

/-- One fault that strikes during a Lantern instance: pass (or 0), line (or 0), vector or result index, and the
amount it adds. Vector N of a pass is its check vector. -/
structure LnFault where
  kind  : LnFaultKind
  pass  : Nat
  line  : Nat
  vec   : Nat
  delta : Int
deriving DecidableEq, Repr

/-- The outcome of one Lamplighter item (R458–R459): the signature found, and for a Lantern whether the check units
class the pass as verified. -/
structure TestRun where
  sig      : W32
  verified : Bool
deriving DecidableEq, Repr

/-- Requests of the throttle table (R525) that sensors raise. -/
inductive ThrottleReq where
  | hotspot (q : Fin 4)
  | flow
  | inlet
deriving DecidableEq, Repr

/-- One telemetry sample (R529). `mvIn` in mV, `iIn` in 10 mA, temperatures in °C, flow in mL/min. -/
structure Telemetry where
  mvIn    : Nat
  iIn     : Nat
  pin     : Nat
  pdie    : Nat
  hotspot : Vector (BitVec 8) 4
  hbmTemp : Vector (BitVec 8) 4
  inlet   : Nat
  outlet  : Nat
  flow    : Nat
deriving DecidableEq, Repr

/-- What happens on a PTP port (R390, R392): a message is received, with the FTB count at the first bit after its start-of-frame delimiter,
its sender's MAC and IPv4 address and its bytes; a Delay_Req is due; or three Announce messages in a row have not come
(announceReceiptTimeout). -/
inductive PtpMsg where
  | received (sfd : Nat) (mac ip : List Byte) (bytes : List Byte)
  | delayReq
  | announceTimeout
deriving DecidableEq, Repr

/-- A pending write of a fabric agent into a row memory (R160): fabric port, row base address, sector mask, data, tag,
poison, and the DMA channel where one makes it. -/
structure RowWrite where
  port   : Nat
  chan   : Option (Fin 32)
  addr   : Nat
  mask   : BitVec 16
  data   : Row
  tag    : Byte
  poison : Bool
deriving DecidableEq, Repr, Inhabited

/-- The access an engine makes to the same row in the same cycle (R163). -/
inductive EngineUse where
  | none
  | read
  | write
deriving DecidableEq, Repr

/-- The region whose returned credit a waiting write takes (R171), and the access an engine makes to that write's row in the same cycle
(R163). -/
structure CreditGrant where
  region : Nat
  eng    : EngineUse
deriving DecidableEq, Repr

/-- A register read: the offset of its word and its size in bytes (R14). -/
structure RegRead where
  off  : Nat
  size : Nat
deriving DecidableEq, Repr

/-- What the residue check of a Wick meets in an arithmetic instruction (R457): no mismatch, one that the repeat masks, or one
that the repeat shows again. -/
inductive Residue where
  | clean | masked | poisoned
deriving DecidableEq, Repr

/-- Where a base-set instruction issues: a Wick thread in the variable encoding (`wide`: with the 0xEA prefix) or a Saddler
pair in the compact encoding (`short`: the 16-bit form) (R280, R286). -/
inductive Site where
  | wick (w : WkId) (t : Fin 4) (wide : Bool) (res : Residue)
  | sad (p : Fin 4) (short : Bool)
deriving DecidableEq, Repr

/-- Where a vector or Taper instruction issues. `pair`: it is the second of a pair (R225). -/
structure VSite where
  w    : WkId
  t    : Fin 4
  wide : Bool
  pair : Bool
  res  : Residue
deriving DecidableEq, Repr

/-- A scalar register number. -/
abbrev G := Fin 32
/-- A vector register number. -/
abbrev V := Fin 32
/-- A mask register number. -/
abbrev M := Fin 8

inductive LogicOp where
  | and | or | xor
deriving DecidableEq, Repr

inductive ShiftOp where
  | shl | shr | sar
deriving DecidableEq, Repr

/-- ADDI, ANDI, ORI, XORI, MULI (R264). -/
inductive ImmOp where
  | add | and | or | xor | mul
deriving DecidableEq, Repr

/-- B, H, W, D: 1, 2, 4, 8 bytes (R256). -/
inductive Size where
  | b | h | w | d
deriving DecidableEq, Repr

/-- The addressing modes of R257. -/
inductive AMode where
  | off (o : BitVec 32)
  | postInc (o : BitVec 32)
  | preDec (o : BitVec 32)
  | index (gi : G) (scale : Fin 4)
deriving DecidableEq, Repr

/-- The condition codes of R269. -/
inductive Cond where
  | eq | ne | lt | ge | ltu | geu | bs | bc
deriving DecidableEq, Repr

/-- The second operand of SKIP (R269). -/
inductive SkipRhs where
  | reg (gb : G)
  | imm (v : BitVec 32)
deriving DecidableEq, Repr

/-- The target of JMP and CALL (R272): a signed offset (in bytes on a Wick, in halfwords on a Saddler pair, R289) or a
register. -/
inductive Target where
  | rel (off : BitVec 32)
  | reg (ga : G)
deriving DecidableEq, Repr

/-- Operand b of an arithmetic vector instruction: V3, VX or VI (R301). -/
inductive VRhs where
  | vec (vb : V)
  | scalar (gb : G)
  | imm (v : BitVec 32)
deriving DecidableEq, Repr

/-- The mask byte's MEN and register (R304). -/
abbrev VMask := Option M

inductive VMinMax where
  | min | max | minu | maxu
deriving DecidableEq, Repr

inductive VRed where
  | sum | min | max | minu | maxu
deriving DecidableEq, Repr

/-- The operands of TMAC and TMACS (R310). -/
structure TmacArgs where
  gx : G
  gy : G
  ix : BitVec 16
  iy : BitVec 16
  cb : Byte
  fl : Byte
deriving DecidableEq, Repr

/-- The circumstances of an Urlan training (R396): peer's MODULE, its link number, half the probe's round trip. -/
structure LinkPeer where
  modl : Nat
  link : Nat
  lat  : Nat
deriving DecidableEq, Repr

/-- A CP_IRQ_SWI write: by a thread of a Wick, or into the page of a Saddler pair (R250, R444). -/
inductive SwiTarget where
  | wick (w : WkId) (t : Fin 4)
  | saddler (p : Fin 4)
deriving DecidableEq, Repr

end Sys2Proof
end

