-- ==== Sys2Proof/Syntax.lean ====
section
/-! DEFINITION. The commands of the RQ9 block: one constructor per row of spec/opcode_table.json, in the table's order.
A command names an event or an operation of the module; what comes about in it follows from the state, and what the
spec leaves to the outside of the die (faults, readings, arrivals, firmware-independent outcomes) is an operand. -/
namespace Sys2Proof

inductive Instr where
  -- Power, resets and the configuration store (R494–R513, R519–R528)
  | powerOnReset (sc : StartCond)
  | fundamentalReset (sc : StartCond)
  | warmReset (p : Path) (value : W32) (micros : Nat)
  | railOutOfRegulation (reading : Nat)
  | inputUndervoltage (mv : Nat)
  | inputOvervoltage (mv : Nat)
  | thermalTrip (cause : Fin 4) (reading : Nat)
  | saveSettings (p : Path) (value : W32)
  | configRecordWrite
  | configWriteDone (firstOk secondOk : Bool) (leftOver : List Byte)
  -- Presence, privileged operations, attestation (R484–R491)
  | serviceButtonPress (ms : Nat)
  | buttonWindowExpiry
  | debugJumper (fitted : Bool)
  | sealBroken (openReading : Bool)
  | fwWrite (flashOk srcOk : Bool)
  | libWrite (flashOk srcOk : Bool)
  | rollbackCommit
  | configDefault (flashOk : Bool)
  | fenceClear (flashOk : Bool)
  | certWrite (flashOk srcOk : Bool)
  | identityZeroise (flashOk : Bool)
  | secBadOp (op : Byte)
  | attestGo (value : W32)
  | attestDone
  -- Throttle and SMBus (R522–R526, R533–R535)
  | throttleWindow (pin pdie : Nat)
  | throttleRequest (r : ThrottleReq) (active : Bool) (reading : Nat)
  | externalThrottle (asserted : Bool)
  | throttleStepBegin (q : Fin 4)
  | throttleStep (q : Fin 4)
  | smbusRegRead (off : BitVec 16) (pec : Bool)
  | smbusRegWrite (off : BitVec 16) (value : W32) (pec : Bool)
  | smbusEventRead (pec : Bool)
  | smbusWarmReset (data : Byte) (pec : Bool) (micros : Nat)
  -- Host access and registers (R14–R18, R417–R422)
  | flr
  | hotReset
  | configRequest (off : BitVec 12) (write : Option W32)
  | bar2Access (off : Nat) (n : Nat) (write : Option (List Byte))
  | appCoreAccess (hart : Fin 16) (addr : Nat) (n : Nat) (write : Option (List Byte))
  | bar2BaseWrite (p : Path) (h : Half) (value : W64)
  | registerWrite (p : Path) (off : Nat) (size : Nat) (value : W64)
  | registerLowerHalfRead (p : Path) (r : RegRead)
  | ftbCountLowRead (p : Path)
  | counterClear (p : Path) (off : Nat) (value : W32)
  | steeringWrite (p : Path) (n : LnId) (col : Bool) (value : W32)
  | dbSqWrite (p : Path) (k : Fin 64) (value : W32)
  | ringEnable (p : Path) (r : RingSel) (value : W32)
  | ringDisable (p : Path) (r : RingSel) (value : W32)
  -- Ring commands (R430–R437, R203–R219, R56)
  | loadImage (k : Fin 64) (io : IoFail) (placeError : Bool)
  | bindStream (k : Fin 64) (io : IoFail)
  | arm (k : Fin 64) (io : IoFail)
  | updateParams (k : Fin 64) (io : IoFail)
  | snapshot (k : Fin 64) (io : IoFail)
  | resume (k : Fin 64) (io : IoFail)
  | stop (k : Fin 64) (io : IoFail)
  | query (k : Fin 64) (io : IoFail)
  | fenceQuery (k : Fin 64) (io : IoFail)
  | unknownCommand (k : Fin 64) (io : IoFail)
  | stopAtAnchor
  -- Mailboxes (R26–R27, R441–R442)
  | mailboxOut (i : Inst)
  | mailboxRecordWrite
  | ibSend (i : Fin 16) (value : W32)
  | ibSendCredited (i : Fin 16)
  -- Saddlers (R443–R445, R469, R471, R250)
  | saddlerInterrupt (p : Fin 4)
  | saddlerTimerTick
  | saddlerException (p : Fin 4) (cause : Byte) (addr : W64)
  | saddlerDivergence (p : Fin 4)
  | watchdog (p : Fin 4)
  | cpIrqSwiWrite (tgt : SwiTarget) (value : W32)
  -- Crossings and studio time (R29–R40, R390–R391, R406–R407)
  | crossingRelease (src dst : Byte) (resolved : Bool)
  | ptpMessage (port : Fin 4) (m : PtpMsg)
  | ptpLocked
  | ptpHoldover
  | ptpOffsetExcess
  | uplinkTimeFlit (flit : List Byte)
  | urlanFtbOffset
  -- Epochs (R44–R49, R433–R435)
  | commitPoint (n : Nat)
  | anchorSwitch (n : Nat)
  | epochStageCopy (block : Nat)
  | epochPayloadComplete (block : Nat)
  -- Lanterns (R59–R91, R92–R150, R452–R457)
  | chain (i : Inst) (start : Nat) (flt : List LnFault)
  | requant (i : Inst) (start : Nat) (flt : List LnFault)
  | gavg (i : Inst) (start : Nat) (flt : List LnFault)
  | haltedOccupancyEnd (n : LnId)
  | lanternHang (i : Inst) (start : Nat) (pass : Nat)
  | failedChainHandling (n : LnId) (replay1 replay2 : List LnFault)
  -- Timetable, tests and moves (R172, R186, R209–R214, R224, R332, R458–R470)
  | wickStart (i : Inst)
  | dmaStart (i : Inst)
  | release (i : Inst)
  | testWindow (i : Inst) (runs : List TestRun)
  | testWindowPostponed (i : Inst)
  | unitMove (u : UnitId)
  | moveEnd (u : UnitId)
  | fullSweep (u : UnitId) (runs : List TestRun)
  | sequencerDivergence (cu : Fin 14)
  | snapshotPoint (i : Inst)
  | instanceComplete (i : Inst)
  -- Row memories and credits (R157–R177)
  | fabricRowWrite (wr : RowWrite) (eng : EngineUse)
  | fabricRowRead (port : Nat) (addr : Nat)
  | heldWriteRetry (addr : Nat) (engineRead : Bool)
  | mapStoreBankGrant (bank : Fin 64)
  | creditWaitEnd (c : CreditGrant)
  | creditStall (region : Nat)
  -- Wick core (R221–R252)
  | wickInterruptEntry (w : WkId) (t : Fin 4)
  | wickException (w : WkId) (t : Fin 4)
  | wickHang (w : WkId) (t : Fin 4)
  | storeBufferDrain (w : WkId)
  | instructionRefill (w : WkId)
  | localFabricAccess (w : WkId) (port : Nat) (off : Nat) (n : Nat) (write : Option (List Byte))
  | cpRcwWrite (x : Site) (gs : G) (m : AMode) (gb : G)
  | rcwWaitEnd (w : WkId) (t : Fin 4)
  | rcwStall (w : WkId) (t : Fin 4)
  | cpTaperOwnerWrite (x : Site) (gs : G) (m : AMode) (gb : G)
  | cpRetWrite (x : Site) (gs : G) (m : AMode) (gb : G)
  -- Base set (R253–R292)
  | addSub (x : Site) (sub : Bool) (gd ga gb : G)
  | andOrXor (x : Site) (op : LogicOp) (gd ga gb : G)
  | shlShrSar (x : Site) (op : ShiftOp) (gd ga gb : G)
  | mul (x : Site) (gd ga gb : G)
  | mulhMulhu (x : Site) (uns : Bool) (gd ga gb : G)
  | divDivu (x : Site) (uns : Bool) (gd ga gb : G)
  | remRemu (x : Site) (uns : Bool) (gd ga gb : G)
  | immediateAlu (x : Site) (op : ImmOp) (gd ga : G) (imm : BitVec 32)
  | shiftImmediate (x : Site) (op : ShiftOp) (gd ga : G) (imm : Fin 64)
  | li (x : Site) (gd : G) (imm : W64)
  | lis (x : Site) (gd : G) (imm : BitVec 32)
  | crcs (x : Site) (sz : Size) (gd ga gb : G)
  | par (x : Site) (gd ga : G)
  | brev (x : Site) (dbl : Bool) (gd ga : G)
  | clz (x : Site) (gd ga : G)
  | load (x : Site) (sz : Size) (uns : Bool) (gd : G) (m : AMode) (gb : G)
  | store (x : Site) (sz : Size) (gs : G) (m : AMode) (gb : G)
  | skip (x : Site) (cc : Cond) (ga : G) (rhs : SkipRhs)
  | jmp (x : Site) (tgt : Target)
  | call (x : Site) (tgt : Target)
  | ret (x : Site)
  | reti (x : Site)
  | featr (x : Site) (gd : G) (n : Fin 16)
  | drain (x : Site)
  | halt (x : Site)
  | nop (x : Site)
  -- Vector extension (R293–R305)
  | vsetl (x : VSite) (gd ga : G) (cfg : Byte)
  | vld (x : VSite) (vd : V) (m : AMode) (gb : G)
  | vst (x : VSite) (vs : V) (m : AMode) (gb : G) (gt : G)
  | vaddVsub (x : VSite) (sub : Bool) (vd va : V) (b : VRhs) (mk : VMask)
  | vmulVmacc (x : VSite) (acc : Bool) (vd va : V) (b : VRhs) (mk : VMask)
  | vmulhVmulhu (x : VSite) (uns : Bool) (vd va : V) (b : VRhs) (mk : VMask)
  | vandVorVxor (x : VSite) (op : LogicOp) (vd va : V) (b : VRhs) (mk : VMask)
  | vshlVshrVsar (x : VSite) (op : ShiftOp) (vd va : V) (b : VRhs) (mk : VMask)
  | vrsr (x : VSite) (vd va : V) (b : VRhs) (mk : VMask)
  | vminVmax (x : VSite) (op : VMinMax) (vd va : V) (b : VRhs) (mk : VMask)
  | vsaddVssub (x : VSite) (sub : Bool) (vd va : V) (b : VRhs) (mk : VMask)
  | vcmp (x : VSite) (cc : Cond) (md : M) (va : V) (b : VRhs) (mk : VMask)
  | vsel (x : VSite) (vd va vb : V) (mk : M)
  | vmvs (x : VSite) (vd : V) (ga : G) (mk : VMask)
  | vmvx (x : VSite) (gd : G) (va : V) (gb : G)
  | vslupVsldn (x : VSite) (down : Bool) (vd va : V) (k : BitVec 32) (mk : VMask)
  | vwidsVwidu (x : VSite) (uns : Bool) (vd va : V) (mk : VMask)
  | vnrs (x : VSite) (vd va : V) (imm : BitVec 32) (mk : VMask)
  | vreduction (x : VSite) (op : VRed) (gd : G) (va : V) (mk : VMask)
  | vmpop (x : VSite) (gd : G) (mk : M)
  | vcrc (x : VSite) (gd ga gb : G)
  | vgth (x : VSite) (vd : V) (ga : G) (vi : V)
  -- Taper (R306–R326)
  | tclr (x : VSite)
  | tsync (x : VSite)
  | tstat (x : VSite) (gd : G)
  | tload (x : VSite) (ga : G)
  | lineLoadDone (w : WkId)
  | trep (x : VSite) (gn : G) (test : Bool) (a : TmacArgs)
  | tsetc (x : VSite) (c : Fin 8) (gb gl : G)
  | tmac (x : VSite) (a : TmacArgs)
  | tout (x : VSite) (vd : V) (sh : Byte) (cfg : Byte)
  | texp (x : VSite) (vd : V)
  | tnorm (x : VSite) (vs : V)
  | tmacs (x : VSite) (a : TmacArgs)
  | tsigr (x : VSite) (gd : G)
  -- DMA (R327–R348)
  | dmaStep (e : Fin 4) (eng : EngineUse)
  | dmaBlockReturned (e : Fin 4) (c : Fin 32)
  | dmaDescriptorComplete (e : Fin 4) (c : Fin 32)
  | dmaBusError (e : Fin 4) (c : Fin 32) (write : Bool) (addr : Nat)
  | haltedChannelCompletion (e : Fin 4) (c : Fin 32)
  | dmaRowWaitEnd (e : Fin 4) (c : Fin 32)
  | dmaWaitStall (e : Fin 4) (c : Fin 32)
  -- HBM (R349–R364)
  | hbmSlot (st : Fin 4) (frame rep rec blk : Nat)
  | hbmReadData (st : Fin 4)
  | hbmOpenAccess (port : Byte) (addr : Nat) (n : Nat) (write : Option (List Byte))
  | hbmTempHigh (st : Fin 4) (temp : Byte)
  -- Ethernet and streams (R365–R394)
  | ethFrameReceived (p : Fin 4) (sub : Fin 4) (bytes : List Byte)
  | rrsPacket (slot : Fin 32) (pathB : Bool) (payload : List Byte)
  | networkControlPacket (p : Fin 4) (sub : Fin 4) (bytes : List Byte)
  | portLink (p : Fin 4) (sub : Fin 4) (up : Bool)
  | ethPortCfgWrite (pa : Path) (p : Fin 4) (value : W32)
  | ingressRelease (i : Inst)
  | ingressPathSilent (slot : Fin 32) (pathB : Bool) (frame : Nat)
  | egressSlot (i : Inst)
  | egressPacket (slot : Fin 32) (delay : Nat)
  | egressLateSend (slot : Fin 32)
  | stampAncPacket (slot : Fin 32)
  | rrscCommitGo (pa : Path) (slot : Fin 32) (value : W32)
  | rrscLatch (i : Inst)
  | rrscSlot (i : Inst) (delay : Nat)
  | rrscMissed (i : Inst)
  -- Urlan (R395–R416)
  | linkTraining (u : Fin 6) (peer : Option LinkPeer)
  | linkRetrain (u : Fin 6) (fecLost : Bool) (peer : Option LinkPeer)
  | linkRetryTimer (u : Fin 6) (peer : Option LinkPeer)
  | urlanDataSend (u : Fin 6)
  | urlanDataFlit (u : Fin 6) (flit : List Byte)
  | urlanCtrlFlit (u : Fin 6) (flit : List Byte)
  | urlanAckTimer (u : Fin 6)
  | urlanTimeSend (u : Fin 6)
  | urlanLateRelease (u : Fin 6) (st : Fin 4) (frame rep rec blk : Nat)
  | urlanLateBlockWrite (u : Fin 6) (frame index : Nat)
  | urWindowWrite (pa : Path) (off : Nat) (h : Half) (value : W64)
  -- Stamp (R474–R483)
  | leafHashStart (slot : Fin 32) (frame stripe : Nat)
  | leafHashDone (lane : Fin 64)
  | parentHashDone (slot : Fin 32) (frame level idx : Nat)
  | stampRecordForm (slot : Fin 32) (frame : Nat)
  | signatureDone
  -- Telemetry, supply, rotation (R450, R211, R519, R529, R532)
  | telemetrySample (t : Telemetry)
  | managementSupply (mv : Nat)
  | spareRotation (u : UnitId) (run : TestRun)
  | vacatedUnitTest (u : UnitId) (runs : List TestRun)
  | ppsOut
deriving DecidableEq, Repr

end Sys2Proof
end

