-- ==== Sys2Proof/Config.lean ====
section
/-! DEFINITION. What the spec leaves to an implementation or to material outside it: constants without a body, so that
nothing can be proved about their values (log 9). -/
namespace Sys2Proof.Config

/-- Free values for results that the spec leaves open, by the counter `MiscBlk.fresh`. -/
opaque freeWord : Nat → BitVec 64

/-- Module serial number (R544: fused). -/
opaque serial : BitVec 64

/-- Byte i of SEC_VENDOR_HASH (R487, R492: supplied by ROM). -/
opaque vendorHash : Nat → Byte

/-- Byte i of SEC_PUBKEY (R485: the modulus generated at manufacture). -/
opaque pubKey : Nat → Byte

/-- Whether the RSASSA-PSS signature of a container verifies: modulus, signature, signed bytes (R487). -/
opaque pssVerifies : List Byte → List Byte → List Byte → Bool

/-- Byte i of the RSASSA-PSS signature of a message: the salt makes it depend on the counter `MiscBlk.fresh` (R482). -/
opaque signature : (message : List Byte) → (fresh i : Nat) → Byte

/-- Device address of the first byte of the running firmware image (R444). -/
opaque fwBase : BitVec 48

/-- Whether the subject key of a certificate equals SEC_PUBKEY (R485, R490): X.509 in DER. -/
opaque certKeyMatches : List Byte → Bool

/-- Version and SEC_VERSION of the ROM firmware (R488, R446). -/
opaque romFwMajor : Byte
opaque romFwMinor : Byte
opaque romSecVersion : Nat

/-- The item count and the items of the ROM library (R464): kind, mode or 0, flags, line kind, line, length and expected
signature of item i; LL_LIB version of the ROM library. -/
opaque romLibCount : Nat
opaque romLibWord : (item field : Nat) → Nat
opaque romLibVersion : BitVec 16

/-- Frequency pull that the servo applies after an exchange: measured offset, pull before (R33 bounds it). -/
opaque servoPull : (offset pull : Int) → Int

/-- Image rows whose elements lie whole in the given rows of a buffer of a whole-map region (R155): no rule gives the layout. -/
opaque imageRows : (region buf : Nat) → (rows : List Nat) → Nat

/-- Own MAC address of a port, and source addresses of the packets that no binding gives one (R367, R390). -/
opaque portMac : (port : Nat) → BitVec 48
opaque portIp4 : (port : Nat) → BitVec 32
opaque portIp6 : (port : Nat) → BitVec 128

/-- Fields of an IP header that the spec gives no value, by port and IP payload: TTL or hop limit in [31:24], flow label in [19:0], or
don't-fragment in [16] and identification in [15:0] (R384). -/
opaque ipOpen : (port : Nat) → (payload : List Byte) → BitVec 32

/-- Fixed latency of a port's PHY and FEC in FTB ticks, by port mode (R392). -/
opaque ptpRxLatency : (mode : Nat) → Nat
opaque ptpTxLatency : (mode : Nat) → Nat

/-- The PTP port identity of a port (R390). -/
opaque ptpIdentity : (port : Nat) → BitVec 80

/-- Whether a measured offset, in units of 2^-17 ns, is rounded up to whole ns (R393). -/
opaque ptpRoundUp : (offset : Int) → Bool

/-- Configuration-space words of a PCI Express function that R417 does not give. -/
opaque pciWord : (offset : Nat) → BitVec 32

end Sys2Proof.Config
end

