-- ==== Sys2Proof/Machine/Image.lean ====
section
/-! DEFINITION. The records of a job image (spec/07 R178–R202), of a DMA descriptor (R329), of an HBM slot list (R355) and
of a binding record (R432) as data, in the manual's field names. Parsing them from bytes is Machine/Load.lean's. -/
namespace Sys2Proof.Machine

/-- Header fields that the device uses (R179). -/
structure ImgHdr where
  imageSize : Nat
  lanterns  : Nat
  wicks     : Nat
  detPc     : Vector Nat 4
  frameNum  : Nat
  frameDen  : Nat
  ttSpan    : Nat
  llDensity : Nat
  queueBase : Nat
  queueSize : Nat
deriving DecidableEq, Repr, Inhabited

/-- Timetable entry (R184). -/
structure TtEntry where
  tick      : Nat
  cycle     : Nat
  kind      : Nat
  unit      : Nat
  arg0      : Nat
  arg1      : Nat
  pred      : Nat
  rep       : Nat
  arg0Step  : Int
  repStride : Nat
deriving DecidableEq, Repr, Inhabited

/-- Region descriptor (R188). `readers`: kind and number. -/
structure Region where
  mem         : Nat
  unit        : Nat
  gLog2       : Nat
  writerKind  : Nat
  writer      : Nat
  firstRow    : Nat
  rows        : Nat
  initCredits : Nat
  readers     : List (Nat × Nat)
deriving DecidableEq, Repr, Inhabited

/-- Slot-list record (R355). -/
structure HbmRec where
  tick  : Nat
  sub   : Nat
  pc    : Nat
  kind  : Nat
  req   : Nat
  block : Nat
  count : Nat
deriving DecidableEq, Repr, Inhabited

/-- Slot list of one stack (R189). -/
structure HbmList where
  period : Nat
  recs   : List HbmRec
deriving DecidableEq, Repr, Inhabited

/-- Window program (R131, R190). `rowmap` holds the 32 u16 entries, `taps` the pairs (a, b). -/
structure WinProg where
  kind        : Nat
  srcFmt      : Nat
  srcOrder    : Nat
  srcBase     : Nat
  planeStride : Nat
  srcCh       : Nat
  shiftBase   : Nat
  imgH        : Nat
  imgW        : Nat
  regY        : Nat
  regH        : Nat
  kY          : Nat
  kX          : Nat
  sY          : Nat
  sX          : Nat
  dY          : Nat
  dX          : Nat
  pY          : Nat
  pX          : Nat
  q0          : Nat
  rowmap      : List Nat
  taps        : List (Nat × Nat)
deriving DecidableEq, Repr, Inhabited

/-- Pass descriptor (R64, R192). -/
structure PassDesc where
  mode      : Nat
  init      : Bool
  outlierEn : Bool
  wFmt      : Nat
  tagBase   : Nat
  n         : Nat
  weightRow : Nat
  window    : Nat
  destRow   : Nat
  sideBase  : Nat
  sideSlot  : Nat
  q         : Nat
  blocks    : Nat
  azp       : Nat
  wzp       : Nat
deriving DecidableEq, Repr, Inhabited

/-- Global-average operation (R88, R194). -/
structure GavgOp where
  srcFmt      : Nat
  outlierEn   : Bool
  tagBase     : Nat
  sideSlot    : Nat
  c           : Nat
  srcBase     : Nat
  e           : Nat
  d           : Nat
  planeStride : Nat
  destRow     : Nat
  sideBase    : Nat
  blocks      : Nat
  azp         : Nat
deriving DecidableEq, Repr, Inhabited

/-- Wick load segment (R195); `data` is the offset in the section. -/
structure WickSeg where
  wick : Nat
  mem  : Nat
  load : Nat
  size : Nat
  data : Nat
deriving DecidableEq, Repr, Inhabited

/-- Weight placement (R197). -/
structure WeightPl where
  dest : Nat
  unit : Nat
  row  : Nat
  addr : Nat
  data : Nat
  rows : Nat
deriving DecidableEq, Repr, Inhabited

/-- Channel record (R198); `zp` is the 16-bit field as it stands. -/
structure ChanRec where
  m    : Nat
  sh   : Nat
  zp   : BitVec 16
  bias : Int
deriving DecidableEq, Repr, Inhabited

/-- Requantiser operation (R199). -/
structure RqOp where
  outFmt     : Nat
  capture    : Bool
  destMap    : Bool
  outTagBase : Nat
  cap        : Nat
  params     : Nat
  srcRow     : Nat
  channels   : Nat
  n          : Nat
  q          : Nat
  outBase    : Nat
  outStride  : Nat
  shiftBase  : Nat
  sideBase   : Nat
  start      : Nat
  blocks     : Nat
  firstPlane : Nat
deriving DecidableEq, Repr, Inhabited

/-- Epoch block (R201). -/
structure EpochBlk where
  id     : Nat
  kind   : Nat
  unit   : Nat
  size   : Nat
  fg     : Nat
  shadow : Nat
  data   : Nat
deriving DecidableEq, Repr, Inhabited

/-- Stream binding (R202). -/
structure StreamBind where
  slot      : Nat
  dir       : Nat
  portA     : Nat
  portB     : Nat
  width     : Nat
  height    : Nat
  format    : Nat
  d         : Nat
  stripeH   : Nat
  halo      : Nat
  camera    : Nat
  fill      : Nat
  bufBase   : Nat
  bufStride : Nat
  stripes   : Nat
  frameNum  : Nat
  frameDen  : Nat
  link      : Nat
deriving DecidableEq, Repr, Inhabited

/-- DMA descriptor (R329); the "− 1" counts are held as stored. -/
structure DmaDesc where
  src        : Nat
  dst        : Nat
  srcBStride : Int
  srcLStride : Int
  dstBStride : Int
  dstLStride : Int
  srcBeats   : Nat
  srcLines   : Nat
  dstBeats   : Nat
  dstLines   : Nat
  srcW       : Nat
  dstW       : Nat
  ctrl       : Nat
  share      : Nat
  retry      : Nat
  tagMode    : Nat
  tag        : Nat
  waitEn     : Nat
  wait       : Nat
  tagRow0    : Nat
  tagPStride : Nat
  tagRows    : Nat
deriving DecidableEq, Repr, Inhabited

/-- A parsed and placed job image. `digest` is R178's; `snapSize` the record size of R215. -/
structure JobImage where
  digest  : List Byte
  hdr     : ImgHdr
  entries : List TtEntry
  regions : List Region
  hbm     : Vector HbmList 4
  windows : List WinProg
  passes  : List PassDesc
  gavgs   : List GavgOp
  segs    : List WickSeg
  dma     : List (List DmaDesc)
  weights : List WeightPl
  chans   : List ChanRec
  zps     : List Int
  rqops   : List RqOp
  blocks  : List EpochBlk
  streams : List StreamBind
deriving DecidableEq, Repr, Inhabited

/-- One path of a binding record (R432). Addresses are the 16 bytes as stored. -/
structure NetPath where
  ipVer   : Nat
  dscp    : Nat
  vlan    : Nat
  mac     : List Byte
  srcPort : Nat
  dstPort : Nat
  srcIp   : List Byte
  dstIp   : List Byte
deriving DecidableEq, Repr, Inhabited

/-- The network side of a stream slot (R432). -/
structure Binding where
  slot : Nat
  subA : Nat
  subB : Nat
  pt   : Nat
  ssrc : Nat
  a    : NetPath
  b    : NetPath
deriving DecidableEq, Repr, Inhabited

end Sys2Proof.Machine
end

