-- ==== Sys2Proof/Machine/State.lean ====
section
/-! DEFINITION. The state of the RQ9 block: plain data in groups, one group for each part of the module, and the queue of
waiting commands. Register fields carry the manual's names. `State.reset` is the Reset column (R16); what has no Reset value
is named in notes/assumptions (2 to 5). -/
namespace Sys2Proof.Machine

/-- Reasons for which the model would stop with a fault. -/
inductive Fault where
  /-- Raised by no meaning: every error that the spec names is an event and a register value, and the module goes on. Safe. -/
  | none
deriving DecidableEq, Repr

/-- Reasons for which the model would refuse a command. -/
inductive Refusal where
  /-- Raised only by an arm of `exec` whose command has no meaning yet. Safe. -/
  | notModelled (mnemonic : String)
deriving DecidableEq, Repr

/-! ## Studio time -/

/-- Servo states (R32); register codes 0 to 3 in this order. -/
inductive Servo where
  | free | acquiring | locked | holdover
deriving DecidableEq, Repr, Inhabited

/-- A master that a PTP port has heard of (R391): port identity of the sender of its Announce messages, grandmaster identity, rank under the
best master clock algorithm (lower is better), and where it is reached. -/
structure PtpMaster where
  sender : Nat
  gm     : W64
  rank   : Nat
  mac    : List Byte
  ip     : List Byte
deriving DecidableEq, Repr, Inhabited

/-- The last Sync of a port's master (R390, R392): sequence number, its departure in ns where known, its arrival in FTB ticks, and its
correction in units of 2^-16 ns. -/
structure PtpSync where
  seq  : Nat
  t1   : Option Nat
  t2   : Int
  corr : Int
deriving DecidableEq, Repr, Inhabited

/-- PTP on one port: masters heard of, last Sync, sequence number and departure of the Delay_Req that waits for its answer, next sequence
number. -/
structure PtpPort where
  masters : List PtpMaster
  sync    : Option PtpSync
  dreq    : Option (Nat × Int)
  nextSeq : BitVec 16
deriving DecidableEq, Repr, Inhabited

/-- FTB, servo and PTP (R29–R33, R390–R393, R545). `ftb` counts without bound; a register shows it modulo 2^64. -/
structure TimeBlk where
  ftb        : Nat
  pull       : Int
  servo      : Servo
  /-- Time-weighted history of the pull for R32's mean: FTB count at which each pull began, newest first. -/
  pulls      : List (Nat × Int)
  /-- PTP_OFFSET. -/
  ptpOffset  : Int
  /-- UR_FTB_OFFSET. -/
  urOffset   : Int
  /-- FTB count of the last valid exchange or TIME flit. -/
  lastValid  : Nat
  /-- FTB count since which the offset has stayed in its lock band. -/
  inBand     : Option Nat
  /-- FTB count since which a LOCKED uplink servo has been out of its band (R406). -/
  outBand    : Option Nat
  followB    : Bool
  /-- PTP on each port (R390–R392). -/
  ptp        : Vector PtpPort 4
  /-- Grandmaster that the servo follows. -/
  gm         : Option W64
  /-- FTB count at which PTP_OFFSET_EXCESS or URLAN_FTB_OFFSET was last logged. -/
  lastExcess : Option Nat
  slipCount  : W32
  /-- The PPS_OUT pin. -/
  pps        : Bool
  /-- L- and W-cycles that the islands of each quadrant have counted at the FTB count `lAt` (R30, R37). -/
  lBase      : Vector Nat 4
  lAt        : Vector Nat 4
deriving DecidableEq, Repr

/-! ## Event log -/

/-- One event record (R428): scheduled or logging FTB count, code, UNIT kind and number, DETAIL. -/
structure Event where
  ftb    : Nat
  code   : Nat
  kind   : Nat
  num    : Nat
  detail : List Byte
deriving DecidableEq, Repr, Inhabited

/-- The event logger (R428–R429, R496, R535, R446). -/
structure LogBlk where
  /-- Records before the first enable of the ring, oldest first, at most 256 (R496). -/
  startLog : List Event
  /-- The ring has been enabled since the last reset. -/
  opened   : Bool
  evCfg    : W32
  error    : Bool
  index    : Nat
  base     : W64
  head     : W32
  dropped  : W32
  /-- Records dropped since the last EVENT_RING_OVERFLOW (R429). -/
  pendDrop : Nat
  phase    : Bool
  /-- Records logged and not yet written to the ring, oldest first. -/
  queue    : List Event
  /-- The last 64 events of range 0x0D, not yet read over SMBus, oldest first (R535). -/
  smbus    : List Event
  /-- Every event logged, newest first: the model's own trace. -/
  all      : List Event
deriving DecidableEq, Repr

/-! ## Memories -/

/-- Device memory with its sidebands and stored errors, flash and PSRAM. Each list is sparse, rising in its key and without
the default value (`Sparse.wf` of Machine/Ops.lean). -/
structure MemBlk where
  /-- Bytes by device address (R540). -/
  cells  : List Host.Cell
  /-- Stream tag by row base address (R166). -/
  tags   : List Host.Cell
  /-- Poison by row or HBM block base address: 1 poisoned (R166, R361). -/
  poison : List Host.Cell
  /-- Stored errors by the base address of the protected unit: 1 correctable, 2 uncorrectable (R166, R232, R321, R360). -/
  ecc    : List Host.Cell
  /-- Stored errors of row sidebands by row base address. -/
  sbEcc  : List Host.Cell
  /-- Flash bytes of the configuration store by flash offset (R506). -/
  flash  : List Host.Cell
  /-- Containers in the firmware and library slots of flash, as written (R488). -/
  fwSlot  : List Byte
  libSlot : List Byte
  /-- PSRAM: the containers copied at start-up; [] for ROM content (R488, R464). -/
  psFw   : List Byte
  psLib  : List Byte
deriving DecidableEq, Repr

/-! ## Lanterns -/

/-- LN_STATE.STATE (R90), register codes 0 to 6 in this order. -/
inductive LnMode where
  | off | idle | load | pass | gavg | test | halted
deriving DecidableEq, Repr, Inhabited

/-- What LN_STATE shows from an L-cycle on (R90): STATE, or none for the resting state of the Lantern; DUAL; BANK. -/
structure LnSpan where
  since : Nat
  mode  : Option LnMode
  dual  : Bool
  bank  : Bool
deriving DecidableEq, Repr

/-- Lamplighter state of one unit (R460–R462). -/
structure TestSt where
  /-- Next item of the rotation, counted among the rotation items. -/
  pos       : Nat
  /-- Item index of a failed rotation item whose repeat is due (R461). -/
  repeatDue : Option Nat
  /-- Item indices of a targeted set still to run (R462), and whether one of them has failed. -/
  targeted  : List Nat
  tgtFailed : Option Nat
  tgtRun    : Nat
  /-- Items passed without an error since probation or the rotation began (R467). -/
  clean     : Nat
  rotations : Nat
  /-- Explicit item held in the idle half of the test store (R464). -/
  loaded    : Option Nat
deriving DecidableEq, Repr, Inhabited

/-- A chain that ended under R78 and waits for S2 (R452). -/
structure FailedChain where
  inst     : Inst
  /-- Pass of the chain that failed. -/
  pass     : Nat
  /-- Located line, 0x1FF when unlocated; true for a row. -/
  line     : Nat
  isRow    : Bool
  /-- Event that started it: 0x0201, 0x0202 or 0x0B0D. -/
  code     : Nat
deriving DecidableEq, Repr, Inhabited

/-- The seven requantiser counters (R129). -/
structure RqCounters where
  satHi    : W32
  satLo    : W32
  escape   : W32
  sideFull : W32
  escRange : W32
  tagMis   : W32
  accOvf   : W32
deriving DecidableEq, Repr, Inhabited

/-- One physical Lantern. -/
structure Lantern where
  mode        : LnMode
  bank        : Bool
  rowSteer    : W32
  colSteer    : W32
  ctrl        : W32
  err         : W32
  abftLoc     : W32
  passCount   : W64
  abftCount   : W32
  parityCount : W32
  /-- Active and shadow weight banks (R63), one list per array row, a pair of lanes per cell; [] when discarded. -/
  active      : List (List (Int × Int))
  shadow      : List (List (Int × Int))
  /-- L-cycle after the last drain, first streaming L-cycle of the last pass, and whether the next chain has P = 256 (R68). -/
  drainEnd    : Nat
  lastStream  : Nat
  isolated    : Bool
  /-- L-cycles occupied by the last instance (R66, R86, R89). -/
  occupancy   : Nat
  /-- What the array does, by L-cycle (R90). -/
  spans       : List LnSpan
  /-- The instance whose work ends at `drainEnd`, and the requantiser's last one with its end (R186). -/
  arrInst     : Option Inst
  rqInst      : Option Inst
  rqEnd       : Nat
  /-- End of the placed occupancy of an aborted chain (R550). -/
  occEnd      : Option Nat
  failed      : Option FailedChain
  rq          : RqCounters
  /-- Parameter memory: foreground and shadow channel records by record index (R200). -/
  params      : List (Nat × ChanRec)
  paramsSh    : List (Nat × ChanRec)
  tst         : TestSt
  /-- FTB counts of TRANSIENT classifications (R454). -/
  transients  : List Nat
  /-- Lines located by the failures of this Lantern (true: row), and whether one was unlocated (R468). -/
  lines       : List (Bool × Nat)
  unlocated   : Bool
  /-- Fenced or moved at the end of its current operation, with the reason of R473. -/
  fenceDue    : Option Nat
deriving DecidableEq, Repr

/-! ## Wicks -/

/-- Run states of a thread (R223), codes 0 to 3 in this order. -/
inductive RunState where
  | halted | running | faulted | waiting
deriving DecidableEq, Repr, Inhabited

/-- The victim of a SKIP (R270): none due, executes, or is suppressed. -/
inductive Victim where
  | none | execute | suppress
deriving DecidableEq, Repr, Inhabited

/-- A vector load in flight (R234): register, data, and the unstalled W-cycle at whose end it is written. -/
structure VLoad where
  reg  : V
  data : Row
  due  : Nat
deriving DecidableEq, Repr

/-- A wait for a row-completion counter (R248). -/
structure RcwWait where
  region : Nat
  buf    : Nat
  row    : Nat
  since  : Nat
  logged : Bool
deriving DecidableEq, Repr, Inhabited

/-- One of the four threads of a Wick. -/
structure Thread where
  run       : RunState
  pc        : BitVec 18
  g         : Vector W64 32
  shadowG   : Vector W64 16
  /-- Return stack, top first, at most 32 entries (R246). -/
  stack     : List (BitVec 18)
  /-- The shadow bank is active (R240). -/
  alt       : Bool
  ie        : Bool
  poison    : Bool
  poisonLog : Bool
  ovfLog    : Bool
  /-- Instruction buffer: bytes from `pc` on, and the lines on their way with the W-cycle at which each is usable (R229). -/
  buf       : List Byte
  coming    : List (Nat × List Byte)
  victim    : Victim
  rcw       : Option RcwWait
  /-- FTB count at which the WICK_START instance started (R244), and the instance. -/
  started   : Option Nat
  inst      : Option Inst
  /-- Unstalled W-cycle from which the thread may issue after a TREP (R313). -/
  trepEnd   : Nat
  v         : Vector Row 32
  m         : Vector Row 8
  vl        : Nat
  sew       : Fin 4
  grp       : Fin 4
  vfidx     : Nat
  vloads    : List VLoad
  /-- Taper accumulator shadow bank (R245), element 4l + j for a_j of lane l. -/
  accSh     : Vector (BitVec 56) 128
deriving DecidableEq, Repr

/-- A store-buffer entry (R235). -/
structure SbEntry where
  addr   : Nat
  bytes  : List Byte
  thread : Fin 4
deriving DecidableEq, Repr, Inhabited

/-- A line load under way (R318–R320). -/
structure Loader where
  thread    : Fin 4
  src       : Nat
  fromX     : Bool
  srcStride : Nat
  dst       : Nat
  dstStride : Nat
  w         : Nat
  h         : Nat
  top       : Nat
  bottom    : Nat
  left      : Nat
  right     : Nat
  modes     : Byte
  elem      : Nat
  zp        : BitVec 16
  const     : BitVec 16
  /-- W-cycle at which it ends, waits included. -/
  endAt     : Nat
deriving DecidableEq, Repr, Inhabited

/-- The Taper (R306–R326). -/
structure Taper where
  acc     : Vector (BitVec 56) 128
  tcb     : Vector Nat 8
  tcl     : Vector Nat 8
  ovf     : Bool
  sat     : Bool
  tsig    : W32
  loader  : Option Loader
  ceCount : W32
  ueCount : W32
deriving DecidableEq, Repr

/-- The first instruction of a slot, with which a vector or Taper instruction may pair (R225). -/
structure PairFirst where
  thread   : Fin 4
  /-- Scalar registers that it wrote. -/
  writes   : List G
  mem      : Bool
  len      : Nat
  /-- Address of the instruction that follows it. -/
  next     : BitVec 18
  /-- It was JMP, CALL or RET (R278), and the program counter it left. -/
  branch   : Bool
  /-- Instruction bytes that followed it in the buffer. -/
  rest     : List Byte
  /-- W-cycle in which it issued (R298). -/
  issued   : Nat
deriving DecidableEq, Repr, Inhabited

/-- What a Wick is doing, of WK_STATE.UNIT (R251): RUN and MOVING follow from its threads and the moves under way. -/
inductive WkMode where
  | off | idle | test
deriving DecidableEq, Repr, Inhabited

/-- One physical Wick with its Taper. -/
structure Wick where
  mode      : WkMode
  /-- S2 runs a diagnosis program on the fenced Wick (R459). -/
  recovery  : Bool
  threads   : Vector Thread 4
  /-- Rotation count ρ, which counts unstalled W-cycles (R221), and the count of all W-cycles. -/
  rho       : Nat
  wcyc      : Nat
  /-- W-cycle from which the next instruction with beats may issue (R298). -/
  vecBusy   : Nat
  /-- First W-cycle in which the local-memory port is free (R228). -/
  port      : Nat
  pair      : Option PairFirst
  /-- Store buffer, oldest first, at most 4 entries (R235). -/
  sb        : List SbEntry
  irqPend   : BitVec 16
  irqSrc    : Vector W32 16
  taperOwn  : W32
  /-- A write to CP_TAPER_OWNER that a TREP under way holds back, with the ρ at which it takes effect (R245). -/
  ownDue    : Option (Nat × W32)
  /-- Epoch blocks whose two copies are exchanged (R231). -/
  swapped   : List Nat
  faultV    : Bool
  faultT    : Fin 4
  faultC    : Byte
  faultPc   : BitVec 18
  faultAddr : W64
  stalls    : W64
  sbStalls  : W32
  slotsLost : W32
  lmCe      : W32
  lmUe      : W32
  taper     : Taper
  tst       : TestSt
  fenceDue  : Option Nat
  /-- W-cycle of the quadrant's clock at which the last test window ends, and its instance (R210, R459). -/
  winEnd     : Nat
  winInst    : Option Inst
deriving DecidableEq, Repr

/-! ## DMA -/

/-- DCH_STATE.STATE and DCH_STATE.WAIT (R347), codes in this order. -/
inductive ChState where
  | idle | running | halted
deriving DecidableEq, Repr, Inhabited

inductive ChWait where
  | none | rows | credit | collision | retry | pacing | move
deriving DecidableEq, Repr, Inhabited

/-- A read-ahead block (R336): requested, and its contents once returned (R338). -/
structure Block where
  addr   : Nat
  /-- First source beat after the run that it serves. -/
  last   : Nat
  back   : Bool
  /-- Its request had an error response and is to be issued again (R343). -/
  again  : Bool
  data   : Row
  tag    : Byte
  poison : Bool
deriving DecidableEq, Repr, Inhabited

/-- One DMA channel (R346–R347). -/
structure Chan where
  state     : ChState
  wait      : ChWait
  list      : Nat
  descIx    : Nat
  cur       : DmaDesc
  /-- Source beats and destination beats performed in the current descriptor. -/
  srcDone   : Nat
  dstDone   : Nat
  /-- Holding register, byte-stream order, each byte with the tag of its source row and its poison. -/
  hold      : List (Byte × Byte × Bool)
  blocks    : List Block
  /-- First source beat of the descriptor that no request has covered yet. -/
  asked     : Nat
  retries   : Nat
  pace      : Nat
  errAddr   : Nat
  inst      : Option Inst
  waitSince : Nat
  waitLog   : Bool
  poisonLog : Bool
  /-- A request that the memory refused and whose error response is due: write, address (R343). -/
  refused   : Option (Bool × Nat)
  /-- The firmware has poisoned the unwritten rows of a halted transfer (R344). -/
  flushed   : Bool
  /-- FTB count up to which MEM_CREDIT_WAIT_COUNT holds the present credit wait (R173). -/
  counted   : Nat
  /-- M-cycle in which its last write was accepted, and the first in which the current descriptor may step (R332). -/
  accAt     : Nat
  from_     : Nat
  /-- Destination beats of a refused write request that is to be issued again; 0 for none (R343). -/
  redo      : Nat
deriving DecidableEq, Repr, Inhabited

/-- One DMA engine (R333–R334, R346–R347). -/
structure Engine where
  eocPend   : W32
  retryCnt  : W32
  preempt   : W32
  owner     : Option (Fin 32)
  slice     : Nat
  lastHigh  : Nat
  lastLow   : Nat
  preempted : Option (Fin 32)
  mcyc      : Nat
  ch        : Vector Chan 32
deriving DecidableEq, Repr

/-! ## HBM -/

/-- A request that waits at a controller for its slot (R359). -/
structure HbmReq where
  port   : Nat
  /-- Channel of a DMA engine's port. -/
  chan   : Option (Fin 32)
  pc     : Nat
  block  : Nat
  /-- Sectors, data and poison of a write; none for a read. -/
  write  : Option (BitVec 16 × Row × Bool)
  /-- Job frame of the instance that writes (R410). -/
  frame  : Nat
  /-- FTB count at which the request reached the controller. -/
  since  : Nat
  missed : Bool
deriving DecidableEq, Repr, Inhabited

/-- Read data on its way to the requester's crossing (R358). -/
structure HbmData where
  due    : Nat
  port   : Nat
  chan   : Option (Fin 32)
  addr   : Nat
  data   : Row
  poison : Bool
deriving DecidableEq, Repr, Inhabited

/-- A slot of a frame that passed unused (R359): requester, pseudo-channel, block, write, record index. -/
structure PastSlot where
  frame : Nat
  port  : Nat
  pc    : Nat
  block : Nat
  write : Bool
  recIx : Nat
deriving DecidableEq, Repr, Inhabited

/-- One HBM controller (R363). MODE: 0 training, 1 open, 2 scheduled. -/
structure HbmCtl where
  detPc     : Nat
  temp      : Byte
  mode      : Fin 4
  ceCount   : W32
  ueCount   : W32
  missCount : W32
  ueValid   : Bool
  ueAddr    : Nat
  reqs      : List HbmReq
  flying    : List HbmData
  past      : List PastSlot
  hot       : Bool
  /-- Bank refreshes executed: pseudo-channel, bank, FTB count of the last REFRESH slot (R356–R357). -/
  refreshed : List (Nat × Nat × Nat)
  /-- FTB count by which ARM had every bank of the deterministic pseudo-channels refreshed, and that at which they return to open service
  (R353). -/
  armRefresh : Option Nat
  openAt     : Option Nat
deriving DecidableEq, Repr

/-! ## Fabric -/

/-- Counter block of one memory (R176). -/
structure MemCtr where
  ce        : W32
  ue        : W32
  collision : W32
  credit    : W32
  ueRow     : W32
deriving DecidableEq, Repr, Inhabited

/-- A request that waits at a map-store bank (R165). -/
structure BankReq where
  port  : Nat
  chan  : Option (Fin 32)
  addr  : Nat
  write : Option RowWrite
  /-- M-cycle of the request: it competes from this one on. -/
  mcyc  : Nat
deriving DecidableEq, Repr, Inhabited

/-- What a crossing carries to its destination (R38). -/
structure XItem where
  /-- Epoch tick after which it was written, and once more per slip. -/
  tick   : Nat
  chan   : Option (Fin 32)
  addr   : Nat
  data   : Row
  tag    : Byte
  poison : Bool
  /-- M-cycle in which the data of a map-store read enters its requester (R165); 0 for other items. -/
  mcyc   : Nat
  /-- It has slipped once, and slips no further (R40). -/
  slipped : Bool
deriving DecidableEq, Repr, Inhabited

/-- A crossing between two islands, named as in R548. -/
structure Crossing where
  src   : Nat
  dst   : Nat
  items : List XItem
  /-- Items consumed, oldest first. -/
  taken : List XItem
deriving DecidableEq, Repr, Inhabited

/-- Credit state of a region (R170–R175). -/
structure RegionSt where
  start   : Nat
  len     : Nat
  credits : Nat
  relPos  : Nat
deriving DecidableEq, Repr, Inhabited

/-- A write that waits for a credit (R171, R173). -/
structure CreditWait where
  region : Nat
  write  : RowWrite
  since  : Nat
  logged : Bool
  /-- FTB count up to which MEM_CREDIT_WAIT_COUNT holds the wait. -/
  counted : Nat
deriving DecidableEq, Repr, Inhabited

/-- Fabric: memory counters, banks, crossings, credits, row-completion counters. -/
structure FabBlk where
  ctr      : Vector MemCtr 161
  banks    : Vector (List BankReq) 64
  /-- M-cycle after that of the last grant of each bank (R165). -/
  bankNext : Vector Nat 64
  cross    : List Crossing
  regions  : List RegionSt
  waits    : List CreditWait
  held     : List RowWrite
  /-- Row-completion counters: region, buffer, count (R155). -/
  rowsDone : List (Nat × Nat × Nat)
  /-- Rows of whole-map buffers written since the buffer's first write of the frame, ascending: region, row in the region. -/
  rowHits  : List (Nat × Nat)
deriving DecidableEq, Repr

/-! ## Job -/

/-- Image states (R203); QUERY codes 0 to 3 in this order. -/
inductive ImgState where
  | none | loaded | armed | stopped
deriving DecidableEq, Repr, Inhabited

/-- An UPDATE_PARAMS epoch (R433–R435). -/
structure Epoch where
  ring   : Fin 64
  tag    : W32
  source : Nat
  target : Nat
  seq    : Nat
  block  : Nat
  length : Nat
  crc    : W32
  /-- Order in which the firmware took the command. -/
  order  : Nat
  /-- Its frame after a carry forward; equal to `target` before (R45). -/
  due    : Nat
  carried : Bool
deriving DecidableEq, Repr, Inhabited

/-- What the shadow copy of a block holds: the epoch's order number, its payload, and whether its CRC matched (R434). -/
structure ShadowSt where
  block    : Nat
  order    : Nat
  payload  : List Byte
  verified : Bool
deriving DecidableEq, Repr, Inhabited

/-- A SNAPSHOT command under way (R56, R214). -/
structure SnapReq where
  ring  : Fin 64
  tag   : W32
  frame : Nat
  dest  : Nat
deriving DecidableEq, Repr, Inhabited

/-- A move of a logical unit (R211–R212): the unit left, the spare entered, and the test window that waits for it. -/
structure Move where
  left   : UnitId
  spare  : UnitId
  window : Option Inst
  endM   : Nat
deriving DecidableEq, Repr, Inhabited

/-- Job state. -/
structure JobBlk where
  state     : ImgState
  image     : Option JobImage
  launch    : Nat
  /-- First absolute frame of the job (R36) and job frame with which the counts began (0, or the snapshot's). -/
  frame0    : Nat
  base      : Nat
  /-- FTB count of the ARM or RESUME, from which the servo's rate limit holds (R31). -/
  armedAt   : Nat
  /-- RESUME armed the job: the epochs of frame `base` were committed before the snapshot (R58). -/
  resumed   : Bool
  /-- Job frame whose anchor passed last. -/
  current   : Option Nat
  started   : List Inst
  completed : List Inst
  /-- Frame n of R436, once STOP is taken. -/
  stopAt    : Option Nat
  stopping  : Bool
  snap      : Option SnapReq
  bindings  : List Binding
  epochs    : List Epoch
  shadows   : List ShadowSt
  /-- Foreground contents by block. -/
  front     : List (Nat × List Byte)
  /-- Blocks committed at the last commit point: block, epoch order (R44). -/
  commits   : List (Nat × Nat)
  /-- Job frames whose Stamp record has EPOCH set (R49). -/
  marks     : List Nat
  nextOrder : Nat
  lastRing  : Nat
  /-- Hold of R413: FTB count of the missed slot, and blocks still to be written (link, frame, index). -/
  holdFrom  : Option Nat
  lateKeys  : List (Fin 6 × Nat × Nat)
  /-- WRITE records with a late block: stack, job frame, repetition, record (R413). -/
  lateRecs  : List (Fin 4 × Nat × Nat × Nat)
  moves     : List Move
  /-- Granules released so far by RELEASE instances under way (R172). -/
  releasing : List (Inst × Nat)
deriving DecidableEq, Repr

/-! ## Network -/

/-- One Ethernet port (R393). -/
structure EthPort where
  cfg       : W32
  unmatched : BitVec 24
  fec       : BitVec 4
  link      : BitVec 4
  /-- Frames discarded for a bad FCS (R366). -/
  badFcs    : Nat
deriving DecidableEq, Repr, Inhabited

/-- The eight counters of a stream slot (R393). -/
structure StCounters where
  pktA      : W32
  pktB      : W32
  dup       : W32
  crc       : W32
  malformed : W32
  late      : W32
  seqGap    : W32
  held      : W32
deriving DecidableEq, Repr, Inhabited

/-- A stripe in the assembly store (R370–R374): groups written (row, group index) and the pixels by byte offset. -/
structure Assembly where
  frame  : Nat
  stripe : Nat
  groups : List (Nat × Nat)
  pixels : List (Nat × BitVec 16)
deriving DecidableEq, Repr, Inhabited

/-- A stripe as released (R375): 0 complete, 1 substituted, 2 filled. -/
structure Released where
  frame  : Nat
  stripe : Nat
  how    : Nat
deriving DecidableEq, Repr, Inhabited

/-- An RRS-C command (R385–R387). -/
structure RrscCmd where
  offset : Nat
  items  : List (Nat × W32)
  cmdSeq : Nat
  at_    : Nat
deriving DecidableEq, Repr, Inhabited

/-- An egress packet due (R380): FTB count, job frame, row, packet index in the row, last of the frame. -/
structure EgPkt where
  due   : Nat
  frame : Nat
  row   : Nat
  idx   : Nat
  last  : Bool
deriving DecidableEq, Repr, Inhabited

/-- One stream slot. -/
structure Stream where
  ctr       : StCounters
  seqA      : Option Nat
  seqB      : Option Nat
  assembly  : List Assembly
  released  : List Released
  backlog   : List (Nat × Nat)
  /-- Released stripes whose frame buffer was not free at the release count, with their writes by stack (R376). -/
  unwritten : List (Nat × Nat × List (Nat × HbmReq))
  /-- Job frames in which path A, path B delivered, newest first, and whether silence has been logged (R372). -/
  gotA      : List Nat
  gotB      : List Nat
  silentA   : Bool
  silentB   : Bool
  /-- Egress: packets due in order, next extended sequence number, frames whose last packet has departed with its FTB count, and frames sent
  with poison with their first such row. -/
  due       : List EgPkt
  rtpSeq    : W32
  sentFrames : List (Nat × Nat)
  poisoned  : List (Nat × Nat)
  /-- Slot instances whose rows are not all complete (R42). -/
  lateRows  : List Inst
  /-- RRS-C (R387–R388). -/
  staging   : Vector Byte 256
  pending   : Option RrscCmd
  /-- RRSC_SLOT instances that have latched, oldest first, with the command latched; none for a held message. -/
  latched   : List (Inst × Option RrscCmd)
  last      : Option RrscCmd
  lastHeld  : Bool
  msgSeq    : W32
  lastSeq   : BitVec 16
deriving DecidableEq, Repr

/-- A multicast group that an ingress path of a binding names, with the port and sub-port on which it is joined (R367). -/
structure GroupJoin where
  port : Nat
  sub  : Nat
  path : NetPath
deriving DecidableEq, Repr, Inhabited

/-- Ports and streams. -/
structure NetBlk where
  ports  : Vector EthPort 4
  ptpCfg : W32
  slots  : Vector Stream 32
  /-- Groups joined, each on a sub-port of a port (R367). -/
  joined : List GroupJoin
deriving DecidableEq, Repr

/-! ## Urlan -/

/-- A block in an Urlan queue: job frame, INDEX, data, poison, and the FTB count at which it came there (R413). -/
structure UrBlock where
  frame  : Nat
  index  : Nat
  data   : Row
  poison : Bool
  since  : Nat
deriving DecidableEq, Repr, Inhabited

/-- UR_LINK_STATUS.STATE (R415), codes 0 to 3 in this order. -/
inductive UrState where
  | down | training | up | replaced
deriving DecidableEq, Repr, Inhabited

/-- One Urlan link (R396–R415). -/
structure UrLink where
  cfg       : W32
  state     : UrState
  peerMod   : Nat
  peerLink  : Nat
  lat       : Nat
  txBase    : W64
  txSize    : W64
  rxBase    : W64
  rxSize    : W64
  crcCount  : W32
  replayCnt : W32
  lateCount : W32
  /-- Windows enabled at ARM (R409). -/
  txOn      : Bool
  rxOn      : Bool
  txQueue   : List UrBlock
  /-- Blocks (frame, index) queued in their job frame (R410). -/
  txSeen    : List (Nat × Nat)
  nextSeq   : Nat
  /-- Unacknowledged flits: SEQ and block, oldest first (R398). -/
  replay    : List (Nat × UrBlock)
  credits   : Nat
  /-- Last DATA SEQ accepted in order; none after link-up. -/
  lastRx    : Option Nat
  nakSent   : Bool
  accepted  : Nat
  lastAck   : Nat
  /-- Credits to return with the next flit. -/
  owed      : Nat
  rx        : List UrBlock
  /-- Keys accepted in this job (R411). -/
  rxSeen    : List (Nat × Nat)
  /-- FTB counts of replays since a new flit was accepted (R402). -/
  replays   : List Nat
  downAt    : Nat
deriving DecidableEq, Repr

structure UrBlk where
  gcfg  : W32
  links : Vector UrLink 6
deriving DecidableEq, Repr

/-! ## Host interface, application cores, Saddlers -/

/-- One ring pair (R421–R426, R446). -/
structure RingSt where
  cfg    : W32
  error  : Bool
  head   : Nat
  tail   : Nat
  sqBase : W64
  cqBase : W64
  cqHead : W32
  cqTail : Nat
  phase  : Bool
  /-- Commands taken and not completed (R425); of an earlier enabling (their completions are discarded). -/
  taken  : Nat
  epochNo : Nat
deriving DecidableEq, Repr, Inhabited

/-- A command taken and not complete (R426): opcode, ring, TAG, and the enabling of the ring in which it was taken. -/
structure HeldCmd where
  opcode  : Nat
  ring    : Fin 64
  tag     : W32
  epochNo : Nat
  /-- Order number of an UPDATE_PARAMS epoch. -/
  order   : Nat
deriving DecidableEq, Repr, Inhabited

/-- A command taken: its ring, the enabling, TAG and entry. -/
structure Taken where
  ring  : Fin 64
  ep    : Nat
  tag   : W32
  entry : List Byte
deriving DecidableEq, Repr

structure HostBlk where
  rings    : Vector RingSt 64
  bar2     : W64
  /-- MSI-X entries (16 bytes each, as four words) and pending bits (R417). -/
  msix     : Vector (Vector W32 4) 256
  pba      : BitVec 256
  /-- Configuration space answers (R495); its command register, and the addresses of BAR0 and BAR2 (R418, R419). -/
  cfgUp    : Bool
  pciCmd   : W32
  barAt0   : W64
  barAt2   : W64
  held     : List HeldCmd
  /-- Commands taken that wait for the one-at-a-time command under way, oldest first (R426). -/
  serial   : List Taken
deriving DecidableEq, Repr

/-- One outbound mailbox (R441, R446). -/
structure ObBox where
  base     : W64
  cfg      : W32
  written  : W32
  released : W32
deriving DecidableEq, Repr, Inhabited

/-- A mailbox record on its way (R441). -/
structure ObRec where
  box     : Fin 16
  slot    : Nat
  inst    : Inst
  count   : Nat
  payload : List Byte
  /-- Map-store rows still to be read: device address, and where its bytes lie in the payload. -/
  rows    : List (Nat × Nat)
deriving DecidableEq, Repr, Inhabited

/-- A store to IB_SEND that waits at its core for a credit (R26, R173): bytes, FTB count of the store, CREDIT_STALL logged, and the FTB
count up to which MEM_CREDIT_WAIT_COUNT holds the wait. -/
structure IbWait where
  bytes   : Nat
  since   : Nat
  logged  : Bool
  counted : Nat
deriving DecidableEq, Repr, Inhabited

/-- One inbound mailbox (R442, R446); its credits are those of its region, and stores wait in order. -/
structure IbBox where
  error   : Bool
  data    : List Byte
  waiting : List IbWait
deriving DecidableEq, Repr, Inhabited

structure AppBlk where
  ob    : Vector ObBox 16
  ib    : Vector IbBox 16
  route : Vector W32 97
  path  : List ObRec
deriving DecidableEq, Repr

/-- One Saddler pair (R291, R443–R446). -/
structure Saddler where
  major     : Byte
  minor     : Byte
  fromFlash : Bool
  restarts  : Byte
  pend      : BitVec 16
  ie        : Bool
  pc        : BitVec 48
  g         : Vector W64 32
  shadowG   : Vector W64 16
  stack     : List (BitVec 48)
  alt       : Bool
  victim    : Victim
  /-- HALT waits for the next interrupt (R276). -/
  asleep    : Bool
  fenced    : Bool
  /-- It has taken another pair's work (R469). -/
  tookWork  : Bool
  divTimes  : List Nat
  /-- FTB count at which line 2 was raised and not yet taken (R471). -/
  line2     : Option Nat
deriving DecidableEq, Repr

/-! ## Reliability -/

/-- Fence-map state of a unit (R466, R437): codes 0 to 3 in this order. -/
inductive FenceSt where
  | serving | spare | fenced | busy
deriving DecidableEq, Repr, Inhabited

structure FenceEntry where
  st    : FenceSt
  logic : Option Nat
  prob  : Bool
deriving DecidableEq, Repr, Inhabited

/-- A library item (R464). -/
structure LibItem where
  kind   : Nat
  mode   : Nat
  flags  : Nat
  lineK  : Nat
  line   : Nat
  length : Nat
  expect : W32
deriving DecidableEq, Repr, Inhabited

structure RelBlk where
  ctrl      : W32
  libVer    : BitVec 16
  libFlash  : Bool
  items     : List LibItem
  ln        : Vector FenceEntry 36
  wk        : Vector FenceEntry 52
  capBase   : W64
  capSlots  : W32
  capWrit   : W32
  capRel    : W32
  transient : W32
  permanent : W32
  testFail  : W32
  /-- Units vacated by a move whose test is due (R211), with the window that it serves. -/
  vacated   : List (UnitId × Option Inst)
deriving DecidableEq, Repr

/-! ## Stamp and security -/

/-- A hash lane at work (R475): stream slot, job frame, stripe, leaf digest, and its end; of a stripe that waits for a lane, the ticks
that the lane will take. -/
structure Lane where
  slot   : Nat
  frame  : Nat
  stripe : Nat
  digest : List Byte
  done   : Nat
deriving DecidableEq, Repr, Inhabited

/-- A node of the input tree (R475–R476): video slot, frame, level, index, digest, completion count. -/
structure TreeNode where
  slot   : Nat
  frame  : Nat
  level  : Nat
  idx    : Nat
  digest : List Byte
  done   : Nat
deriving DecidableEq, Repr, Inhabited

/-- A Stamp record formed (R477): its bytes, formation count, whether SIGNED, its signature once complete, and the ST 2110-40 slots that
have sent it. -/
structure StampRec where
  slot   : Nat
  frame  : Nat
  bytes  : List Byte
  formed : Nat
  signed : Bool
  sig    : Option (List Byte)
  sent   : List Nat
deriving DecidableEq, Repr, Inhabited

structure StampBlk where
  lanes   : Vector (Option Lane) 64
  waiting : List Lane
  leaves  : List TreeNode
  nodes   : List TreeNode
  /-- Chain head: digest of the last record (R477); none before the first of a chain. -/
  head    : Option (List Byte)
  /-- No record has been formed since RESUME (R478). -/
  resumed : Bool
  /-- Job frame and video slot of the last record (R480). -/
  lastKey : Option (Nat × Nat)
  /-- D_b by block (R479). -/
  digests : List (Nat × List Byte)
  /-- PARAMS by job frame, as it stood at A_m (R479). -/
  params  : List (Nat × List Byte)
  records : List StampRec
  /-- Signature under way: slot, frame, end; true for an attestation (R482, R486). -/
  engine  : Option (Bool × Nat × Nat × Nat)
  /-- T40 counts placed by ST 2110-40 EGRESS_SLOT instances: slot, frame, count (R481). -/
  t40     : List (Nat × Nat × Nat)
deriving DecidableEq, Repr

structure SecBlk where
  window     : Option Nat
  sealBroken : Bool
  sealOpen   : Bool
  jumperSeen : Bool
  jumper     : Bool
  identity   : Bool
  busy       : Bool
  lastOp     : Byte
  status     : Byte
  len        : W32
  arg        : W64
  attDone    : Bool
  attBusy    : Bool
  nonce      : Vector Byte 64
  quote      : List Byte
  /-- Fused minimum security version and the running SEC_VERSION (R488). -/
  minVer     : Nat
  secVer     : Nat
  fwDigest   : List Byte
  libDigest  : List Byte
  /-- Identity sector of flash (R488): the certificate, and whether helper data and wrapped key are erased (R490). -/
  cert       : List Byte
  zeroised   : Bool
deriving DecidableEq, Repr

/-! ## Configuration store and management -/

/-- A record write (R510): fence or settings, its SEQ, and its image: the fields after SEQ while it waits, the whole record
once it is under way. -/
structure CfgWrite where
  fence : Bool
  seq   : Nat
  image : List Byte
deriving DecidableEq, Repr, Inhabited

structure CfgBlk where
  lastFail  : Bool
  fenceDef  : Bool
  setDef    : Bool
  startSt   : Fin 4
  setSeq    : W32
  fenceSeq  : W32
  startTime : W32
  lastKind  : Nat
  lastCause : Nat
  waiting   : List CfgWrite
  current   : Option CfgWrite
  /-- A warm reset that waits for the write under way: its cause and time to READY (R503). -/
  warmDue   : Option (Nat × Nat)
deriving DecidableEq, Repr

structure MgmtBlk where
  status    : W32
  mvIn      : Nat
  iIn       : Nat
  pin       : Nat
  pdie      : Nat
  hotspot   : Vector Byte 4
  inlet     : Nat
  outlet    : Nat
  flow      : Nat
  limit     : Nat
  count     : W32
  /-- Present step index, target, and change under way of each quadrant (R522–R525). -/
  step      : Vector Nat 4
  target    : Vector Nat 4
  moving    : Vector (Option Nat) 4
  /-- FTB count at which each change completes (R524). -/
  moveEnd   : Vector Nat 4
  /-- What the last power window demands of each quadrant (R525). -/
  powDem    : Vector (Option Nat) 4
  /-- Requests active: power, die power, hotspot per quadrant, flow, inlet (R525). -/
  reqPower  : Bool
  reqDie    : Bool
  reqHot    : Vector Bool 4
  reqFlow   : Bool
  reqInlet  : Bool
  pinThrot  : Bool
  /-- Consecutive windows below LIMIT_W − 40 W. -/
  lowWins   : Nat
  /-- Supplies valid and PWR_GOOD; input at or above 36.0 V; input disconnected; THERM_TRIP# asserted. -/
  supplies  : Bool
  mgmtOn    : Bool
  cutOff    : Bool
  tripPin   : Bool
  /-- Trip cause and reading in non-volatile memory (R527). -/
  tripNv    : Option (Nat × Nat)
deriving DecidableEq, Repr

/-! ## Other state -/

/-- What the module sends or answers, for the observer: the model's own trace. -/
inductive Out where
  /-- A value answered to a read. -/
  | read (p : Path) (off : Nat) (value : W64)
  /-- Bytes answered to a memory read (BAR2, application core, fabric). -/
  | bytes (addr : Nat) (data : List Byte) (poison : Bool)
  /-- An error response to a write by a fabric port (R174, R230). -/
  | fabricError (port : Nat) (addr : Nat)
  /-- An access fault on a hart (R439), or a data abort (R362). -/
  | accessFault (hart : Nat) (addr : Nat)
  /-- A configuration request answered, or completed with Request Retry Status (none). -/
  | config (off : Nat) (value : Option W32)
  /-- An Ethernet frame on a sub-port of a port, with the FTB count of its first byte. -/
  | packet (port sub : Nat) (ftb : Nat) (bytes : List Byte)
  /-- A flit on a link. -/
  | flit (u : Nat) (ftb : Nat) (bytes : List Byte)
  /-- An MSI-X message, or an interrupt identity at a hart. -/
  | msix (vector : Nat)
  | hartIrq (hart : Nat) (identity : Nat)
  /-- An SMBus answer; none for a NACK. -/
  | smbus (data : Option (List Byte))
deriving DecidableEq, Repr

/-- A latch or pending write of R14 at one path and 64-bit register offset. -/
structure Latch where
  path  : Path
  off   : Nat
  value : W32
deriving DecidableEq, Repr

structure MiscBlk where
  scratch : W32
  /-- Read latches (upper halves) and pending lower-half writes (R14). -/
  latches : List Latch
  pendLow : List Latch
  /-- Triples latched by a read of FTB_COUNT's lower half (R546): path, FTB, job frame, next anchor. -/
  triples : List (Path × W64 × W64 × W64)
  /-- The model's own trace of outputs, newest first. -/
  out     : List Out
  /-- The model's own counter of free values. -/
  fresh   : Nat
deriving DecidableEq, Repr

/-! ## The whole state -/

structure State where
  /-- Commands that wait, first in, first out. -/
  pending : List Instr
  time    : TimeBlk
  log     : LogBlk
  mem     : MemBlk
  lan     : Vector Lantern 36
  wick    : Vector Wick 52
  dma     : Vector Engine 4
  hbm     : Vector HbmCtl 4
  fab     : FabBlk
  job     : JobBlk
  net     : NetBlk
  ur      : UrBlk
  host    : HostBlk
  app     : AppBlk
  sad     : Vector Saddler 4
  rel     : RelBlk
  stamp   : StampBlk
  sec     : SecBlk
  cfg     : CfgBlk
  mgmt    : MgmtBlk
  misc    : MiscBlk
deriving DecidableEq, Repr

/-! ## Reset

Every register at its Reset column (R16); a field marked CFG is 0 until POWER_ON_RESET's start-up gives it its value
(DESIGN CHOICE, log 2); state without a Reset column is zero, empty or none (DESIGN CHOICE, log 3 to 5). -/

def TimeBlk.reset : TimeBlk where
  ftb := 0
  pull := 0
  servo := .free
  pulls := []
  ptpOffset := 0
  urOffset := 0
  lastValid := 0
  inBand := none
  outBand := none
  followB := false
  ptp := Vector.replicate 4 default
  gm := none
  lastExcess := none
  slipCount := 0
  pps := false
  lBase := Vector.replicate 4 0
  lAt := Vector.replicate 4 0

def LogBlk.reset : LogBlk where
  startLog := []
  opened := false
  evCfg := 0x02000000
  error := false
  index := 0
  base := 0
  head := 0
  dropped := 0
  pendDrop := 0
  phase := true
  queue := []
  smbus := []
  all := []

def MemBlk.reset : MemBlk where
  cells := []
  tags := []
  poison := []
  ecc := []
  sbEcc := []
  flash := []
  fwSlot := []
  libSlot := []
  psFw := []
  psLib := []

def TestSt.reset : TestSt where
  pos := 0
  repeatDue := none
  targeted := []
  tgtFailed := none
  tgtRun := 0
  clean := 0
  rotations := 0
  loaded := none

def RqCounters.reset : RqCounters where
  satHi := 0
  satLo := 0
  escape := 0
  sideFull := 0
  escRange := 0
  tagMis := 0
  accOvf := 0

def Lantern.reset : Lantern where
  mode := .off
  bank := false
  rowSteer := 0
  colSteer := 0
  ctrl := 7
  err := 0
  abftLoc := 0x0FFF01FF
  passCount := 0
  abftCount := 0
  parityCount := 0
  active := []
  shadow := []
  drainEnd := 0
  lastStream := 0
  isolated := true
  occupancy := 0
  spans := []
  arrInst := none
  rqInst := none
  rqEnd := 0
  occEnd := none
  failed := none
  rq := RqCounters.reset
  params := []
  paramsSh := []
  tst := TestSt.reset
  transients := []
  lines := []
  unlocated := false
  fenceDue := none

def Thread.reset : Thread where
  run := .halted
  pc := 0
  g := Vector.replicate 32 0
  shadowG := Vector.replicate 16 0
  stack := []
  alt := false
  ie := false
  poison := false
  poisonLog := false
  ovfLog := false
  buf := []
  coming := []
  victim := .none
  rcw := none
  started := none
  inst := none
  trepEnd := 0
  v := Vector.replicate 32 0
  m := Vector.replicate 8 0
  vl := 0
  sew := 0
  grp := 0
  vfidx := 0
  vloads := []
  accSh := Vector.replicate 128 0

def Taper.reset : Taper where
  acc := Vector.replicate 128 0
  tcb := Vector.replicate 8 0
  tcl := Vector.replicate 8 65536
  ovf := false
  sat := false
  tsig := 0xFFFFFFFF
  loader := none
  ceCount := 0
  ueCount := 0

def Wick.reset : Wick where
  mode := .off
  recovery := false
  threads := Vector.replicate 4 Thread.reset
  rho := 0
  wcyc := 0
  vecBusy := 0
  port := 0
  pair := none
  sb := []
  irqPend := 0
  irqSrc := Vector.replicate 16 0
  taperOwn := 0
  ownDue := none
  swapped := []
  faultV := false
  faultT := 0
  faultC := 0
  faultPc := 0
  faultAddr := 0
  stalls := 0
  sbStalls := 0
  slotsLost := 0
  lmCe := 0
  lmUe := 0
  taper := Taper.reset
  tst := TestSt.reset
  fenceDue := none
  winEnd := 0
  winInst := none

def DmaDesc.zero : DmaDesc where
  src := 0
  dst := 0
  srcBStride := 0
  srcLStride := 0
  dstBStride := 0
  dstLStride := 0
  srcBeats := 0
  srcLines := 0
  dstBeats := 0
  dstLines := 0
  srcW := 0
  dstW := 0
  ctrl := 0
  share := 0
  retry := 0
  tagMode := 0
  tag := 0
  waitEn := 0
  wait := 0
  tagRow0 := 0
  tagPStride := 0
  tagRows := 0

def Chan.reset : Chan where
  state := .idle
  wait := .none
  list := 0
  descIx := 0
  cur := DmaDesc.zero
  srcDone := 0
  dstDone := 0
  hold := []
  blocks := []
  asked := 0
  retries := 0
  pace := 0
  errAddr := 0
  inst := none
  waitSince := 0
  waitLog := false
  poisonLog := false
  refused := none
  flushed := false
  counted := 0
  accAt := 0
  from_ := 0
  redo := 0

def Engine.reset : Engine where
  eocPend := 0
  retryCnt := 0
  preempt := 0
  owner := none
  slice := 0
  lastHigh := 31
  lastLow := 31
  preempted := none
  mcyc := 0
  ch := Vector.replicate 32 Chan.reset

def HbmCtl.reset : HbmCtl where
  detPc := 0
  temp := 0
  mode := 0
  ceCount := 0
  ueCount := 0
  missCount := 0
  ueValid := false
  ueAddr := 0
  reqs := []
  flying := []
  past := []
  hot := false
  refreshed := []
  armRefresh := none
  openAt := none

def MemCtr.reset : MemCtr where
  ce := 0
  ue := 0
  collision := 0
  credit := 0
  ueRow := 0

def FabBlk.reset : FabBlk where
  ctr := Vector.replicate 161 MemCtr.reset
  banks := Vector.replicate 64 []
  bankNext := Vector.replicate 64 0
  cross := []
  regions := []
  waits := []
  held := []
  rowsDone := []
  rowHits := []

def JobBlk.reset : JobBlk where
  state := .none
  image := none
  launch := 0
  frame0 := 0
  base := 0
  armedAt := 0
  resumed := false
  current := none
  started := []
  completed := []
  stopAt := none
  stopping := false
  snap := none
  bindings := []
  epochs := []
  shadows := []
  front := []
  commits := []
  marks := []
  nextOrder := 0
  lastRing := 63
  holdFrom := none
  lateKeys := []
  lateRecs := []
  moves := []
  releasing := []

def EthPort.reset : EthPort where
  cfg := 0
  unmatched := 0
  fec := 0
  link := 0
  badFcs := 0

def StCounters.reset : StCounters where
  pktA := 0
  pktB := 0
  dup := 0
  crc := 0
  malformed := 0
  late := 0
  seqGap := 0
  held := 0

def Stream.reset : Stream where
  ctr := StCounters.reset
  seqA := none
  seqB := none
  assembly := []
  released := []
  backlog := []
  unwritten := []
  gotA := []
  gotB := []
  silentA := false
  silentB := false
  due := []
  rtpSeq := 0
  sentFrames := []
  poisoned := []
  lateRows := []
  staging := Vector.replicate 256 0
  pending := none
  latched := []
  last := none
  lastHeld := false
  msgSeq := 0
  lastSeq := 0

def NetBlk.reset : NetBlk where
  ports := Vector.replicate 4 EthPort.reset
  ptpCfg := 0
  slots := Vector.replicate 32 Stream.reset
  joined := []

def UrLink.reset : UrLink where
  cfg := 0
  state := .down
  peerMod := 0
  peerLink := 0
  lat := 0
  txBase := 0
  txSize := 0
  rxBase := 0
  rxSize := 0
  crcCount := 0
  replayCnt := 0
  lateCount := 0
  txOn := false
  rxOn := false
  txQueue := []
  txSeen := []
  nextSeq := 0
  replay := []
  credits := 0
  lastRx := none
  nakSent := false
  accepted := 0
  lastAck := 0
  owed := 0
  rx := []
  rxSeen := []
  replays := []
  downAt := 0

def UrBlk.reset : UrBlk where
  gcfg := 0
  links := Vector.replicate 6 UrLink.reset

def RingSt.reset : RingSt where
  cfg := 0x02100000
  error := false
  head := 0
  tail := 0
  sqBase := 0
  cqBase := 0
  cqHead := 0
  cqTail := 0
  phase := true
  taken := 0
  epochNo := 0

/-- The reset values of the MSI-X table: every vector masked (PRESUMED: PCI Express; log 13). -/
def msixReset : Vector (Vector W32 4) 256 := Vector.replicate 256 #v[0, 0, 0, 1]

def HostBlk.reset : HostBlk where
  rings := Vector.replicate 64 RingSt.reset
  bar2 := 0
  msix := msixReset
  pba := 0
  cfgUp := false
  pciCmd := 0
  barAt0 := 0
  barAt2 := 0
  held := []
  serial := []

def ObBox.reset : ObBox where
  base := 0
  cfg := 0
  written := 0
  released := 0

def IbBox.reset : IbBox where
  error := false
  data := []
  waiting := []

def AppBlk.reset : AppBlk where
  ob := Vector.replicate 16 ObBox.reset
  ib := Vector.replicate 16 IbBox.reset
  route := Vector.replicate 97 0
  path := []

def Saddler.reset : Saddler where
  major := 0
  minor := 0
  fromFlash := false
  restarts := 0
  pend := 0
  ie := false
  pc := 0
  g := Vector.replicate 32 0
  shadowG := Vector.replicate 16 0
  stack := []
  alt := false
  victim := .none
  asleep := false
  fenced := false
  tookWork := false
  divTimes := []
  line2 := none

def FenceEntry.reset : FenceEntry where
  st := .spare
  logic := none
  prob := false

def RelBlk.reset : RelBlk where
  ctrl := 2
  libVer := 0
  libFlash := false
  items := []
  ln := Vector.replicate 36 FenceEntry.reset
  wk := Vector.replicate 52 FenceEntry.reset
  capBase := 0
  capSlots := 0
  capWrit := 0
  capRel := 0
  transient := 0
  permanent := 0
  testFail := 0
  vacated := []

def StampBlk.reset : StampBlk where
  lanes := Vector.replicate 64 none
  waiting := []
  leaves := []
  nodes := []
  head := none
  resumed := false
  lastKey := none
  digests := []
  params := []
  records := []
  engine := none
  t40 := []

def SecBlk.reset : SecBlk where
  window := none
  sealBroken := false
  sealOpen := false
  jumperSeen := false
  jumper := false
  identity := false
  busy := false
  lastOp := 0
  status := 0
  len := 0
  arg := 0
  attDone := false
  attBusy := false
  nonce := Vector.replicate 64 0
  quote := []
  minVer := 0
  secVer := 0
  fwDigest := []
  libDigest := []
  cert := []
  zeroised := false

def CfgBlk.reset : CfgBlk where
  lastFail := false
  fenceDef := false
  setDef := false
  startSt := 0
  setSeq := 0
  fenceSeq := 0
  startTime := 0
  lastKind := 0
  lastCause := 0
  waiting := []
  current := none
  warmDue := none

def MgmtBlk.reset : MgmtBlk where
  status := 0
  mvIn := 0
  iIn := 0
  pin := 0
  pdie := 0
  hotspot := Vector.replicate 4 0
  inlet := 0
  outlet := 0
  flow := 0
  limit := 0
  count := 0
  step := Vector.replicate 4 0
  target := Vector.replicate 4 0
  moving := Vector.replicate 4 none
  moveEnd := Vector.replicate 4 0
  powDem := Vector.replicate 4 none
  reqPower := false
  reqDie := false
  reqHot := Vector.replicate 4 false
  reqFlow := false
  reqInlet := false
  pinThrot := false
  lowWins := 0
  supplies := false
  mgmtOn := false
  cutOff := false
  tripPin := false
  tripNv := none

def MiscBlk.reset : MiscBlk where
  scratch := 0
  latches := []
  pendLow := []
  triples := []
  out := []
  fresh := 0

/-- The machine right after reset, before any command. -/
def State.reset : State where
  pending := []
  time := TimeBlk.reset
  log := LogBlk.reset
  mem := MemBlk.reset
  lan := Vector.replicate 36 Lantern.reset
  wick := Vector.replicate 52 Wick.reset
  dma := Vector.replicate 4 Engine.reset
  hbm := Vector.replicate 4 HbmCtl.reset
  fab := FabBlk.reset
  job := JobBlk.reset
  net := NetBlk.reset
  ur := UrBlk.reset
  host := HostBlk.reset
  app := AppBlk.reset
  sad := Vector.replicate 4 Saddler.reset
  rel := RelBlk.reset
  stamp := StampBlk.reset
  sec := SecBlk.reset
  cfg := CfgBlk.reset
  mgmt := MgmtBlk.reset
  misc := MiscBlk.reset

end Sys2Proof.Machine
end

