-- ==== Sys2Proof/Machine/Ops.lean ====
section
/-! DEFINITION. The shared operations over the state: bytes, vectors, sparse memories, device addresses, saturating counters, the
event log (R428–R429, R496, R549), interrupts (R425, R440) and the advance of the FTB (R29). -/
namespace Sys2Proof.Machine

/-! ## Bytes and words -/

/-- The number that bytes spell, least significant first (R12). -/
def leNat : List Byte → Nat
  | [] => 0
  | b :: t => b.toNat + 256 * leNat t

/-- `n` bytes of a number, least significant first (R12). -/
def leBytes : (n v : Nat) → List Byte
  | 0, _ => []
  | n + 1, v => BitVec.ofNat 8 v :: leBytes n (v / 256)

/-- The number that bytes spell, most significant first (R13). -/
def beNat (l : List Byte) : Nat := l.foldl (fun a b => 256 * a + b.toNat) 0

/-- `n` bytes of a number, most significant first (R13). -/
def beBytes (n v : Nat) : List Byte := (leBytes n v).reverse

/-- `n` bytes of a list from offset `o`; short where the list ends. -/
def slice (l : List Byte) (o n : Nat) : List Byte := (l.drop o).take n

/-- Little-endian field of `n` bytes at offset `o`. -/
def fld (l : List Byte) (o n : Nat) : Nat := leNat (slice l o n)

/-- Little-endian signed field of `n` bytes at offset `o`. -/
def sfld (l : List Byte) (o n : Nat) : Int := (BitVec.ofNat (8 * n) (fld l o n)).toInt

/-- Most-significant-first field of `n` bytes at offset `o`. -/
def befld (l : List Byte) (o n : Nat) : Nat := beNat (slice l o n)

/-- Bits [hi:lo] of a number (R11). -/
def bits (v hi lo : Nat) : Nat := v / 2 ^ lo % 2 ^ (hi + 1 - lo)

/-- Bit i of a number. -/
def bit (v i : Nat) : Bool := v.testBit i

/-- Exactly `n` bytes: cut, or padded with zeros. -/
def padTo (n : Nat) (l : List Byte) : List Byte := l.take n ++ List.replicate (n - l.length) 0

/-- All bytes of a list are 0. -/
def allZero (l : List Byte) : Bool := l.all (fun b => b == 0)

/-- The bytes of an ASCII string. -/
def ascii (s : String) : List Byte := s.toList.map fun c => BitVec.ofNat 8 c.toNat

/-- The row that 512 bytes in address order spell. -/
def rowOf (l : List Byte) : Row := BitVec.ofNat 4096 (leNat l)

/-- The 512 bytes of a row in address order. -/
def rowBytes (r : Row) : List Byte := leBytes 512 r.toNat

/-- The last `n` elements of a list. -/
def lastN {α : Type} (n : Nat) (l : List α) : List α := l.drop (l.length - n)

/-- A counter that saturates at 0xFFFF_FFFF, advanced by `n`. -/
def satAdd (c : W32) (n : Nat) : W32 := BitVec.ofNat 32 (min (c.toNat + n) 0xFFFFFFFF)

/-- A counter that saturates, advanced by one. -/
def satInc (c : W32) : W32 := satAdd c 1

/-- A counter of `w` bits that saturates, advanced by one. -/
def satIncW {w : Nat} (c : BitVec w) : BitVec w := if c.toNat + 1 < 2 ^ w then c + 1 else c

/-! ## Vectors -/

/-- Element i of a vector replaced by its image. -/
def upd {α : Type} {n : Nat} (v : Vector α n) (i : Fin n) (f : α → α) : Vector α n := v.set i.1 (f v[i]) i.2

/-- Element at a number, or a given value outside the vector. -/
def getOr {α : Type} {n : Nat} (v : Vector α n) (i : Nat) (d : α) : α := if h : i < n then v[i] else d

/-- The number as an index, where it is one. -/
def toFin? (n i : Nat) : Option (Fin n) := if h : i < n then some ⟨i, h⟩ else none

/-- Element at a number replaced, where the number is an index. -/
def updNat {α : Type} {n : Nat} (v : Vector α n) (i : Nat) (f : α → α) : Vector α n :=
  match toFin? n i with
  | some j => upd v j f
  | none => v

/-! ## Sparse memories -/

/-- The canonical form: keys strictly rising, no entry equal to what an unlisted key reads as. -/
abbrev Sparse.wf (d : Byte) (m : List Host.Cell) : Prop :=
  m.Pairwise (fun a b => a.1 < b.1) ∧ ∀ c ∈ m, c.2 ≠ d

/-- The byte at a key; `d` where nothing is listed. -/
def Sparse.get (d : Byte) : List Host.Cell → Nat → Byte
  | [], _ => d
  | c :: t, a => if a < c.1 then d else if a = c.1 then c.2 else Sparse.get d t a

/-- A byte written; writing `d` removes the entry. -/
def Sparse.set (d : Byte) : List Host.Cell → Nat → Byte → List Host.Cell
  | [], a, v => if v = d then [] else [(a, v)]
  | c :: t, a, v =>
    if a < c.1 then (if v = d then c :: t else (a, v) :: c :: t)
    else if a = c.1 then (if v = d then t else (a, v) :: t)
    else c :: Sparse.set d t a v

/-- Bytes written from a key upwards. -/
def Sparse.write (d : Byte) (m : List Host.Cell) (a : Nat) : List Byte → List Host.Cell
  | [] => m
  | b :: t => Sparse.write d (Sparse.set d m a b) (a + 1) t

/-- `n` bytes from a key upwards. -/
def Sparse.read (d : Byte) (m : List Host.Cell) (a n : Nat) : List Byte := (List.range n).map fun i => Sparse.get d m (a + i)

/-- Every key of a range back to the default. -/
def Sparse.clear (m : List Host.Cell) (lo hi : Nat) : List Host.Cell := m.filter fun c => c.1 < lo || hi ≤ c.1

/-! ## The memories of the module -/

def MemBlk.byte (m : MemBlk) (a : Nat) : Byte := Sparse.get 0 m.cells a
def MemBlk.bytes (m : MemBlk) (a n : Nat) : List Byte := Sparse.read 0 m.cells a n
def MemBlk.write (m : MemBlk) (a : Nat) (l : List Byte) : MemBlk := { m with cells := Sparse.write 0 m.cells a l }
def MemBlk.tag (m : MemBlk) (row : Nat) : Byte := Sparse.get 0 m.tags row
def MemBlk.poisoned (m : MemBlk) (row : Nat) : Bool := Sparse.get 0 m.poison row != 0
def MemBlk.setTag (m : MemBlk) (row : Nat) (t : Byte) : MemBlk := { m with tags := Sparse.set 0 m.tags row t }
def MemBlk.setPoison (m : MemBlk) (row : Nat) (p : Bool) : MemBlk :=
  { m with poison := Sparse.set 0 m.poison row (if p then 1 else 0) }
def MemBlk.eccAt (m : MemBlk) (a : Nat) : Byte := Sparse.get 0 m.ecc a
def MemBlk.setEcc (m : MemBlk) (a : Nat) (v : Byte) : MemBlk := { m with ecc := Sparse.set 0 m.ecc a v }
def MemBlk.flashBytes (m : MemBlk) (o n : Nat) : List Byte := Sparse.read 0xFF m.flash o n
def MemBlk.flashWrite (m : MemBlk) (o : Nat) (l : List Byte) : MemBlk := { m with flash := Sparse.write 0xFF m.flash o l }

/-- Every list of the memories is in its canonical form. -/
abbrev MemBlk.wf (m : MemBlk) : Prop :=
  Sparse.wf 0 m.cells ∧ Sparse.wf 0 m.tags ∧ Sparse.wf 0 m.poison ∧ Sparse.wf 0 m.ecc ∧ Sparse.wf 0 m.sbEcc ∧
  Sparse.wf 0xFF m.flash

/-! ## The device address map (R540) -/

/-- Where a device address lies. -/
inductive Place where
  | hbm (stack off : Nat)
  | map (off : Nat)
  | lan (n off : Nat)
  | local_ (w off : Nat)
  | taperX (w off : Nat)
  | taperY (w off : Nat)
  | vec (w off : Nat)
  | reg (off : Nat)
  | host (off : Nat)
  | none
deriving DecidableEq, Repr

def mapBase : Nat := 0x010000000000
def lanBase (n : Nat) : Nat := 0x011000000000 + n * 0x01000000
def wickBase (w : Nat) : Nat := 0x012000000000 + w * 0x00400000
def regBase : Nat := 0x013000000000
def hostBase : Nat := 0x800000000000
def stackSize : Nat := 0x900000000
/-- Row base address of a row number of the map store. -/
def mapRow (r : Nat) : Nat := mapBase + 512 * r
/-- Row base addresses in the scratchpads of physical Lantern n. -/
def weightRow (n r : Nat) : Nat := lanBase n + 512 * r
def actRow (n r : Nat) : Nat := lanBase n + 0x00400000 + 512 * r
def psumRow (n r : Nat) : Nat := lanBase n + 0x00C00000 + 512 * r
/-- Row base address in the vector scratchpad of physical Wick w. -/
def vecRow (w r : Nat) : Nat := wickBase w + 0x00200000 + 512 * r

def place (a : Nat) : Place :=
  if a < 4 * stackSize then .hbm (a / stackSize) (a % stackSize)
  else if mapBase ≤ a ∧ a < mapBase + 0x10000000 then .map (a - mapBase)
  else if lanBase 0 ≤ a ∧ a < lanBase 36 then .lan ((a - lanBase 0) / 0x01000000) ((a - lanBase 0) % 0x01000000)
  else if wickBase 0 ≤ a ∧ a < wickBase 52 then
    let w := (a - wickBase 0) / 0x00400000
    let o := (a - wickBase 0) % 0x00400000
    if o < 0x00040000 then .local_ w o
    else if o < 0x00060000 then .taperX w (o - 0x00040000)
    else if o < 0x00080000 then .taperY w (o - 0x00060000)
    else if 0x00200000 ≤ o then .vec w (o - 0x00200000)
    else .none
  else if regBase ≤ a ∧ a < regBase + 0x10000000 then .reg (a - regBase)
  else if hostBase ≤ a ∧ a < 2 * hostBase then .host (a - hostBase)
  else .none

/-- Pseudo-channel and block of an offset within a stack (R351). -/
def hbmPc (off : Nat) : Nat := 8 * (off / 0x120000000) + off % 0x120000000 / 512 % 8
def hbmBlk (off : Nat) : Nat := off % 0x120000000 / 4096
/-- Device address of block k of pseudo-channel p of stack st. -/
def hbmAddr (st p k : Nat) : Nat := st * stackSize + p / 8 * 0x120000000 + k * 4096 + p % 8 * 512

/-- A deterministic pseudo-channel of an armed job (R352, R354). -/
def State.hbmDet (s : State) (a : Nat) : Bool :=
  match place a with
  | .hbm st off => s.job.state == .armed && decide (hbmPc off < (getOr s.hbm st HbmCtl.reset).detPc)
  | _ => false

/-- The stack has been trained (R497). -/
def State.hbmUp (s : State) (a : Nat) : Bool :=
  match place a with
  | .hbm st _ => (getOr s.hbm st HbmCtl.reset).mode != 0
  | _ => false

/-- Base address of the row or block that holds a byte. -/
def rowBase (a : Nat) : Nat := a / 512 * 512

/-! ## Units -/

/-- Physical Lantern that serves a logical Lantern (R20). -/
def RelBlk.lnPhys (r : RelBlk) (l : Nat) : Option LnId := (List.finRange 36).find? fun n => r.ln[n].logic == some l
/-- Physical Wick that serves a logical Wick (R20). -/
def RelBlk.wkPhys (r : RelBlk) (l : Nat) : Option WkId := (List.finRange 52).find? fun n => r.wk[n].logic == some l

/-- A thread has reached its halt (R223). -/
def Wick.reachedHalt (k : Wick) (t : Fin 4) : Bool :=
  let th := k.threads[t]
  th.run == .faulted || (th.run == .halted && !k.sb.any fun e => e.thread == t)

/-! ## Group setters -/

def State.setTime (s : State) (x : TimeBlk) : State := { s with time := x }
def State.setLog (s : State) (x : LogBlk) : State := { s with log := x }
def State.setMem (s : State) (x : MemBlk) : State := { s with mem := x }
def State.setLan (s : State) (n : LnId) (f : Lantern → Lantern) : State := { s with lan := upd s.lan n f }
def State.setWick (s : State) (n : WkId) (f : Wick → Wick) : State := { s with wick := upd s.wick n f }
def State.setEng (s : State) (n : Fin 4) (f : Engine → Engine) : State := { s with dma := upd s.dma n f }
def State.setHbm (s : State) (n : Fin 4) (f : HbmCtl → HbmCtl) : State := { s with hbm := upd s.hbm n f }
def State.setFab (s : State) (x : FabBlk) : State := { s with fab := x }
def State.setJob (s : State) (x : JobBlk) : State := { s with job := x }
def State.setNet (s : State) (x : NetBlk) : State := { s with net := x }
def State.setUr (s : State) (x : UrBlk) : State := { s with ur := x }
def State.setHost (s : State) (x : HostBlk) : State := { s with host := x }
def State.setApp (s : State) (x : AppBlk) : State := { s with app := x }
def State.setSad (s : State) (p : Fin 4) (f : Saddler → Saddler) : State := { s with sad := upd s.sad p f }
def State.setRel (s : State) (x : RelBlk) : State := { s with rel := x }
def State.setStamp (s : State) (x : StampBlk) : State := { s with stamp := x }
def State.setSec (s : State) (x : SecBlk) : State := { s with sec := x }
def State.setCfg (s : State) (x : CfgBlk) : State := { s with cfg := x }
def State.setMgmt (s : State) (x : MgmtBlk) : State := { s with mgmt := x }
def State.setMisc (s : State) (x : MiscBlk) : State := { s with misc := x }

/-- A value of the model's output trace. -/
def State.emit (s : State) (o : Out) : State := { s with misc := { s.misc with out := o :: s.misc.out } }

/-- Consume `n` free values. -/
def State.fresh (s : State) (n : Nat) : State := { s with misc := { s.misc with fresh := s.misc.fresh + n } }

/-! ## Interrupts -/

/-- An MSI-X message of a vector; held in the pending-bit array while the vector is masked (R417, R446). -/
def State.msix (s : State) (v : Nat) : State :=
  if bit (getOr s.host.msix v #v[0, 0, 0, 1])[3].toNat 0 then
    { s with host := { s.host with pba := s.host.pba ||| BitVec.ofNat 256 (2 ^ v) } }
  else s.emit (.msix v)

/-- Source n of R440 writes the supervisor file that AC_IRQ_ROUTE names. -/
def State.irqSource (s : State) (n : Nat) : State :=
  let r := (getOr s.app.route n 0).toNat
  if bit r 31 then s.emit (.hartIrq (bits r 19 16) (bits r 10 0)) else s

/-- Raise a line of every Saddler pair (R444). -/
def State.sadLine (s : State) (line : Nat) : State :=
  { s with sad := s.sad.map fun p => { p with pend := p.pend ||| BitVec.ofNat 16 (2 ^ line) } }

/-! ## The event log -/

/-- DETAIL: each item at its natural alignment, cut or padded to 16 bytes (R428). Items are (size in bytes, value). -/
def detail (items : List (Nat × Nat)) : List Byte :=
  padTo 16 (items.foldl (fun acc it =>
    acc ++ List.replicate ((it.1 - acc.length % it.1) % it.1) 0 ++ leBytes it.1 it.2) [])

/-- An unsigned image of a signed detail item of n bytes. -/
def sdet (n : Nat) (v : Int) : Nat := (BitVec.ofInt (8 * n) v).toNat

/-- Put an event into the logger; it reaches the log at the end of the FTB cycle (`State.drain`). Saddler line 5 rises
(R444). -/
def State.logAt (s : State) (ftb code kind num : Nat) (items : List (Nat × Nat)) : State :=
  let e : Event := ⟨ftb, code, kind, num, detail items⟩
  { s with log := { s.log with queue := s.log.queue ++ [e], all := e :: s.log.all }
           sad := s.sad.map fun p => { p with pend := p.pend ||| 0x20 } }

/-- An event that carries the FTB of its cycle (R549). -/
def State.logEv (s : State) (code kind num : Nat) (items : List (Nat × Nat)) : State :=
  s.logAt s.time.ftb code kind num items

/-- Order of records of one cycle: ascending code, then ascending UNIT (R549). -/
def Event.before (a b : Event) : Bool :=
  a.code < b.code || (a.code == b.code && a.kind * 256 + a.num ≤ b.kind * 256 + b.num)

/-- Stable insertion by `Event.before`. -/
def insertEv (e : Event) : List Event → List Event
  | [] => [e]
  | x :: t => if x.before e then x :: insertEv e t else e :: x :: t

def sortEv (l : List Event) : List Event := l.foldl (fun acc e => insertEv e acc) []

/-- The 32 bytes of a record (R428). -/
def Event.bytes (e : Event) (phase : Bool) : List Byte :=
  leBytes 8 e.ftb ++ leBytes 2 e.code ++ leBytes 2 (e.kind * 256 + e.num) ++ [if phase then 1 else 0, 0, 0, 0] ++
  padTo 16 e.detail

/-- Ring fields of RING_CFG and EV_CFG (R446). -/
def ringOn (cfg : W32) : Bool := bit cfg.toNat 31
def ringOwner (cfg : W32) : Nat := bits cfg.toNat 30 30
def ringIrq (cfg : W32) : Bool := bit cfg.toNat 29
/-- 2^SQ_LOG2 and 2^CQ_LOG2; the field holds 4 to 16 (R421), a value outside is taken at the nearer end (log 15). -/
def sqSize (cfg : W32) : Nat := 2 ^ max 4 (min 16 (bits cfg.toNat 27 23))
def cqSize (cfg : W32) : Nat := 2 ^ max 4 (min 16 (bits cfg.toNat 22 18))

/-- Memory of rings and of addressed commands: host memory, or HBM of a trained stack outside the deterministic
pseudo-channels of an armed job (R421, R430, R354). -/
def State.outerOk (s : State) (a n : Nat) : Bool :=
  (List.range ((a % 512 + n + 511) / 512)).all fun i =>
    match place (rowBase a + 512 * i) with
    | .host _ => true
    | .hbm _ _ => s.hbmUp (rowBase a + 512 * i) && !s.hbmDet (rowBase a + 512 * i)
    | _ => false

/-- The event ring is full: one entry stays free between INDEX and HEAD (DEDUCED, log 16). -/
def LogBlk.full (l : LogBlk) : Bool := (l.index + 1) % sqSize l.evCfg == l.head.toNat % sqSize l.evCfg

/-- One record to the ring: written with the phase, INDEX advanced, the interrupt sent (R425, R428); a failed write is a
RING_ERROR and the ring is disabled (R424). -/
def State.putRecord (s : State) (e : Event) : State :=
  let l := s.log
  let a := l.base.toNat + 32 * l.index
  if s.outerOk a 32 then
    let wrap := decide (l.index + 1 = sqSize l.evCfg)
    let s1 : State := { s with
      mem := s.mem.write a (e.bytes l.phase)
      log := { l with index := if wrap then 0 else l.index + 1, phase := if wrap then !l.phase else l.phase } }
    if ringIrq l.evCfg then
      (if ringOwner l.evCfg = 0 then s1.msix (bits l.evCfg.toNat 7 0) else s1.irqSource 96)
    else s1
  else
    let err : Event := ⟨s.time.ftb, 0x0A01, 0x0C, 0, detail [(1, 0xFF), (1, 2)]⟩
    { s with log := { l with evCfg := l.evCfg &&& 0x7FFFFFFF, error := true, all := err :: l.all,
                             dropped := satAdd l.dropped 2, pendDrop := l.pendDrop + 2 } }

def State.dropRecord (s : State) : State :=
  { s with log := { s.log with dropped := satInc s.log.dropped, pendDrop := s.log.pendDrop + 1 } }

/-- The record of R429, written first once space has returned. -/
def State.putOverflow (s : State) : State :=
  if s.log.pendDrop = 0 || !ringOn s.log.evCfg || s.log.full then s
  else
    let e : Event := ⟨s.time.ftb, 0x0A02, 0x0C, 0, detail [(4, min s.log.pendDrop 0xFFFFFFFF)]⟩
    ({ s with log := { s.log with pendDrop := 0, all := e :: s.log.all } } : State).putRecord e

/-- One record to the start log (R496), to the ring, or dropped (R429). -/
def State.record (s : State) (e : Event) : State :=
  let s := { s with log := { s.log with smbus := if e.code / 256 = 0x0D then lastN 64 (s.log.smbus ++ [e]) else s.log.smbus } }
  if !s.log.opened then
    (if s.log.startLog.length < 256 then { s with log := { s.log with startLog := s.log.startLog ++ [e] } } else s.dropRecord)
  else
    let s := s.putOverflow
    if ringOn s.log.evCfg && !s.log.full then s.putRecord e else s.dropRecord

/-- The end of an FTB cycle: the records logged in it go to the log in the order of R549. -/
def State.drain (s : State) : State :=
  (sortEv s.log.queue).foldl State.record { s with log := { s.log with queue := [] } }

/-! ## The advance of the FTB -/

/-- PPS_OUT stays high for 1,000 ticks (R532). -/
def ppsAfter (pps : Bool) (old new : Nat) : Bool :=
  pps && new / 1000000000 == old / 1000000000 && decide (new % 1000000000 < 1000)

/-- The FTB reaches a count (R29); never back. -/
def State.reach (s : State) (n : Nat) : State :=
  if n ≤ s.time.ftb then s
  else
    let s := s.drain
    { s with time := { s.time with ftb := n, pps := ppsAfter s.time.pps s.time.ftb n } }

/-- The first epoch tick at or after a count (R37). -/
def epochTick (n : Nat) : Nat := (n + 9) / 10 * 10

/-! ## Frames and anchors (R34–R36) -/

/-- Start count of absolute frame m at num/den frames per second (R34). -/
def frameStart (num den m : Nat) : Nat := (m * 1000000000 * den + num - 1) / num

def JobBlk.num (j : JobBlk) : Nat := match j.image with | some im => max 1 im.hdr.frameNum | none => 1
def JobBlk.den (j : JobBlk) : Nat := match j.image with | some im => max 1 im.hdr.frameDen | none => 1

/-- Absolute frame of job frame n (R36, R57). -/
def JobBlk.absFrame (j : JobBlk) (n : Nat) : Nat := j.frame0 + n - j.base

/-- F of job frame n. -/
def JobBlk.frameF (j : JobBlk) (n : Nat) : Nat := frameStart j.num j.den (j.absFrame n)

/-- A_n: the smallest multiple of 10 at or above F (R34). -/
def JobBlk.anchor (j : JobBlk) (n : Nat) : Nat := epochTick (j.frameF n)

/-- C_n (R44). -/
def JobBlk.commitPoint (j : JobBlk) (n : Nat) : Nat := j.anchor n - 100000

/-- The job frame whose anchor passed last at an FTB count; none before the first. -/
def JobBlk.frameAt (j : JobBlk) (ftb : Nat) : Option Nat :=
  let m0 := ftb * j.num / (1000000000 * j.den)
  let m := if epochTick (frameStart j.num j.den m0) ≤ ftb then m0 + 1 else m0
  if m ≤ j.frame0 then none else some (m - 1 - j.frame0 + j.base)

/-- The first job frame whose commit point follows a count (R436, R56). -/
def JobBlk.nextCommit (j : JobBlk) (ftb : Nat) : Nat :=
  match j.frameAt (ftb + 100000) with
  | none => j.base
  | some n => n + 1

/-- One FTB tick: what `step` does on an empty queue (log 1). -/
def State.tick (s : State) : State := s.reach (s.time.ftb + 1)

/-- HBM_STATE.MODE: open service from the epoch tick on that follows the end of the job (R353, R363). -/
def HbmCtl.modeNow (h : HbmCtl) (ftb : Nat) : Nat :=
  match h.openAt with
  | some t => if h.mode = 2 ∧ t ≤ ftb then 1 else h.mode.1
  | none => h.mode.1

/-- The management pair that does the work of S0: S1 after S0 is fenced (R208, R469). -/
def State.firmwarePair (s : State) : Nat := if s.sad[(0 : Fin 4)].fenced then 1 else 0

/-- HBM_TEMP_HIGH, once each time TEMP rises above 95 °C (R364). -/
def State.hbmTemp (s : State) (st : Fin 4) (temp : Byte) : State :=
  let was := s.hbm[st].hot
  let t := s.setHbm st fun h => { h with temp, hot := decide (95 < temp.toNat) }
  if was = false ∧ 95 < temp.toNat then t.logEv 0x0703 4 st.1 [(1, temp.toNat)] else t

/-! ## L- and W-cycles (R30, R37, R522, R524) -/

/-- Throttle step at which a quadrant's clocks run: a step down lowers the frequency as it begins, a step up raises it as it ends (R524). -/
def MgmtBlk.clockStep (m : MgmtBlk) (q : Fin 4) : Nat := max m.step[q] (m.moving[q].getD 0)

/-- Cycles between epoch ticks of the Lantern and Wick islands of a quadrant (R37). -/
def State.perTick (s : State) (q : Nat) : Nat :=
  #[26, 24, 22, 20, 16].getD (match toFin? 4 q with | some q => s.mgmt.clockStep q | none => 0) 26

/-- L- or W-cycles counted by a quadrant's islands at an FTB count from `lAt` on; the first cycle that begins at it or later. -/
def State.lFrom (s : State) (q t : Nat) : Nat := getOr s.time.lBase q 0 + ((t - getOr s.time.lAt q 0) * s.perTick q + 9) / 10

/-- The L- or W-cycle under way in a quadrant. -/
def State.lNow (s : State) (q : Nat) : Nat := getOr s.time.lBase q 0 + (s.time.ftb - getOr s.time.lAt q 0) * s.perTick q / 10

/-- The FTB count at which an L- or W-cycle of a quadrant begins, as its clock runs now. -/
def State.lFtb (s : State) (q n : Nat) : Nat :=
  getOr s.time.lAt q 0 + (10 * (n - getOr s.time.lBase q 0) + s.perTick q - 1) / max 1 (s.perTick q)

/-- The cycle counts up to now are taken over, before a clock changes. -/
def State.anchorClocks (s : State) : State :=
  { s with time := { s.time with lBase := Vector.ofFn fun q => s.lNow q.1, lAt := Vector.replicate 4 s.time.ftb } }

/-! ## The pull of the servo (R31) -/

def second : Nat := 1000000000

/-- The pull changes, and its history keeps what the last 60 s need. -/
def TimeBlk.setPull (t : TimeBlk) (p : Int) : TimeBlk :=
  { t with
    pull := p
    pulls := (t.ftb, p) :: (t.pulls.takeWhile fun q => decide (t.ftb < q.1 + 60 * second)) ++
      ((t.pulls.dropWhile fun q => decide (t.ftb < q.1 + 60 * second)).take 1) }

/-! ## The PTP port that the servo follows (R391) -/

def State.ptpA (s : State) : Nat := bits s.net.ptpCfg.toNat 1 0
def State.ptpB (s : State) : Nat := bits s.net.ptpCfg.toNat 3 2
def State.ptpOn (s : State) : Bool := bit s.net.ptpCfg.toNat 16
/-- The port runs PTP. -/
def State.ptpPort (s : State) (p : Nat) : Bool := s.ptpOn && (p == s.ptpA || (bit s.net.ptpCfg.toNat 4 && p == s.ptpB))

/-- The best master that a port has heard of; of equal ranks the sender of the lower identity. -/
def PtpPort.best (p : PtpPort) : Option PtpMaster :=
  p.masters.foldl (fun m x => match m with
    | some y => if x.rank < y.rank ∨ (x.rank = y.rank ∧ x.sender < y.sender) then some x else some y
    | none => some x) none

def State.bestOf (s : State) (port : Nat) : Option PtpMaster := (getOr s.time.ptp port default).best

/-- The better of the two chosen masters is port B's; port A's when they rank equal. -/
def State.betterB (s : State) : Bool :=
  if bit s.net.ptpCfg.toNat 4 then
    match s.bestOf s.ptpA, s.bestOf s.ptpB with
    | some a, some b => decide (b.rank < a.rank)
    | none, some _ => true
    | _, _ => false
  else false

/-- Port whose master the servo follows. -/
def State.followed (s : State) : Nat := if s.time.followB then s.ptpB else s.ptpA

/-- The choice of the followed port and its grandmaster, with the events of a change (R391). -/
def State.follow (s : State) : State :=
  let b := s.betterB
  let s := if b = s.time.followB then s
    else
      let t := s.setTime { s.time with followB := b }
      t.logEv 0x0806 5 t.followed [(1, t.followed), (8, sdet 8 t.time.ptpOffset)]
  match s.bestOf s.followed with
  | none => s
  | some m =>
    let t := s.setTime { s.time with gm := some m.gm }
    if s.time.gm.isSome && s.time.gm != some m.gm then t.logEv 0x0807 5 s.followed [(1, s.followed), (8, m.gm.toNat)] else t

/-- A changed PTP_CFG: a port that runs no PTP knows no master, and the servo follows the better one of the others. -/
def State.ptpChanged (s : State) : State :=
  let keep (p : Fin 4) : PtpPort :=
    if s.ptpPort p.1 then s.time.ptp[p] else { s.time.ptp[p] with masters := [], sync := none, dreq := none }
  let s := s.setTime { s.time with ptp := Vector.ofFn keep }
  if s.ptpOn then s.follow else s

/-! ## Rows of a chain, and what a reset leaves of one under way (R69, R78, R505) -/

/-- The entry of an instance, where the loaded image has that instance. -/
def State.entryOf (s : State) (i : Inst) : Option TtEntry :=
  (s.job.image.bind fun im => im.entries[i.entry]?).filter fun e => decide (i.inst ≤ e.rep)

/-- ARG0 of instance k (R185). -/
def TtEntry.arg (e : TtEntry) (k : Nat) : Nat := ((e.arg0 : Int) + k * e.arg0Step).toNat

/-- Tag of rows written by the array path, which the spec does not give (log 9, 34). -/
def State.freeTag (s : State) : Byte := (Config.freeWord s.misc.fresh).setWidth 8

/-- Contents of destination row k of a chain that hangs (log 34). -/
def State.freeRow (s : State) (k : Nat) : Row :=
  BitVec.ofNat 4096 ((List.range 64).foldl (fun a j => a + (Config.freeWord (s.misc.fresh + 64 * k + j)).toNat * 2 ^ (64 * j)) 0)

/-- The destination rows of a chain. -/
def destRows (n : LnId) (ps : List PassDesc) : List Nat :=
  let d := match ps with | p :: _ => p.destRow | [] => 0
  (List.range (4 * ps.foldl (fun a p => max a p.n) 0)).map fun k => psumRow n.1 (d + k)

/-- The descriptors of a CHAIN instance with their indices (R193). -/
def JobImage.chainPasses (im : JobImage) (first k : Nat) : List (Nat × PassDesc) :=
  (List.range k).filterMap fun j => (im.passes[first + j]?).map fun p => (first + j, p)

def allSectors : List Nat := List.range 16

/-- A write of the selected sectors with its tag and poison (R160, R166, R168). -/
def MemBlk.writeRow (m : MemBlk) (row : Nat) (mask : BitVec 16) (data : Row) (tag : Byte) (poison : Bool) : MemBlk :=
  let b := rowBytes data
  let m := allSectors.foldl (fun m i => if mask.getLsbD i then (m.write (row + 32 * i) (slice b (32 * i) 32)).setEcc (row + 32 * i) 0 else m) m
  let m := { m.setTag row tag with sbEcc := Sparse.set 0 m.sbEcc row 0 }
  if mask = 0xFFFF then m.setPoison row poison else if poison then m.setPoison row true else m
def State.writeRow (s : State) (row : Nat) (mask : BitVec 16) (data : Row) (tag : Byte) (poison : Bool) : State :=
  s.setMem (s.mem.writeRow row mask data tag poison)

/-- A chain that a warm reset abandons: every destination row is poisoned; what it then holds is free (log 89). -/
def State.abandonChain (s : State) (n : LnId) : State :=
  match s.lan[n].arrInst, s.job.image with
  | some i, some im =>
    match s.entryOf i with
    | some e =>
      if e.kind = 1 ∧ s.time.ftb < s.lFtb (n.1 / 9) s.lan[n].drainEnd then
        let rows := destRows n ((im.chainPasses (e.arg i.inst) e.arg1).map (·.2))
        let n := 64 * rows.length
        ((List.zip (List.range rows.length) rows).foldl
          (fun (t : State) r => t.writeRow r.2 0xFFFF (s.freeRow r.1) (s.fresh n).freeTag true) s).fresh (n + 1)
      else s
    | none => s
  | _, _ => s

/-- Chains under way at a warm reset. -/
def State.abandonChains (s : State) : State := (List.finRange 36).foldl State.abandonChain s

end Sys2Proof.Machine
end

