-- ==== Sys2Proof/Machine/Fabric.lean ====
section
/-! DEFINITION. Row memories, HBM blocks and Wick memories with their correction, tags and poison (spec/06, spec/08 R230–R232,
spec/10 R321, spec/12 R351–R362), map-store banks (R165), crossings (R38–R40) and space credits (R170–R174). -/
namespace Sys2Proof.Machine

/-! ## Targeted tests (R462) -/

/-- Items of the rotation of one kind, as library indices (R460): FLAGS[0]. -/
def RelBlk.rotation (r : RelBlk) (wick : Bool) : List Nat :=
  (List.range r.items.length).filter fun i =>
    match r.items[i]? with
    | some it => bit it.flags 0 && (if wick then it.kind == 2 else it.kind != 2)
    | none => false

/-- The targeted set (R462): up to 16 items for the located row or column, or the first 16 rotation items. -/
def RelBlk.targetSet (r : RelBlk) (wick : Bool) (line : Option (Bool × Nat)) : List Nat :=
  match wick, line with
  | false, some (row, l) =>
    ((List.range r.items.length).filter fun i =>
      match r.items[i]? with
      | some it => it.kind != 2 && it.lineK == (if row then 1 else 2) && it.line == l
      | none => false).take 16
  | _, _ => (r.rotation wick).take 16

def TestSt.target (t : TestSt) (items : List Nat) : TestSt := { t with targeted := items, tgtFailed := none, tgtRun := 0, clean := 0 }

/-- An error of a Lantern starts its targeted test; a fenced unit runs the full sweep in its place. -/
def State.targetLn (s : State) (n : LnId) (line : Option (Bool × Nat)) : State :=
  if s.rel.ln[n].st == .fenced then s
  else s.setLan n fun l => { l with tst := l.tst.target (s.rel.targetSet false line) }

def State.targetWk (s : State) (w : WkId) : State :=
  if s.rel.wk[w].st == .fenced then s
  else s.setWick w fun k => { k with tst := k.tst.target (s.rel.targetSet true none) }

/-- The targeted test of the unit that owns a memory, if a unit owns it. -/
def State.targetOwner (s : State) (a : Nat) : State :=
  match place a with
  | .lan n _ => match toFin? 36 n with | some n => s.targetLn n none | none => s
  | .local_ w _ | .taperX w _ | .taperY w _ | .vec w _ => match toFin? 52 w with | some w => s.targetWk w | none => s
  | _ => s

/-! ## Row memories -/

/-- Memory number m of a row memory (R176). -/
def memNo (a : Nat) : Option Nat :=
  match place a with
  | .lan n o => some (3 * n + (if o < 0x00400000 then 0 else if o < 0x00C00000 then 1 else 2))
  | .vec w _ => some (108 + w)
  | .map _ => some 160
  | _ => none

/-- Row within its memory. -/
def rowNo (a : Nat) : Nat :=
  match place a with
  | .lan _ o => (if o < 0x00400000 then o else if o < 0x00C00000 then o - 0x00400000 else o - 0x00C00000) / 512
  | .vec _ o => o / 512
  | .map o => o / 512
  | _ => 0

/-- UNIT of an event of a memory (R177, R428). -/
def memUnit (a : Nat) : Nat × Nat :=
  match place a with
  | .lan n _ => (1, n)
  | .local_ w _ | .taperX w _ | .taperY w _ | .vec w _ => (2, w)
  | _ => (9, 0)

def State.updCtr (s : State) (m : Nat) (f : MemCtr → MemCtr) : State := s.setFab { s.fab with ctr := updNat s.fab.ctr m f }

/-- A row as an access returns it. -/
structure RowData where
  data   : Row
  tag    : Byte
  poison : Bool
deriving DecidableEq, Repr

/-- An access to chosen sectors of a row passes through the correction (R166–R167): counts, the poison and the sideband that an
uncorrectable error leaves, events, and the targeted test of the owner. -/
def State.checkRow (s : State) (row : Nat) (secs : List Nat) : State :=
  let m := (memNo row).getD 0
  let e (i : Nat) : Byte := s.mem.eccAt (row + 32 * i)
  let sb := Sparse.get 0 s.mem.sbEcc row
  let ce := (secs.filter fun i => e i == 1).length + (if sb = 1 then 1 else 0)
  let s := if ce = 0 then s else s.updCtr m fun c => { c with ce := satAdd c.ce ce }
  let u := memUnit row
  let s := match secs.find? fun i => e i == 2 with
    | none => s
    | some i =>
      (((s.setMem (s.mem.setPoison row true)).updCtr m fun c =>
        { c with ue := satInc c.ue, ueRow := BitVec.ofNat 32 (0x80000000 + i * 0x100000 + rowNo row) }).logEv
        0x0401 u.1 u.2 [(1, m), (4, rowNo row), (1, i)]).targetOwner row
  if sb = 2 then
    ((({ s with mem := ({ (s.mem.setPoison row true) with sbEcc := Sparse.set 0 s.mem.sbEcc row 0 } : MemBlk).setTag row 0 } : State).updCtr m
      fun c => { c with ue := satInc c.ue, ueRow := BitVec.ofNat 32 (0xC0000000 + rowNo row) }).logEv
      0x0402 u.1 u.2 [(1, m), (4, rowNo row)]).targetOwner row
  else s

/-- A read of a whole row with its tag and poison bit (R160, R166–R167). -/
def State.readRow (s : State) (row : Nat) : State × RowData :=
  let t := s.checkRow row allSectors
  (t, ⟨rowOf (t.mem.bytes row 512), t.mem.tag row, t.mem.poisoned row⟩)

/-! ## HBM blocks (R351, R360–R362) -/

/-- The codewords read of an HBM block pass through the correction (R360–R362); the Bool is the poison of the read. -/
def State.checkBlock (s : State) (blk port : Nat) (cws : List Nat) : State × Bool :=
  match place blk with
  | .hbm st off =>
    let e := cws.map fun i => s.mem.eccAt (blk + 64 * i)
    let ce := (e.filter (· == 1)).length
    let bad := e.any (· == 2)
    let s := { s with hbm := updNat s.hbm st fun h => { h with ceCount := satAdd h.ceCount ce } }
    let s := if bad then
        ({ s with hbm := updNat s.hbm st fun h => { h with ueCount := satInc h.ueCount, ueValid := true, ueAddr := blk } } : State).logEv
          0x0701 4 st [(1, hbmPc off), (8, blk), (1, port)]
      else s
    (s, bad || s.mem.poisoned blk)
  | _ => (s, false)

/-- A read of a whole block: correction, and poison from an uncorrectable codeword or a stored marker (R360, R362). -/
def State.readBlock (s : State) (a port : Nat) : State × RowData :=
  let (t, p) := s.checkBlock a port (List.range 8)
  (t, ⟨rowOf (t.mem.bytes a 512), 0, p⟩)

/-- A write of a whole block: its poison marker is stored or cleared (R361). -/
def MemBlk.writeBlock (m : MemBlk) (a : Nat) (data : Row) (poison : Bool) : MemBlk :=
  let m := (m.write a (rowBytes data)).setPoison a poison
  (List.range 8).foldl (fun m i => m.setEcc (a + 64 * i) 0) m

/-- A write of some bytes of a block: the marker is set by poison and cleared only for blocks written whole (R361). -/
def MemBlk.writePart (m : MemBlk) (a : Nat) (l : List Byte) (poison : Bool) : MemBlk :=
  if a % 512 = 0 ∧ l.length = 512 then m.writeBlock a (rowOf l) poison
  else
    let m := m.write a l
    let m := if poison then m.setPoison (rowBase a) true else m
    (List.range 8).foldl (fun m i =>
      let c := rowBase a + 64 * i
      if a ≤ c ∧ c + 64 ≤ a + l.length then m.setEcc c 0 else m) m

/-! ## Records and images in open HBM or host memory -/

/-- Bytes stored by firmware, a mailbox or a ring into open HBM or host memory. In HBM every codeword and block written whole has fresh
check bits and no marker (R361). -/
def MemBlk.storeOuter (m : MemBlk) (a : Nat) (l : List Byte) : MemBlk :=
  match place a with
  | .hbm _ _ =>
    let hi := a + l.length
    { (m.write a l) with
      ecc := Sparse.clear m.ecc ((a + 63) / 64 * 64) (max ((a + 63) / 64 * 64) (hi / 64 * 64))
      poison := Sparse.clear m.poison ((a + 511) / 512 * 512) (max ((a + 511) / 512 * 512) (hi / 512 * 512)) }
  | _ => m.write a l

def State.outerWrite (s : State) (a : Nat) (l : List Byte) : State := s.setMem (s.mem.storeOuter a l)

/-- Blocks of open HBM that hold a stored error in bytes a to a + n − 1, with the codewords read of each. -/
def MemBlk.erredBlocks (m : MemBlk) (a n : Nat) : List (Nat × List Nat) :=
  (((m.ecc.filter fun c => decide (a < c.1 + 64 ∧ c.1 < a + n)).map fun c => rowBase c.1).dedup).map fun b =>
    (b, (List.range 8).filter fun i => decide (a < b + 64 * i + 64 ∧ b + 64 * i < a + n))

/-- A fabric port reads bytes a to a + n − 1: those in HBM pass through the correction (R360, R362). -/
def State.seeHbm (s : State) (port a n : Nat) : State :=
  match place a with
  | .hbm _ _ => (s.mem.erredBlocks a n).foldl (fun (s : State) b => (s.checkBlock b.1 port b.2).1) s
  | _ => s

/-- Bytes that firmware or a ring reads from open HBM or host memory; a Saddler pair reads (R364). -/
def State.outerRead (s : State) (a n : Nat) : State × List Byte :=
  let t := s.seeHbm 0x82 a n
  (t, t.mem.bytes a n)

/-! ## Wick memories: epoch remap (R231), local lines (R232), Taper elements (R321) -/

/-- The address that an access to a copy of an epoch block reaches: FG and SHADOW exchanged while the block's copies are
exchanged. `code` is the offset as FG encodes it: bit 31 for the vector scratchpad (R201, R231). -/
def State.remap (s : State) (w : WkId) (code : Nat) : Nat :=
  match s.job.image with
  | none => code
  | some im =>
    let mine (b : EpochBlk) : Bool := b.kind != 2 && (b.unit == 0xFF || some b.unit == s.rel.wk[w].logic) && s.wick[w].swapped.contains b.id
    match im.blocks.find? fun b => mine b && decide (b.fg ≤ code ∧ code < b.fg + b.size) with
    | some b => b.shadow + (code - b.fg)
    | none =>
      match im.blocks.find? fun b => mine b && decide (b.shadow ≤ code ∧ code < b.shadow + b.size) with
      | some b => b.fg + (code - b.shadow)
      | none => code

/-- Device address of a local-memory byte of a Wick, through the remap. -/
def State.localAddr (s : State) (w : WkId) (off : Nat) : Nat :=
  let c := s.remap w off
  if 0x80000000 ≤ c then wickBase w.1 + 0x00200000 + (c - 0x80000000) else wickBase w.1 + c

/-- Device address of a vector-scratchpad byte of a Wick, through the remap. -/
def State.vecAddr (s : State) (w : WkId) (off : Nat) : Nat :=
  let c := s.remap w (0x80000000 + off)
  if 0x80000000 ≤ c then wickBase w.1 + 0x00200000 + (c - 0x80000000) else wickBase w.1 + c

def State.localBytes (s : State) (w : WkId) (off n : Nat) : List Byte :=
  (List.range n).map fun i => s.mem.byte (s.localAddr w (off + i))

def State.localWrite (s : State) (w : WkId) (off : Nat) (l : List Byte) : State :=
  s.setMem ((List.zip (List.range l.length) l).foldl (fun m p => m.write (s.localAddr w (off + p.1)) [p.2]) s.mem)

/-- The 16-byte line of local memory that holds an offset passes through the correction (R232). Access: 0 load, 1 fetch,
2 fabric read, 3 drain (R252). The Bool says that the line is uncorrectable. -/
def State.checkLine (s : State) (w : WkId) (off access : Nat) : State × Bool :=
  let line := off / 16 * 16
  let e := s.mem.eccAt (s.localAddr w line)
  if e = 1 then (s.setWick w fun k => { k with lmCe := satInc k.lmCe }, false)
  else if e = 2 then
    (((s.setWick w fun k => { k with lmUe := satInc k.lmUe }).logEv 0x0503 2 w.1 [(4, line), (1, access)]).targetWk w, true)
  else (s, false)

/-- An element of Taper X (`y` false) or Y passes through the correction (R321). Reader: 0 TMAC, 1 loader, 2 fabric. -/
def State.checkElem (s : State) (w : WkId) (y : Bool) (elem reader : Nat) : State × Bool :=
  let a := wickBase w.1 + (if y then 0x00060000 else 0x00040000) + 2 * elem
  let e := s.mem.eccAt a
  if e = 1 then (s.setWick w fun k => { k with taper := { k.taper with ceCount := satInc k.taper.ceCount } }, false)
  else if e = 2 then
    (((s.setWick w fun k => { k with taper := { k.taper with ueCount := satInc k.taper.ueCount } }).logEv
      0x0506 2 w.1 [(1, if y then 1 else 0), (2, elem), (1, reader)]).targetWk w, true)
  else (s, false)

/-- A vector-scratchpad row as vector instructions, the line loader and the fabric reach it: each 32-byte sector through the
remap. The tag is that of the row that holds sector 0, and poison of any row touched counts (DEDUCED, log 22). -/
def State.readVecRow (s : State) (w : WkId) (r : Nat) : State × RowData :=
  let addrs := allSectors.map fun i => s.vecAddr w (512 * r + 32 * i)
  let rows := (addrs.map rowBase).dedup
  let t := rows.foldl (fun t row => t.checkRow row ((allSectors.filter fun i => rowBase (addrs.getD i 0) == row).map fun i =>
    (addrs.getD i 0 - row) / 32)) s
  (t, ⟨rowOf (addrs.flatMap fun a => t.mem.bytes a 32), t.mem.tag (rowBase (addrs.getD 0 0)), rows.any t.mem.poisoned⟩)

/-- A write of the selected sectors of a vector-scratchpad row, each through the remap: one row write for each row that they reach, so
that one that covers a whole row sets its poison bit (R168); with no sector selected, every row behind the sixteen. -/
def State.writeVecRow (s : State) (w : WkId) (r : Nat) (mask : BitVec 16) (data : Row) (tag : Byte) (poison : Bool) : State :=
  let addrs := allSectors.map fun i => s.vecAddr w (512 * r + 32 * i)
  if addrs = allSectors.map (fun i => vecRow w.1 r + 32 * i) then s.writeRow (vecRow w.1 r) mask data tag poison
  else
    (addrs.map rowBase).dedup.foldl (fun s row =>
      let at_ (k : Nat) : Option Nat := allSectors.find? fun i => mask.getLsbD i && addrs.getD i 0 == row + 32 * k
      let m : BitVec 16 := allSectors.foldl (fun m k => if (at_ k).isSome then m ||| BitVec.ofNat 16 (2 ^ k) else m) 0
      if m = 0 ∧ mask ≠ 0 then s
      else s.writeRow row m (rowOf (allSectors.flatMap fun k => (at_ k).elim (List.replicate 32 0) fun i => slice (rowBytes data) (32 * i) 32)) tag poison) s

/-! ## Regions and credits (R170–R174) -/

/-- Physical base address of row 0 of the memory of a region (R158, R188). -/
def State.regionBase (s : State) (g : Region) : Option Nat :=
  match g.mem with
  | 0 => (s.rel.lnPhys g.unit).map fun n => weightRow n.1 0
  | 1 => (s.rel.lnPhys g.unit).map fun n => actRow n.1 0
  | 2 => (s.rel.lnPhys g.unit).map fun n => psumRow n.1 0
  | 3 => (s.rel.wkPhys g.unit).map fun w => vecRow w.1 0
  | _ => some mapBase

def State.regionList (s : State) : List Region :=
  match s.job.image with
  | some im => im.regions
  | none => []

def Region.granule (g : Region) : Nat := 2 ^ g.gLog2
def Region.granules (g : Region) : Nat := g.rows / g.granule

/-- The region that holds a row address: its index. -/
def State.regionAt (s : State) (a : Nat) : Option Nat :=
  (List.range s.regionList.length).find? fun i =>
    match s.regionList[i]? with
    | some g =>
      match s.regionBase g with
      | some b => decide (b + 512 * g.firstRow ≤ a ∧ a < b + 512 * (g.firstRow + g.rows))
      | none => false
    | none => false

/-- The agent of a fabric write as WRITER_KIND and WRITER name it (R165, R188). -/
def State.writerOf (s : State) (port : Nat) (chan : Option (Fin 32)) : Option (Nat × Nat) :=
  if port < 36 then (toFin? 36 port).bind fun n => (s.rel.ln[n].logic).map fun l => (1, l)
  else if 88 ≤ port ∧ port < 92 then chan.map fun c => (0, 32 * (port - 88) + c.1)
  else if 92 ≤ port ∧ port < 96 then some (2, port - 92)
  else if port = 100 then some (3, 0)
  else none

/-- Channel 31 does the firmware's own work and needs no region (R174, R327). -/
def firmwareWrite (wr : RowWrite) : Bool := decide (88 ≤ wr.port ∧ wr.port < 92) && wr.chan == some 31

/-- The write lies in a region of its writer (R174). -/
def State.mayWrite (s : State) (wr : RowWrite) : Bool :=
  match s.regionAt wr.addr with
  | none => false
  | some i =>
    match s.regionList[i]?, s.writerOf wr.port wr.chan with
    | some g, some k => (g.writerKind, if g.writerKind = 3 then 0 else g.writer) == k
    | _, _ => false

/-- Granule of a region that holds a row address. -/
def State.granuleOf (s : State) (i a : Nat) : Nat :=
  match s.regionList[i]? with
  | some g => ((a - (s.regionBase g).getD 0) / 512 - g.firstRow) / g.granule
  | none => 0

/-- Credits that a write needs beyond the writer's window (R171). -/
def RegionSt.need (r : RegionSt) (n gran : Nat) : Nat := (gran + n - r.start % n) % n + 1 - r.len

/-- Take credits, as many as are held up to the need; the window grows by each (R171). -/
def RegionSt.take (r : RegionSt) (k : Nat) : RegionSt :=
  let t := min k r.credits
  { r with credits := r.credits - t, len := r.len + t }

def FabBlk.updRegion (f : FabBlk) (i : Nat) (g : RegionSt → RegionSt) : FabBlk :=
  { f with regions := (List.range f.regions.length).map fun j =>
      let r := f.regions.getD j ⟨0, 0, 0, 0⟩
      if j = i then g r else r }

/-- The oldest granule of the window released: one credit returns to the writer (R172). -/
def RegionSt.release (r : RegionSt) (n : Nat) : RegionSt :=
  if r.len = 0 then r
  else { start := (r.start + 1) % n, len := r.len - 1, credits := min n (r.credits + 1), relPos := (r.start + 1) % n }

/-- The row-completion counter of a region's buffer (R155, R248). -/
def FabBlk.rowCount (f : FabBlk) (region buf : Nat) : Nat :=
  match f.rowsDone.find? fun r => r.1 == region && r.2.1 == buf with
  | some r => r.2.2
  | none => 0

/-- A pair of key and number put into its place in an ascending list without repeats. -/
def insertPair (x : Nat × Nat) : List (Nat × Nat) → List (Nat × Nat)
  | [] => [x]
  | y :: t => if x = y then y :: t else if x.1 < y.1 ∨ (x.1 = y.1 ∧ x.2 < y.2) then x :: y :: t else y :: insertPair x t

/-- Granules that enter a writer's window: a whole-map buffer's counter is 0 at its first write (R155). -/
def FabBlk.rowsFresh (f : FabBlk) (region from_ k n size : Nat) : FabBlk :=
  let gone (buf : Nat) : Bool := decide ((buf + n - from_ % n) % n < k)
  { f with
    rowsDone := f.rowsDone.filter fun r => !(r.1 == region && gone r.2.1)
    rowHits := f.rowHits.filter fun r => !(r.1 == region && gone (r.2 / size)) }

/-- A row of a whole-map buffer, a map-store region of two granules (R175), is written, and the counter of the buffer is raised to the
image rows that the rows written so far hold whole. No rule fixes which rows of a buffer hold an image row: Config.imageRows (R155;
log 37). -/
def State.countRow (s : State) (a : Nat) : State :=
  match s.regionAt a with
  | none => s
  | some i =>
    match s.regionList[i]? with
    | none => s
    | some g =>
      if g.mem ≠ 4 ∨ g.granules ≠ 2 ∨ s.job.state ≠ .armed then s
      else
        let r := (a - (s.regionBase g).getD 0) / 512 - g.firstRow
        let buf := r / g.granule
        let hits := insertPair (i, r) s.fab.rowHits
        let mine := (hits.filter fun x => x.1 == i && x.2 / g.granule == buf).map fun x => x.2 % g.granule
        let c := max (s.fab.rowCount i buf) (Config.imageRows i buf mine)
        s.setFab { s.fab with
          rowHits := hits
          rowsDone := (s.fab.rowsDone.filter fun x => !(x.1 == i && x.2.1 == buf)) ++ [(i, buf, c)] }

/-- Quadrant of the island that owns a memory, a Lantern's or a Wick's. -/
def quadOf (a : Nat) : Option Nat :=
  match place a with
  | .lan n _ => some (n / 9)
  | .vec w _ | .local_ w _ | .taperX w _ | .taperY w _ => some (w / 13)
  | _ => none

/-- Cycles of a memory's clock in an FTB interval (R37, R176). -/
def State.memCycles (s : State) (a ticks : Nat) : Nat := ticks * (match quadOf a with | some q => s.perTick q | none => 13) / 10

/-- MEM_CREDIT_WAIT_COUNT of the memory of a write that waits, for the ticks since an FTB count (R173). -/
def State.countWait (s : State) (a from_ : Nat) : State :=
  s.updCtr ((memNo a).getD 0) fun k => { k with credit := satAdd k.credit (s.memCycles a (s.time.ftb - from_)) }

/-- The epoch tick in whose interval a row read now leaves its memory, 6 cycles of the owner's clock after the request (R157). -/
def State.readTick (s : State) (a : Nat) : Nat :=
  match quadOf a with
  | some q => (s.time.ftb * s.perTick q + 60) / (10 * s.perTick q)
  | none => s.time.ftb / 10

/-- The first M-cycle that begins in an FTB tick or after it, 13 to an epoch tick (R37; log 23). -/
def mCycle (ftb : Nat) : Nat := (ftb * 13 + 9) / 10

/-- The M-cycle in which a request of a fabric port reaches the map store: a DMA engine's own (R336), the 4th after the next epoch tick
through a Lantern's or Wick's crossing (R38), else the first of the FTB tick. -/
def State.askCycle (s : State) (port : Nat) : Nat :=
  if port < 88 then 13 * (s.time.ftb / 10 + 1) + 4
  else
    match toFin? 4 (port - 88) with
    | some e => max s.dma[e].mcyc (mCycle s.time.ftb)
    | none => mCycle s.time.ftb

/-- A write reaches its memory: a map-store write waits for its bank (R165), a Wick row goes through the remap, any other row is
written (R168). -/
def State.acceptWrite (s : State) (wr : RowWrite) : State :=
  match place wr.addr with
  | .map o => s.setFab { s.fab with banks := updNat s.fab.banks (o / 512 % 64) fun q =>
      q ++ [⟨wr.port, wr.chan, wr.addr, some wr, s.askCycle wr.port⟩] }
  | .vec w o => match toFin? 52 w with
    | some w => s.writeVecRow w (o / 512) wr.mask wr.data wr.tag wr.poison
    | none => s
  | .lan _ _ => s.writeRow wr.addr wr.mask wr.data wr.tag wr.poison
  | _ => s

/-- Collision with the engine in the same cycle: held and counted (R163); otherwise accepted. -/
def State.presentWrite (s : State) (wr : RowWrite) (eng : EngineUse) : State :=
  match eng with
  | .none => s.acceptWrite wr
  | _ => (s.setFab { s.fab with held := s.fab.held ++ [wr] }).updCtr ((memNo wr.addr).getD 0) fun c => { c with collision := satInc c.collision }

/-- Another write of the same writer already waits for a credit, so a later one waits behind it (R171). -/
def State.writerWaits (s : State) (wr : RowWrite) : Bool := s.fab.waits.any fun c => c.write.port == wr.port && c.write.chan == wr.chan

/-- The wait for a region that may end first: the oldest for it that is its writer's oldest (R171). -/
def FabBlk.nextWait (f : FabBlk) (region : Nat) : Option CreditWait :=
  f.waits.find? fun c => c.region == region && (f.waits.find? fun d => d.write.port == c.write.port && d.write.chan == c.write.chan) == some c

/-- The credits that a write into a region needs: taken where held. The Bool says that the write may proceed (R171, R436). -/
def State.takeCredits (s : State) (i : Nat) (wr : RowWrite) : State × Bool :=
  match s.regionList[i]?, s.fab.regions[i]? with
  | some g, some r =>
    let k := r.need g.granules (s.granuleOf i wr.addr)
    let f := s.fab.rowsFresh i (r.start + r.len) (min k r.credits) g.granules g.granule
    (s.setFab (f.updRegion i fun r => r.take k), decide (k ≤ r.credits))
  | _, _ => (s, true)

/-- The result of a fabric write: accepted or waiting, or refused with an error response (R174). -/
def State.fabricWrite (s : State) (wr : RowWrite) (eng : EngineUse) : State × Bool :=
  match memNo wr.addr with
  | none => (s, false)
  | some m =>
    if s.job.state != .armed || firmwareWrite wr then (s.presentWrite wr eng, true)
    else if !s.mayWrite wr then
      let u := memUnit wr.addr
      (s.logEv 0x0404 u.1 u.2 [(1, m), (8, wr.addr), (1, wr.port)], false)
    else if s.job.stopping then (s.presentWrite wr eng, true)
    else
      let i := (s.regionAt wr.addr).getD 0
      let wait (s : State) : State := s.setFab { s.fab with waits := s.fab.waits ++ [⟨i, wr, s.time.ftb, false, s.time.ftb⟩] }
      if s.writerWaits wr then (wait s, true)
      else
        match s.takeCredits i wr with
        | (t, true) => (t.presentWrite wr eng, true)
        | (t, false) => (wait t, true)

/-- Bytes that a Wick thread holds in its instruction buffer and has on their way (R229). -/
def Thread.ahead (th : Thread) : Nat := th.buf.length + (th.coming.flatMap (·.2)).length

/-- The fetch point: the address after those bytes. -/
def Thread.fetchAt (th : Thread) : Nat := th.pc.toNat + th.ahead

/-- A thread that a refill may serve: not halted or faulted (DEDUCED, log 30), with 16 free bytes and a fetch point within local
memory. -/
def Thread.wantsLine (th : Thread) : Bool :=
  (th.run == .running || th.run == .waiting) && decide (th.ahead + 16 ≤ 32) && decide (th.fetchAt < 0x40000)

/-- The W-cycle of the local-memory port's next free access (R228). -/
def Wick.portFree (k : Wick) : Nat := max k.port k.wcyc

/-- The local-memory port has work that comes before a fabric access: the store-buffer drain and the refill (R228, R230). -/
def Wick.portBusy (k : Wick) : Bool := !k.sb.isEmpty || k.threads.toList.any Thread.wantsLine

/-- Epoch blocks of which a Wick holds copies. -/
def State.blocksOf (s : State) (w : WkId) : List EpochBlk :=
  match s.job.image with
  | none => []
  | some im => im.blocks.filter fun b => b.kind != 2 && (b.unit == 0xFF || some b.unit == s.rel.wk[w].logic)

/-- n bytes lie within the shadow copy of an epoch block of the Wick (R230): the offset as FG encodes it. -/
def State.inShadow (s : State) (w : WkId) (off n : Nat) : Bool :=
  (s.blocksOf w).any fun b => decide (b.shadow ≤ off ∧ off + n ≤ b.shadow + b.size)

/-- From C_n to A_n the shadow copy of a block being committed is write-locked (R48): n bytes meet such a copy. -/
def State.locked (s : State) (w : WkId) (off n : Nat) : Bool :=
  (s.blocksOf w).any fun b => s.job.commits.any (fun c => c.1 == b.id) && decide (b.shadow < off + n ∧ off < b.shadow + b.size)

/-- A fabric access of n bytes at a device address waits at its source: for the local-memory port (R228, R230), for the port of Taper X
while the line loader writes (R320), or for a write-locked shadow copy (R48). -/
def State.portWaits (s : State) (a n : Nat) (write : Bool) : Bool :=
  match place a with
  | .local_ w o => (match toFin? 52 w with | some w => s.wick[w].portBusy || (write && s.locked w o n) | none => false)
  | .taperX w _ => (match toFin? 52 w with | some w => write && s.wick[w].taper.loader.isSome | none => false)
  | .vec w o => (match toFin? 52 w with | some w => write && s.locked w (0x80000000 + o) n | none => false)
  | _ => false

/-- A fabric access to a unit under a move waits at its source until the move ends (R212; log 8). -/
def State.moving (s : State) (a : Nat) : Bool :=
  let u : Option UnitId := match place a with
    | .lan n _ => (toFin? 36 n).map .lantern
    | .local_ w _ | .taperX w _ | .taperY w _ | .vec w _ => (toFin? 52 w).map .wick
    | _ => none
  u.isSome && s.job.moves.any fun m => m.endM != 0 && (some m.left == u || some m.spare == u)

/-- The device address that a logical address of an image names (R20, R158); none where no unit serves it. -/
def State.imageAddr (s : State) (a : Nat) : Option Nat :=
  match place a with
  | .lan l o => (s.rel.lnPhys l).map fun n => lanBase n.1 + o
  | .local_ w _ | .taperX w _ | .taperY w _ | .vec w _ => (s.rel.wkPhys w).map fun k => wickBase k.1 + (a - wickBase w)
  | .none => none
  | _ => some a

/-- Address of beat i of a side of a descriptor (R329, R331): the beat within its line, and the line. -/
def beatAddr (base : Nat) (bStride lStride : Int) (beats i : Nat) : Int :=
  base + bStride * (i % (beats + 1)) + lStride * (i / (beats + 1))
def DmaDesc.srcAt (d : DmaDesc) (i : Nat) : Int := beatAddr d.src d.srcBStride d.srcLStride d.srcBeats i
def DmaDesc.dstAt (d : DmaDesc) (i : Nat) : Int := beatAddr d.dst d.dstBStride d.dstLStride d.dstBeats i
def DmaDesc.srcTotal (d : DmaDesc) : Nat := (d.srcBeats + 1) * (d.srcLines + 1)
def DmaDesc.dstTotal (d : DmaDesc) : Nat := (d.dstBeats + 1) * (d.dstLines + 1)

/-- Device addresses of the read request and of the destination beat that come next for a channel. -/
def State.nextRead (s : State) (c : Chan) : Option Nat :=
  match c.blocks.find? fun b => b.again with
  | some b => some b.addr
  | none => if c.asked < c.cur.srcTotal then s.imageAddr (c.cur.srcAt c.asked).toNat else none

def State.nextWrite (s : State) (c : Chan) : Option Nat :=
  if c.dstDone < c.cur.dstTotal then s.imageAddr (c.cur.dstAt c.dstDone).toNat else none

/-- An access that the channel would make next is addressed to a unit under a move (R212). -/
def State.chanMoves (s : State) (c : Chan) : Bool := (s.nextRead c).any s.moving || (s.nextWrite c).any s.moving

/-- An access that the channel would make next waits at its source for a port or a lock (R48, R230, R320). -/
def State.chanPorts (s : State) (c : Chan) : Bool :=
  ((s.nextRead c).any fun a => s.portWaits a 1 false) || (s.nextWrite c).any fun a => s.portWaits a c.cur.dstW true

def Chan.paced (c : Chan) : Bool := bit c.cur.ctrl 1

/-- The pacing accumulator after a number of M-cycles (R339). -/
def Chan.paceAfter (c : Chan) (cycles : Nat) : Nat := min 256 (c.pace + cycles * (c.cur.share + 1))

/-- Rows that an ingress engine writes carry tag 0x00 (R124). -/
def ingressTag (wr : RowWrite) : RowWrite := if 92 ≤ wr.port ∧ wr.port < 96 then { wr with tag := 0 } else wr

/-- R48, R124, R159–R174, R212: FABRIC_ROW_WRITE. A write that waits at its source does nothing yet. -/
def execFabricRowWrite (wr : RowWrite) (eng : EngineUse) (s : State) : Host.Outcome State Fault Refusal :=
  .next (if s.moving wr.addr || s.portWaits wr.addr 512 true then s
    else
      let r := s.fabricWrite (ingressTag wr) eng
      if r.2 then r.1 else r.1.emit (.fabricError wr.port wr.addr))

/-! ## Crossings (R38–R40) -/

/-- The island of an address, as R548 numbers the ends of a crossing: a fabric port, or 0x7F. -/
def islandOf (a : Nat) : Nat :=
  match place a with
  | .lan n _ => n
  | .local_ w _ | .taperX w _ | .taperY w _ | .vec w _ => 36 + w
  | _ => 0x7F

/-- An item enters a crossing in the interval of its epoch tick, behind those that entered before it (R38). -/
def FabBlk.put (f : FabBlk) (src dst : Nat) (it : XItem) : FabBlk :=
  if f.cross.any fun c => c.src == src && c.dst == dst then
    { f with cross := f.cross.map fun c => if c.src == src && c.dst == dst then
        { c with items := (c.items.takeWhile fun x => decide (x.tick ≤ it.tick)) ++ it :: c.items.dropWhile fun x => decide (x.tick ≤ it.tick) } else c }
  else { f with cross := f.cross ++ [⟨src, dst, [it], []⟩] }

def State.cross (s : State) (src dst tick : Nat) (chan : Option (Fin 32)) (a : Nat) (d : RowData) : State :=
  s.setFab (s.fab.put src dst ⟨tick, chan, a, d.data, d.tag, d.poison, 0, false⟩)

/-- R157, R160, R166: FABRIC_ROW_READ. A map-store read waits for its bank; any other row enters the requester's crossing in the interval
of the epoch tick given. -/
def State.fabricRead (s : State) (port : Nat) (chan : Option (Fin 32)) (a tick : Nat) : State :=
  match place a with
  | .map o => s.setFab { s.fab with banks := updNat s.fab.banks (o / 512 % 64) fun q => q ++ [⟨port, chan, a, none, s.askCycle port⟩] }
  | .lan _ _ =>
    let (t, d) := s.readRow a
    t.cross (islandOf a) port tick chan a d
  | .vec w o =>
    match toFin? 52 w with
    | some k =>
      let (t, d) := s.readVecRow k (o / 512)
      t.cross (islandOf a) port tick chan a d
    | none => s
  | _ => s

def execFabricRowRead (port addr : Nat) (s : State) : Host.Outcome State Fault Refusal :=
  .next (if s.moving addr then s else s.fabricRead port none (rowBase addr) (s.readTick addr))

def State.setChan (s : State) (e : Fin 4) (c : Fin 32) (f : Chan → Chan) : State := s.setEng e fun g => { g with ch := upd g.ch c f }

/-- The DMA channel that makes a write. -/
def dmaChan (wr : RowWrite) : Option (Fin 4 × Fin 32) :=
  if wr.port < 88 then none else (toFin? 4 (wr.port - 88)).bind fun e => wr.chan.map fun c => (e, c)

/-- The held write of a DMA channel has been accepted: its collision wait ends (R342). -/
def State.endCollision (s : State) (wr : RowWrite) : State :=
  match dmaChan wr with
  | some (e, c) => s.setChan e c fun x => if x.wait = .collision then { x with wait := .none } else x
  | none => s

/-- Acceptance of a channel's write in M-cycle t (R332). -/
def State.acceptedAt (s : State) (wr : RowWrite) (t : Nat) : State :=
  match dmaChan wr with
  | some (e, c) => s.setChan e c fun x => { x with accAt := max t x.accAt }
  | none => s

/-- R163: the held write of a row is presented again. -/
def heldRetryEffect (addr : Nat) (engineRead : Bool) (s : State) : State :=
  match s.fab.held.find? fun w => w.addr == addr && !s.moving w.addr with
  | none => s
  | some w =>
    if engineRead then s.updCtr ((memNo w.addr).getD 0) fun c => { c with collision := satInc c.collision }
    else (((s.setFab { s.fab with held := s.fab.held.erase w }).acceptWrite w).endCollision w).acceptedAt w (mCycle s.time.ftb)

def execHeldWriteRetry (addr : Nat) (engineRead : Bool) (s : State) : Host.Outcome State Fault Refusal :=
  .next (heldRetryEffect addr engineRead s)

/-- The request that a bank grants in M-cycle t: of those made by then, the smallest (j − t) mod 128 (R165). -/
def bankPick (q : List BankReq) (t : Nat) : Option BankReq :=
  (q.filter fun r => decide (r.mcyc ≤ t)).foldl (fun best r =>
    let d (x : BankReq) : Nat := (x.port + 128 - t % 128) % 128
    match best with
    | none => some r
    | some b => if d r < d b then some r else some b) none

/-- The M-cycle of a bank's next grant: the first after its last one in which a request waits (R165). -/
def FabBlk.grantAt (f : FabBlk) (bank : Fin 64) : Nat :=
  max f.bankNext[bank] ((f.banks[bank].map fun r => r.mcyc).min?.getD 0)

/-- Two islands stand outside the limits of R39: more than one throttle step apart, or die readings that differ by more than 30 °C. An end
that is neither Lantern nor Wick has no reading of its own: any quadrant's counts (log 83). Voltages follow the steps. -/
def State.outsideLimits (s : State) (src dst : Nat) : Bool :=
  let quad (n : Nat) : Option Nat := if n < 36 then some (n / 9) else if n < 88 then some ((n - 36) / 13) else none
  let far (a b lim : Nat) : Bool := decide (a + lim < b ∨ b + lim < a)
  let hot (p q : Nat) : Bool := far (getOr s.mgmt.hotspot p 0).toNat (getOr s.mgmt.hotspot q 0).toNat 30
  match quad src, quad dst with
  | some p, some q => far (getOr s.mgmt.step p 0) (getOr s.mgmt.step q 0) 1 || hot p q
  | some p, none | none, some p => (List.range 4).any (hot p)
  | none, none => false

/-- R38–R40: the items that entered before the next epoch tick after the oldest are consumed. Outside the limits of R39 an item that has
not resolved is consumed one tick later, once, and RELEASE_SLIP is logged. -/
def crossingEffect (src dst : Nat) (resolved : Bool) (s : State) : State :=
  match s.fab.cross.find? fun c => c.src == src && c.dst == dst with
  | none => s
  | some c =>
    match c.items with
    | [] => s
    | it :: rest =>
      let s := s.reach (10 * (it.tick + 1))
      if resolved || it.slipped || !s.outsideLimits src dst then
        let out := (it :: rest).takeWhile fun x => decide (x.tick ≤ it.tick)
        s.setFab { s.fab with cross := s.fab.cross.map fun d =>
          if d.src == src && d.dst == dst then { d with items := d.items.drop out.length, taken := d.taken ++ out } else d }
      else
        (({ s with time := { s.time with slipCount := satInc s.time.slipCount } } : State).setFab
          { s.fab with cross := s.fab.cross.map fun d =>
            if d.src == src && d.dst == dst then
              { d with items := d.items.map fun x => if x.tick = it.tick then { x with tick := x.tick + 1, slipped := true } else x } else d }).logEv
          0x0105 0 0 [(2, src + 256 * dst)]

def execCrossingRelease (src dst : Byte) (resolved : Bool) (s : State) : Host.Outcome State Fault Refusal :=
  .next (crossingEffect src.toNat dst.toNat resolved s)

/-! ## Fabric access to Wick memories (R230, R321) -/

/-- A read of n bytes of local memory or of Taper X or Y through the correction (R232, R321); the Bool is its poison. -/
def State.localRead (s : State) (w : WkId) (off n : Nat) : State × List Byte × Bool :=
  if off < 0x00040000 then
    let (t, bad) := (List.range ((off % 16 + n + 15) / 16)).foldl (fun (a : State × Bool) i =>
      let (t, b) := a.1.checkLine w (off / 16 * 16 + 16 * i) 2
      (t, a.2 || b)) (s, false)
    (t, t.localBytes w off n, bad)
  else
    let y := decide (0x00060000 ≤ off)
    let e0 := (off - (if y then 0x00060000 else 0x00040000)) / 2
    let (t, bad) := (List.range ((off % 2 + n + 1) / 2)).foldl (fun (a : State × Bool) i =>
      let (t, b) := a.1.checkElem w y (e0 + i) 2
      (t, a.2 || b)) (s, false)
    (t, t.mem.bytes (wickBase w.1 + off) n, bad)

/-- A write of local memory or of Taper X or Y: lines and elements written whole carry fresh check bits. -/
def State.localPut (s : State) (w : WkId) (off : Nat) (l : List Byte) : State :=
  if off < 0x00040000 then
    let t := s.localWrite w off l
    t.setMem ((List.range ((off % 16 + l.length + 15) / 16)).foldl (fun m i =>
      let line := off / 16 * 16 + 16 * i
      if off ≤ line ∧ line + 16 ≤ off + l.length then m.setEcc (s.localAddr w line) 0 else m) t.mem)
  else
    s.setMem ((List.range ((off % 2 + l.length + 1) / 2)).foldl (fun m i =>
      let e := off / 2 * 2 + 2 * i
      if off ≤ e ∧ e + 2 ≤ off + l.length then m.setEcc (wickBase w.1 + e) 0 else m) (s.mem.write (wickBase w.1 + off) l))

/-- The next cycles of the local-memory port, one for each 16-byte line (R228). -/
def State.usePort (s : State) (w : WkId) (off n : Nat) : State :=
  if off < 0x00040000 then s.setWick w fun k => { k with port := k.portFree + (off % 16 + n + 15) / 16 } else s

/-- R230, R232, R321: a fabric read or write of n bytes at an offset of the Wick's window, below 0x8_0000. The Bool is false for
an error response. -/
def State.localFabric (s : State) (w : WkId) (port off n : Nat) (write : Option (List Byte)) : State × Bool :=
  match write with
  | some l =>
    if off < 0x00040000 && s.job.state == .armed && !s.inShadow w off l.length then
      (s.logEv 0x0504 2 w.1 [(8, wickBase w.1 + off), (1, port)], false)
    else ((s.usePort w off l.length).localPut w off l, true)
  | none =>
    let (t, b, bad) := (s.usePort w off n).localRead w off n
    (t.emit (.bytes (wickBase w.1 + off) b bad), true)

/-- R228, R230, R232, R320, R321: LOCAL_FABRIC_ACCESS. An access that waits at its source does nothing yet. -/
def localFabricEffect (w : WkId) (port off n : Nat) (write : Option (List Byte)) (s : State) : State :=
  let len := match write with | some l => l.length | none => n
  if 0x00080000 < off + len ∨ s.moving (wickBase w.1) = true ∨ s.portWaits (wickBase w.1 + off) len write.isSome = true then s
  else
    let r := s.localFabric w port off n write
    if r.2 then r.1 else r.1.emit (.fabricError port (wickBase w.1 + off))

def execLocalFabricAccess (w : WkId) (port off n : Nat) (write : Option (List Byte)) (s : State) : Host.Outcome State Fault Refusal :=
  .next (localFabricEffect w port off n write s)

end Sys2Proof.Machine
end

