-- ==== Sys2Proof/Machine/Rings.lean ====
section
/-! DEFINITION. Ring pairs, the event ring, completions and the taking of commands (spec/15 R421–R427), mailboxes (R441–R442). -/
namespace Sys2Proof.Machine

def State.updRing (s : State) (k : Fin 64) (f : RingSt → RingSt) : State :=
  { s with host := { s.host with rings := upd s.host.rings k f } }

/-- Fields of RING_CFG and EV_CFG that are not reserved (R446). -/
def ringCfgMask : W32 := 0xEFFC00FF
def evCfgMask : W32 := 0xEF8000FF

/-- R424: the ring is disabled with its ERROR bit set; cause 0 tail, 1 read, 2 write. -/
def State.ringError (s : State) (k : Fin 64) (cause : Nat) : State :=
  (s.updRing k fun r => { r with cfg := r.cfg &&& 0x7FFFFFFF, error := true, epochNo := r.epochNo + 1, taken := 0 }).logEv
    0x0A01 0x0C 0 [(1, k.1), (1, cause)]

/-! ## Enabling and disabling (R422, R496) -/

/-- A ring pair as enabling it leaves it. -/
def RingSt.enable (r : RingSt) (cfg : W32) : RingSt :=
  { r with cfg := cfg ||| 0x80000000, error := false, head := 0, tail := 0, cqHead := 0, cqTail := 0, phase := true, taken := 0
           epochNo := r.epochNo + 1 }

/-- Disabling: commands taken run on and their completions are discarded. -/
def RingSt.disable (r : RingSt) (cfg : W32) : RingSt :=
  { r with cfg := cfg &&& 0x7FFFFFFF, epochNo := r.epochNo + 1, taken := 0 }

/-- A write to RING_CFG: while enabled it acts on ENABLE alone (R422). -/
def RingSt.writeCfg (r : RingSt) (v : W32) : RingSt :=
  if ringOn r.cfg then (if ringOn v then r else r.disable r.cfg)
  else if ringOn v then r.enable (v &&& ringCfgMask) else { r with cfg := v &&& ringCfgMask }

/-- The first enabling writes the start log, oldest record first (R496); the dropped records are then reported (R429). -/
def State.flushStartLog (s : State) : State :=
  let l := s.log.startLog
  (l.foldl (fun (s : State) e => if ringOn s.log.evCfg && !s.log.full then s.putRecord e else s.dropRecord)
    ({ s with log := { s.log with startLog := [], opened := true } } : State)).putOverflow

/-- A write to EV_CFG. -/
def State.writeEvCfg (s : State) (v : W32) : State :=
  let l := s.log
  if ringOn l.evCfg then (if ringOn v then s else { s with log := { l with evCfg := l.evCfg &&& 0x7FFFFFFF } })
  else if ringOn v then
    let s := s.drain
    let s1 := { s with log := { s.log with evCfg := v &&& evCfgMask, error := false, index := 0, head := 0, phase := true } }
    if s.log.opened then s1.putOverflow else s1.flushStartLog
  else { s with log := { l with evCfg := v &&& evCfgMask } }

/-- A write to the configuration register of a ring. -/
def State.writeRingCfg (s : State) (r : RingSel) (v : W32) : State :=
  match r with
  | .pair k => s.updRing k fun x => x.writeCfg v
  | .event => s.writeEvCfg v

/-- R422, R496: RING_ENABLE, a write with ENABLE 1. -/
def execRingEnable (_p : Path) (r : RingSel) (value : W32) (s : State) : Host.Outcome State Fault Refusal :=
  .next (if ringOn value then s.writeRingCfg r value else s)

/-- R422: RING_DISABLE, a write with ENABLE 0. -/
def execRingDisable (_p : Path) (r : RingSel) (value : W32) (s : State) : Host.Outcome State Fault Refusal :=
  .next (if ringOn value then s else s.writeRingCfg r value)

/-- R423–R424, R444: a doorbell raises Saddler line 0; the tail of an enabled ring is set, or is a ring error. A doorbell of a
disabled ring sets nothing (DEDUCED, log 24). -/
def doorbellEffect (k : Fin 64) (value : W32) (s : State) : State :=
  let s := s.sadLine 0
  let r := s.host.rings[k]
  let t := bits value.toNat 15 0
  if !ringOn r.cfg then s
  else if sqSize r.cfg ≤ t then s.ringError k 0
  else s.updRing k fun r => { r with tail := t }

def execDbSqWrite (_p : Path) (k : Fin 64) (value : W32) (s : State) : Host.Outcome State Fault Refusal :=
  .next (doorbellEffect k value s)

/-! ## Completions (R425, R427) -/

/-- The 32 bytes of a completion entry. -/
def completionBytes (r : RingSt) (k : Nat) (tag : W32) (status r0 r1 : Nat) : List Byte :=
  leBytes 4 tag.toNat ++ leBytes 1 status ++ [if r.phase then 1 else 0] ++ leBytes 2 k ++ leBytes 4 r.head ++
  [0, 0, 0, 0] ++ leBytes 8 r0 ++ leBytes 8 r1

/-- A completion on ring k for a command taken in its enabling `ep`; discarded when the ring has been disabled since (R422, R424).
`fail`: the write of ring memory fails. -/
def State.complete (s : State) (k : Fin 64) (ep : Nat) (tag : W32) (status r0 r1 : Nat) (fail : Bool) : State :=
  let r := s.host.rings[k]
  if !ringOn r.cfg || r.epochNo != ep then s
  else
    let a := r.cqBase.toNat + 32 * r.cqTail
    if fail || !s.outerOk a 32 then s.ringError k 2
    else
      let wrap := decide (r.cqTail + 1 = cqSize r.cfg)
      let s1 := ({ s with mem := s.mem.write a (completionBytes r k.1 tag status r0 r1) } : State).updRing k fun r =>
        { r with cqTail := if wrap then 0 else r.cqTail + 1, phase := if wrap then !r.phase else r.phase, taken := r.taken - 1 }
      if ringIrq r.cfg then
        (if ringOwner r.cfg = 0 then s1.msix (bits r.cfg.toNat 7 0) else s1.irqSource (32 + k.1))
      else s1

/-- A held command completes. -/
def State.completeHeld (s : State) (h : HeldCmd) (status r0 r1 : Nat) : State :=
  ({ s with host := { s.host with held := s.host.held.erase h } } : State).complete h.ring h.epochNo h.tag status r0 r1 false

/-! ## Taking commands (R423, R425–R427, R495) -/

/-- Ring k has a command that the firmware may take: READY, enabled, not empty, with room for its completion. The completion
ring keeps one entry free between its tail and CQ_HEAD (DEDUCED, log 16). -/
def State.eligible (s : State) (k : Fin 64) : Bool :=
  let r := s.host.rings[k]
  let n := cqSize r.cfg
  let used := (r.cqTail + n - r.cqHead.toNat % n) % n
  s.cfg.startSt == 2 && ringOn r.cfg && r.head != r.tail && decide (used + r.taken + 1 ≤ n - 1)

/-- The ring whose turn it is: the first eligible one after the last, in ascending k (R426). -/
def State.nextRing (s : State) : Option (Fin 64) :=
  ((List.range 64).map fun i => (s.job.lastRing + 1 + i) % 64).findSome? fun n => (toFin? 64 n).bind fun k =>
    if s.eligible k then some k else none

/-- The 64-byte submission entry at HEAD. -/
def State.sqEntry (s : State) (k : Fin 64) : List Byte :=
  let r := s.host.rings[k]
  s.mem.bytes (r.sqBase.toNat + 64 * r.head) 64

/-- LOAD_IMAGE, BIND_STREAM, ARM, SNAPSHOT, RESUME and STOP run one at a time (R426). -/
def serialOp (op : Nat) : Bool := [1, 2, 3, 5, 6, 7].contains op

/-- A SNAPSHOT or a STOP is under way. -/
def State.serialBusy (s : State) : Bool := s.job.snap.isSome || (s.job.state == .armed && s.job.stopAt.isSome)

/-- Bytes of an entry outside the opcode, the tag and the used argument ranges are 0 (R427). -/
def reservedOk (e : List Byte) (used : List (Nat × Nat)) : Bool :=
  (List.range 64).all fun i => i == 0 || decide (4 ≤ i ∧ i < 8) || used.any (fun u => decide (u.1 ≤ i ∧ i < u.1 + u.2)) || e.getD i 0 == 0

def State.setSerial (s : State) (l : List Taken) : State := { s with host := { s.host with serial := l } }

/-- The firmware's turn at ring k when the entry's opcode satisfies `op` (R423–R427). A failed read of the entry is a ring error; a
non-zero reserved byte completes with BAD_COMMAND; a one-at-a-time command waits behind those taken before it; otherwise the command
runs. Where the turn does not come (another ring is next, nothing waits), nothing happens (log 8). -/
def State.takeNew (s : State) (k : Fin 64) (io : IoFail) (op : Nat → Bool) (used : List (Nat × Nat))
    (run : State → Taken → State) : State :=
  if s.nextRing != some k then s
  else
    let r := s.host.rings[k]
    if io.sqRead || !s.outerOk (r.sqBase.toNat + 64 * r.head) 64 then s.ringError k 1
    else
      let e := s.sqEntry k
      let code := fld e 0 1
      if !op code then s
      else
        let s := ((s.seeHbm 0x82 (r.sqBase.toNat + 64 * r.head) 64).updRing k fun r => { r with head := (r.head + 1) % sqSize r.cfg, taken := r.taken + 1 }).setJob
          { s.job with lastRing := k.1 }
        let c : Taken := ⟨k, r.epochNo, BitVec.ofNat 32 (fld e 4 4), e⟩
        if !reservedOk e used then s.complete k c.ep c.tag 0x10 0 0 io.cqWrite
        else if serialOp code && (s.serialBusy || !s.host.serial.isEmpty) then s.setSerial (s.host.serial ++ [c])
        else run s c

/-- The oldest waiting one-at-a-time command of ring k with a fitting opcode runs once nothing stands in its way; else the firmware's
turn at the ring (R426). -/
def State.takeCommand (s : State) (k : Fin 64) (io : IoFail) (op : Nat → Bool) (used : List (Nat × Nat))
    (run : State → Taken → State) : State :=
  match s.host.serial with
  | c :: rest =>
    if !s.serialBusy && c.ring == k && op (fld c.entry 0 1) then run (s.setSerial rest) c else s.takeNew k io op used run
  | [] => s.takeNew k io op used run

/-- Completion of a taken command. -/
def State.finish (s : State) (c : Taken) (status r0 r1 : Nat) (io : IoFail) : State :=
  s.complete c.ring c.ep c.tag status r0 r1 io.cqWrite

/-- R430: UNKNOWN_COMMAND. -/
def execUnknownCommand (k : Fin 64) (io : IoFail) (s : State) : Host.Outcome State Fault Refusal :=
  .next (s.takeCommand k io (fun op => decide (op = 0 ∨ 9 < op)) [(8, 56)] fun s c => s.finish c 0x10 0 0 io)

/-! ## Inbound mailboxes (R26, R442) -/

/-- Region index of inbound mailbox i: the ith region whose WRITER_KIND is 3. -/
def State.ibRegion (s : State) (i : Nat) : Option Nat :=
  ((List.range s.regionList.length).filter fun j =>
    match s.regionList[j]? with
    | some g => g.writerKind == 3
    | none => false)[i]?

/-- Credits held by the mailbox path for inbound mailbox i. -/
def State.ibCredits (s : State) (i : Nat) : Nat :=
  match (s.ibRegion i).bind fun j => s.fab.regions[j]? with
  | some r => r.credits
  | none => 0

/-- The record's rows: bytes zero-filled to whole sectors, from the first row of the granule. -/
def ibRows (l : List Byte) : List (Nat × BitVec 16 × Row) :=
  (List.range ((l.length + 511) / 512)).map fun j =>
    let b := slice l (512 * j) 512
    (j, BitVec.ofNat 16 (2 ^ ((b.length + 31) / 32) - 1), rowOf b)

/-- The mailbox path writes the bytes into the next granule, taking one credit (R171, R442). -/
def State.ibWrite (s : State) (i : Fin 16) (n : Nat) : State :=
  match s.ibRegion i.1 with
  | none => s
  | some j =>
    match s.regionList[j]?, s.fab.regions[j]? with
    | some g, some r =>
      let gran := (r.start + r.len) % g.granules
      let base := (s.regionBase g).getD 0 + 512 * (g.firstRow + gran * g.granule)
      let s := s.setFab (s.fab.updRegion j fun r => r.take 1)
      (ibRows (padTo n (s.app.ib[i]).data)).foldl (fun s x => s.acceptWrite ⟨100, none, base + 512 * x.1, x.2.1, x.2.2, 0, false⟩) s
    | _, _ => s

/-- Writes that wait for a credit now: the device address, and the FTB count up to which MEM_CREDIT_WAIT_COUNT holds the wait (R173). -/
def State.creditWaits (s : State) : List (Nat × Nat) :=
  (s.fab.waits.map fun c => (c.write.addr, c.counted)) ++
  (s.dma.toList.flatMap fun g => g.ch.toList.filterMap fun c => if c.wait = .credit then (s.nextWrite c).map fun a => (a, c.counted) else none) ++
  s.app.ib.toList.flatMap fun b => b.waiting.map fun w => (mapBase, w.counted)

/-- MEM_CREDIT_WAIT_COUNT of memory m at the present FTB count (R173, R176). -/
def State.creditCount (s : State) (m : Nat) : W32 :=
  satAdd (getOr s.fab.ctr m MemCtr.reset).credit
    (((s.creditWaits.filter fun w => memNo w.1 == some m).map fun w => s.memCycles w.1 (s.time.ftb - w.2)).sum)

/-- The counters take the waits up to now: before they are cleared, and before an island's clock changes. -/
def State.settleCredits (s : State) : State :=
  let t := s.creditWaits.foldl (fun (s : State) w => s.countWait w.1 w.2) s
  let now := s.time.ftb
  { t with
    fab := { t.fab with waits := t.fab.waits.map fun c => { c with counted := now } }
    dma := t.dma.map fun g => { g with ch := g.ch.map fun c => if c.wait = .credit then { c with counted := now } else c }
    app := { t.app with ib := t.app.ib.map fun b => { b with waiting := b.waiting.map fun w => { w with counted := now } } } }

def State.updIb (s : State) (i : Fin 16) (f : IbBox → IbBox) : State := s.setApp { s.app with ib := upd s.app.ib i f }

/-- R26, R442: a write of BYTES to IB_SEND; without a credit, or behind a store that waits, it waits at its core. -/
def ibSendEffect (i : Fin 16) (value : W32) (s : State) : State :=
  let n := bits value.toNat 12 0
  let gran := ((s.ibRegion i.1).bind fun j => s.regionList[j]?).map Region.granule
  if s.job.state != .armed || n = 0 || 4096 < n || decide (512 * gran.getD 0 < n) then s.updIb i fun b => { b with error := true }
  else if s.ibCredits i.1 = 0 || !(s.app.ib[i]).waiting.isEmpty then
    s.updIb i fun b => { b with waiting := b.waiting ++ [⟨n, s.time.ftb, false, s.time.ftb⟩] }
  else s.ibWrite i n

def execIbSend (i : Fin 16) (value : W32) (s : State) : Host.Outcome State Fault Refusal := .next (ibSendEffect i value s)

/-- R26, R173, R442: the oldest waiting store proceeds once a credit is held. -/
def ibSendCreditedEffect (i : Fin 16) (s : State) : State :=
  match (s.app.ib[i]).waiting with
  | w :: rest =>
    if s.ibCredits i.1 = 0 && s.job.state == .armed && !s.job.stopping then s
    else ((s.countWait mapBase w.counted).updIb i fun b => { b with waiting := rest }).ibWrite i w.bytes
  | [] => s

def execIbSendCredited (i : Fin 16) (s : State) : Host.Outcome State Fault Refusal := .next (ibSendCreditedEffect i s)

end Sys2Proof.Machine
end

