-- ==== Sys2Proof/Machine/Start.lean ====
section
/-! DEFINITION. Start-up, the reset kinds and the configuration store (spec/18), with the supply events and the trip of spec/19. -/
namespace Sys2Proof.Machine

/-! ## Steering (R80–R82, R90) -/

/-- Entry i (0 to 2) of a steering register: the line that spare i replaces. -/
def steerEntry (r : W32) (i : Nat) : Option Nat :=
  if bit r.toNat (10 * i + 9) then some (bits r.toNat (10 * i + 8) (10 * i)) else none

def steered (r : W32) (line : Nat) : Bool := (List.range 3).any fun i => steerEntry r i == some line

/-- The lowest free spare. -/
def freeSpare (r : W32) : Option Nat := (List.range 3).find? fun i => (steerEntry r i).isNone

/-- A line steered to a spare; none where no spare is free or the line is steered already, since a second entry for it has no
effect (R81). -/
def steerLine (r : W32) (line : Nat) : Option (W32 × Nat) :=
  if steered r line then none
  else (freeSpare r).map fun i => (r ||| BitVec.ofNat 32 ((line + 512) * 2 ^ (10 * i)), i)

/-- Lines steered one after another, with the spares used. -/
def steerAll (r : W32) : List Nat → Option (W32 × List (Nat × Nat))
  | [] => some (r, [])
  | l :: t => do
    let (r1, i) ← steerLine r l
    let (r2, u) ← steerAll r1 t
    pure (r2, (l, i) :: u)

/-! ## Records of the configuration store (R506–R509, R538) -/

def setOffset : Nat := 0x03010000
def fenceOffset : Nat := 0x03020000

/-- CFG fields of the registers that the settings record holds (R16, R393, R415). -/
def ethCfgMask : W32 := 0x00000103
def ptpCfgMask : W32 := 0x0001FF3F
def urGcfgMask : W32 := 0x003EDFFF
def urLinkCfgMask : W32 := 0x000001F8
def steerMask : W32 := 0x3FFFFFFF

/-- Image within a mask: every other bit 0. -/
def imageOk (m : W32) (v : Nat) : Bool := BitVec.ofNat 32 v &&& ~~~m == 0

def steerImageOk (v : Nat) : Bool :=
  imageOk steerMask v && (List.range 3).all fun i => decide (bits v (10 * i + 8) (10 * i) ≤ 256)

def crcOk (r : List Byte) : Bool := fld r (r.length - 4) 4 == (crc32c (r.take (r.length - 4))).toNat

/-- A settings record is valid (R509). -/
def settingsValid (r : List Byte) : Bool :=
  r.take 8 == ascii "RQ9CFGST" && fld r 8 2 == 1 && fld r 0xA 2 == 256 && crcOk r &&
  (List.range 4).all (fun p => imageOk ethCfgMask (fld r (0x10 + 4 * p) 4)) &&
  imageOk ptpCfgMask (fld r 0x20 4) && imageOk urGcfgMask (fld r 0x24 4) &&
  (List.range 6).all (fun u => imageOk urLinkCfgMask (fld r (0x28 + 4 * u) 4)) &&
  imageOk 0xFFFF (fld r 0x40 4) && allZero (slice r 0x44 60) && allZero (slice r 0x80 124)

/-- A fence record is valid (R509). -/
def fenceValid (r : List Byte) : Bool :=
  r.take 8 == ascii "RQ9CFGFN" && fld r 8 2 == 1 && fld r 0xA 2 == 512 && crcOk r &&
  decide (fld r 0x10 8 < 2 ^ 36) && decide (fld r 0x18 8 < 2 ^ 52) && decide (fld r 0x20 8 < 2 ^ 36) &&
  decide (fld r 0x28 8 < 2 ^ 52) && (List.range 72).all (fun i => steerImageOk (fld r (0x30 + 4 * i) 4)) &&
  allZero (slice r 0x150 172)

/-- The record with its header and CRC around its fields. -/
def recordOf (magic : String) (len seq : Nat) (fields : List Byte) : List Byte :=
  let b := ascii magic ++ leBytes 2 1 ++ leBytes 2 len ++ leBytes 4 seq ++ padTo (len - 20) fields
  b ++ leBytes 4 (crc32c b).toNat

/-- The fields of the settings record from 0x10 on, as they stand (R507). -/
def State.settingsFields (s : State) : List Byte :=
  s.net.ports.toList.flatMap (fun p => leBytes 4 (p.cfg &&& ethCfgMask).toNat) ++
  leBytes 4 (s.net.ptpCfg &&& ptpCfgMask).toNat ++ leBytes 4 (s.ur.gcfg &&& urGcfgMask).toNat ++
  s.ur.links.toList.flatMap (fun l => leBytes 4 (l.cfg &&& urLinkCfgMask).toNat) ++ leBytes 4 s.mgmt.limit

/-- A set of units as bits. -/
def maskOf (l : List FenceEntry) (f : FenceEntry → Bool) : Nat :=
  l.foldr (fun e a => 2 * a + (if f e then 1 else 0)) 0

def RelBlk.fencedLn (r : RelBlk) : Nat := maskOf r.ln.toList fun e => e.st == .fenced
def RelBlk.fencedWk (r : RelBlk) : Nat := maskOf r.wk.toList fun e => e.st == .fenced
def RelBlk.probLn (r : RelBlk) : Nat := maskOf r.ln.toList (·.prob)
def RelBlk.probWk (r : RelBlk) : Nat := maskOf r.wk.toList (·.prob)

/-- The fields of the fence record from 0x10 on (R508). -/
def State.fenceFields (s : State) : List Byte :=
  leBytes 8 s.rel.fencedLn ++ leBytes 8 s.rel.fencedWk ++ leBytes 8 s.rel.probLn ++ leBytes 8 s.rel.probWk ++
  s.lan.toList.flatMap (fun l => leBytes 4 l.rowSteer.toNat ++ leBytes 4 l.colSteer.toNat)

def State.settingsRecord (s : State) : List Byte := s.mem.flashBytes setOffset 256
def State.fenceRecord (s : State) : List Byte := s.mem.flashBytes fenceOffset 512

/-- Why an invalid record is defaulted: 1 erased, 0 check failed (R511, R513). An erased record reads 0xFF throughout. -/
def defaultCause (r : List Byte) : Nat := if r.all (fun b => b == 0xFF) then 1 else 0

/-- Factory default of the settings fields (R509, R538). -/
def settingsDefault : List Byte :=
  (List.replicate 4 (leBytes 4 0x100)).flatten ++ leBytes 4 0x00017F04 ++ leBytes 4 0xE0 ++ List.replicate 24 0 ++ leBytes 4 950

/-- A fence write is requested after a change to the fence map; one that waits is merged (R466, R510). -/
def CfgBlk.requestFence (c : CfgBlk) : CfgBlk :=
  if c.waiting.any (·.fence) then c else { c with waiting := c.waiting ++ [⟨true, 0, []⟩] }

def State.requestFence (s : State) : State := { s with cfg := s.cfg.requestFence }

/-! ## Containers (R464, R487–R488) -/

/-- The signature block of R487 checks. -/
def signatureOk (c : List Byte) : Bool :=
  let n := c.length - 1040
  let b := c.drop n
  let modulus := slice b 16 512
  decide (1040 ≤ c.length) && b.take 8 == ascii "RQ9SIG01" && fld b 8 8 == n &&
  sha512 modulus == (List.range 64).map Config.vendorHash &&
  Config.pssVerifies modulus (slice b 528 512) (c.take n)

/-- The header of a firmware container. Its reserved bytes are 0, SEC_VERSION is at most 63, and SIZE counts the code, which fills
the container up to the signature block (DEDUCED, log 18). -/
def fwHeaderOk (c : List Byte) : Bool :=
  c.take 8 == ascii "RQ9FWIMG" && fld c 0xA 2 == 0 && decide (fld c 0xC 4 ≤ 63) && 24 + fld c 0x10 8 + 1040 == c.length

/-- Reason why a firmware container is rejected (R493), or none. -/
def fwReject (c : List Byte) (minVer : Nat) : Option Nat :=
  if !fwHeaderOk c then some 1
  else if !signatureOk c then some 0
  else if fld c 0xC 4 < minVer then some 2
  else none

/-- An item of a library (R464). -/
def libItemOf (b : List Byte) : LibItem where
  kind := fld b 0 1
  mode := fld b 1 1
  flags := fld b 2 1
  lineK := fld b 3 1
  line := fld b 4 2
  length := fld b 0x1C 4
  expect := BitVec.ofNat 32 (fld b 0x20 4)

def libItemOk (b : List Byte) : Bool :=
  decide (fld b 0 1 ≤ 2) && decide (fld b 2 1 ≤ 3) && decide (fld b 3 1 ≤ 2) && decide (fld b 4 2 ≤ 256) && fld b 6 2 == 0 &&
  decide (fld b 0x18 4 ≤ 262144) && allZero (slice b 0x24 28) &&
  (if fld b 0 1 = 2 then decide (fld b 0x1C 4 ≤ 65536) else fld b 0x1C 4 == 788)

def libItemBytes (c : List Byte) : List (List Byte) := (List.range (fld c 0xC 4)).map fun i => slice c (64 + 64 * i) 64

def libHeaderOk (c : List Byte) : Bool :=
  c.take 8 == ascii "RQ9LLIB1" && fld c 0xA 2 == 0 && decide (1 ≤ fld c 0xC 4) && decide (fld c 0xC 4 ≤ 65535) &&
  allZero (slice c 0x18 40) && decide (64 + 64 * fld c 0xC 4 + 1040 ≤ c.length) && (libItemBytes c).all libItemOk

/-- Reason why a library container is rejected (R493), or none. -/
def libReject (c : List Byte) : Option Nat :=
  if !libHeaderOk c then some 1 else if !signatureOk c then some 0 else none

/-- The items of the ROM library (R464): free values (log 9). -/
def romItems : List LibItem :=
  (List.range Config.romLibCount).map fun i =>
    ⟨Config.romLibWord i 0, Config.romLibWord i 1, Config.romLibWord i 2, Config.romLibWord i 3, Config.romLibWord i 4,
     Config.romLibWord i 5, BitVec.ofNat 32 (Config.romLibWord i 6)⟩

/-! ## What each reset kind keeps (R504) -/

/-- Reset kinds, codes of CFG_LAST_RESET.KIND. -/
inductive RstKind where
  | powerOn | fundamental | warm
deriving DecidableEq, Repr

def RstKind.code : RstKind → Nat
  | .powerOn => 0
  | .fundamental => 1
  | .warm => 2

/-- Memory that a reset kind keeps: host memory always, HBM unless supplies were lost, the rest at a warm reset. -/
def keepsAddr (k : RstKind) (a : Nat) : Bool :=
  match k with
  | .warm => true
  | .fundamental => decide (a < 4 * stackSize) || decide (hostBase ≤ a)
  | .powerOn => decide (hostBase ≤ a)

def MemBlk.afterReset (m : MemBlk) (k : RstKind) : MemBlk :=
  let keep := List.filter fun (c : Host.Cell) => keepsAddr k c.1
  { m with cells := keep m.cells, tags := keep m.tags, poison := keep m.poison, ecc := keep m.ecc, sbEcc := keep m.sbEcc,
           psFw := [], psLib := [] }

def LogBlk.afterReset (l : LogBlk) : LogBlk := { LogBlk.reset with all := l.all, smbus := l.smbus }

def TimeBlk.afterReset (t : TimeBlk) (k : RstKind) : TimeBlk :=
  match k with
  | .warm => { t with slipCount := 0 }
  | _ => { TimeBlk.reset with ftb := 0 }

/-- A Lantern with its steering; a chain in flight and the weight banks are gone. -/
def Lantern.afterReset (l : Lantern) : Lantern := { Lantern.reset with rowSteer := l.rowSteer, colSteer := l.colSteer }

/-- A link stays up at a warm reset; its registers without CFG fields take their Reset values (R504). -/
def UrLink.afterReset (l : UrLink) (k : RstKind) : UrLink :=
  match k with
  | .warm => { UrLink.reset with
      cfg := l.cfg, state := l.state, peerMod := l.peerMod, peerLink := l.peerLink, lat := l.lat, nextSeq := l.nextSeq,
      replay := l.replay, credits := l.credits, lastRx := l.lastRx, nakSent := l.nakSent, accepted := l.accepted,
      lastAck := l.lastAck, owed := l.owed, downAt := l.downAt }
  | _ => UrLink.reset

def EthPort.afterReset (p : EthPort) (k : RstKind) : EthPort :=
  match k with
  | .warm => { EthPort.reset with cfg := p.cfg, fec := p.fec, link := p.link }
  | _ => EthPort.reset

/-- Fence map kept as in use; a test or move under way ends (R504). -/
def FenceEntry.settle (e : FenceEntry) : FenceEntry :=
  match e.st with
  | .busy => { e with st := if e.logic.isSome then .serving else .spare }
  | _ => e

def RelBlk.afterReset (r : RelBlk) (k : RstKind) : RelBlk :=
  match k with
  | .warm => { RelBlk.reset with ln := r.ln.map FenceEntry.settle, wk := r.wk.map FenceEntry.settle }
  | _ => RelBlk.reset

/-- Fuses, flash contents and presence controls stay; the key and the latches as R504 states. -/
def SecBlk.afterReset (b : SecBlk) (k : RstKind) : SecBlk :=
  let kept := { SecBlk.reset with minVer := b.minVer, cert := b.cert, zeroised := b.zeroised, jumper := b.jumper }
  match k with
  | .powerOn => kept
  | _ => { kept with sealBroken := b.sealBroken, sealOpen := b.sealOpen, jumperSeen := b.jumperSeen, identity := b.identity }

/-- Pins and non-volatile memory of the management circuit stay (R527, R531); LIMIT_W is loaded later or kept. -/
def MgmtBlk.afterReset (m : MgmtBlk) (k : RstKind) : MgmtBlk :=
  { MgmtBlk.reset with supplies := true, mgmtOn := true, pinThrot := m.pinThrot, tripNv := m.tripNv,
                       limit := if k = .warm then m.limit else 0,
                       target := if m.pinThrot then Vector.replicate 4 4 else Vector.replicate 4 0 }

/-- The defaulted flags stand until the next start that reads the records (R509). -/
def CfgBlk.afterReset (c : CfgBlk) (k : RstKind) : CfgBlk :=
  match k with
  | .warm => { CfgBlk.reset with fenceDef := c.fenceDef, setDef := c.setDef }
  | _ => CfgBlk.reset

/-- Every part as the reset kind leaves it, before start-up runs (R504, R505). -/
def State.resetTo (s : State) (k : RstKind) : State :=
  let s := s.drain
  { s with
    time := s.time.afterReset k
    log := s.log.afterReset
    mem := s.mem.afterReset k
    lan := s.lan.map Lantern.afterReset
    wick := Vector.replicate 52 Wick.reset
    dma := Vector.replicate 4 Engine.reset
    hbm := s.hbm.map fun h => { HbmCtl.reset with mode := if k = .warm && h.mode != 0 then 1 else 0 }
    fab := FabBlk.reset
    job := JobBlk.reset
    net := { NetBlk.reset with
      ports := s.net.ports.map (·.afterReset k)
      ptpCfg := if k = .warm then s.net.ptpCfg else 0 }
    ur := { gcfg := if k = .warm then s.ur.gcfg else 0, links := s.ur.links.map (·.afterReset k) }
    host := { HostBlk.reset with cfgUp := k == .warm }
    app := AppBlk.reset
    sad := Vector.replicate 4 Saddler.reset
    rel := s.rel.afterReset k
    stamp := StampBlk.reset
    sec := s.sec.afterReset k
    cfg := s.cfg.afterReset k
    mgmt := s.mgmt.afterReset k
    misc := { MiscBlk.reset with out := s.misc.out, fresh := s.misc.fresh } }

/-! ## The steps of start-up (R494) -/

/-- A link's configuration at start: an enabled link that is not up trains (R396). -/
def UrLink.loadCfg (l : UrLink) (v : W32) : UrLink :=
  { l with cfg := v, state := if !bit v.toNat 8 then .down else if l.state = .down then .training else l.state }

/-- Step 3, settings: the record or its factory default into the CFG fields (R509). -/
def State.loadSettings (s : State) : State :=
  let r := s.settingsRecord
  let ok := settingsValid r
  let f := if ok then r.drop 0x10 else settingsDefault
  let w (o : Nat) : W32 := BitVec.ofNat 32 (fld f o 4)
  let s1 : State := { s with
    net := { s.net with ports := Vector.ofFn fun p => { s.net.ports[p] with cfg := w (4 * p.1) }, ptpCfg := w 0x10 }
    ur := { gcfg := w 0x14, links := Vector.ofFn fun u => s.ur.links[u].loadCfg (w (0x18 + 4 * u.1)) }
    mgmt := { s.mgmt with limit := fld f 0x30 4 }
    cfg := { s.cfg with setDef := !ok, setSeq := if ok then BitVec.ofNat 32 (fld r 0xC 4) else 0 } }
  if ok then s1 else s1.logEv 0x0E02 0 0 [(1, 0), (1, defaultCause r)]

/-- Step 3, fences: fenced set, probation and steering from the record or its default (R499, R509). -/
def State.loadFence (s : State) : State :=
  let r := s.fenceRecord
  let ok := fenceValid r
  let inSet (o n : Nat) : Bool := ok && bit (fld r o 8) n
  let e (fo po n : Nat) : FenceEntry := ⟨if inSet fo n then .fenced else .spare, none, if ok then inSet po n else true⟩
  let s1 : State := { s with
    rel := { s.rel with ln := Vector.ofFn fun n => e 0x10 0x20 n.1, wk := Vector.ofFn fun n => e 0x18 0x28 n.1 }
    lan := Vector.ofFn fun n => { s.lan[n] with
      rowSteer := if ok then BitVec.ofNat 32 (fld r (0x30 + 8 * n.1) 4) else 0
      colSteer := if ok then BitVec.ofNat 32 (fld r (0x34 + 8 * n.1) 4) else 0 }
    cfg := { s.cfg with fenceDef := !ok, fenceSeq := if ok then BitVec.ofNat 32 (fld r 0xC 4) else 0 } }
  if ok then s1 else s1.logEv 0x0E02 0 0 [(1, 1), (1, defaultCause r)]

/-- Step 4: the identity key (R484), absent while the jumper is fitted (R489). -/
def State.startIdentity (s : State) (sc : StartCond) : State :=
  let cause : Option Nat := if sc.jumper then some 2 else if s.sec.zeroised then some 3 else sc.idFail.map (·.1)
  let s := { s with sec := { s.sec with
    identity := cause.isNone, jumper := sc.jumper, jumperSeen := sc.jumper, sealBroken := sc.sealOpen, sealOpen := sc.sealOpen } }
  let s := if sc.jumper then s.logEv 0x0C05 0x0A 0 [(1, 1)] else s
  let s := if sc.sealOpen then s.logEv 0x0C06 0x0A 0 [(1, 0)] else s
  match cause with
  | some c => s.logEv 0x0C01 0x0A 0 [(1, c)]
  | none => s

/-- A steering change in the event log (R91): 0 row, 1 column (DESIGN CHOICE, log 17). -/
def State.logSteer (s : State) (n : LnId) (col : Bool) (used : List (Nat × Nat)) : State :=
  used.foldl (fun s u => s.logEv 0x0207 1 n.1 [(1, if col then 1 else 0), (2, u.1), (1, u.2)]) s

/-- Both steering registers after the located lines (R80), or none where a fourth spare of one kind is needed (R82). -/
def steerBoth (l : Lantern) (rows cols : List Nat) : Option (Lantern × List (Nat × Nat) × List (Nat × Nat)) := do
  let (r, ur) ← steerAll l.rowSteer rows
  let (c, uc) ← steerAll l.colSteer cols
  pure ({ l with rowSteer := r, colSteer := c }, ur, uc)

/-- The first line, of those that are not steered yet, that needs a fourth spare of its kind: true for a column (R82). -/
def steerNeed (l : Lantern) (rows cols : List Nat) : Option (Bool × Nat) :=
  let need (r : W32) (lines : List Nat) : Option Nat :=
    (lines.dedup.filter fun k => !steered r k)[((List.range 3).filter fun i => (steerEntry r i).isNone).length]?
  match need l.rowSteer rows, need l.colSteer cols with
  | some k, _ => some (false, k)
  | none, some k => some (true, k)
  | none, none => none

/-- A unit fenced by the start test (R499): UNIT_FENCED with reason 2 and no logical unit. -/
def State.startFenceLn (s : State) (n : LnId) : State :=
  ({ s with rel := { s.rel with ln := upd s.rel.ln n fun e => { e with st := .fenced, prob := true } } } : State).logEv
    0x0B02 1 n.1 [(1, 2), (1, 0xFF)]

def State.startFenceWk (s : State) (n : WkId) : State :=
  ({ s with rel := { s.rel with wk := upd s.rel.wk n fun e => { e with st := .fenced, prob := true } } } : State).logEv
    0x0B02 2 n.1 [(1, 2), (1, 0xFF)]

/-- Step 5 for one Lantern that fails (R499). -/
def State.startTestLn (s : State) (f : LnStartFail) : State :=
  if s.rel.ln[f.unit].st == .fenced then s
  else if f.unlocated then s.startFenceLn f.unit
  else
    match steerBoth s.lan[f.unit] (f.rows.map (·.1)) (f.cols.map (·.1)) with
    | none =>
      let need := steerNeed s.lan[f.unit] (f.rows.map (·.1)) (f.cols.map (·.1))
      let t := match need with
        | some (col, line) => s.logEv 0x0208 1 f.unit.1 [(1, if col then 1 else 0), (2, line)]
        | none => s
      t.startFenceLn f.unit
    | some (l, ur, uc) =>
      let s := ((s.setLan f.unit fun _ => l).logSteer f.unit false ur).logSteer f.unit true uc
      let s := { s with rel := { s.rel with ln := upd s.rel.ln f.unit fun e => { e with prob := true } } }
      if f.secondPass then s else s.startFenceLn f.unit

def State.startTestWk (s : State) (w : WkId) : State :=
  if s.rel.wk[w].st == .fenced then s else s.startFenceWk w

/-- Step 5 of all units (R498–R499); a changed fence map is written after READY (R501). -/
def State.startTest (s : State) (sc : StartCond) : State :=
  let t := sc.wkFail.foldl State.startTestWk (sc.lnFail.foldl State.startTestLn s)
  if t.rel == s.rel && t.lan == s.lan then t else t.requestFence

/-- Step 8: HBM training (R497). -/
def State.trainHbm (s : State) (sc : StartCond) : State :=
  let s := { s with hbm := Vector.ofFn fun i => { s.hbm[i] with mode := if sc.hbmFail.contains i then 0 else 1 } }
  (List.finRange 4).foldl (fun s i => if sc.hbmFail.contains i then s.logEv 0x0E05 0 0 [(1, i.1)] else s) s

/-- Step 6: the firmware container, or ROM firmware (R488). -/
def State.startFirmware (s : State) : State :=
  let c := s.mem.fwSlot
  match fwReject c s.sec.minVer with
  | none =>
    { s with
      mem := { s.mem with psFw := c }
      sec := { s.sec with secVer := fld c 0xC 4, fwDigest := sha512 c }
      sad := s.sad.map fun p => { p with major := c.getD 8 0, minor := c.getD 9 0, fromFlash := true } }
  | some reason =>
    ({ s with
      sec := { s.sec with secVer := Config.romSecVersion, fwDigest := [] }
      sad := s.sad.map fun p => { p with major := Config.romFwMajor, minor := Config.romFwMinor, fromFlash := false } } : State).logEv
      0x0C02 0x0A 0 [(1, reason), (1, fld c 0xC 4)]

/-- Step 9: the library container, or the ROM library (R464, R488). -/
def State.startLibrary (s : State) : State :=
  let c := s.mem.libSlot
  match libReject c with
  | none =>
    let items := (libItemBytes c).map libItemOf
    ({ s with
      mem := { s.mem with psLib := c }
      sec := { s.sec with libDigest := sha512 c }
      rel := { s.rel with libVer := BitVec.ofNat 16 (fld c 8 2), libFlash := true, items := items } } : State).logEv
      0x0B10 0 0 [(2, fld c 8 2), (2, items.length), (1, 1)]
  | some reason =>
    (({ s with
      sec := { s.sec with libDigest := [] }
      rel := { s.rel with libVer := Config.romLibVersion, libFlash := false, items := romItems } } : State).logEv
      0x0C03 0x0A 0 [(1, reason)]).logEv 0x0B10 0 0 [(2, Config.romLibVersion.toNat), (2, Config.romLibCount), (1, 0)]

/-- Serving roles in ascending physical order (R500). -/
def assignRoles (limit : Nat) : Nat → List FenceEntry → List FenceEntry
  | _, [] => []
  | k, e :: t =>
    if e.st == .fenced then { e with logic := none } :: assignRoles limit k t
    else if k < limit then { e with st := .serving, logic := some k } :: assignRoles limit (k + 1) t
    else { e with st := .spare, logic := none } :: assignRoles limit k t

def assignVec {n : Nat} (limit : Nat) (v : Vector FenceEntry n) : Vector FenceEntry n :=
  Vector.ofFn fun i => (assignRoles limit 0 v.toList).getD i.1 FenceEntry.reset

def countSt {n : Nat} (v : Vector FenceEntry n) (f : FenceSt) : Nat := (v.toList.filter fun e => e.st == f).length

/-- Unit states that follow from the fence map (R90, R251). -/
def State.unitStates (s : State) : State :=
  { s with
    lan := Vector.ofFn fun n => { s.lan[n] with mode := if s.rel.ln[n].st == .fenced then .off else .idle }
    wick := Vector.ofFn fun n => { s.wick[n] with mode := if s.rel.wk[n].st == .fenced then .off else .idle } }

/-- Step 11: READY (R494, R500, R512–R513). -/
def State.startReady (s : State) (k : RstKind) (cause micros : Nat) : State :=
  let s := s.unitStates
  let s := { s with
    cfg := { s.cfg with startSt := 2, startTime := BitVec.ofNat 32 micros, lastKind := k.code, lastCause := cause }
    host := { s.host with cfgUp := true } }
  (s.logEv 0x0E06 0 0 [(1, k.code), (1, cause)]).logEv 0x0E01 0 0
    [(1, k.code), (4, micros), (1, countSt s.rel.ln .serving), (1, countSt s.rel.wk .serving)]

/-- The trip of the last power-down is reported at the next start (R527). -/
def State.reportTrip (s : State) : State :=
  match s.mgmt.tripNv with
  | some (c, r) =>
    ({ s with mgmt := { s.mgmt with tripNv := none, status := s.mgmt.status ||| 1 } } : State).logEv 0x0D02 0x0B 0
      [(1, c), (4, r)]
  | none => s

/-- Start-up from step 1 to READY, with every event of it logged at the READY count (log 19). -/
def State.startUp (s : State) (k : RstKind) (cause : Nat) (sc : StartCond) : State :=
  let s := (s.resetTo k).reach (1000 * sc.micros)
  let s := (s.loadSettings.loadFence).reportTrip
  let s := if k = .powerOn then s.startIdentity sc else s
  let s := ((s.startTest sc).trainHbm sc).startFirmware.startLibrary
  let s := { s with rel := { s.rel with ln := assignVec 32 s.rel.ln, wk := assignVec 48 s.rel.wk } }
  s.startReady k cause sc.micros

/-- Warm reset from step 2 (R502): chains under way are abandoned, firmware and library are reloaded, the fence map stays in use. -/
def State.warmUp (s : State) (cause micros : Nat) : State :=
  let s := (s.abandonChains.anchorClocks.resetTo .warm).reach (s.time.ftb + 1000 * micros)
  s.startFirmware.startLibrary.startReady .warm cause micros

/-- A warm reset is requested: it waits for a record write under way (R503). -/
def State.requestWarm (s : State) (cause micros : Nat) : State :=
  if s.cfg.current.isSome then { s with cfg := { s.cfg with warmDue := some (cause, micros) } } else s.warmUp cause micros

/-- A warm reset requested by a register write: a pair's own store completes before it (R502). Its time stands in no rule. -/
def State.askWarm (s : State) (path : Path) : State :=
  let micros := bits (Config.freeWord s.misc.fresh).toNat 31 0
  let s := s.fresh 1
  match path with
  | .saddler _ => if s.cfg.warmDue.isSome then s else { s with cfg := { s.cfg with warmDue := some (2, micros) } }
  | _ => s.requestWarm 2 micros

/-- The warm reset that an instruction has requested: `before` is the state in which the instruction began. -/
def State.resetAfter (s before : State) : State :=
  match before.cfg.warmDue, s.cfg.warmDue with
  | none, some (c, n) => if s.cfg.current.isNone then ({ s with cfg := { s.cfg with warmDue := none } } : State).warmUp c n else s
  | _, _ => s

/-- Supplies valid falls: nothing runs, and what R504 does not keep is lost; a record write under way leaves its record torn. The
management supply and THERM_TRIP# stay as they are (R519, R527). -/
def State.powerDown (s : State) : State :=
  let t := s.resetTo .powerOn
  { t with mgmt := { t.mgmt with supplies := false, mgmtOn := s.mgmt.mgmtOn, tripPin := s.mgmt.tripPin, cutOff := s.mgmt.cutOff }, host := { t.host with cfgUp := false },
           net := { t.net with ports := Vector.replicate 4 EthPort.reset } }

/-- A trip (R527): every rail is removed, THERM_TRIP# goes low, the cause and its reading stay in non-volatile memory. -/
def State.trip (s : State) (cause reading : Nat) : State :=
  let s := s.powerDown
  { s with mgmt := { s.mgmt with tripPin := true, tripNv := some (cause, reading) } }

/-! ## Meanings -/

/-- R494, R502, R521, R528: supplies valid rises once the input is back, unless a trip still holds the module. -/
def powerOnEffect (sc : StartCond) (s : State) : State :=
  if s.mgmt.supplies || s.mgmt.tripPin then s
  else
    let s := { s with mgmt := { s.mgmt with cutOff := false } }
    s.startUp .powerOn (if s.mgmt.tripNv.isSome then 4 else 0) sc

def execPowerOnReset (sc : StartCond) (s : State) : Host.Outcome State Fault Refusal := .next (powerOnEffect sc s)

/-- R502–R504: PERST# while supplies are valid. -/
def fundamentalEffect (sc : StartCond) (s : State) : State :=
  if s.mgmt.supplies then s.startUp .fundamental 1 sc else s

def execFundamentalReset (sc : StartCond) (s : State) : Host.Outcome State Fault Refusal := .next (fundamentalEffect sc s)

/-- R502, R512: CFG_RESET written with KEY 0x5752 and WARM 1. -/
def warmResetEffect (value : W32) (micros : Nat) (s : State) : State :=
  if value.toNat / 65536 = 0x5752 ∧ bit value.toNat 0 = true ∧ s.mgmt.supplies = true then s.requestWarm 2 micros else s

def execWarmReset (_p : Path) (value : W32) (micros : Nat) (s : State) : Host.Outcome State Fault Refusal :=
  .next (warmResetEffect value micros s)

/-- R521, R527: a rail out of regulation trips the module with cause 4. -/
def execRailOutOfRegulation (reading : Nat) (s : State) : Host.Outcome State Fault Refusal :=
  .next (if s.mgmt.supplies then
    let t := s.trip 4 reading
    { t with cfg := { t.cfg with lastCause := 4 } } else s)

/-- VIN_OUT_OF_RANGE (R539) and MM_STATUS.VIN_RANGE (R537). -/
def State.vinRange (s : State) (mv : Nat) : State :=
  ({ s with mgmt := { s.mgmt with status := s.mgmt.status ||| 2, mvIn := mv } } : State).logEv 0x0D03 0x0B 0 [(2, mv)]

/-- R519: below 38.0 V for 1 ms supplies valid falls. -/
def execInputUndervoltage (mv : Nat) (s : State) : Host.Outcome State Fault Refusal :=
  .next (if mv < 38000 then
    let t := s.powerDown
    ({ t with mgmt := { t.mgmt with status := s.mgmt.status, mvIn := mv } } : State).vinRange mv else s)

/-- R519: above 63.0 V for 100 µs the input is disconnected. -/
def execInputOvervoltage (mv : Nat) (s : State) : Host.Outcome State Fault Refusal :=
  .next (if 63000 < mv then
    let t := s.powerDown
    ({ t with mgmt := { t.mgmt with status := s.mgmt.status, mvIn := mv, cutOff := true } } : State).vinRange mv else s)

/-- R527: trip conditions 0 to 3. -/
def execThermalTrip (cause : Fin 4) (reading : Nat) (s : State) : Host.Outcome State Fault Refusal :=
  .next (if s.mgmt.supplies then s.trip cause.1 reading else s)

/-- R510, R512: the settings write stores the CFG fields as they stand at the request. -/
def execSaveSettings (_p : Path) (value : W32) (s : State) : Host.Outcome State Fault Refusal :=
  .next (if bit value.toNat 0 then
    { s with cfg := { s.cfg with waiting := s.cfg.waiting ++ [⟨false, 0, s.settingsFields⟩] } } else s)

/-- SEQ of a record as it stands in flash; 0 where the record is invalid. -/
def State.flashSeq (s : State) (fence : Bool) : Nat :=
  if fence then (if fenceValid s.fenceRecord then fld s.fenceRecord 0xC 4 else 0)
  else (if settingsValid s.settingsRecord then fld s.settingsRecord 0xC 4 else 0)

/-- The record that a write programs, with its new SEQ and CRC. -/
def State.recordImage (s : State) (w : CfgWrite) : CfgWrite :=
  let seq := (s.flashSeq w.fence + 1) % 2 ^ 32
  if w.fence then ⟨true, seq, recordOf "RQ9CFGFN" 512 seq s.fenceFields⟩
  else ⟨false, seq, recordOf "RQ9CFGST" 256 seq w.image⟩

/-- A sector of flash with `l` programmed at its start after an erase. -/
def MemBlk.program (m : MemBlk) (o : Nat) (l : List Byte) : MemBlk :=
  ({ m with flash := Sparse.clear m.flash o (o + 0x10000) } : MemBlk).flashWrite o l

def recordAt (fence : Bool) : Nat := if fence then fenceOffset else setOffset

/-- R510: the write at the head of the queue starts. Until it ends its record is torn: erased and only begun (log 20). -/
def configWriteStart (s : State) : State :=
  match s.cfg.current, s.cfg.waiting with
  | none, w :: rest =>
    let r := s.recordImage w
    { s with cfg := { s.cfg with current := some r, waiting := rest }
             mem := s.mem.program (recordAt r.fence) (r.image.take 16) }
  | _, _ => s

def execConfigRecordWrite (s : State) : Host.Outcome State Fault Refusal := .next (configWriteStart s)

/-- The end of the write under way: it passes at the first or second read-back, or fails (R510). -/
def State.configWriteEnd (s : State) (r : CfgWrite) (ok : Bool) (leftOver : List Byte) : State :=
  let rec_ := if r.fence then 1 else 0
  if ok then
    let c := { s.cfg with current := none, lastFail := false }
    ({ s with mem := s.mem.program (recordAt r.fence) r.image
              cfg := if r.fence then { c with fenceSeq := BitVec.ofNat 32 r.seq }
                     else { c with setSeq := BitVec.ofNat 32 r.seq } } : State).logEv 0x0E03 0 0 [(1, rec_), (4, r.seq)]
  else
    ({ s with mem := s.mem.program (recordAt r.fence) (leftOver.take (if r.fence then 512 else 256))
              cfg := { s.cfg with current := none, lastFail := true } } : State).logEv 0x0E04 0 0 [(1, rec_), (1, 2)]

/-- R503, R510: the write ends, and a warm reset that waited for it takes effect. -/
def configWriteDoneEffect (firstOk secondOk : Bool) (leftOver : List Byte) (s : State) : State :=
  match s.cfg.current with
  | none => s
  | some r =>
    let t := s.configWriteEnd r (firstOk || secondOk) leftOver
    match s.cfg.warmDue with
    | some (c, m) => t.warmUp c m
    | none => t

def execConfigWriteDone (firstOk secondOk : Bool) (leftOver : List Byte) (s : State) : Host.Outcome State Fault Refusal :=
  .next (configWriteDoneEffect firstOk secondOk leftOver s)

end Sys2Proof.Machine
end

