-- ==== Sys2Proof/Machine/Mgmt.lean ====
section
/-! DEFINITION. Module management: throttle steps, telemetry, the SMBus port and PPS_OUT (spec/19 R519–R539). -/
namespace Sys2Proof.Machine

/-! ## The management registers (R537) -/

/-- A value cut to the field of n bits by saturation. -/
def satFld (n v : Nat) : Nat := min v (2 ^ n - 1)

/-- MM_THROTTLE.CAUSE: the requests active. -/
def MgmtBlk.cause (m : MgmtBlk) : Nat :=
  (if m.reqPower then 1 else 0) + (if m.reqDie then 2 else 0) + (if m.reqHot.toList.any id then 4 else 0) +
  (if m.reqFlow then 8 else 0) + (if m.reqInlet then 16 else 0) + (if m.pinThrot then 32 else 0)

/-- MM_THROTTLE.MOVING: 1 + the lowest quadrant that changes. -/
def MgmtBlk.movingField (m : MgmtBlk) : Nat :=
  match (List.finRange 4).find? fun q => m.moving[q].isSome with
  | some q => q.1 + 1
  | none => 0

/-- A register of the management block. -/
def MgmtBlk.read (m : MgmtBlk) (off : Nat) : W32 :=
  BitVec.ofNat 32 (match off with
  | 0x00 => (m.status &&& 0x3F).toNat + (if m.pinThrot then 0x40 else 0) + (if m.supplies then 0x80 else 0)
  | 0x04 => satFld 16 m.mvIn * 65536 + satFld 16 m.iIn
  | 0x08 => satFld 16 m.pin * 65536 + satFld 16 m.pdie
  | 0x0C => leNat m.hotspot.toList
  | 0x10 => satFld 8 m.inlet * 2 ^ 24 + satFld 8 m.outlet * 65536 + satFld 16 m.flow
  | 0x14 => m.cause * 65536 + m.movingField * 4096 + m.step[0] + m.step[1] * 8 + m.step[2] * 64 + m.step[3] * 512
  | 0x18 => m.limit
  | 0x1C => m.count.toNat
  | _ => 0)

/-- A write to a register of the management block (R15, R537). -/
def MgmtBlk.write (m : MgmtBlk) (off : Nat) (v : W32) : MgmtBlk :=
  match off with
  | 0x00 => { m with status := m.status &&& ~~~(v &&& 0x3F) }
  | 0x18 =>
    let w := bits v.toNat 15 0
    if 500 ≤ w ∧ w ≤ 950 then { m with limit := w } else m
  | 0x20 => if bit v.toNat 0 then { m with count := 0 } else m
  | _ => m

/-- SMB_ALERT# is asserted (R535). -/
def MgmtBlk.smbAlert (m : MgmtBlk) : Bool := m.status &&& 0x3F != 0

/-! ## Throttle steps (R522–R526) -/

/-- One index above a step, not above 4. -/
def stepAbove (n : Nat) : Nat := min 4 (n + 1)

/-- The step a quadrant has, or reaches by the change under way. -/
def MgmtBlk.ending (m : MgmtBlk) (q : Fin 4) : Nat := (m.moving[q]).getD m.step[q]

/-- The highest index that the active requests demand of a quadrant; with none it keeps its step (log 21). "At least index 3" is
met by a quadrant that is already at 4. -/
def MgmtBlk.demand (m : MgmtBlk) (q : Fin 4) : Nat :=
  let ds := (m.powDem[q]).toList ++ (if m.reqHot[q] then [stepAbove m.step[q]] else []) ++
    (if m.reqFlow then [max 3 (m.ending q)] else []) ++ (if m.reqInlet then [4] else []) ++ (if m.pinThrot then [4] else [])
  match ds with
  | [] => m.ending q
  | _ => ds.foldl max 0

/-- R525: the targets, every one at least the largest minus 1. -/
def MgmtBlk.retarget (m : MgmtBlk) : MgmtBlk :=
  let d : Vector Nat 4 := Vector.ofFn m.demand
  let top := d.toList.foldl max 0
  { m with target := d.map fun x => max x (top - 1) }

/-- R525: the end of a 1 ms power window. -/
def MgmtBlk.window (m : MgmtBlk) (pin pdie : Nat) : MgmtBlk :=
  let high := decide (m.limit < pin)
  let die := decide (820 < pdie)
  let none_ := !high && !die && !m.reqHot.toList.any id && !m.reqFlow && !m.reqInlet && !m.pinThrot
  let low := if none_ && decide (pin + 40 < m.limit) then m.lowWins + 1 else 0
  ({ m with
    pin := pin, pdie := pdie, reqPower := high, reqDie := die, lowWins := low
    status := if high || die then m.status ||| 4 else m.status
    powDem := Vector.ofFn fun q =>
      if high || die then some (stepAbove m.step[q]) else if 100 ≤ low then some (m.step[q] - 1) else none } : MgmtBlk).retarget

/-- R525: THROTTLE_WINDOW. -/
def execThrottleWindow (pin pdie : Nat) (s : State) : Host.Outcome State Fault Refusal :=
  .next { s with mgmt := if s.mgmt.supplies then s.mgmt.window pin pdie else s.mgmt }

/-- A reading that makes a request active, or ends it (R525). -/
def requestHolds (r : ThrottleReq) (active : Bool) (reading : Nat) : Bool :=
  match r, active with
  | .hotspot _, true => decide (105 ≤ reading)
  | .hotspot _, false => decide (reading ≤ 100)
  | .flow, true => decide (reading < 1200)
  | .flow, false => decide (1300 ≤ reading)
  | .inlet, true => decide (45 < reading)
  | .inlet, false => decide (reading ≤ 43)

/-- The request flags after a request becomes active or ends. -/
def MgmtBlk.request (m : MgmtBlk) (r : ThrottleReq) (active : Bool) : MgmtBlk :=
  match r with
  | .hotspot q => { m with reqHot := upd m.reqHot q fun _ => active, status := if active then m.status ||| 8 else m.status }
  | .flow => { m with reqFlow := active, status := if active then m.status ||| 0x10 else m.status }
  | .inlet => { m with reqInlet := active, status := if active then m.status ||| 0x20 else m.status }

/-- R525, R539: THROTTLE_REQUEST. -/
def throttleRequestEffect (r : ThrottleReq) (active : Bool) (reading : Nat) (s : State) : State :=
  if s.mgmt.supplies && requestHolds r active reading then
    let t := { s with mgmt := (s.mgmt.request r active).retarget }
    match r, active with
    | .flow, true => t.logEv 0x0D04 0x0B 0 [(2, reading)]
    | .inlet, true => t.logEv 0x0D05 0x0B 0 [(1, reading)]
    | _, _ => t
  else s

def execThrottleRequest (r : ThrottleReq) (active : Bool) (reading : Nat) (s : State) : Host.Outcome State Fault Refusal :=
  .next (throttleRequestEffect r active reading s)

/-- R525, R539: THROTTLE# changes. -/
def externalThrottleEffect (asserted : Bool) (s : State) : State :=
  if s.mgmt.pinThrot = asserted then s
  else
    ({ s with mgmt := ({ s.mgmt with pinThrot := asserted } : MgmtBlk).retarget } : State).logEv 0x0D06 0x0B 0
      [(1, if asserted then 1 else 0)]

def execExternalThrottle (asserted : Bool) (s : State) : Host.Outcome State Fault Refusal :=
  .next (externalThrottleEffect asserted s)

/-- The step next to the present one on the way to the target. -/
def MgmtBlk.nextStep (m : MgmtBlk) (q : Fin 4) : Nat :=
  if m.step[q] < m.target[q] then m.step[q] + 1 else if m.target[q] < m.step[q] then m.step[q] - 1 else m.step[q]

/-- Two steps within one index. -/
def near (a b : Nat) : Bool := decide (a ≤ b + 1) && decide (b ≤ a + 1)

/-- R523 holds for the starting and the ending steps of every change under way with quadrant q at `new` (R524). -/
def MgmtBlk.mayMove (m : MgmtBlk) (q : Fin 4) (new : Nat) : Bool :=
  (m.moving[q]).isNone && new != m.step[q] &&
  (List.finRange 4).all fun r => r == q || (near m.step[r] new && near (m.ending r) new && near (m.ending r) m.step[q])

/-- R524: quadrant q begins a change of one index: down at an epoch tick, 20 µs long; up with the rail first and the frequency at
the first epoch tick after it has settled. The clocks of the quadrant change with the frequency (R37). -/
def stepBeginEffect (q : Fin 4) (s : State) : State :=
  let new := s.mgmt.nextStep q
  if s.mgmt.supplies && s.mgmt.mayMove q new then
    let t := if s.mgmt.step[q] < new then (s.reach (epochTick s.time.ftb)).settleCredits.anchorClocks else s
    let fin := if s.mgmt.step[q] < new then t.time.ftb + 20000 else epochTick (t.time.ftb + 20000)
    { t with mgmt := { t.mgmt with moving := upd t.mgmt.moving q fun _ => some new
                                   moveEnd := upd t.mgmt.moveEnd q fun _ => fin } }
  else s

def execThrottleStepBegin (q : Fin 4) (s : State) : Host.Outcome State Fault Refusal := .next (stepBeginEffect q s)

/-- R524–R526: the change completes and is logged; the demands that name the present step follow it. -/
def stepDoneEffect (q : Fin 4) (s : State) : State :=
  match s.mgmt.moving[q] with
  | none => s
  | some new =>
    let t := (s.reach s.mgmt.moveEnd[q]).settleCredits.anchorClocks
    ({ t with mgmt := ({ t.mgmt with step := upd t.mgmt.step q fun _ => new, moving := upd t.mgmt.moving q fun _ => none
                                     count := satInc t.mgmt.count } : MgmtBlk).retarget } : State).logEv 0x0D01 0x0B 0
      [(1, q.1), (1, s.mgmt.step[q]), (1, new), (1, s.mgmt.cause)]

def execThrottleStep (q : Fin 4) (s : State) : Host.Outcome State Fault Refusal := .next (stepDoneEffect q s)

/-! ## Telemetry and supply (R519, R529) -/

/-- R529: the readings; what depends on supplies valid reads 0 while it is low. -/
def MgmtBlk.sample (m : MgmtBlk) (t : Telemetry) : MgmtBlk :=
  let up := m.supplies
  let flag (c : Bool) (b : W32) : W32 := if c then b else 0
  { m with
    mvIn := t.mvIn, iIn := t.iIn, pin := t.pin, inlet := t.inlet, outlet := t.outlet, flow := t.flow
    pdie := if up then t.pdie else 0
    hotspot := if up then t.hotspot else Vector.replicate 4 0
    status := m.status ||| flag (decide (t.mvIn < 40000 ∨ 60000 < t.mvIn)) 2 ||| flag (decide (40 < t.inlet)) 0x20 |||
      flag (decide (t.flow < 1200)) 0x10 ||| flag (up && t.hotspot.toList.any fun h => decide (105 ≤ h.toNat)) 8 }

/-- R529: TELEMETRY_SAMPLE. -/
def telemetryEffect (t : Telemetry) (s : State) : State :=
  if !s.mgmt.mgmtOn then s
  else
    let s1 := (List.finRange 4).foldl (fun (s : State) i => s.hbmTemp i (if s.mgmt.supplies then t.hbmTemp[i] else 0))
      { s with mgmt := s.mgmt.sample t }
    if t.mvIn < 40000 ∨ 60000 < t.mvIn then s1.logEv 0x0D03 0x0B 0 [(2, satFld 16 t.mvIn)] else s1

def execTelemetrySample (t : Telemetry) (s : State) : Host.Outcome State Fault Refusal := .next (telemetryEffect t s)

/-- R519, R527: the input crosses 36.0 V. -/
def managementSupplyEffect (mv : Nat) (s : State) : State :=
  if 36000 ≤ mv then { s with mgmt := { s.mgmt with mgmtOn := true, mvIn := mv } }
  else
    let t := s.powerDown
    { t with mgmt := { t.mgmt with mgmtOn := false, tripPin := false, mvIn := mv }, log := { t.log with smbus := [] } }

def execManagementSupply (mv : Nat) (s : State) : Host.Outcome State Fault Refusal := .next (managementSupplyEffect mv s)

/-- R532: PPS_OUT rises at the next FTB count that is a multiple of 10^9; it falls as the FTB advances. -/
def ppsEffect (s : State) : State :=
  let t := s.reach ((s.time.ftb + 999999999) / 1000000000 * 1000000000)
  { t with time := { t.time with pps := true } }

def execPpsOut (s : State) : Host.Outcome State Fault Refusal := .next (if s.mgmt.supplies then ppsEffect s else s)

/-! ## SMBus (R533–R535) -/

/-- The port answers while the management supply runs; a wrong PEC is discarded with a NACK (R533). -/
def State.smbusOk (s : State) (pec : Bool) (act : State → State) : State :=
  if !s.mgmt.mgmtOn then s else if pec then act s.drain else s.emit (.smbus none)

/-- R534: REG_READ. -/
def execSmbusRegRead (off : BitVec 16) (pec : Bool) (s : State) : Host.Outcome State Fault Refusal :=
  .next (s.smbusOk pec fun s => s.emit (.smbus (some (leBytes 4 (s.mgmt.read off.toNat).toNat))))

/-- R534: REG_WRITE reaches RW, W1C and WO fields. -/
def execSmbusRegWrite (off : BitVec 16) (value : W32) (pec : Bool) (s : State) : Host.Outcome State Fault Refusal :=
  .next (s.smbusOk pec fun s => ({ s with mgmt := s.mgmt.write off.toNat value } : State).emit (.smbus (some [])))

/-- R534, R535: EVENT_READ. PHASE of a copy outside a ring is a free value (log 9). -/
def smbusEventRead (s : State) : State :=
  match s.log.smbus with
  | [] => s.emit (.smbus (some []))
  | e :: rest =>
    ({ s.fresh 1 with log := { s.log with smbus := rest } } : State).emit
      (.smbus (some (e.bytes ((Config.freeWord s.misc.fresh).getLsbD 0))))

def execSmbusEventRead (pec : Bool) (s : State) : Host.Outcome State Fault Refusal := .next (s.smbusOk pec smbusEventRead)

/-- R534: WARM_RESET with data 0x57. -/
def execSmbusWarmReset (data : Byte) (pec : Bool) (micros : Nat) (s : State) : Host.Outcome State Fault Refusal :=
  .next (s.smbusOk pec fun s =>
    if data = 0x57 && s.mgmt.supplies then (s.emit (.smbus (some []))).requestWarm 3 micros else s.emit (.smbus (some [])))

end Sys2Proof.Machine
end

