-- ==== Sys2Proof/Machine/Security.lean ====
section
/-! DEFINITION. Presence controls, privileged operations and attestation (spec/17 R484–R493). -/
namespace Sys2Proof.Machine

/-- A button window is open (R489). -/
def State.windowOpen (s : State) : Bool :=
  match s.sec.window with
  | some e => decide (s.time.ftb < e)
  | none => false

/-- SEC_STATUS (R492). -/
def State.secStatus (s : State) : Nat :=
  let b := s.sec
  (if s.windowOpen then 0x80 else 0) + (if b.sealBroken then 0x40 else 0) + (if b.jumperSeen then 0x20 else 0) +
  (if b.jumper then 0x10 else 0) + (if b.identity then 8 else 0)

/-- R489: a press of at least 1 s opens or restarts the 60 s window. -/
def buttonEffect (ms : Nat) (s : State) : State :=
  if 1000 ≤ ms then
    let e := s.time.ftb + 60000000000
    ({ s with sec := { s.sec with window := some e } } : State).logEv 0x0C04 0x0A 0 [(8, e)]
  else s

def execServiceButtonPress (ms : Nat) (s : State) : Host.Outcome State Fault Refusal := .next (buttonEffect ms s)

/-- R489: the window closes unused. -/
def buttonExpiryEffect (s : State) : State :=
  match s.sec.window with
  | some e =>
    let t := s.reach e
    { t with sec := { t.sec with window := none } }
  | none => s

def execButtonWindowExpiry (s : State) : Host.Outcome State Fault Refusal := .next (buttonExpiryEffect s)

/-- R489: the jumper is found fitted or removed. Fitting removes the identity key until a power-on reset. -/
def jumperEffect (fitted : Bool) (s : State) : State :=
  if s.sec.jumper = fitted then s
  else
    let t := ({ s with sec := { s.sec with
      jumper := fitted
      jumperSeen := s.sec.jumperSeen || fitted
      identity := s.sec.identity && !fitted } } : State).logEv 0x0C05 0x0A 0 [(1, if fitted then 1 else 0)]
    if fitted && s.sec.identity then t.logEv 0x0C01 0x0A 0 [(1, 2)] else t

def execDebugJumper (fitted : Bool) (s : State) : Host.Outcome State Fault Refusal := .next (jumperEffect fitted s)

/-- R489: a reading of the seal-sense loop; two consecutive open readings latch SEAL_BROKEN. -/
def sealEffect (openReading : Bool) (s : State) : State :=
  if !s.mgmt.supplies then s
  else
    let t := { s with sec := { s.sec with sealOpen := openReading } }
    if openReading && s.sec.sealOpen && !s.sec.sealBroken then
      ({ t with sec := { t.sec with sealBroken := true } } : State).logEv 0x0C06 0x0A 0 [(1, 1)]
    else t

def execSealBroken (openReading : Bool) (s : State) : Host.Outcome State Fault Refusal := .next (sealEffect openReading s)

/-! ## Privileged operations (R490–R491) -/

/-- The factors an operation needs beside the button window: jumper, intact seal. -/
def State.presence (s : State) (needJumper needSeal : Bool) : Bool :=
  s.windowOpen && (!needJumper || s.sec.jumper) && (!needSeal || !s.sec.sealBroken)

/-- One operation: the window is consumed, the status kept and logged, and the effect happens only with status OK (R491). -/
def State.privileged (s : State) (op : Nat) (needJumper needSeal : Bool) (work : Nat) (effect : State → State) : State :=
  let status := if s.job.state == .armed || s.sec.busy then 1 else if !s.presence needJumper needSeal then 2 else work
  let t := if status = 0 then effect s else s
  ({ t with sec := { t.sec with window := none, lastOp := BitVec.ofNat 8 op, status := BitVec.ofNat 8 status } } : State).logEv
    0x0C07 0x0A 0 [(1, op), (1, status)]

/-- The source bytes of SEC_ARG and SEC_LEN. -/
def State.secSource (s : State) : List Byte := s.mem.bytes s.sec.arg.toNat s.sec.len.toNat

/-- The source can be read and fits its region (R491). -/
def State.secSourceOk (s : State) (region : Nat) (srcOk : Bool) : Bool :=
  srcOk && decide (s.sec.len.toNat ≤ region) && s.outerOk s.sec.arg.toNat (max 1 s.sec.len.toNat)

/-- Status of an operation that copies a source to flash after a check (R491). -/
def State.copyStatus (s : State) (region : Nat) (srcOk flashOk check : Bool) : Nat :=
  if !s.secSourceOk region srcOk then 4 else if !check then 3 else if !flashOk then 5 else 0

/-- R490: the operations 1 to 7 with what flash and the source answer; any other is unknown (R491). -/
def secEffect (op : Nat) (flashOk srcOk : Bool) (s : State) : State :=
  match op with
  | 1 => s.privileged 1 false false (s.copyStatus 0x01000000 srcOk flashOk (fwHeaderOk s.secSource && signatureOk s.secSource))
      fun s => { s with mem := { s.mem with fwSlot := s.secSource } }
  | 2 => s.privileged 2 false false (s.copyStatus 0x02000000 srcOk flashOk (libReject s.secSource).isNone)
      fun s => { s with mem := { s.mem with libSlot := s.secSource } }
  | 3 => s.privileged 3 false true 0 fun s => { s with sec := { s.sec with minVer := max s.sec.minVer s.sec.secVer } }
  | 4 => s.privileged 4 false false (if flashOk then 0 else 5) fun s => { s with mem := s.mem.program setOffset [] }
  | 5 => s.privileged 5 false false (if flashOk then 0 else 5) fun s => { s with mem := s.mem.program fenceOffset [] }
  | 6 => s.privileged 6 true false (s.copyStatus 4096 srcOk flashOk (Config.certKeyMatches s.secSource))
      fun s => { s with sec := { s.sec with cert := s.secSource } }
  | 7 => s.privileged 7 true false (if flashOk then 0 else 5) fun s => { s with sec := { s.sec with zeroised := true } }
  | _ => { s with sec := { s.sec with lastOp := BitVec.ofNat 8 op, status := 6 } }

/-- A write of SEC_CMD by any path (R18, R490): what flash and the source answer are free values (log 27). -/
def secCmdEffect (v : W32) (s : State) : State :=
  let f := (Config.freeWord s.misc.fresh).toNat
  (secEffect (v.toNat % 256) (bit f 0) (bit f 1) s).fresh 1

/-- R490: FW_WRITE. -/
def execFwWrite (flashOk srcOk : Bool) (s : State) : Host.Outcome State Fault Refusal := .next (secEffect 1 flashOk srcOk s)

/-- R490: LIB_WRITE. -/
def execLibWrite (flashOk srcOk : Bool) (s : State) : Host.Outcome State Fault Refusal := .next (secEffect 2 flashOk srcOk s)

/-- R490: ROLLBACK_COMMIT raises the fused minimum to the running SEC_VERSION. -/
def execRollbackCommit (s : State) : Host.Outcome State Fault Refusal := .next (secEffect 3 true true s)

/-- R490, R511: CONFIG_DEFAULT erases the settings sector. -/
def execConfigDefault (flashOk : Bool) (s : State) : Host.Outcome State Fault Refusal := .next (secEffect 4 flashOk true s)

/-- R490, R511: FENCE_CLEAR erases the fence sector. -/
def execFenceClear (flashOk : Bool) (s : State) : Host.Outcome State Fault Refusal := .next (secEffect 5 flashOk true s)

/-- R490: CERT_WRITE of a certificate whose key equals SEC_PUBKEY. -/
def execCertWrite (flashOk srcOk : Bool) (s : State) : Host.Outcome State Fault Refusal := .next (secEffect 6 flashOk srcOk s)

/-- R490: IDENTITY_ZEROISE erases the helper data and the wrapped key. -/
def execIdentityZeroise (flashOk : Bool) (s : State) : Host.Outcome State Fault Refusal := .next (secEffect 7 flashOk true s)

/-- R491: SEC_BAD_OP, an unknown OP; OPs 1 to 7 have rows of their own. -/
def execSecBadOp (op : Byte) (s : State) : Host.Outcome State Fault Refusal :=
  .next (if 1 ≤ op.toNat ∧ op.toNat ≤ 7 then s else secEffect op.toNat true true s)

/-! ## Attestation (R486) -/

/-- The 256-byte quote. -/
def State.quoteBytes (s : State) : List Byte :=
  ascii "RQ9QUOTE" ++ s.sec.nonce.toList ++ padTo 32 (prefix32 s.sec.fwDigest) ++ padTo 32 (prefix32 s.sec.libDigest) ++
  padTo 32 (match s.job.image with | some im => prefix32 im.digest | none => []) ++
  leBytes 8 s.time.ftb ++ leBytes 4 s.secStatus ++ leBytes 4 s.sec.minVer ++ leBytes 4 s.sec.secVer ++ List.replicate 68 0

/-- The signature bytes of a message: free values (log 9), or 0 without the identity key (R483, R486). -/
def State.signatureOf (s : State) (msg : List Byte) : List Byte :=
  if s.sec.identity then (List.range 512).map (Config.signature msg s.misc.fresh) else List.replicate 512 0

/-- The engine takes the attestation when it is free. -/
def State.startAttest (s : State) : State :=
  if s.stamp.engine.isNone then { s with stamp := { s.stamp with engine := some (true, 0, 0, s.time.ftb + 250000) } } else s

/-- R486: GO with BUSY 0. -/
def attestGoEffect (value : W32) (s : State) : State :=
  if bit value.toNat 2 && !s.sec.attBusy then
    ({ s with sec := { s.sec with attBusy := true, attDone := false, quote := s.quoteBytes ++ padTo 512 (s.sec.quote.drop 256) } } : State).startAttest
  else s

def execAttestGo (value : W32) (s : State) : Host.Outcome State Fault Refusal := .next (attestGoEffect value s)

/-- R486: the signature of the quote completes, or the abandoned attestation restarts on the free engine. -/
def attestDoneEffect (s : State) : State :=
  if !s.sec.attBusy then s
  else
    match s.stamp.engine with
    | some (true, _, _, e) =>
      let t := s.reach e
      let q := t.sec.quote.take 256
      { t.fresh 1 with
        sec := { t.sec with attBusy := false, attDone := true, quote := q ++ t.signatureOf q }
        stamp := { t.stamp with engine := none } }
    | some (false, _, _, _) => s
    | none => s.startAttest

def execAttestDone (s : State) : Host.Outcome State Fault Refusal := .next (attestDoneEffect s)

end Sys2Proof.Machine
end

