-- ==== Sys2Proof/Machine/Regs.lean ====
section
/-! DEFINITION. The register space (R14–R18, R541–R546 and the register tables of every chapter): what a register reads, what a
write does, the 64-bit latches, and the commands that are register accesses. -/
namespace Sys2Proof.Machine

/-! ## What a 32-bit word of the register space reads -/

def b2n (b : Bool) : Nat := if b then 1 else 0
def lo32 (v : Nat) : Nat := v % 2 ^ 32
def hi32 (v : Nat) : Nat := v / 2 ^ 32 % 2 ^ 32
/-- A half of a 64-bit register at `base`. -/
def half (off base v : Nat) : Nat := if off = base then lo32 v else hi32 v

def Servo.code : Servo → Nat
  | .free => 0
  | .acquiring => 1
  | .locked => 2
  | .holdover => 3

def ImgState.code : ImgState → Nat
  | .none => 0
  | .loaded => 1
  | .armed => 2
  | .stopped => 3

def LnMode.code : LnMode → Nat
  | .off => 0
  | .idle => 1
  | .load => 2
  | .pass => 3
  | .gavg => 4
  | .test => 5
  | .halted => 6

def RunState.code : RunState → Nat
  | .halted => 0
  | .running => 1
  | .faulted => 2
  | .waiting => 3

def ChState.code : ChState → Nat
  | .idle => 0
  | .running => 1
  | .halted => 2

def ChWait.code : ChWait → Nat
  | .none => 0
  | .rows => 1
  | .credit => 2
  | .collision => 3
  | .retry => 4
  | .pacing => 5
  | .move => 6

def UrState.code : UrState → Nat
  | .down => 0
  | .training => 1
  | .up => 2
  | .replaced => 3

def W64.ofInt (v : Int) : Nat := (BitVec.ofInt 64 v).toNat

/-- FTB_JOB_FRAME: all ones while not ARMED (R545). -/
def State.jobFrameReg (s : State) : Nat :=
  if s.job.state == .armed then (match s.job.frameAt s.time.ftb with | some n => n | none => 2 ^ 64 - 1) else 2 ^ 64 - 1

/-- FTB_NEXT_ANCHOR: 0 while not ARMED (R545). -/
def State.nextAnchorReg (s : State) : Nat :=
  if s.job.state == .armed then s.job.anchor (match s.job.frameAt s.time.ftb with | some n => n + 1 | none => s.job.base) else 0

/-- GCTL (R544). -/
def State.gctlRead (s : State) (o : Nat) : Nat :=
  match o with
  | 0x00 => 0x0B19B101
  | 0x04 => 0x24342030
  | 0x08 => 0x44642044
  | 0x0C => s.cfg.startSt.1 * 256 + s.job.state.code * 16 + 8 * b2n s.sec.identity +
      4 * b2n (s.cfg.setDef || s.cfg.fenceDef) +
      2 * b2n (s.rel.fencedLn != 0 || s.rel.fencedWk != 0) + b2n (s.mgmt.step.toList.any fun x => x != 0)
  | 0x10 => lo32 Config.serial.toNat
  | 0x14 => hi32 Config.serial.toNat
  | 0x18 => s.misc.scratch.toNat
  | _ => 0

/-- FTB block (R545). -/
def State.ftbRead (s : State) (o : Nat) : Nat :=
  match o with
  | 0x00 => lo32 s.time.ftb
  | 0x04 => hi32 s.time.ftb
  | 0x08 => lo32 (W64.ofInt s.time.pull)
  | 0x0C => 8 * b2n (s.job.state == .armed) + 4 * b2n (bits s.ur.gcfg.toNat 7 5 != 7) + s.time.servo.code
  | 0x10 => lo32 s.jobFrameReg
  | 0x14 => hi32 s.jobFrameReg
  | 0x18 => lo32 s.nextAnchorReg
  | 0x1C => hi32 s.nextAnchorReg
  | 0x20 => s.time.slipCount.toNat
  | _ => 0

/-- CFG (R512). -/
def State.cfgRead (s : State) (o : Nat) : Nat :=
  match o with
  | 0x00 => b2n s.cfg.lastFail * 0x8000 + b2n (s.cfg.waiting.any (·.fence)) * 0x4000 +
      b2n (s.cfg.waiting.any (!·.fence)) * 0x2000 + b2n s.cfg.current.isSome * 0x1000 + b2n s.cfg.fenceDef * 0x200 +
      b2n s.cfg.setDef * 0x100 + s.cfg.startSt.1
  | 0x08 => s.cfg.setSeq.toNat
  | 0x0C => s.cfg.fenceSeq.toNat
  | 0x14 => s.cfg.startTime.toNat
  | 0x18 => s.cfg.lastCause * 16 + s.cfg.lastKind
  | _ => 0

/-- The resting state of the array: an abort of R550 leaves HALTED when the placed occupancy ends. -/
def Lantern.rest (l : Lantern) (now : Nat) : LnMode :=
  if l.mode = .halted ∧ l.occEnd.any (fun e => decide (e ≤ now)) = true then .idle else l.mode

/-- What LN_STATE shows in an L-cycle (R90). -/
def Lantern.shows (l : Lantern) (now : Nat) : LnSpan :=
  match (l.spans.filter fun x => decide (x.since ≤ now)).getLast? with
  | some x => if l.mode = .off then { x with mode := none, dual := false } else x
  | none => ⟨0, none, false, l.bank⟩

/-- The block of Lantern n (R90). -/
def State.lanRead (s : State) (n : LnId) (o : Nat) : Nat :=
  let l := s.lan[n]
  let e := s.rel.ln[n]
  match o with
  | 0x00 => n.1 * 65536 + (e.logic.getD 0xFF) * 256 + 1
  | 0x04 =>
    let x := l.shows (s.lNow (n.1 / 9))
    b2n x.dual * 256 + b2n e.prob * 32 + b2n x.bank * 16 + (x.mode.getD (l.rest (s.lNow (n.1 / 9)))).code
  | 0x08 => 0x33400100
  | 0x10 => l.rowSteer.toNat
  | 0x14 => l.colSteer.toNat
  | 0x18 => l.ctrl.toNat
  | 0x20 => l.err.toNat
  | 0x24 => l.abftLoc.toNat
  | 0x28 => lo32 l.passCount.toNat
  | 0x2C => hi32 l.passCount.toNat
  | 0x30 => l.abftCount.toNat
  | 0x34 => l.parityCount.toNat
  | _ => 0

/-- Requantiser counters (R129). -/
def RqCounters.read (c : RqCounters) (o : Nat) : Nat :=
  match o with
  | 0x00 => c.satHi.toNat
  | 0x04 => c.satLo.toNat
  | 0x08 => c.escape.toNat
  | 0x0C => c.sideFull.toNat
  | 0x10 => c.escRange.toNat
  | 0x14 => c.tagMis.toNat
  | 0x18 => c.accOvf.toNat
  | _ => 0

/-- MEM_ID of memory m (R176). -/
def memId (m : Nat) : Nat :=
  if m < 108 then (m % 3) * 65536 + m / 3 * 256 + (if m % 3 = 1 then 14 else 13)
  else if m < 160 then 3 * 65536 + (m - 108) * 256 + 12
  else 4 * 65536 + 19

/-- Memory counters (R176). -/
def State.memRead (s : State) (m o : Nat) : Nat :=
  let c := getOr s.fab.ctr m MemCtr.reset
  match o with
  | 0x00 => memId m
  | 0x04 => c.ce.toNat
  | 0x08 => c.ue.toNat
  | 0x0C => c.collision.toNat
  | 0x10 => (s.creditCount m).toNat
  | 0x14 => c.ueRow.toNat
  | _ => 0

/-- UNIT of WK_STATE (R251): a unit in a move, and RUN while a thread has not reached its halt. -/
def State.wkUnit (s : State) (w : WkId) : Nat :=
  let k := s.wick[w]
  if k.mode = .off then 0
  else if s.job.moves.any fun m => m.endM != 0 && (m.left == .wick w || m.spare == .wick w) then 4
  else if k.mode = .test ∧ s.lNow (w.1 / 13) < k.winEnd then 3
  else if (List.finRange 4).all fun t => k.reachedHalt t then 1
  else 2

/-- WK_STATE (R251). -/
def State.wkState (s : State) (w : WkId) : Nat :=
  let k := s.wick[w]
  let th (t : Nat) : Nat :=
    let x := getOr k.threads t Thread.reset
    (x.run.code + 4 * b2n x.poison + 8 * b2n x.alt) * 16 ^ t
  s.wkUnit w * 2 ^ 24 + b2n (s.rel.wk[w]).prob * 2 ^ 20 + bits k.taperOwn.toNat 2 2 * 2 ^ 18 + bits k.taperOwn.toNat 1 0 * 2 ^ 16 +
  th 0 + th 1 + th 2 + th 3

/-- The block of Wick n with its Taper registers (R251, R325). -/
def State.wkRead (s : State) (w : WkId) (o : Nat) : Nat :=
  let k := s.wick[w]
  match o with
  | 0x00 => w.1 * 65536 + ((s.rel.wk[w]).logic.getD 0xFF) * 256 + 1
  | 0x04 => s.wkState w
  | 0x08 => b2n k.faultV * 2 ^ 31 + k.faultT.1 * 2 ^ 28 + k.faultC.toNat * 65536
  | 0x0C => k.faultPc.toNat
  | 0x10 => lo32 k.faultAddr.toNat
  | 0x14 => hi32 k.faultAddr.toNat
  | 0x18 => lo32 k.stalls.toNat
  | 0x1C => hi32 k.stalls.toNat
  | 0x20 => k.sbStalls.toNat
  | 0x24 => k.slotsLost.toNat
  | 0x28 => k.lmCe.toNat
  | 0x2C => k.lmUe.toNat
  | 0x100 => b2n k.taper.loader.isSome * 128 + b2n k.taper.sat * 2 + b2n k.taper.ovf
  | 0x104 => k.taper.ceCount.toNat
  | 0x108 => k.taper.ueCount.toNat
  | _ => 0

def chanMask (e : Engine) (f : Chan → Bool) : Nat :=
  ((List.range 32).map fun c => if f (getOr e.ch c Chan.reset) then 2 ^ c else 0).sum

/-- DCH_STATE.WAIT (R347): a wait that the channel holds, or pacing or a move, which follow from its state. -/
def State.chanWait (s : State) (g : Engine) (c : Chan) : ChWait :=
  if c.wait != .none || c.state != .running then c.wait
  else if s.chanMoves c then .move
  else if c.paced && decide (c.paceAfter (mCycle s.time.ftb - g.mcyc) < 256) then .pacing
  else .none

/-- A channel of a DMA engine (R347): DCH_SRC and DCH_DST are physical device addresses. -/
def Chan.read (c : Chan) (wait : ChWait) (phys : Nat → Nat) (o : Nat) : Nat :=
  let srcA := phys (c.cur.srcAt c.srcDone).toNat % 2 ^ 48
  let dstA := phys (c.cur.dstAt c.dstDone).toNat % 2 ^ 48
  match o with
  | 0x00 => c.hold.length * 2 ^ 24 + c.retries * 2 ^ 20 + bits c.cur.ctrl 1 1 * 2 ^ 17 + bits c.cur.ctrl 0 0 * 65536 +
      c.blocks.length * 256 + wait.code * 16 + c.state.code
  | 0x04 => c.list % 65536 * 65536 + c.descIx
  | 0x08 => lo32 srcA
  | 0x0C => hi32 srcA
  | 0x10 => lo32 dstA
  | 0x14 => hi32 dstA
  | 0x18 => lo32 c.errAddr
  | 0x1C => hi32 c.errAddr
  | _ => 0

/-- The block of DMA engine e (R347). -/
def State.dmaRead (s : State) (e : Fin 4) (o : Nat) : Nat :=
  let g := s.dma[e]
  match o with
  | 0x00 => e.1 * 65536 + 0x1020
  | 0x04 => g.eocPend.toNat
  | 0x08 => chanMask g fun c => c.state == .halted
  | 0x0C => chanMask g fun c => c.state == .running
  | 0x10 => g.retryCnt.toNat
  | 0x14 => g.preempt.toNat
  | _ =>
    if 0x1000 ≤ o ∧ o < 0x1800 then
      let c := getOr g.ch ((o - 0x1000) / 0x40) Chan.reset
      c.read (s.chanWait g c) (fun a => (s.imageAddr a).getD a) ((o - 0x1000) % 0x40)
    else 0

/-- The block of HBM controller st (R363). -/
def State.hbmRead (s : State) (st : Fin 4) (o : Nat) : Nat :=
  let h := s.hbm[st]
  let ua := (if h.ueValid then 2 ^ 63 else 0) + h.ueAddr
  match o with
  | 0x00 => st.1 * 65536 + 0x4000 + h.detPc
  | 0x04 => h.temp.toNat * 256 + h.modeNow s.time.ftb
  | 0x08 => h.ceCount.toNat
  | 0x0C => h.ueCount.toNat
  | 0x10 => h.missCount.toNat
  | 0x18 => lo32 ua
  | 0x1C => hi32 ua
  | _ => 0

def StCounters.read (c : StCounters) (o : Nat) : Nat :=
  match o with
  | 0x00 => c.pktA.toNat
  | 0x04 => c.pktB.toNat
  | 0x08 => c.dup.toNat
  | 0x0C => c.crc.toNat
  | 0x10 => c.malformed.toNat
  | 0x14 => c.late.toNat
  | 0x18 => c.seqGap.toNat
  | 0x1C => c.held.toNat
  | _ => 0

/-- Ethernet and stream block (R393). -/
def State.ethRead (s : State) (o : Nat) : Nat :=
  if o < 0x400 then
    let p := getOr s.net.ports (o / 0x100) EthPort.reset
    match o % 0x100 with
    | 0x00 => p.cfg.toNat
    | 0x04 => p.unmatched.toNat * 256 + p.fec.toNat * 16 + p.link.toNat
    | _ => 0
  else if o = 0x800 then s.net.ptpCfg.toNat
  else if o = 0x804 then 4 * b2n s.time.followB + s.time.servo.code
  else if o = 0x808 then lo32 (W64.ofInt s.time.ptpOffset)
  else if o = 0x80C then hi32 (W64.ofInt s.time.ptpOffset)
  else if 0x1000 ≤ o ∧ o < 0x1800 then (getOr s.net.slots ((o - 0x1000) / 0x40) Stream.reset).ctr.read ((o - 0x1000) % 0x40)
  else if 0x8000 ≤ o ∧ o < 0xA000 then
    let t := getOr s.net.slots ((o - 0x8000) / 0x100) Stream.reset
    let q := o % 0x100
    if q < 244 then leNat (slice t.staging.toList q 4)
    else if q = 0xFC then t.lastSeq.toNat * 65536 + 2 * b2n t.pending.isSome else 0
  else 0

/-- Urlan block (R415). -/
def State.urRead (s : State) (o : Nat) : Nat :=
  if o = 0 then s.ur.gcfg.toNat
  else if o = 8 then lo32 (W64.ofInt s.time.urOffset)
  else if o = 0xC then hi32 (W64.ofInt s.time.urOffset)
  else if 0x100 ≤ o ∧ o < 0x700 then
    let l := getOr s.ur.links ((o - 0x100) / 0x100) UrLink.reset
    match o % 0x100 with
    | 0x00 => l.cfg.toNat
    | 0x04 => l.peerMod * 2 ^ 24 + l.peerLink * 2 ^ 20 + l.state.code * 65536 + l.lat % 2048
    | 0x08 => lo32 l.txBase.toNat
    | 0x0C => hi32 l.txBase.toNat
    | 0x10 => lo32 l.txSize.toNat
    | 0x14 => hi32 l.txSize.toNat
    | 0x18 => lo32 l.rxBase.toNat
    | 0x1C => hi32 l.rxBase.toNat
    | 0x20 => lo32 l.rxSize.toNat
    | 0x24 => hi32 l.rxSize.toNat
    | 0x28 => l.crcCount.toNat
    | 0x2C => l.replayCnt.toNat
    | 0x30 => l.lateCount.toNat
    | _ => 0
  else 0

/-- PCIe and ring block (R446). -/
def State.pcieRead (s : State) (o : Nat) : Nat :=
  if 0x1000 ≤ o ∧ o < 0x2000 then
    let r := getOr s.host.rings ((o - 0x1000) / 0x40) RingSt.reset
    match o % 0x40 with
    | 0x00 => r.cfg.toNat
    | 0x04 => b2n r.error * 2 ^ 31 + r.head
    | 0x08 => lo32 r.sqBase.toNat
    | 0x0C => hi32 r.sqBase.toNat
    | 0x10 => lo32 r.cqBase.toNat
    | 0x14 => hi32 r.cqBase.toNat
    | 0x18 => r.cqHead.toNat
    | _ => 0
  else if 0x8000 ≤ o ∧ o < 0x9000 then
    ((getOr s.host.msix ((o - 0x8000) / 16) #v[0, 0, 0, 1]).toList.getD (o % 16 / 4) 0).toNat
  else if 0x9000 ≤ o ∧ o < 0x9020 then s.host.pba.toNat / 2 ^ (8 * (o - 0x9000)) % 2 ^ 32
  else
    match o with
    | 0x2000 => s.log.evCfg.toNat
    | 0x2004 => b2n s.log.error * 2 ^ 31 + s.log.index
    | 0x2008 => lo32 s.log.base.toNat
    | 0x200C => hi32 s.log.base.toNat
    | 0x2010 => s.log.head.toNat
    | 0x2014 => s.log.dropped.toNat
    | 0x3000 => lo32 s.host.bar2.toNat
    | 0x3004 => hi32 s.host.bar2.toNat
    | _ => 0

/-- Rotation lengths of LL_ROT (R460, R472). -/
def RelBlk.rotWick (r : RelBlk) : Nat :=
  ((r.rotation true).map fun i => match r.items[i]? with | some it => it.length | none => 0).sum

/-- Reliability block (R472). -/
def State.relRead (s : State) (o : Nat) : Nat :=
  let r := s.rel
  match o with
  | 0x00 => r.ctrl.toNat
  | 0x04 => countSt r.ln .spare * 2 ^ 24 + countSt r.wk .spare * 65536 + countSt r.ln .fenced * 256 + countSt r.wk .fenced
  | 0x08 => r.libVer.toNat * 65536 + b2n r.libFlash * 32768
  | 0x0C => satFld 16 (r.rotation false).length * 65536 + satFld 16 (r.rotWick / 1024)
  | 0x10 => lo32 r.fencedLn
  | 0x14 => hi32 r.fencedLn
  | 0x18 => lo32 r.fencedWk
  | 0x1C => hi32 r.fencedWk
  | 0x20 => lo32 r.probLn
  | 0x24 => hi32 r.probLn
  | 0x28 => lo32 r.probWk
  | 0x2C => hi32 r.probWk
  | 0x30 => lo32 r.capBase.toNat
  | 0x34 => hi32 r.capBase.toNat
  | 0x38 => r.capSlots.toNat
  | 0x3C => r.capWrit.toNat
  | 0x40 => r.capRel.toNat
  | 0x44 => r.transient.toNat
  | 0x48 => r.permanent.toNat
  | 0x4C => r.testFail.toNat
  | _ => 0

/-- Stamp and security block (R492). -/
def State.secRead (s : State) (o : Nat) : Nat :=
  let b := s.sec
  if 0x100 ≤ o ∧ o < 0x140 then leNat (slice b.nonce.toList (o - 0x100) 4)
  else if 0x200 ≤ o ∧ o < 0x240 then leNat ((List.range 4).map fun i => Config.vendorHash (o - 0x200 + i))
  else if 0x1000 ≤ o ∧ o < 0x1200 then leNat ((List.range 4).map fun i => Config.pubKey (o - 0x1000 + i))
  else if 0x2000 ≤ o ∧ o < 0x2300 then leNat (slice b.quote (o - 0x2000) 4)
  else if 0x3000 ≤ o ∧ o < 0x4000 then leNat (slice b.cert (o - 0x3000) 4)
  else
    match o with
    | 0x00 => s.secStatus
    | 0x08 => b2n b.busy * 2 ^ 31 + b.lastOp.toNat * 256 + b.status.toNat
    | 0x0C => b.len.toNat
    | 0x10 => lo32 b.arg.toNat
    | 0x14 => hi32 b.arg.toNat
    | 0x18 => 2 * b2n b.attDone + b2n b.attBusy
    | _ => 0

/-- Application-core block (R446). -/
def State.appRead (s : State) (o : Nat) : Nat :=
  if 0x100 ≤ o ∧ o < 0x500 then
    let b := getOr s.app.ob ((o - 0x100) / 0x40) ObBox.reset
    match o % 0x40 with
    | 0x00 => lo32 b.base.toNat
    | 0x04 => hi32 b.base.toNat
    | 0x08 => b.cfg.toNat
    | 0x0C => b.written.toNat
    | 0x10 => b.released.toNat
    | _ => 0
  else if 0x800 ≤ o ∧ o < 0xC00 then
    let i := (o - 0x800) / 0x40
    if o % 0x40 = 0 then b2n (getOr s.app.ib i IbBox.reset).error * 2 ^ 31 + satFld 16 (s.ibCredits i) else 0
  else if 0x1000 ≤ o ∧ o < 0x1184 then (getOr s.app.route ((o - 0x1000) / 4) 0).toNat
  else if 0x10000 ≤ o ∧ o < 0x20000 then leNat (slice (getOr s.app.ib ((o - 0x10000) / 0x1000) IbBox.reset).data (o % 0x1000) 4)
  else 0

/-- Saddler status and control pages; only pair p reaches its page (R444, R446). -/
def State.sadRead (s : State) (path : Path) (o : Nat) : Nat :=
  if o < 0x400 then
    let p := getOr s.sad (o / 0x100) Saddler.reset
    if o % 0x100 = 0 then p.major.toNat * 2 ^ 24 + p.minor.toNat * 65536 + b2n p.fromFlash * 32768 + p.restarts.toNat else 0
  else if 0x1000 ≤ o ∧ o < 0x1400 then
    let i := (o - 0x1000) / 0x100
    let p := getOr s.sad i Saddler.reset
    let mine := match path with | .saddler q => q.1 == i | _ => false
    if !mine then 0
    else
      match o % 0x100 with
      | 0x00 => p.pend.toNat
      | 0x08 => b2n p.ie
      | 0x10 => lo32 (p.stack.headD 0).toNat
      | 0x14 => hi32 (p.stack.headD 0).toNat
      | _ => 0
  else 0

/-- The value of the 32-bit word at a register-space offset (R15–R17, R541–R542). -/
def State.regWord (s : State) (path : Path) (off : Nat) : W32 :=
  let off := off / 4 * 4
  BitVec.ofNat 32 (
    if off < 0x00100000 then s.gctlRead off
    else if off < 0x00200000 then s.ftbRead (off - 0x00100000)
    else if off < 0x00300000 then s.cfgRead (off - 0x00200000)
    else if 0x01000000 ≤ off ∧ off < 0x01240000 then
      match toFin? 36 ((off - 0x01000000) / 0x10000) with | some n => s.lanRead n (off % 0x10000) | none => 0
    else if 0x01800000 ≤ off ∧ off < 0x01802400 then
      match toFin? 36 ((off - 0x01800000) / 0x100) with | some n => s.lan[n].rq.read (off % 0x100) | none => 0
    else if 0x01C00000 ≤ off ∧ off < 0x01C02840 then s.memRead ((off - 0x01C00000) / 0x40) (off % 0x40)
    else if 0x02000000 ≤ off ∧ off < 0x02340000 then
      match toFin? 52 ((off - 0x02000000) / 0x10000) with | some w => s.wkRead w (off % 0x10000) | none => 0
    else if 0x03000000 ≤ off ∧ off < 0x03100000 then
      match toFin? 4 ((off - 0x03000000) / 0x40000) with | some e => s.dmaRead e (off % 0x40000) | none => 0
    else if 0x04000000 ≤ off ∧ off < 0x04400000 then
      match toFin? 4 ((off - 0x04000000) / 0x100000) with | some st => s.hbmRead st (off % 0x100000) | none => 0
    else if 0x05000000 ≤ off ∧ off < 0x06000000 then s.ethRead (off - 0x05000000)
    else if 0x06000000 ≤ off ∧ off < 0x07000000 then s.urRead (off - 0x06000000)
    else if 0x07000000 ≤ off ∧ off < 0x08000000 then s.pcieRead (off - 0x07000000)
    else if 0x08000000 ≤ off ∧ off < 0x09000000 then s.relRead (off - 0x08000000)
    else if 0x09000000 ≤ off ∧ off < 0x0A000000 then s.secRead (off - 0x09000000)
    else if 0x0A000000 ≤ off ∧ off < 0x0B000000 then (s.mgmt.read (off - 0x0A000000)).toNat
    else if 0x0B000000 ≤ off ∧ off < 0x0C000000 then s.appRead (off - 0x0B000000)
    else if 0x0C000000 ≤ off ∧ off < 0x0C002000 then s.sadRead path (off - 0x0C000000)
    else 0)

/-! ## 64-bit registers (R14, R542, R546) -/

/-- The offset is the lower half of a 64-bit register. -/
def isLow64 (off : Nat) : Bool :=
  if off < 0x00100000 then off == 0x10
  else if off < 0x00200000 then [0x00100000, 0x00100010, 0x00100018].contains off
  else if 0x01000000 ≤ off ∧ off < 0x01240000 then off % 0x10000 == 0x28
  else if 0x02000000 ≤ off ∧ off < 0x02340000 then [0x10, 0x18].contains (off % 0x10000)
  else if 0x03000000 ≤ off ∧ off < 0x03100000 then
    decide (0x1000 ≤ off % 0x40000 ∧ off % 0x40000 < 0x1800) && [0x08, 0x10, 0x18].contains (off % 0x40)
  else if 0x04000000 ≤ off ∧ off < 0x04400000 then off % 0x100000 == 0x18
  else if 0x05000000 ≤ off ∧ off < 0x06000000 then off == 0x05000808
  else if 0x06000000 ≤ off ∧ off < 0x07000000 then
    off == 0x06000008 || (decide (0x06000100 ≤ off ∧ off < 0x06000700) && [0x08, 0x10, 0x18, 0x20].contains (off % 0x100))
  else if 0x07000000 ≤ off ∧ off < 0x08000000 then
    (decide (0x07001000 ≤ off ∧ off < 0x07002000) && [0x08, 0x10].contains (off % 0x40)) || off == 0x07002008 || off == 0x07003000
  else if 0x08000000 ≤ off ∧ off < 0x09000000 then [0x10, 0x18, 0x20, 0x28, 0x30].contains (off - 0x08000000)
  else if 0x09000000 ≤ off ∧ off < 0x0A000000 then off == 0x09000010
  else if 0x0B000000 ≤ off ∧ off < 0x0C000000 then decide (0x0B000100 ≤ off ∧ off < 0x0B000500) && off % 0x40 == 0
  else if 0x0C001000 ≤ off ∧ off < 0x0C001400 then off % 0x100 == 0x10
  else false

def isHigh64 (off : Nat) : Bool := decide (4 ≤ off) && isLow64 (off - 4)

/-- The latched value of a half under R546, for a path that has read the lower half of FTB_COUNT. -/
def State.tripleHalf (s : State) (path : Path) (off : Nat) : Option W32 :=
  if [0x00100004, 0x00100010, 0x00100014, 0x00100018, 0x0010001C].contains off then
    (s.misc.triples.find? fun t => t.1 == path).map fun t =>
      let (ftb, jf, na) := t.2
      BitVec.ofNat 32 (match off with
        | 0x00100004 => hi32 ftb.toNat
        | 0x00100010 => lo32 jf.toNat
        | 0x00100014 => hi32 jf.toNat
        | 0x00100018 => lo32 na.toNat
        | _ => hi32 na.toNat)
  else none

def latchFind (l : List Latch) (path : Path) (off : Nat) : Option W32 := (l.find? fun x => x.path == path && x.off == off).map (·.value)
def latchDrop (l : List Latch) (path : Path) (off : Nat) : List Latch := l.filter fun x => !(x.path == path && x.off == off)

/-- A 4-byte read (R14, R546): its value, and the latches after it. -/
def State.regRead4 (s : State) (path : Path) (off : Nat) : State × W32 :=
  if off % 4 ≠ 0 then (s, 0)
  else if off = 0x00100000 then
    let v (n : Nat) : W64 := BitVec.ofNat 64 n
    let t := (path, v s.time.ftb, v s.jobFrameReg, v s.nextAnchorReg)
    (s.setMisc { s.misc with triples := t :: s.misc.triples.filter fun x => x.1 != path }, s.regWord path off)
  else
    match s.tripleHalf path off with
    | some v => (s, v)
    | none =>
      if isLow64 off then
        (s.setMisc { s.misc with latches := ⟨path, off, s.regWord path (off + 4)⟩ :: latchDrop s.misc.latches path off }, s.regWord path off)
      else if isHigh64 off then
        match latchFind s.misc.latches path (off - 4) with
        | some v => (s.setMisc { s.misc with latches := latchDrop s.misc.latches path (off - 4) }, v)
        | none => (s, s.regWord path off)
      else (s, s.regWord path off)

/-- A read of 4 or 8 bytes (R14): an aligned 8-byte read of a 64-bit register acts on both halves at once, any other as two 4-byte
reads, the lower address first. -/
def State.regRead (s : State) (path : Path) (off size : Nat) : State × W64 :=
  if size = 4 then
    let (t, v) := s.regRead4 path off
    (t, v.setWidth 64)
  else if size = 8 && off % 8 == 0 then
    if isLow64 off then (s, BitVec.ofNat 64 ((s.regWord path off).toNat + 2 ^ 32 * (s.regWord path (off + 4)).toNat))
    else
      let (t, a) := s.regRead4 path off
      let (u, b) := t.regRead4 path (off + 4)
      (u, BitVec.ofNat 64 (a.toNat + 2 ^ 32 * b.toNat))
  else (s, 0)

/-! ## Writes -/

/-- Counter CLEAR fields (R18): the block's counters to 0. -/
def Wick.clear (k : Wick) : Wick := { k with stalls := 0, sbStalls := 0, slotsLost := 0, lmCe := 0, lmUe := 0, faultV := false }

def State.clearCounters (s : State) (off : Nat) : State :=
  if off = 0x00100024 then s.setTime { s.time with slipCount := 0 }
  else if 0x01800000 ≤ off ∧ off < 0x01802400 ∧ off % 0x100 = 0x1C then
    match toFin? 36 ((off - 0x01800000) / 0x100) with | some n => s.setLan n fun l => { l with rq := RqCounters.reset } | none => s
  else if 0x01C00000 ≤ off ∧ off < 0x01C02840 ∧ off % 0x40 = 0x18 then
    s.settleCredits.updCtr ((off - 0x01C00000) / 0x40) fun c => { MemCtr.reset with ueRow := c.ueRow &&& 0x7FFFFFFF }
  else if 0x02000000 ≤ off ∧ off < 0x02340000 then
    match toFin? 52 ((off - 0x02000000) / 0x10000) with
    | some w =>
      if off % 0x10000 = 0x30 then s.setWick w Wick.clear
      else if off % 0x10000 = 0x10C then s.setWick w fun k => { k with taper := { k.taper with ceCount := 0, ueCount := 0 } }
      else s
    | none => s
  else if 0x03000000 ≤ off ∧ off < 0x03100000 ∧ off % 0x40000 = 0x18 then
    match toFin? 4 ((off - 0x03000000) / 0x40000) with | some e => s.setEng e fun g => { g with retryCnt := 0, preempt := 0 } | none => s
  else if 0x04000000 ≤ off ∧ off < 0x04400000 ∧ off % 0x100000 = 0x20 then
    match toFin? 4 ((off - 0x04000000) / 0x100000) with
    | some i => s.setHbm i fun h => { h with ceCount := 0, ueCount := 0, missCount := 0, ueValid := false }
    | none => s
  else if 0x05001000 ≤ off ∧ off < 0x05001800 ∧ off % 0x40 = 0x20 then
    s.setNet { s.net with slots := updNat s.net.slots ((off - 0x05001000) / 0x40) fun t => { t with ctr := StCounters.reset } }
  else if 0x06000100 ≤ off ∧ off < 0x06000700 ∧ off % 0x100 = 0x34 then
    s.setUr { s.ur with links := updNat s.ur.links ((off - 0x06000100) / 0x100) fun l => { l with crcCount := 0, replayCnt := 0, lateCount := 0 } }
  else if off = 0x08000050 then s.setRel { s.rel with transient := 0, permanent := 0, testFail := 0 }
  else if off = 0x0A000020 then s.setMgmt { s.mgmt with count := 0 }
  else s

/-- A CLEAR field written 1. -/
def counterClearEffect (off : Nat) (value : W32) (s : State) : State := if bit value.toNat 0 then s.clearCounters off else s

/-- R81: steering takes effect only in OFF or IDLE with no job armed. -/
def steeringEffect (n : LnId) (col : Bool) (value : W32) (s : State) : State :=
  if (s.lan[n].mode == .off || s.lan[n].mode == .idle) && s.job.state != .armed then
    s.setLan n fun l => if col then { l with colSteer := value &&& steerMask } else { l with rowSteer := value &&& steerMask }
  else s

/-- R365: a port's configuration, ignored while armed; a change of MODE retrains the port's links. -/
def ethCfgEffect (p : Fin 4) (value : W32) (s : State) : State :=
  if s.job.state == .armed then s
  else
    s.setNet { s.net with ports := upd s.net.ports p fun x =>
      let v := value &&& ethCfgMask
      if v &&& 3 = x.cfg &&& 3 then { x with cfg := v } else { x with cfg := v, link := 0, fec := 0 } }

/-- R387: GO copies the staging page as the pending command. ITEMS above 30 is taken as 30 (log 25). -/
def stagedCommand (t : Stream) (at_ : Nat) : RrscCmd :=
  let b := t.staging.toList
  { offset := fld b 0 1
    items := (List.range (min 30 (fld b 1 1))).map fun i => (fld b (4 + 8 * i) 2, BitVec.ofNat 32 (fld b (8 + 8 * i) 4))
    cmdSeq := fld b 2 2
    at_ := at_ }

def rrscCommitEffect (slot : Fin 32) (value : W32) (s : State) : State :=
  if bit value.toNat 0 then
    s.setNet { s.net with slots := upd s.net.slots slot fun t => { t with pending := some (stagedCommand t s.time.ftb) } }
  else s

/-- R409, R415: a window register, ignored while armed. -/
def UrLink.writeWindow (l : UrLink) (reg : Nat) (v : W64) : UrLink :=
  match reg with
  | 0x08 => { l with txBase := v &&& 0x0000FFFFFFFFFE00 }
  | 0x10 => { l with txSize := v &&& 0x0000000FFFFFFFFF }
  | 0x18 => { l with rxBase := v &&& 0x0000FFFFFFFFFE00 }
  | 0x20 => { l with rxSize := v &&& 0x0000000FFFFFFFFF }
  | _ => l

/-- R396: training begins whenever ENABLE rises; a link that is not enabled is DOWN (DEDUCED, log 26). -/
def UrLink.writeCfg (l : UrLink) (v : W32) : UrLink :=
  let v := v &&& urLinkCfgMask
  let l' := { l with cfg := v }
  if !bit v.toNat 8 then { l' with state := .down } else if !bit l.cfg.toNat 8 then { l' with state := .training } else l'

/-- R250, R444: SET raises the software line of a pair's page. -/
def State.sadSwi (s : State) (p : Fin 4) (v : W32) : State :=
  s.setSad p fun x => if bit v.toNat 3 then { x with pend := x.pend ||| 8 } else x

/-- A write to 32 bits of a register or byte array that is not half of a 64-bit register (R15). SEC_CMD and CFG_RESET act here as their
own commands do, with the outcomes of flash and start-up free (R18, log 27). -/
def State.regWrite32 (s : State) (path : Path) (off : Nat) (v : W32) : State :=
  if off = 0x18 then s.setMisc { s.misc with scratch := v }
  else if off = 0x00200004 then
    (if bit v.toNat 0 then s.setCfg { s.cfg with waiting := s.cfg.waiting ++ [⟨false, 0, s.settingsFields⟩] } else s)
  else if off = 0x00200010 then (if v.toNat / 65536 = 0x5752 ∧ bit v.toNat 0 = true ∧ s.mgmt.supplies = true then s.askWarm path else s)
  else if 0x01000000 ≤ off ∧ off < 0x01240000 then
    match toFin? 36 ((off - 0x01000000) / 0x10000) with
    | none => s
    | some n =>
      match off % 0x10000 with
      | 0x10 => steeringEffect n false v s
      | 0x14 => steeringEffect n true v s
      | 0x18 => s.setLan n fun l => { l with ctrl := v &&& 7 }
      | 0x20 => s.setLan n fun l => { l with err := l.err &&& ~~~(v &&& 0x3FF) }
      | _ => s
  else if 0x02000000 ≤ off ∧ off < 0x02340000 ∧ off % 0x10000 = 0x08 then
    match toFin? 52 ((off - 0x02000000) / 0x10000) with
    | some w => if bit v.toNat 31 then s.setWick w fun k => { k with faultV := false } else s
    | none => s
  else if 0x03000000 ≤ off ∧ off < 0x03100000 ∧ off % 0x40000 = 0x04 then
    match toFin? 4 ((off - 0x03000000) / 0x40000) with
    | some e => s.setEng e fun g => { g with eocPend := g.eocPend &&& ~~~v }
    | none => s
  else if 0x05000000 ≤ off ∧ off < 0x05000400 ∧ off % 0x100 = 0 then
    match toFin? 4 ((off - 0x05000000) / 0x100) with | some p => ethCfgEffect p v s | none => s
  else if off = 0x05000800 then
    let s1 := s.setNet { s.net with ptpCfg := v &&& ptpCfgMask }
    if bit v.toNat 16 then s1.ptpChanged else { s1.ptpChanged with time := { s1.ptpChanged.time.setPull 0 with servo := .free } }
  else if 0x05008000 ≤ off ∧ off < 0x0500A000 then
    match toFin? 32 ((off - 0x05008000) / 0x100) with
    | none => s
    | some k =>
      if off % 0x100 < 244 then
        s.setNet { s.net with slots := upd s.net.slots k fun t =>
          { t with staging := (List.range 4).foldl (fun st i => updNat st (off % 0x100 + i) fun _ => (leBytes 4 v.toNat).getD i 0) t.staging } }
      else if off % 0x100 = 0xFC then rrscCommitEffect k v s else s
  else if off = 0x06000000 then s.setUr { s.ur with gcfg := v &&& urGcfgMask }
  else if 0x06000100 ≤ off ∧ off < 0x06000700 ∧ off % 0x100 = 0 then
    s.setUr { s.ur with links := updNat s.ur.links ((off - 0x06000100) / 0x100) fun l => l.writeCfg v }
  else if 0x07000000 ≤ off ∧ off < 0x07000200 ∧ off % 8 = 0 then
    match toFin? 64 ((off - 0x07000000) / 8) with | some k => doorbellEffect k v s | none => s
  else if 0x07001000 ≤ off ∧ off < 0x07002000 then
    match toFin? 64 ((off - 0x07001000) / 0x40), off % 0x40 with
    | some k, 0x00 => s.writeRingCfg (.pair k) v
    | some k, 0x18 => s.updRing k fun r => { r with cqHead := v &&& 0xFFFF }
    | _, _ => s
  else if off = 0x07002000 then s.writeEvCfg v
  else if off = 0x07002010 then ({ s with log := { s.log with head := v &&& 0xFFFF } } : State).putOverflow
  else if 0x07008000 ≤ off ∧ off < 0x07009000 then
    let i := (off - 0x07008000) / 16
    let s1 : State := { s with host := { s.host with msix := updNat s.host.msix i fun e => updNat e (off % 16 / 4) fun _ => v } }
    if off % 16 = 12 ∧ bit v.toNat 0 = false ∧ bit s.host.pba.toNat i = true then
      ({ s1 with host := { s1.host with pba := s1.host.pba &&& ~~~(BitVec.ofNat 256 (2 ^ i)) } } : State).emit (.msix i)
    else s1
  else if 0x08000000 ≤ off ∧ off < 0x09000000 then
    match off with
    | 0x08000000 => s.setRel { s.rel with ctrl := v &&& 3 }
    | 0x08000038 => s.setRel { s.rel with capSlots := v &&& 0xFF }
    | 0x08000040 => s.setRel { s.rel with capRel := v }
    | _ => s.clearCounters (if bit v.toNat 0 then off else 0)
  else if 0x09000000 ≤ off ∧ off < 0x0A000000 then
    if 0x09000100 ≤ off ∧ off < 0x09000140 then
      s.setSec { s.sec with nonce := (List.range 4).foldl (fun n i => updNat n (off - 0x09000100 + i) fun _ => (leBytes 4 v.toNat).getD i 0) s.sec.nonce }
    else
      match off with
      | 0x09000004 => secCmdEffect v s
      | 0x0900000C => s.setSec { s.sec with len := v }
      | 0x09000018 => attestGoEffect v s
      | _ => s
  else if 0x0A000000 ≤ off ∧ off < 0x0B000000 then s.setMgmt (s.mgmt.write (off - 0x0A000000) v)
  else if 0x0B000000 ≤ off ∧ off < 0x0C000000 then
    let o := off - 0x0B000000
    if 0x100 ≤ o ∧ o < 0x500 then
      s.setApp { s.app with ob := updNat s.app.ob ((o - 0x100) / 0x40) fun b =>
        match o % 0x40 with
        | 0x08 => { b with cfg := v &&& 0x800001FF }
        | 0x10 => { b with released := v }
        | _ => b }
    else if 0x800 ≤ o ∧ o < 0xC00 then
      match toFin? 16 ((o - 0x800) / 0x40), o % 0x40 with
      | some i, 0x00 => if bit v.toNat 31 then s.updIb i fun b => { b with error := false } else s
      | some i, 0x04 => ibSendEffect i v s
      | _, _ => s
    else if 0x1000 ≤ o ∧ o < 0x1184 then
      s.setApp { s.app with route := updNat s.app.route ((o - 0x1000) / 4) fun _ => v &&& 0x800F07FF }
    else if 0x10000 ≤ o ∧ o < 0x20000 then
      s.setApp { s.app with ib := updNat s.app.ib ((o - 0x10000) / 0x1000) fun b =>
        let d := padTo 4096 b.data
        { b with data := d.take (o % 0x1000) ++ leBytes 4 v.toNat ++ d.drop (o % 0x1000 + 4) } }
    else s
  else if 0x0C001000 ≤ off ∧ off < 0x0C001400 then
    match toFin? 4 ((off - 0x0C001000) / 0x100), path with
    | some i, .saddler q =>
      match off % 0x100 with
      | 0x00 => if q = i then s.setSad i fun x => { x with pend := x.pend &&& ~~~(v.setWidth 16) } else s
      | 0x04 => s.sadSwi i v
      | 0x08 => if q = i then s.setSad i fun x => { x with ie := bit v.toNat 0 } else s
      | _ => s
    | _, _ => s
  else if bit v.toNat 0 then s.clearCounters off else s

/-- Both halves of a 64-bit register at once. -/
def State.regWrite64 (s : State) (path : Path) (off : Nat) (v : W64) : State :=
  if 0x06000100 ≤ off ∧ off < 0x06000700 then
    if s.job.state == .armed then s
    else s.setUr { s.ur with links := updNat s.ur.links ((off - 0x06000100) / 0x100) fun l => l.writeWindow (off % 0x100) v }
  else if 0x07001000 ≤ off ∧ off < 0x07002000 then
    match toFin? 64 ((off - 0x07001000) / 0x40), off % 0x40 with
    | some k, 0x08 => s.updRing k fun r => if ringOn r.cfg then r else { r with sqBase := v &&& 0x0000FFFFFFFFF000 }
    | some k, 0x10 => s.updRing k fun r => if ringOn r.cfg then r else { r with cqBase := v &&& 0x0000FFFFFFFFF000 }
    | _, _ => s
  else if off = 0x07002008 then
    if ringOn s.log.evCfg then s else { s with log := { s.log with base := v &&& 0x0000FFFFFFFFF000 } }
  else if off = 0x07003000 then { s with host := { s.host with bar2 := v &&& 0x0000FFFFE0000000 } }
  else if off = 0x08000030 then s.setRel { s.rel with capBase := v &&& 0x0000FFFFFFFFF000 }
  else if off = 0x09000010 then s.setSec { s.sec with arg := v &&& 0x0000FFFFFFFFFFFF }
  else if 0x0B000100 ≤ off ∧ off < 0x0B000500 then
    s.setApp { s.app with ob := updNat s.app.ob ((off - 0x0B000100) / 0x40) fun b => { b with base := v &&& 0x0000FFFFFFFFFFC0 } }
  else if 0x0C001000 ≤ off ∧ off < 0x0C001400 then
    match toFin? 4 ((off - 0x0C001000) / 0x100), path with
    | some i, .saddler q =>
      if q = i then s.setSad i fun x => match x.stack with | [] => x | _ :: t => { x with stack := v.setWidth 48 :: t } else s
    | _, _ => s
  else s

/-- A 4-byte write (R14): a lower half is held until the upper half comes. -/
def State.regWrite4 (s : State) (path : Path) (off : Nat) (v : W32) : State :=
  if off % 4 ≠ 0 then s
  else if isLow64 off then s.setMisc { s.misc with pendLow := ⟨path, off, v⟩ :: latchDrop s.misc.pendLow path off }
  else if isHigh64 off then
    let low := (latchFind s.misc.pendLow path (off - 4)).getD (s.regWord path (off - 4))
    (s.setMisc { s.misc with pendLow := latchDrop s.misc.pendLow path (off - 4) }).regWrite64 path (off - 4)
      (BitVec.ofNat 64 (low.toNat + 2 ^ 32 * v.toNat))
  else s.regWrite32 path off v

/-- A write of 4 or 8 bytes (R14, R418); other sizes and unaligned accesses are discarded. -/
def State.regWrite (s : State) (path : Path) (off size : Nat) (v : W64) : State :=
  if size = 4 then s.regWrite4 path off (v.setWidth 32)
  else if size = 8 && off % 8 == 0 then
    if isLow64 off then s.regWrite64 path off v
    else (s.regWrite4 path off (v.setWidth 32)).regWrite4 path (off + 4) ((v >>> 32).setWidth 32)
  else s

/-! ## Access to the register space at all (R495, R543) -/

/-- BAR0 answers from step 7 of start-up on; SMBus reaches the management block alone, through its own commands. -/
def State.pathOpen (s : State) (path : Path) (off : Nat) : Bool :=
  s.mgmt.supplies && (match path with
    | .bar0 => s.host.cfgUp
    | .smbus => decide (0x0A000000 ≤ off ∧ off < 0x0B000000)
    | _ => true)

/-! ## Meanings -/

/-- R15: REGISTER_WRITE. -/
def execRegisterWrite (p : Path) (off size : Nat) (value : W64) (s : State) : Host.Outcome State Fault Refusal :=
  .next (if s.pathOpen p off then s.regWrite p off size value else s)

/-- R14: REGISTER_LOWER_HALF_READ, in 4 or 8 bytes; a read of another word follows R14 too, and an unaligned one answers 0. -/
def execRegisterLowerHalfRead (p : Path) (r : RegRead) (s : State) : Host.Outcome State Fault Refusal :=
  .next (if s.pathOpen p r.off then
    let (t, v) := s.regRead p r.off r.size
    t.emit (.read p r.off v) else s)

/-- R546: FTB_COUNT_LOW_READ. -/
def execFtbCountLowRead (p : Path) (s : State) : Host.Outcome State Fault Refusal :=
  .next (if s.pathOpen p 0x00100000 then
    let (t, v) := s.regRead4 p 0x00100000
    t.emit (.read p 0x00100000 (v.setWidth 64)) else s)

/-- R18: COUNTER_CLEAR. -/
def execCounterClear (p : Path) (off : Nat) (value : W32) (s : State) : Host.Outcome State Fault Refusal :=
  .next (if s.pathOpen p off then counterClearEffect off value s else s)

/-- R81: STEERING_WRITE. -/
def execSteeringWrite (p : Path) (n : LnId) (col : Bool) (value : W32) (s : State) : Host.Outcome State Fault Refusal :=
  .next (if s.pathOpen p 0x01000010 then steeringEffect n col value s else s)

/-- R419: BAR2_BASE_WRITE, as halves or whole (R14). -/
def execBar2BaseWrite (p : Path) (h : Half) (value : W64) (s : State) : Host.Outcome State Fault Refusal :=
  .next (if s.pathOpen p 0x07003000 then
    match h with
    | .low => s.regWrite4 p 0x07003000 (value.setWidth 32)
    | .high => s.regWrite4 p 0x07003004 (value.setWidth 32)
    | .full => s.regWrite64 p 0x07003000 value
  else s)

/-- R365: ETH_PORT_CFG_WRITE. -/
def execEthPortCfgWrite (pa : Path) (p : Fin 4) (value : W32) (s : State) : Host.Outcome State Fault Refusal :=
  .next (if s.pathOpen pa 0x05000000 then ethCfgEffect p value s else s)

/-- R387: RRSC_COMMIT_GO. -/
def execRrscCommitGo (pa : Path) (slot : Fin 32) (value : W32) (s : State) : Host.Outcome State Fault Refusal :=
  .next (if s.pathOpen pa 0x05008000 then rrscCommitEffect slot value s else s)

/-- R409, R415: UR_WINDOW_WRITE at a register-space offset of a window register, as halves or whole. -/
def execUrWindowWrite (pa : Path) (off : Nat) (h : Half) (value : W64) (s : State) : Host.Outcome State Fault Refusal :=
  .next (if s.pathOpen pa off && decide (0x06000100 ≤ off ∧ off < 0x06000700) && isLow64 off then
    match h with
    | .low => s.regWrite4 pa off (value.setWidth 32)
    | .high => s.regWrite4 pa (off + 4) (value.setWidth 32)
    | .full => s.regWrite64 pa off value
  else s)

end Sys2Proof.Machine
end

