-- ==== Sys2Proof/Machine/Access.lean ====
section
/-! DEFINITION. Accesses by device address from outside the deterministic domain: BAR2 (R419), application cores (R439), Saddler pairs
(R291), with R28, R161 and R360–R362; configuration requests (R417, R495), FLR and hot reset (R420). -/
namespace Sys2Proof.Machine

/-- Who makes an access. -/
inductive Agent where
  | bar2
  | app (hart : Fin 16)
  | sad (p : Fin 4)
deriving DecidableEq, Repr

/-- Requester port of R364. -/
def Agent.port : Agent → Nat
  | .bar2 => 0x80
  | .app _ => 0x81
  | .sad _ => 0x82

/-- UNIT of DOMAIN_ACCESS_REFUSED (R28, R547); of a Saddler pair the spec gives none, and it is the pair (log 29). -/
def Agent.unit : Agent → Nat × Nat
  | .bar2 => (0x0C, 0)
  | .app h => (0x08, h.1 / 4)
  | .sad p => (0x07, p.1)

/-- What an access finds at an address: a target, a refusal of R28, or nothing. -/
inductive Reach where
  | open_ | refused | nothing
deriving DecidableEq, Repr

def State.reaches (s : State) (who : Agent) (a : Nat) : Reach :=
  let armed := s.job.state == .armed
  match place a with
  | .hbm _ _ => if s.hbmDet a then .refused else if s.hbmUp a then .open_ else .nothing
  | .map _ | .lan _ _ | .local_ _ _ | .taperX _ _ | .taperY _ _ | .vec _ _ =>
    if armed then .refused else .open_
  | .reg _ | .host _ => (match who with | .bar2 => .nothing | _ => .open_)
  | .none => .nothing

/-- What a write of n bytes finds. A pair's stores reach, while a job is armed, the shadow copies of epoch blocks alone (R25, R230). -/
def State.reachesWrite (s : State) (who : Agent) (a n : Nat) : Reach :=
  let shadow (w off : Nat) : Bool := match toFin? 52 w with | some w => s.inShadow w off n && !s.locked w off n | none => false
  match who, place a with
  | .sad _, .local_ w o => if shadow w o then .open_ else s.reaches who a
  | .sad _, .vec w o => if shadow w (0x80000000 + o) then .open_ else s.reaches who a
  | _, _ => s.reaches who a

/-- An access cut at multiples of 512 bytes: address, offset in the access, bytes. -/
def pieces (a n : Nat) : List (Nat × Nat × Nat) :=
  (List.range ((a % 512 + n + 511) / 512)).map fun i =>
    let lo := max a (a / 512 * 512 + 512 * i)
    let hi := min (a + n) (a / 512 * 512 + 512 * (i + 1))
    (lo, lo - a, hi - lo)

/-- The numbers of the `size`-byte parts of a 512-byte unit that n bytes from a touch. -/
def parts (a n size : Nat) : List Nat := (List.range (512 / size)).filter fun i => decide (a % 512 < size * (i + 1) ∧ size * i < a % 512 + n)

/-- The numbers of the `size`-byte parts that n bytes from a touch and do not cover. -/
def cutParts (a n size : Nat) : List Nat :=
  (parts a n size).filter fun i => decide (size * i < a % 512 ∨ a % 512 + n < size * (i + 1))

/-- The sectors of a row that a write covers in part are read through the correction (R161); a write of whole sectors reads none. -/
def State.mergeRead (s : State) (row : Nat) (secs : List Nat) : State := if secs.isEmpty then s else s.checkRow row secs

/-- A piece read: the data bytes and the poison that an HBM or Wick read returns (R161: of a row, the data bytes alone). -/
def State.readPiece (s : State) (who : Agent) (a n : Nat) : State × List Byte × Bool :=
  match place a with
  | .hbm _ _ =>
    let (t, p) := s.checkBlock (rowBase a) who.port (parts a n 64)
    (t, t.mem.bytes a n, p)
  | .map _ | .lan _ _ =>
    let t := s.checkRow (rowBase a) (parts a n 32)
    (t, t.mem.bytes a n, false)
  | .vec w o =>
    match toFin? 52 w with
    | some w =>
      let t := (parts a n 32).foldl (fun (t : State) i =>
        let b := t.vecAddr w (o / 512 * 512 + 32 * i)
        t.checkRow (rowBase b) [(b - rowBase b) / 32]) s
      (t, (List.range n).map (fun i => t.mem.byte (t.vecAddr w (o + i))), false)
    | none => (s, [], false)
  | .local_ w o =>
    match toFin? 52 w with
    | some w => s.localRead w o n
    | none => (s, [], false)
  | .taperX w o =>
    match toFin? 52 w with
    | some w => s.localRead w (0x00040000 + o) n
    | none => (s, [], false)
  | .taperY w o =>
    match toFin? 52 w with
    | some w => s.localRead w (0x00060000 + o) n
    | none => (s, [], false)
  | .host _ => (s, s.mem.bytes a n, false)
  | _ => (s, List.replicate n 0, false)

/-- The sectors of a row that a write of some bytes touches, written with the bytes merged in and fresh check bits; tag and poison stay
(R161). -/
def MemBlk.merge (m : MemBlk) (a : Nat) (l : List Byte) : MemBlk :=
  (parts a l.length 32).foldl (fun m i => m.setEcc (rowBase a + 32 * i) 0) (m.write a l)

/-- A piece written. -/
def State.writePiece (s : State) (a : Nat) (l : List Byte) : State :=
  match place a with
  | .hbm _ _ => s.setMem (s.mem.writePart a l false)
  | .map _ | .lan _ _ =>
    let t := s.mergeRead (rowBase a) (cutParts a l.length 32)
    t.setMem (t.mem.merge a l)
  | .vec w o =>
    match toFin? 52 w with
    | some w =>
      (List.zip (List.range l.length) l).foldl (fun (t : State) p =>
        t.setMem (t.mem.merge (t.vecAddr w (o + p.1)) [p.2]))
        ((cutParts a l.length 32).foldl (fun (t : State) i =>
          let b := t.vecAddr w (o / 512 * 512 + 32 * i)
          t.checkRow (rowBase b) [(b - rowBase b) / 32]) s)
    | none => s
  | .local_ w o =>
    match toFin? 52 w with
    | some w => s.localPut w o l
    | none => s
  | .taperX w o =>
    match toFin? 52 w with
    | some w => s.localPut w (0x00040000 + o) l
    | none => s
  | .taperY w o =>
    match toFin? 52 w with
    | some w => s.localPut w (0x00060000 + o) l
    | none => s
  | .host _ => s.setMem (s.mem.write a l)
  | _ => s

/-- What an access by device address comes to. -/
structure Answer where
  data   : List Byte
  poison : Bool
  /-- Some byte maps nothing. -/
  unmapped : Bool
deriving DecidableEq, Repr

/-- DOMAIN_ACCESS_REFUSED, once for an access, with the first address refused and the requester, 0 for BAR2 and 1 for an application core
(R28, R548). -/
def State.logRefused (s : State) (who : Agent) (a : Nat) : State :=
  s.logEv 0x0A10 who.unit.1 who.unit.2 [(8, a), (1, match who with | .bar2 => 0 | _ => 1)]

/-- A refused write: a pair's store into local memory outside a shadow copy logs LOCAL_WRITE_REFUSED (R230), any other as R28 says. -/
def State.logRefusedWrite (s : State) (who : Agent) (a : Nat) : State :=
  match who, place a with
  | .sad _, .local_ w _ => s.logEv 0x0504 2 w [(8, a), (1, who.port)]
  | _, _ => s.logRefused who a

/-- A read of n bytes: refused bytes and bytes that map nothing read as 0 (R28, R419). -/
def State.devRead (s : State) (who : Agent) (a n : Nat) : State × Answer :=
  let ps := pieces a n
  let r := ps.foldl (fun (acc : State × List Byte × Bool) p =>
    match acc.1.reaches who p.1 with
    | .open_ =>
      let (t, b, q) := acc.1.readPiece who p.1 p.2.2
      (t, acc.2.1 ++ b, acc.2.2 || q)
    | _ => (acc.1, acc.2.1 ++ List.replicate p.2.2 0, acc.2.2)) (s, [], false)
  let t := match ps.find? fun p => s.reaches who p.1 == .refused with
    | some p => r.1.logRefused who p.1
    | none => r.1
  (t, ⟨r.2.1, r.2.2, ps.any fun p => s.reaches who p.1 == .nothing⟩)

/-- A write: refused bytes and bytes that map nothing are discarded. -/
def State.devWrite (s : State) (who : Agent) (a : Nat) (l : List Byte) : State × Answer :=
  let ps := pieces a l.length
  let r := ps.foldl (fun (t : State) p =>
    match t.reachesWrite who p.1 p.2.2 with
    | .open_ => t.writePiece p.1 (slice l p.2.1 p.2.2)
    | _ => t) s
  let t := match ps.find? fun p => s.reachesWrite who p.1 p.2.2 == .refused with
    | some p => r.logRefusedWrite who p.1
    | none => r
  (t, ⟨[], false, ps.any fun p => s.reaches who p.1 == .nothing⟩)

/-- An access of the register space by an application core or a Saddler pair (R14). -/
def State.regAccess (s : State) (p : Path) (off n : Nat) (write : Option (List Byte)) : State × List Byte :=
  match write with
  | some l => (s.regWrite p off n (BitVec.ofNat 64 (leNat l)), [])
  | none =>
    let (t, v) := s.regRead p off n
    (t, leBytes n v.toNat)

/-- An access by device address of a core or a pair: the register space under R14, any other place by its bytes. -/
def State.coreAccess (s : State) (who : Agent) (p : Path) (a n : Nat) (write : Option (List Byte)) : State × Answer :=
  match place a, write with
  | .reg off, _ =>
    let (t, b) := s.regAccess p off n write
    (t, ⟨b, false, false⟩)
  | _, some l => s.devWrite who a l
  | _, none => s.devRead who a n

/-! ## BAR2 and the application cores -/

/-- R28, R419: BAR2_ACCESS of byte off on, of at most the max payload size, within the 16 GiB window. -/
def bar2Effect (off n : Nat) (write : Option (List Byte)) (s : State) : State :=
  let a := s.host.bar2.toNat + off
  match write with
  | some l => if l.length ≤ 512 ∧ off + l.length ≤ 2 ^ 34 then (s.devWrite .bar2 a l).1 else s
  | none =>
    if n ≤ 512 ∧ off + n ≤ 2 ^ 34 then
      let (t, r) := s.devRead .bar2 a n
      t.emit (.bytes a r.data r.poison)
    else s

def execBar2Access (off n : Nat) (write : Option (List Byte)) (s : State) : Host.Outcome State Fault Refusal :=
  .next (if s.mgmt.supplies && s.host.cfgUp then bar2Effect off n write s else s)

/-- R28, R439: APP_CORE_ACCESS of 1 to 64 bytes. An address that maps nothing is an access fault on the core; poison from HBM is a
data abort (R362). -/
def appCoreEffect (hart : Fin 16) (addr n : Nat) (write : Option (List Byte)) (s : State) : State :=
  let size := match write with | some l => l.length | none => n
  if size = 0 ∨ 64 < size ∨ 2 ^ 48 < addr + size then s
  else
    let (t, r) := s.coreAccess (.app hart) .app addr size write
    if r.unmapped || r.poison then t.emit (.accessFault hart.1 addr)
    else if write.isNone then t.emit (.bytes addr r.data false)
    else t

def execAppCoreAccess (hart : Fin 16) (addr n : Nat) (write : Option (List Byte)) (s : State) : Host.Outcome State Fault Refusal :=
  .next (if s.mgmt.supplies then appCoreEffect hart addr n write s else s)

/-! ## Configuration space -/

/-- A word of configuration space: identity and class as R417 gives them, the command register, BAR0 and BAR2 as R418 and R419 size them,
and words that no rule gives (log 13). -/
def State.pciRead (s : State) (off : Nat) : W32 :=
  match off / 4 with
  | 0 => 0x0B191F5A
  | 1 => s.host.pciCmd
  | 2 => 0x120000B1
  | 4 => s.host.barAt0.setWidth 32 ||| 0x4
  | 5 => (s.host.barAt0 >>> 32).setWidth 32
  | 6 => s.host.barAt2.setWidth 32 ||| 0xC
  | 7 => (s.host.barAt2 >>> 32).setWidth 32
  | _ => Config.pciWord (off / 4 * 4)

/-- A write to a word of configuration space: the address bits of BAR0 (256 MiB, 64-bit) and BAR2 (16 GiB, 64-bit) are those above their size. -/
def HostBlk.pciWrite (h : HostBlk) (off : Nat) (v : W32) : HostBlk :=
  let low (a : W64) : W64 := (a &&& 0xFFFFFFFF00000000) ||| v.setWidth 64
  let high (a : W64) : W64 := (a &&& 0x00000000FFFFFFFF) ||| (v.setWidth 64 <<< 32)
  match off / 4 with
  | 1 => { h with pciCmd := v &&& 0x0000FFFF }
  | 4 => { h with barAt0 := low h.barAt0 &&& 0xFFFFFFFFF0000000 }
  | 5 => { h with barAt0 := high h.barAt0 }
  | 7 => { h with barAt2 := high h.barAt2 &&& 0xFFFFFFFC00000000 }
  | _ => h

/-- R417, R495: CONFIG_REQUEST. Before configuration space answers, the request completes with Request Retry Status. -/
def configEffect (off : BitVec 12) (write : Option W32) (s : State) : State :=
  if !s.host.cfgUp then s.emit (.config off.toNat none)
  else
    match write with
    | none => s.emit (.config off.toNat (some (s.pciRead off.toNat)))
    | some v => s.setHost (s.host.pciWrite off.toNat v)

def execConfigRequest (off : BitVec 12) (write : Option W32) (s : State) : Host.Outcome State Fault Refusal :=
  .next (if s.mgmt.supplies then configEffect off write s else s)

/-! ## FLR and hot reset (R420) -/

/-- A ring pair after FLR or hot reset: disabled when the host owns it. -/
def RingSt.hostReset (r : RingSt) : RingSt := if ringOwner r.cfg = 0 && ringOn r.cfg then r.disable r.cfg else r

def HostBlk.hostReset (h : HostBlk) : HostBlk :=
  { h with rings := h.rings.map RingSt.hostReset, bar2 := 0, msix := msixReset, pba := 0, pciCmd := 0, barAt0 := 0, barAt2 := 0 }

def LogBlk.hostReset (l : LogBlk) : LogBlk := if ringOwner l.evCfg = 0 then { l with evCfg := l.evCfg &&& 0x7FFFFFFF } else l

/-- Configuration space, BAR2_BASE, the MSI-X table and the host's rings; the latches of R14; Saddler line 6 (R444). -/
def hostResetEffect (kind : Nat) (s : State) : State :=
  let s := s.drain
  (({ s with host := s.host.hostReset, log := s.log.hostReset, misc := { s.misc with latches := [], pendLow := [] } } : State).sadLine 6).logEv
    0x0A04 0x0C 0 [(1, kind)]

def execFlr (s : State) : Host.Outcome State Fault Refusal :=
  .next (if s.mgmt.supplies && s.host.cfgUp then hostResetEffect 0 s else s)

def execHotReset (s : State) : Host.Outcome State Fault Refusal :=
  .next (if s.mgmt.supplies && s.host.cfgUp then hostResetEffect 1 s else s)

end Sys2Proof.Machine
end

