-- ==== Sys2Proof/Machine/Flags.lean ====
section
/-! DEFINITION. Saturation and rounding with the conditions they raise (R112, R301, R311, R315), and the classification of a fault
with its counters (R452, R454, R457, R472). -/
namespace Sys2Proof.Machine

/-! ## Saturation and rounding -/

/-- A value held to a range. -/
def clampInt (lo hi v : Int) : Int := max lo (min hi v)

/-- A value saturated to n bits, signed. -/
def satS (n : Nat) (v : Int) : Int := clampInt (-(2 ^ (n - 1))) (2 ^ (n - 1) - 1) v

/-- A value saturated to n bits, unsigned. -/
def satU (n : Nat) (v : Int) : Int := clampInt 0 (2 ^ n - 1) v

/-- An arithmetic shift right, rounded to nearest with ties away from zero (R112, R301, R315). -/
def roundShift (v : Int) (sh : Nat) : Int :=
  if sh = 0 then v
  else if 0 ≤ v then (v + 2 ^ (sh - 1)) / 2 ^ sh
  else -((-v + 2 ^ (sh - 1)) / 2 ^ sh)

/-- An accumulator result of 56 bits and whether it was saturated (R311). -/
def acc56 (v : Int) : BitVec 56 × Bool := (BitVec.ofInt 56 (satS 56 v), satS 56 v != v)

/-! ## Classification of a fault -/

/-- Counters of TRANSIENT and PERMANENT classifications (R472). -/
def RelBlk.countClass (r : RelBlk) (permanent : Bool) : RelBlk :=
  if permanent then { r with permanent := satInc r.permanent } else { r with transient := satInc r.transient }

/-- A classification: counted and logged; class 0 TRANSIENT, 1 PERMANENT, 2 UNRESOLVED (R473). -/
def State.classify (s : State) (kind num cls code line : Nat) : State :=
  ((if cls = 2 then s else s.setRel (s.rel.countClass (cls == 1))).logEv 0x0B01 kind num [(1, cls), (2, code), (2, line)])

end Sys2Proof.Machine
end

