-- ==== Sys2Proof/Machine/Operands.lean ====
section
/-! DEFINITION. The two encodings of the base set (R280–R290), the encodings of the vector extension (R304–R305) and of the Taper
(R312, R323–R324), the register file (R253, R255), conditions (R269) and addressing modes (R257). -/
namespace Sys2Proof.Machine

/-! ## Scalar registers -/

/-- A register as an operand: g0 reads as 0 (R253). -/
def regGet (g : Vector W64 32) (r : G) : W64 := if r = 0 then 0 else g[r]

/-- A register written: g0 discards the write (R253). -/
def regSet (g : Vector W64 32) (r : G) (v : W64) : Vector W64 32 := if r = 0 then g else upd g r fun _ => v

/-- Registers written in order. -/
def regSets (g : Vector W64 32) (l : List (G × W64)) : Vector W64 32 := l.foldl (fun g p => regSet g p.1 p.2) g

/-- Exchange g16–g31 with a shadow bank (R240): the new active registers and the new shadow bank. -/
def bankSwap (g : Vector W64 32) (sh : Vector W64 16) : Vector W64 32 × Vector W64 16 :=
  (Vector.ofFn fun i : Fin 32 => if i.1 < 16 then g[i] else getOr sh (i.1 - 16) 0,
   Vector.ofFn fun i : Fin 16 => getOr g (i.1 + 16) 0)

/-! ## Conditions and addressing modes -/

/-- The condition codes of R269 on w-bit operands. -/
def condHolds {w : Nat} (c : Cond) (a b : BitVec w) : Bool :=
  match c with
  | .eq => a == b
  | .ne => a != b
  | .lt => a.slt b
  | .ge => !a.slt b
  | .ltu => a.ult b
  | .geu => !a.ult b
  | .bs => (a &&& b) != 0
  | .bc => (a &&& b) == 0

/-- Condition code by number (R269). -/
def condOf (n : Nat) : Cond := #[Cond.eq, .ne, .lt, .ge, .ltu, .geu, .bs, .bc].getD n .eq

/-- Effective address and the base register's update (R257). -/
def eaOf (m : AMode) (g : Vector W64 32) (gb : G) : W64 × Option W64 :=
  let b := regGet g gb
  match m with
  | .off o => (b + o.signExtend 64, none)
  | .postInc o => (b, some (b + o.signExtend 64))
  | .preDec o => (b - o.signExtend 64, some (b - o.signExtend 64))
  | .index gi s => (b + (regGet g gi <<< s.1), none)

/-- A mode that updates its base register (R258). -/
def modeUpdates : AMode → Bool
  | .postInc _ | .preDec _ => true
  | _ => false

/-- Registers that an address names (R257). -/
def modeReads (m : AMode) (gb : G) : List G :=
  match m with
  | .index gi _ => [gb, gi]
  | _ => [gb]

def sizeBytes : Size → Nat
  | .b => 1
  | .h => 2
  | .w => 4
  | .d => 8

/-! ## The variable encoding (R280–R285) -/

/-- What the bytes of an instruction buffer spell: an instruction with its length, an encoding that raises ILLEGAL, or too few
bytes to tell. -/
inductive Dec where
  | ok (i : Instr) (len : Nat)
  | illegal
  | short
deriving DecidableEq, Repr

/-- A register byte (R283). -/
def gByte (l : List Byte) (i : Nat) : Option (Fin 32) := (l[i]?).bind fun b => toFin? 32 b.toNat

/-- A register byte of a mask register. -/
def mByte (l : List Byte) (i : Nat) : Option (Fin 8) := (l[i]?).bind fun b => toFin? 8 b.toNat

/-- A register field that must be 0. -/
def zByte (l : List Byte) (i : Nat) : Option Unit := if l[i]? = some 0 then some () else none

/-- Immediate or offset at byte i: 8 bits, or 32 with 0xEA, sign-extended. -/
def immField (l : List Byte) (i : Nat) (wide : Bool) : BitVec 32 :=
  if wide then BitVec.ofNat 32 (fld l i 4) else (BitVec.ofNat 8 (fld l i 1)).signExtend 32

/-- The same, unsigned (R301: VSLUP, VSLDN, VNRS). -/
def uimmField (l : List Byte) (i : Nat) (wide : Bool) : BitVec 32 := BitVec.ofNat 32 (fld l i (if wide then 4 else 1))

/-- Mode byte at i and the field after it (R257, R283): mode and base register. Mode 3 has no widened form. -/
def modeField (l : List Byte) (i : Nat) (wide : Bool) : Option (AMode × G) :=
  let b := (l.getD i 0).toNat
  (toFin? 32 (b % 64)).bind fun gb =>
    match b / 64 with
    | 0 => some (.off (immField l (i + 1) wide), gb)
    | 1 => some (.postInc (immField l (i + 1) wide), gb)
    | 2 => some (.preDec (immField l (i + 1) wide), gb)
    | _ =>
      if wide then none
      else
        let x := (l.getD (i + 1) 0).toNat
        (toFin? 32 (x % 64)).bind fun gi => (toFin? 4 (x / 64)).map fun sc => (.index gi sc, gb)

/-- Bytes of a base-space instruction from its opcode on (R284); none where the opcode, or its widened form, is ILLEGAL. -/
def baseLen (op : Nat) (wide : Bool) : Option Nat :=
  let plain (n : Nat) : Option Nat := if wide then none else some n
  if op ≤ 0x04 then plain 1
  else if op ≤ 0x06 then some (if wide then 5 else 3)
  else if op ≤ 0x08 then plain 2
  else if op = 0x09 then plain 3
  else if op = 0x0A then some (if wide then 10 else 4)
  else if op = 0x0B then some (if wide then 6 else 4)
  else if 0x10 ≤ op ∧ op ≤ 0x1E then plain 4
  else if 0x20 ≤ op ∧ op ≤ 0x27 then some (if wide then 7 else 4)
  else if 0x28 ≤ op ∧ op ≤ 0x2B then plain 4
  else if 0x2C ≤ op ∧ op ≤ 0x2F then plain 3
  else if (0x30 ≤ op ∧ op ≤ 0x36) ∨ (0x38 ≤ op ∧ op ≤ 0x3B) then some (if wide then 7 else 4)
  else if 0x40 ≤ op ∧ op ≤ 0x47 then plain 3
  else if 0x48 ≤ op ∧ op ≤ 0x4F then some (if wide then 6 else 3)
  else none

/-- The three-register arithmetic of opcodes 0x10 to 0x1E and of the compact sub codes 0x00 to 0x0E (R285, R290). -/
def arith3 (x : Site) (n : Nat) (d a b : G) : Option Instr :=
  match n with
  | 0 => some (.addSub x false d a b)
  | 1 => some (.addSub x true d a b)
  | 2 => some (.andOrXor x .and d a b)
  | 3 => some (.andOrXor x .or d a b)
  | 4 => some (.andOrXor x .xor d a b)
  | 5 => some (.shlShrSar x .shl d a b)
  | 6 => some (.shlShrSar x .shr d a b)
  | 7 => some (.shlShrSar x .sar d a b)
  | 8 => some (.mul x d a b)
  | 9 => some (.mulhMulhu x false d a b)
  | 10 => some (.mulhMulhu x true d a b)
  | 11 => some (.divDivu x false d a b)
  | 12 => some (.divDivu x true d a b)
  | 13 => some (.remRemu x false d a b)
  | 14 => some (.remRemu x true d a b)
  | _ => none

/-- The immediate forms of opcodes 0x20 to 0x27 (R285); a shift immediate above 63 is ILLEGAL. -/
def immForm (x : Site) (n : Nat) (d a : G) (imm : BitVec 32) : Option Instr :=
  let sh (op : ShiftOp) : Option Instr := (toFin? 64 imm.toNat).map fun k => .shiftImmediate x op d a k
  match n with
  | 0 => some (.immediateAlu x .add d a imm)
  | 1 => some (.immediateAlu x .and d a imm)
  | 2 => some (.immediateAlu x .or d a imm)
  | 3 => some (.immediateAlu x .xor d a imm)
  | 4 => sh .shl
  | 5 => sh .shr
  | 6 => sh .sar
  | 7 => some (.immediateAlu x .mul d a imm)
  | _ => none

def sizeOf4 (n : Nat) : Size := #[Size.b, .h, .w, .d].getD n .b

/-- Size and extension of a load by its opcode (R256): LD.B, LD.BU, LD.H, LD.HU, LD.W, LD.WU, LD.D. -/
def loadForm (n : Nat) : Size × Bool :=
  #[(Size.b, false), (.b, true), (.h, false), (.h, true), (.w, false), (.w, true), (.d, false)].getD n (.d, false)

/-- A base-space instruction from its opcode byte on (R281–R285). -/
def decodeBase (x : Site) (wide : Bool) (l : List Byte) : Option Instr :=
  let op := (l.getD 0 0).toNat
  let g (i : Nat) : Option G := gByte l i
  if op = 0x00 then some (.nop x)
  else if op = 0x01 then some (.halt x)
  else if op = 0x02 then some (.ret x)
  else if op = 0x03 then some (.reti x)
  else if op = 0x04 then some (.drain x)
  else if op ≤ 0x06 then
    let off : BitVec 32 := if wide then BitVec.ofNat 32 (fld l 1 4) else (BitVec.ofNat 16 (fld l 1 2)).signExtend 32
    some (if op = 0x05 then .jmp x (.rel off) else .call x (.rel off))
  else if op ≤ 0x08 then (g 1).map fun a => if op = 0x07 then .jmp x (.reg a) else .call x (.reg a)
  else if op = 0x09 then (g 1).bind fun d => (toFin? 16 (fld l 2 1)).map fun n => .featr x d n
  else if op = 0x0A then (g 1).map fun d => .li x d (if wide then BitVec.ofNat 64 (fld l 2 8) else (BitVec.ofNat 16 (fld l 2 2)).signExtend 64)
  else if op = 0x0B then (g 1).map fun d => .lis x d (BitVec.ofNat 32 (fld l 2 (if wide then 4 else 2)))
  else if op ≤ 0x1E then (g 1).bind fun d => (g 2).bind fun a => (g 3).bind fun b => arith3 x (op - 0x10) d a b
  else if op ≤ 0x27 then (g 1).bind fun d => (g 2).bind fun a => immForm x (op - 0x20) d a (immField l 3 wide)
  else if op ≤ 0x2B then (g 1).bind fun d => (g 2).bind fun a => (g 3).map fun b => .crcs x (sizeOf4 (op - 0x28)) d a b
  else if op = 0x2C then (g 1).bind fun d => (g 2).map fun a => .par x d a
  else if op ≤ 0x2E then (g 1).bind fun d => (g 2).map fun a => .brev x (op == 0x2E) d a
  else if op = 0x2F then (g 1).bind fun d => (g 2).map fun a => .clz x d a
  else if op ≤ 0x36 then (g 1).bind fun d => (modeField l 2 wide).map fun m => .load x (loadForm (op - 0x30)).1 (loadForm (op - 0x30)).2 d m.1 m.2
  else if op ≤ 0x3B then (g 1).bind fun d => (modeField l 2 wide).map fun m => .store x (sizeOf4 (op - 0x38)) d m.1 m.2
  else if op ≤ 0x47 then (g 1).bind fun a => (g 2).map fun b => .skip x (condOf (op - 0x40)) a (.reg b)
  else (g 1).map fun a => .skip x (condOf (op - 0x48)) a (.imm (immField l 2 wide))

/-! ## The vector encoding (R304–R305) -/

/-- Bytes of a vector instruction from its opcode on. -/
def vecLen (op : Nat) (wide : Bool) : Option Nat :=
  let plain (n : Nat) : Option Nat := if wide then none else some n
  if op < 0x50 then (if op % 4 < 2 then plain 5 else if op % 4 = 2 then some (if wide then 8 else 5) else none)
  else if op = 0x60 ∨ op = 0x63 ∨ op = 0x64 ∨ op = 0x71 then plain 4
  else if op = 0x61 then some (if wide then 7 else 4)
  else if op = 0x62 then some (if wide then 8 else 5)
  else if op = 0x65 ∨ op = 0x66 ∨ (0x6C ≤ op ∧ op ≤ 0x70) ∨ op = 0x72 then plain 5
  else if 0x67 ≤ op ∧ op ≤ 0x6B then some (if wide then 8 else 5)
  else none

/-- The mask byte (R304): its cc field, and MEN with the register; unused fields must be 0. -/
def maskByte (l : List Byte) (i : Nat) : Option (Nat × VMask) :=
  let b := (l.getD i 0).toNat
  if 128 ≤ b then none
  else if bit b 3 then (toFin? 8 (b % 8)).map fun m => (b / 16, some m)
  else if b % 8 = 0 then some (b / 16, none)
  else none

/-- A mask byte outside VCMP: cc 0. -/
def maskOnly (l : List Byte) (i : Nat) : Option VMask := (maskByte l i).bind fun c => if c.1 = 0 then some c.2 else none

/-- The arithmetic group, by the base opcode over 4 (R305). -/
def vecArith (x : VSite) (n : Nat) (vd va : V) (b : VRhs) (mk : VMask) : Option Instr :=
  match n with
  | 0 => some (.vaddVsub x false vd va b mk)
  | 1 => some (.vaddVsub x true vd va b mk)
  | 2 => some (.vmulVmacc x false vd va b mk)
  | 3 => some (.vmulhVmulhu x false vd va b mk)
  | 4 => some (.vmulhVmulhu x true vd va b mk)
  | 5 => some (.vmulVmacc x true vd va b mk)
  | 6 => some (.vandVorVxor x .and vd va b mk)
  | 7 => some (.vandVorVxor x .or vd va b mk)
  | 8 => some (.vandVorVxor x .xor vd va b mk)
  | 9 => some (.vshlVshrVsar x .shl vd va b mk)
  | 10 => some (.vshlVshrVsar x .shr vd va b mk)
  | 11 => some (.vshlVshrVsar x .sar vd va b mk)
  | 12 => some (.vrsr x vd va b mk)
  | 13 => some (.vminVmax x .min vd va b mk)
  | 14 => some (.vminVmax x .max vd va b mk)
  | 15 => some (.vminVmax x .minu vd va b mk)
  | 16 => some (.vminVmax x .maxu vd va b mk)
  | 17 => some (.vsaddVssub x false vd va b mk)
  | 18 => some (.vsaddVssub x true vd va b mk)
  | _ => none

/-- A vector instruction from its opcode byte on. -/
def decodeVec (x : VSite) (wide : Bool) (l : List Byte) : Option Instr :=
  let op := (l.getD 0 0).toNat
  let g (i : Nat) : Option (Fin 32) := gByte l i
  let mi := if wide then 7 else 4
  if op < 0x50 then
    (g 1).bind fun vd => (g 2).bind fun va =>
      (if op % 4 = 0 then (g 3).map VRhs.vec else if op % 4 = 1 then (g 3).map VRhs.scalar else some (VRhs.imm (immField l 3 wide))).bind fun b =>
        if op / 4 = 19 then
          (mByte l 1).bind fun md => (maskByte l mi).map fun mk => .vcmp x (condOf mk.1) md va b mk.2
        else (maskOnly l mi).bind fun mk => vecArith x (op / 4) vd va b mk
  else if op = 0x60 then (g 1).bind fun d => (g 2).map fun a => .vsetl x d a (l.getD 3 0)
  else if op = 0x61 then (g 1).bind fun vd => (modeField l 2 wide).map fun m => .vld x vd m.1 m.2
  else if op = 0x62 then (g 1).bind fun vs => (modeField l 2 wide).bind fun m => (g mi).map fun gt => .vst x vs m.1 m.2 gt
  else if op = 0x63 then (g 1).bind fun vd => (g 2).bind fun a => (g 3).map fun vi => .vgth x vd a vi
  else if op = 0x64 then (g 1).bind fun vd => (g 2).bind fun a => (maskOnly l 3).map fun mk => .vmvs x vd a mk
  else if op = 0x65 then (g 1).bind fun d => (g 2).bind fun va => (g 3).bind fun b => (zByte l 4).map fun _ => .vmvx x d va b
  else if op = 0x66 then
    (g 1).bind fun vd => (g 2).bind fun va => (g 3).bind fun vb => (maskOnly l 4).bind fun mk => mk.map fun m => .vsel x vd va vb m
  else if op ≤ 0x68 then
    (g 1).bind fun vd => (g 2).bind fun va => (maskOnly l mi).map fun mk => .vslupVsldn x (op == 0x68) vd va (uimmField l 3 wide) mk
  else if op ≤ 0x6A then
    (g 1).bind fun vd => (g 2).bind fun va => (maskOnly l mi).bind fun mk =>
      if uimmField l 3 wide = 0 then some (.vwidsVwidu x (op == 0x6A) vd va mk) else none
  else if op = 0x6B then
    (g 1).bind fun vd => (g 2).bind fun va => (maskOnly l mi).map fun mk => .vnrs x vd va (uimmField l 3 wide) mk
  else if op ≤ 0x70 then
    (g 1).bind fun d => (g 2).bind fun va => (zByte l 3).bind fun _ => (maskOnly l 4).map fun mk =>
      .vreduction x (#[VRed.sum, .min, .max, .minu, .maxu].getD (op - 0x6C) .sum) d va mk
  else if op = 0x71 then (g 1).bind fun d => (g 2).bind fun a => (g 3).map fun b => .vcrc x d a b
  else (g 1).bind fun d => (zByte l 2).bind fun _ => (zByte l 3).bind fun _ => (maskOnly l 4).bind fun mk => mk.map fun m => .vmpop x d m

/-! ## The Taper encoding (R312, R323–R324) -/

/-- Bytes of a Taper instruction from its opcode on; `test` for the 0xEB forms. TREP counts its own bytes only. -/
def taperLen (op : Nat) (test : Bool) : Option Nat :=
  if test then (if op = 0x10 then some 9 else if op = 0x20 then some 2 else none)
  else if op ≤ 0x01 then some 1
  else if op ≤ 0x04 then some 2
  else if op = 0x08 then some 4
  else if op = 0x10 then some 9
  else if op = 0x18 then some 4
  else if op = 0x19 ∨ op = 0x1A then some 2
  else none

/-- The operand bytes of TMAC and TMACS, from the opcode on (R310). -/
def tmacBytes (l : List Byte) : Option TmacArgs :=
  (gByte l 1).bind fun gx => (gByte l 2).map fun gy =>
    ⟨gx, gy, BitVec.ofNat 16 (fld l 3 2), BitVec.ofNat 16 (fld l 5 2), l.getD 7 0, l.getD 8 0⟩

/-- A Taper instruction other than TREP, from its opcode byte on. -/
def decodeTaper (x : VSite) (test : Bool) (l : List Byte) : Option Instr :=
  let op := (l.getD 0 0).toNat
  let g (i : Nat) : Option (Fin 32) := gByte l i
  if test then
    (if op = 0x10 then (tmacBytes l).map fun a => .tmacs x a else (g 1).map fun d => .tsigr x d)
  else if op = 0x00 then some (.tclr x)
  else if op = 0x01 then some (.tsync x)
  else if op = 0x02 then (g 1).map fun d => .tstat x d
  else if op = 0x03 then (g 1).map fun a => .tload x a
  else if op = 0x08 then (toFin? 8 (fld l 1 1)).bind fun c => (g 2).bind fun b => (g 3).map fun n => .tsetc x c b n
  else if op = 0x10 then (tmacBytes l).map fun a => .tmac x a
  else if op = 0x18 then (g 1).map fun vd => .tout x vd (l.getD 2 0) (l.getD 3 0)
  else if op = 0x19 then (g 1).map fun vd => .texp x vd
  else if op = 0x1A then (g 1).map fun vs => .tnorm x vs
  else none

/-- TREP with the TMAC or TMACS that follows it (R312), from the bytes after its opcode on. -/
def decodeTrep (x : VSite) (tst : Bool) (l : List Byte) : Dec :=
  match l with
  | [] => .short
  | n :: t =>
    match toFin? 32 n.toNat with
    | none => .illegal
    | some gn =>
      let body (test : Bool) (r : List Byte) (pre : Nat) : Dec :=
        if r.length < 9 then (if r.isEmpty || r.getD 0 0 == 0x10 then .short else .illegal)
        else if r.getD 0 0 = 0x10 then
          match tmacBytes r with
          | some a => .ok (.trep x gn test a) (3 + pre + 9)
          | none => .illegal
        else .illegal
      match t with
      | [] => .short
      | b :: r =>
        if b = 0xE9 then body false r 1
        else if b = 0xEB then
          (if !tst then .illegal
           else match r with
            | [] => .short
            | c :: q => if c = 0xE9 then body true q 2 else .illegal)
        else .illegal

/-! ## Decoding a Wick instruction -/

/-- A byte from 0xE8 to 0xEF is a prefix (R280). -/
def isPrefix (b : Byte) : Bool := decide (0xE8 ≤ b.toNat ∧ b.toNat ≤ 0xEF)

/-- The opcode and operands after the prefixes: `space` 0 base, 1 vector, 2 Taper; `pre` prefix bytes. A 2-byte opcode is
assigned in no space (R282). -/
def decodeBody (w : WkId) (t : Fin 4) (pair : Bool) (res : Residue) (tst eb ea : Bool) (space pre : Nat) (l : List Byte) : Dec :=
  match l with
  | [] => .short
  | b :: rest =>
    if isPrefix b then .illegal
    else
      let op := b.toNat
      let vx : VSite := ⟨w, t, ea, pair, res⟩
      let fin (n : Option Nat) (i : Option Instr) : Dec :=
        match n with
        | none => .illegal
        | some n => if l.length < n then .short else match i with | some i => .ok i (pre + n) | none => .illegal
      if space = 0 then
        if eb then .illegal else fin (baseLen op ea) (decodeBase (.wick w t ea res) ea l)
      else if space = 1 then
        if eb then .illegal else fin (vecLen op ea) (decodeVec vx ea l)
      else if ea || (eb && !tst) then .illegal
      else if op = 0x04 && !eb then decodeTrep vx tst rest
      else fin (taperLen op eb) (decodeTaper vx eb l)

/-- Bytes of an encoding, from its prefixes and its first opcode byte (R282): those of its format, or of its opcode alone where no format
is assigned. -/
def encodedLen (l : List Byte) : Nat :=
  let pre := l.takeWhile isPrefix
  let op := (l.getD pre.length 0).toNat
  let ea := pre.contains 0xEA
  let n := if pre.contains 0xE8 then vecLen op ea else if pre.contains 0xE9 then taperLen op (pre.contains 0xEB) else baseLen op ea
  pre.length + n.getD (if 0xF0 ≤ op then 2 else 1)

/-- The prefixes name the vector or the Taper space (R280). -/
def vectorSpace (l : List Byte) : Bool := (l.takeWhile isPrefix).any fun b => b == 0xE8 || b == 0xE9

/-- The instruction at the front of an instruction buffer (R280–R285, R304–R305, R323–R324). `tst`: the Wick is in test or recovery
state. -/
def decodeWick (w : WkId) (t : Fin 4) (pair : Bool) (res : Residue) (tst : Bool) (l : List Byte) : Dec :=
  let eb := l.getD 0 0 == 0xEB
  let l1 := if eb then l.drop 1 else l
  let ea := l1.getD 0 0 == 0xEA
  let l2 := if ea then l1.drop 1 else l1
  let n := (if eb then 1 else 0) + (if ea then 1 else 0)
  match l2 with
  | 0xE8 :: r => decodeBody w t pair res tst eb ea 1 (n + 1) r
  | 0xE9 :: r => decodeBody w t pair res tst eb ea 2 (n + 1) r
  | r => decodeBody w t pair res tst eb ea 0 n r

/-! ## The compact encoding (R286–R290) -/

/-- A 16-bit instruction (R287–R288). -/
def decodeShort (p : Fin 4) (h : Nat) : Option Instr :=
  let x : Site := .sad p true
  let op := bits h 14 10
  (toFin? 32 (bits h 9 5)).bind fun rd => (toFin? 32 (bits h 4 0)).bind fun ra =>
    let imm : BitVec 32 := (BitVec.ofNat 5 (bits h 4 0)).signExtend 32
    let sh (o : ShiftOp) : Option Instr := (toFin? 64 (bits h 4 0)).map fun k => .shiftImmediate x o rd rd k
    let rel : BitVec 32 := (BitVec.ofNat 10 (bits h 9 0)).signExtend 32
    if op = 0x01 then
      if rd != 0 then none
      else match ra.1 with
        | 0 => some (.nop x)
        | 1 => some (.halt x)
        | 2 => some (.ret x)
        | 3 => some (.reti x)
        | 4 => some (.drain x)
        | _ => none
    else if op = 0x02 then some (.addSub x false rd ra 0)
    else if op = 0x03 then some (.addSub x false rd rd ra)
    else if op = 0x04 then some (.addSub x true rd rd ra)
    else if op = 0x05 then some (.andOrXor x .and rd rd ra)
    else if op = 0x06 then some (.andOrXor x .or rd rd ra)
    else if op = 0x07 then some (.andOrXor x .xor rd rd ra)
    else if op = 0x08 then some (.immediateAlu x .add rd rd imm)
    else if op = 0x09 then some (.li x rd (imm.signExtend 64))
    else if op = 0x0A then sh .shl
    else if op = 0x0B then sh .shr
    else if op = 0x0C then sh .sar
    else if op = 0x0D then some (.load x .d false rd (.off 0) ra)
    else if op = 0x0E then some (.store x .d rd (.off 0) ra)
    else if op = 0x0F then some (.load x .w false rd (.off 0) ra)
    else if op = 0x10 then some (.store x .w rd (.off 0) ra)
    else if op = 0x11 then some (.skip x .eq rd (.reg ra))
    else if op = 0x12 then some (.skip x .ne rd (.reg ra))
    else if op = 0x14 then some (.jmp x (.rel rel))
    else if op = 0x15 then some (.call x (.rel rel))
    else if op = 0x16 then (if rd = 0 then some (.jmp x (.reg ra)) else none)
    else if op = 0x17 then (if rd = 0 then some (.call x (.reg ra)) else none)
    else if op = 0x18 then some (.crcs x .b rd ra 0)
    else none

/-- Mode of a CM word (R289). -/
def compactMode (v : Nat) : Option (AMode × G) :=
  (toFin? 32 (bits v 20 16)).bind fun gb =>
    let off : BitVec 32 := (BitVec.ofNat 11 (bits v 31 21)).signExtend 32
    if bit v 0 then none
    else match bits v 2 1 with
      | 0 => some (.off off, gb)
      | 1 => some (.postInc off, gb)
      | 2 => some (.preDec off, gb)
      | _ =>
        if bits v 31 28 != 0 then none
        else (toFin? 32 (bits v 25 21)).bind fun gi => (toFin? 4 (bits v 27 26)).map fun sc => (.index gi sc, gb)

/-- A 32-bit instruction, W = H0 + 2^16 H1 (R286, R289–R290). -/
def decodeLong (p : Fin 4) (v : Nat) : Option Instr :=
  let x : Site := .sad p false
  let op := bits v 14 8
  (toFin? 32 (bits v 7 3)).bind fun rd => (toFin? 32 (bits v 20 16)).bind fun ra => (toFin? 32 (bits v 25 21)).bind fun rb =>
    let sub := bits v 31 26
    let imm : BitVec 32 := (BitVec.ofNat 11 (bits v 31 21)).signExtend 32
    let low0 := bits v 2 0 == 0
    let one (i : Instr) : Option Instr := if rb = 0 then some i else none
    if op = 0x01 then
      if !low0 then none
      else if sub ≤ 0x0E then arith3 x sub rd ra rb
      else if 0x10 ≤ sub ∧ sub ≤ 0x13 then some (.crcs x (sizeOf4 (sub - 0x10)) rd ra rb)
      else if sub = 0x14 then one (.par x rd ra)
      else if sub = 0x15 then one (.brev x false rd ra)
      else if sub = 0x16 then one (.brev x true rd ra)
      else if sub = 0x17 then one (.clz x rd ra)
      else none
    else if 0x02 ≤ op ∧ op ≤ 0x09 then (if low0 then immForm x (op - 0x02) rd ra imm else none)
    else if op = 0x0A then (if low0 then some (.li x rd ((BitVec.ofNat 16 (bits v 31 16)).signExtend 64)) else none)
    else if op = 0x0B then (if low0 then some (.lis x rd (BitVec.ofNat 32 (bits v 31 16))) else none)
    else if 0x10 ≤ op ∧ op ≤ 0x16 then
      (compactMode v).map fun m => .load x (loadForm (op - 0x10)).1 (loadForm (op - 0x10)).2 rd m.1 m.2
    else if 0x18 ≤ op ∧ op ≤ 0x1B then (compactMode v).map fun m => .store x (sizeOf4 (op - 0x18)) rd m.1 m.2
    else if op = 0x20 then
      (if low0 && rd == 0 && decide (sub < 8) then some (.skip x (condOf sub) ra (.reg rb)) else none)
    else if op = 0x21 then (if bits v 4 0 = 0 then some (.skip x (condOf (bits v 7 5)) ra (.imm imm)) else none)
    else if op = 0x28 ∨ op = 0x29 then
      let off : BitVec 32 := (BitVec.ofNat 24 (bits v 31 16 * 256 + bits v 7 0)).signExtend 32
      some (if op = 0x28 then .jmp x (.rel off) else .call x (.rel off))
    else if op = 0x2A ∨ op = 0x2B then
      (if low0 && rd == 0 && rb == 0 && sub == 0 then some (if op = 0x2A then .jmp x (.reg ra) else .call x (.reg ra)) else none)
    else if op = 0x30 then
      (if low0 && ra == 0 then (toFin? 16 (bits v 31 21)).map fun n => .featr x rd n else none)
    else none

/-- A compact instruction from its bytes in address order: the instruction and its length (R286); none where it is ILLEGAL. -/
def decodeCompact (p : Fin 4) (l : List Byte) : Option (Instr × Nat) :=
  let h := fld l 0 2
  if h < 0x8000 then (decodeShort p h).map fun i => (i, 2) else (decodeLong p (fld l 0 4)).map fun i => (i, 4)

end Sys2Proof.Machine
end

