-- ==== Sys2Proof/Machine/Wick.lean ====
section
/-! DEFINITION. The Wick core (spec/08): rotation and slots (R221–R226), instruction buffers (R229), the local-memory port (R228), the
store buffer (R235–R237), interrupts and exceptions (R239–R245), poison (R247), the control page (R250), waits for a map row (R248);
and the issue of instructions at both sites of the base set, the Wick threads and the Saddler pairs (R291). -/
namespace Sys2Proof.Machine

/-! ## W-cycles -/

def Wick.updT (k : Wick) (t : Fin 4) (f : Thread → Thread) : Wick := { k with threads := upd k.threads t f }

/-- What W-cycles that have passed bring to a thread: vector loads due (R234) and refilled lines (R229). -/
def Thread.settle (rho wcyc : Nat) (th : Thread) : Thread :=
  { th with v := (th.vloads.filter fun l => l.due < rho).foldl (fun v l => upd v l.reg fun _ => l.data) th.v
            vloads := th.vloads.filter fun l => !(l.due < rho)
            buf := th.buf ++ (th.coming.filter fun c => c.1 ≤ wcyc).flatMap (·.2)
            coming := th.coming.filter fun c => !(c.1 ≤ wcyc) }

/-- A write to CP_TAPER_OWNER has effect once every Taper instruction issued before it has completed (R245). -/
def Wick.settleOwner (k : Wick) : Wick :=
  match k.ownDue with
  | some (due, v) => if due ≤ k.rho then { k with taperOwn := v, ownDue := none } else k
  | none => k

/-- The line loader ends at its W-cycle by LINE_LOAD_DONE; nothing else of it moves here. W-cycles pass: `r` unstalled, `d`
stalled; every stall cycle counts (R221, R238). -/
def Wick.pass (k : Wick) (r d : Nat) : Wick :=
  let rho := k.rho + r
  let wc := k.wcyc + r + d
  ({ k with rho := rho, wcyc := wc, stalls := k.stalls + BitVec.ofNat 64 d, threads := k.threads.map (Thread.settle rho wc) } : Wick).settleOwner

/-- Accesses of n W-cycles at the local-memory port that come before what the port has in hand: refills under way give way and their
lines come as much later (R228). -/
def Wick.portTake (k : Wick) (n : Nat) : Wick :=
  let d := if k.wcyc < k.port then n else 0
  { k with port := max k.port k.wcyc + n
           threads := k.threads.map fun th => { th with coming := th.coming.map fun c => if k.wcyc + 1 < c.1 then (c.1 + d, c.2) else c } }

/-- Slots of thread u among the unstalled W-cycles from a up to b. -/
def slotsIn (a b u : Nat) : Nat := (b + 3 - u) / 4 - (a + 3 - u) / 4

/-- The W-cycle in which thread t next may issue: its slot, after a TREP of its own (R221, R313). -/
def Wick.slotOf (k : Wick) (t : Fin 4) : Nat :=
  let m := max k.rho k.threads[t].trepEnd
  m + (t.1 + 4 - m % 4) % 4

/-- Slots that the other running threads lose while the rotation goes on to n (R222); a thread in a TREP loses none (R313). -/
def Wick.lostTo (k : Wick) (t : Fin 4) (n : Nat) : Nat :=
  ((List.finRange 4).map fun u =>
    let th := k.threads[u]
    if u != t && th.run == .running then slotsIn (max k.rho th.trepEnd) (max n (max k.rho th.trepEnd)) u.1 else 0).sum

/-- The rotation goes on to the slot of thread t. -/
def Wick.toSlot (k : Wick) (t : Fin 4) : Wick :=
  let n := k.slotOf t
  { (k.pass (n - k.rho) 0) with slotsLost := satAdd k.slotsLost (k.lostTo t n), pair := none }

/-- Thread t loses its slot (R222). -/
def Wick.loseSlot (k : Wick) : Wick := { (k.pass 1 0) with slotsLost := satInc k.slotsLost }

/-- The core stalls for n W-cycles. -/
def Wick.stall (k : Wick) (n : Nat) : Wick := k.pass 0 n

/-! ## Interrupts (R239–R241) and exceptions (R242–R243) -/

/-- The thread that owns the Taper (R245). -/
def Wick.owner (k : Wick) : Option (Fin 4) :=
  if bit k.taperOwn.toNat 2 then toFin? 4 (bits k.taperOwn.toNat 1 0) else none

/-- The register banks exchange, and the owner's Taper accumulators with its shadow bank (R240, R245). -/
def Wick.swapBanks (k : Wick) (t : Fin 4) : Wick :=
  let th := k.threads[t]
  let b := bankSwap th.g th.shadowG
  let own := k.owner == some t
  { k with
    threads := upd k.threads t fun th => { th with g := b.1, shadowG := b.2, alt := !th.alt, accSh := if own then k.taper.acc else th.accSh }
    taper := if own then { k.taper with acc := th.accSh } else k.taper }

def irqThread (src : W32) : Nat := bits src.toNat 29 28
def irqKind (src : W32) : Nat := bits src.toNat 25 24
def irqOn (src : W32) : Bool := bit src.toNat 31

/-- The line that thread t would enter in its slot: the lowest enabled pending one routed to it (R240). -/
def Wick.irqLine (k : Wick) (t : Fin 4) : Option (Fin 16) :=
  let th := k.threads[t]
  if th.ie && !th.alt && decide (th.stack.length < 32) then
    (List.finRange 16).find? fun n => k.irqPend.getLsbD n.1 && irqOn k.irqSrc[n] && irqThread k.irqSrc[n] == t.1
  else none

/-- Entry to an interrupt or exception handler in the slot at hand: 2 stall W-cycles, the banks exchanged, the return address
pushed, g30 and g31 of the new bank set, the buffer emptied (R229, R240, R242). `u`: W-cycles that the slot still takes, 0 in the
second of a pair. -/
def Wick.enter (k : Wick) (t : Fin 4) (ret : BitVec 18) (g30 g31 : W64) (pc : BitVec 18) (u : Nat) : Wick :=
  { ((k.swapBanks t).updT t fun th =>
    { th with stack := ret :: th.stack, g := regSet (regSet th.g 30 g30) 31 g31, pc := pc, buf := [], coming := [] }).pass u 2 with
    pair := none }

/-- A source event of a DMA channel's end of count or of software sets the pending bits of the enabled lines it names (R239). -/
def Wick.raiseIrq (k : Wick) (p : Nat → W32 → Bool) : Wick :=
  { k with irqPend := (List.finRange 16).foldl (fun (b : BitVec 16) n =>
      if irqOn k.irqSrc[n] && p n.1 k.irqSrc[n] then b ||| BitVec.ofNat 16 (2 ^ n.1) else b) k.irqPend }

/-- The thread enters FAULTED with no register changed (R243); WICK_FAULT is logged. -/
def State.faultThread (s : State) (w : WkId) (t : Fin 4) (cause : Byte) (addr : W64) (at_ : BitVec 18) (u : Nat) : State :=
  (s.setWick w fun k => { (k.updT t fun th => { th with run := .faulted, victim := .none }).pass u 0 with
    pair := none, faultV := true, faultT := t, faultC := cause, faultPc := at_, faultAddr := addr }).logEv
    0x0501 2 w.1 [(1, t.1), (1, cause.toNat), (4, at_.toNat)]

/-- An exception of cause `cause` with g31 = addr, raised by the instruction at `at_` in the slot at hand. `force`: R278. -/
def State.raise (s : State) (w : WkId) (t : Fin 4) (cause : Byte) (addr : W64) (at_ : BitVec 18) (force : Bool) (u : Nat) :
    State :=
  let th := s.wick[w].threads[t]
  if force || th.alt || decide (32 ≤ th.stack.length) || cause == 0x08 || cause == 0x09 then s.faultThread w t cause addr at_ u
  else s.setWick w fun k => (k.updT t fun th => { th with victim := .none }).enter t at_ (cause.setWidth 64) addr 0 u

/-! ## Poison (R247) -/

/-- The thread's POISON flag is set; the first time in an instance it is logged. Source 0: a vector-scratchpad row, 1: local
memory. -/
def State.poisonThread (s : State) (w : WkId) (t : Fin 4) (source where_ : Nat) : State :=
  let first := !s.wick[w].threads[t].poisonLog
  let s1 := s.setWick w fun k => k.updT t fun th => { th with poison := true, poisonLog := true }
  if first then s1.logEv 0x0502 2 w.1 [(1, t.1), (1, source), (4, where_)] else s1

/-- The part of a Wick whose residue check acts, as RESIDUE_REPEAT numbers it (log 28). -/
inductive CheckedPart where
  | requantiser | gavg | outlier | winograd | scalar | vector | taper
deriving DecidableEq, Repr

def CheckedPart.code : CheckedPart → Nat
  | .requantiser => 0
  | .gavg => 1
  | .outlier => 2
  | .winograd => 3
  | .scalar => 4
  | .vector => 5
  | .taper => 6

/-- A residue mismatch of a Wick's arithmetic (R457): 8 stall W-cycles; a repeat that matches is TRANSIENT, one that does not sets the
thread's POISON flag and is PERMANENT, and so is any in probation (R467). The Wick moves once its threads have halted. -/
def State.residueWk (s : State) (w : WkId) (t : Fin 4) (part : CheckedPart) (res : Residue) : State :=
  match res with
  | .clean => s
  | _ =>
    let bad := res == .poisoned
    let prob := s.rel.wk[w].prob
    let s := s.setWick w fun k => { (k.stall 8) with fenceDue := if bad then some 3 else if prob then some 4 else k.fenceDue }
    let s := if bad then s.poisonThread w t 1 0 else s
    ((s.logEv 0x0B0A 2 w.1 [(1, part.code), (1, if bad then 1 else 0)]).classify 2 w.1 (if bad || prob then 1 else 0) 0x0B0A 0x1FF).targetWk w

/-! ## Store buffer (R235–R237) -/

/-- An entry drains: a read through the correction, a merge, and a write with fresh check bits (R232, R235). -/
def State.drainEntry (s : State) (w : WkId) (e : SbEntry) : State :=
  let (t, _) := s.checkLine w e.addr 3
  let t := t.localWrite w e.addr e.bytes
  t.setMem (t.mem.setEcc (t.localAddr w (e.addr / 16 * 16)) 0)

/-- The n oldest entries drain. -/
def State.drainOldest (s : State) (w : WkId) (n : Nat) : State :=
  let es := s.wick[w].sb.take n
  es.foldl (fun (s : State) e => s.drainEntry w e) (s.setWick w fun k => { k with sb := k.sb.drop n })

def SbEntry.overlaps (e : SbEntry) (a n : Nat) : Bool := decide (e.addr < a + n ∧ a < e.addr + e.bytes.length)
def SbEntry.exact (e : SbEntry) (a n : Nat) : Bool := e.addr == a && e.bytes.length == n

/-- Position, from 1 for the oldest, of the youngest entry that overlaps, and the entry. -/
def youngest (sb : List SbEntry) (a n : Nat) : Option (Nat × SbEntry) :=
  ((List.zip ((List.range sb.length).map (· + 1)) sb).filter fun p => p.2.overlaps a n).getLast?

/-- The position whose draining a load part needs: the youngest overlapping entry when it overlaps in part (R236, R263). -/
def partialAt (sb : List SbEntry) (a n : Nat) : Nat :=
  match youngest sb a n with
  | some (k, e) => if e.exact a n then 0 else k
  | none => 0

/-- A load part: forwarded from the store buffer, or read from memory through the correction (R232, R235). -/
def State.loadPart (s : State) (w : WkId) (t : Fin 4) (a n : Nat) : State × List Byte :=
  match youngest s.wick[w].sb a n with
  | some (_, e) => (s, e.bytes)
  | none =>
    let (u, bad) := s.checkLine w a 0
    let u := if bad then u.poisonThread w t 1 (a / 16 * 16) else u
    (u, u.localBytes w a n)

/-- The parts of an access of n bytes: one, or the two halves of a split access (R260). -/
def halves (a n : Nat) : List (Nat × Nat) :=
  if a % 16 + n ≤ 16 then [(a, n)] else [(a, 16 - a % 16), (a / 16 * 16 + 16, n - (16 - a % 16))]

/-- A scalar load of local memory: the stall W-cycles of R236, R260 and R263, the port cycles that it takes (R228), and the bytes. -/
def State.loadLocal (s : State) (w : WkId) (t : Fin 4) (a n : Nat) : State × Nat × List Byte :=
  let hs := halves a n
  let sb := s.wick[w].sb
  let k := (hs.map fun h => partialAt sb h.1 h.2).foldl max 0
  let s := if k = 0 then s else (s.drainOldest w k).setWick w fun q => { q with sbStalls := satAdd q.sbStalls (2 + 2 * k) }
  let r := hs.foldl (fun (acc : State × List Byte) h =>
    let (u, b) := acc.1.loadPart w t h.1 h.2
    (u, acc.2 ++ b)) (s, [])
  (r.1.setWick w fun q => q.portTake (hs.length + 2 * k), (hs.length - 1) + (if k = 0 then 0 else 2 + 2 * k), r.2)

/-- A scalar store of local memory: entries for each half, the low one first; full entries drain at 2 stall W-cycles each (R237,
R260, R262). -/
def State.storeLocal (s : State) (w : WkId) (t : Fin 4) (a : Nat) (l : List Byte) : State × Nat :=
  let hs := halves a l.length
  let d := s.wick[w].sb.length + hs.length - 4
  let s := if d = 0 then s else (s.drainOldest w d).setWick w fun k => k.portTake (2 * d)
  (s.setWick w fun k => { k with sb := k.sb ++ hs.map fun h => ⟨h.1, slice l (h.1 - a) h.2, t⟩ }, (hs.length - 1) + 2 * d)

/-- R235: STORE_BUFFER_DRAIN, in the next two free port cycles. -/
def storeBufferDrainEffect (w : WkId) (s : State) : State :=
  if s.wick[w].sb = [] then s
  else (s.drainOldest w 1).setWick w fun k => { k with port := k.portFree + 2 }

def execStoreBufferDrain (w : WkId) (s : State) : Host.Outcome State Fault Refusal := .next (storeBufferDrainEffect w s)

/-! ## Instruction buffers (R229, R275) -/

/-- The thread served at the port's next free access: of those that want a line, the one whose slot comes next after ρ as it stands in
that W-cycle (R229). -/
def Wick.refillThread (k : Wick) : Option (Fin 4) :=
  ((List.range 4).map fun i => (k.rho + (k.portFree - k.wcyc) + 1 + i) % 4).findSome? fun n => (toFin? 4 n).bind fun t => if k.threads[t].wantsLine then some t else none

/-- R228, R229, R232: INSTRUCTION_REFILL. The next aligned line, less the bytes before the fetch point, usable two W-cycles later; an
uncorrectable line puts the thread in FAULTED with cause FETCH_ERROR. While entries wait in the store buffer, its drain has the port's
cycles. -/
def refillEffect (w : WkId) (s : State) : State :=
  match if s.wick[w].sb = [] then s.wick[w].refillThread else none with
  | none => s
  | some t =>
    let k := s.wick[w]
    let th := k.threads[t]
    let a := th.fetchAt
    let c := k.portFree
    let s := s.setWick w fun k => { k with port := c + 1 }
    let (u, bad) := s.checkLine w a 1
    if bad then
      (u.setWick w fun k => { (k.updT t fun th => { th with run := .faulted, victim := .none }) with
        faultV := true, faultT := t, faultC := 0x08, faultPc := th.pc, faultAddr := 0 }).logEv 0x0501 2 w.1 [(1, t.1), (1, 0x08), (4, th.pc.toNat)]
    else
      let l := u.localBytes w a (16 - a % 16)
      u.setWick w fun k => k.updT t fun th => { th with coming := th.coming ++ [(c + 2, l)] }

def execInstructionRefill (w : WkId) (s : State) : Host.Outcome State Fault Refusal := .next (refillEffect w s)

/-- The Wick is in test or recovery state, in which the 0xEB forms execute (R280, R459). -/
def Wick.testState (k : Wick) : Bool := k.mode == .test || (k.mode == .off && k.recovery)

/-- The bytes that remain are too few and no further line can come: the instruction runs past 0x3_FFFF (R275). -/
def Thread.runsPast (th : Thread) : Bool := th.coming.isEmpty && decide (0x40000 ≤ th.fetchAt)

/-! ## The control page (R250) -/

def cpBase : Nat := 0x80000

def irqSrcMask : W32 := 0xB300007F

/-- A load of the control page by thread t. -/
def Wick.cpRead (k : Wick) (t : Fin 4) (off : Nat) : W32 :=
  let th := k.threads[t]
  if off = 0x00 then k.irqPend.setWidth 32
  else if off = 0x08 then (if th.ie then 1 else 0)
  else if off = 0x0C then k.taperOwn
  else if off = 0x10 then (match th.stack with | a :: _ => a.setWidth 32 | [] => 0)
  else if 0x40 ≤ off ∧ off < 0x80 then getOr k.irqSrc ((off - 0x40) / 4) 0
  else 0

/-- A store to CP_RCW: the thread is WAITING unless the counter exceeds the row already (R248). -/
def Thread.waitRow (th : Thread) (f : FabBlk) (now : Nat) (v : W32) : Thread :=
  let r : RcwWait := ⟨bits v.toNat 31 20, bits v.toNat 19 19, bits v.toNat 18 0, now, false⟩
  if r.row < f.rowCount r.region r.buf then th else { th with run := .waiting, rcw := some r }

/-- A word store to the control page by thread t (R245, R246, R248, R250). -/
def Wick.cpWrite (k : Wick) (t : Fin 4) (off : Nat) (v : W32) (f : FabBlk) (now : Nat) : Wick :=
  if off = 0x00 then { k with irqPend := k.irqPend &&& ~~~(v.setWidth 16) }
  else if off = 0x04 then k.raiseIrq fun n src => bit v.toNat n && irqKind src == 2
  else if off = 0x08 then k.updT t fun th => { th with ie := bit v.toNat 0 }
  else if off = 0x0C then
    (let due := (k.threads.toList.map fun th => th.trepEnd).foldl max 0
     if k.rho < due then { k with ownDue := some (due, v &&& 7) } else { k with taperOwn := v &&& 7, ownDue := none })
  else if off = 0x10 then k.updT t fun th =>
    { th with stack := match th.stack with | _ :: r => v.setWidth 18 :: r | [] => [] }
  else if off = 0x14 then k.updT t fun th => th.waitRow f now v
  else if 0x40 ≤ off ∧ off < 0x80 then { k with irqSrc := updNat k.irqSrc ((off - 0x40) / 4) fun _ => v &&& irqSrcMask }
  else k

/-! ## Issue of base-set instructions at both sites -/

/-- What an instruction reads of its site: the registers, its own address, the address after it, the return stack, and whether the
shadow bank is active. -/
structure Core where
  g     : Vector W64 32
  pc    : Nat
  next  : Nat
  stack : List Nat
  alt   : Bool
deriving DecidableEq, Repr

/-- What an instruction does beside its memory effects in `st`: an exception with its g31, registers written in order, a taken
branch's target, the return stack, SKIP's victim, HALT, and whether the banks exchange (RETI). -/
structure Run where
  st     : State
  exc    : Option (Byte × W64)
  writes : List (G × W64)
  jump   : Option Nat
  stack  : Option (List Nat)
  victim : Victim
  halt   : Bool
  reti   : Bool
  stall  : Nat

/-- An instruction that only writes registers. -/
def Run.regs (s : State) (w : List (G × W64)) : Run := ⟨s, none, w, none, none, .none, false, false, 0⟩

/-- An instruction that raises an exception. -/
def Run.raise (s : State) (cause : Byte) (addr : W64) : Run := ⟨s, some (cause, addr), [], none, none, .none, false, false, 0⟩

/-- Instruction bytes consumed. -/
def Thread.advance (th : Thread) (len : Nat) : Thread := { th with pc := th.pc + BitVec.ofNat 18 len, buf := th.buf.drop len }

def Thread.core (th : Thread) (len : Nat) : Core :=
  ⟨th.g, th.pc.toNat, (th.pc + BitVec.ofNat 18 len).toNat, th.stack.map (·.toNat), th.alt⟩

/-- The effects of an instruction on its thread. -/
def Thread.finish (th : Thread) (len : Nat) (r : Run) : Thread :=
  let th1 := th.advance len
  { th1 with
    g := regSets th1.g r.writes
    pc := match r.jump with | some a => BitVec.ofNat 18 a | none => th1.pc
    buf := if r.jump.isSome then [] else th1.buf
    coming := if r.jump.isSome then [] else th1.coming
    stack := match r.stack with | some l => l.map (BitVec.ofNat 18 ·) | none => th1.stack
    victim := r.victim
    run := if r.halt then .halted else th1.run }

/-- How an instruction issues: `alone` for those that never pair (R270, R274), whether it accesses memory, and the residue check of its
arithmetic. -/
structure How where
  alone : Bool
  mem   : Bool
  arith : Bool
deriving DecidableEq, Repr

def plainHow : How := ⟨false, false, false⟩
def arithHow : How := ⟨false, false, true⟩
def memHow : How := ⟨false, true, false⟩
def aloneHow : How := ⟨true, false, false⟩

/-- The first of a possible pair (R225, R278). -/
def PairFirst.of (t : Fin 4) (th : Thread) (len : Nat) (h : How) (r : Run) (issued : Nat) : PairFirst where
  thread := t
  writes := (r.writes.map (·.1)).filter (· != 0)
  mem := h.mem
  len := len
  next := th.pc + BitVec.ofNat 18 len
  branch := r.jump.isSome
  rest := th.buf.drop len
  issued := issued

/-- A thread whose slot comes and which issues instruction i from its buffer (R221–R225). In a slot in which an interrupt is entered
(R240) the command is not the one that happens; a buffer that lacks the bytes loses the slot (R222); a suppressed victim consumes
the slot and nothing else (R270). -/
def State.issueWick (s : State) (w : WkId) (t : Fin 4) (res : Residue) (i : Instr) (h : How) (run : State → Core → Run) : State :=
  if s.wick[w].threads[t].run != .running then s
  else
    let s1 := s.setWick w fun k => k.toSlot t
    let th := s1.wick[w].threads[t]
    if th.victim == .none && (s1.wick[w].irqLine t).isSome then s
    else
      match decodeWick w t false res s1.wick[w].testState th.buf with
      | .short => if th.runsPast then s else s1.setWick w Wick.loseSlot
      | .illegal => s
      | .ok j len =>
        if j != i then s
        else if th.victim == .suppress then s1.setWick w fun k => (k.updT t fun th => { th.advance len with victim := .none }).pass 1 0
        else
          let r := run s1 (th.core len)
          match r.exc with
          | some (c, a) => r.st.raise w t c a th.pc false 1
          | none =>
            let s2 := r.st.setWick w fun k =>
              let k := k.updT t fun th => th.finish len r
              let k := if r.reti then k.swapBanks t else k
              { (k.pass 1 r.stall) with pair := if h.alone || th.victim != .none then none else some (PairFirst.of t th len h r s1.wick[w].wcyc) }
            if h.arith then s2.residueWk w t .scalar res else s2

/-! ### Saddler pairs (R291–R292, R444–R445) -/

/-- A program counter of a pair: bit 0 is always 0 (R291). -/
def pairPc (a : BitVec 48) : BitVec 48 := a &&& ~~~1

/-- Interrupt and exception entry of a pair (R444): the banks exchange, the address is pushed, g30 and g31 are set. -/
def Saddler.enter (p : Saddler) (ret : BitVec 48) (g30 g31 : W64) (off : BitVec 48) : Saddler :=
  let b := bankSwap p.g p.shadowG
  { p with g := regSet (regSet b.1 30 g30) 31 g31, shadowG := b.2, alt := !p.alt, stack := ret :: p.stack, pc := pairPc (Config.fwBase + off)
           victim := .none }

/-- The pair restarts from its image (R445). -/
def Saddler.restart (p : Saddler) : Saddler :=
  { Saddler.reset with major := p.major, minor := p.minor, fromFlash := p.fromFlash, restarts := satIncW p.restarts, pc := pairPc Config.fwBase
                       fenced := p.fenced, tookWork := p.tookWork, divTimes := p.divTimes, pend := p.pend }

/-- Commands that a pair holds complete with FIRMWARE_RESTART (0x16), and epochs still queued are lost (R445). Pair 0, or the pair that
has its work, holds them (R443). -/
def State.restartPair (s : State) (p : Fin 4) : State :=
  let s := s.setSad p Saddler.restart
  if p = 0 ∨ (p = 1 ∧ s.sad[(0 : Fin 4)].fenced = true) then
    let t := s.host.serial.foldl (fun (s : State) c => s.complete c.ring c.ep c.tag 0x16 0 0 false) s
    (t.host.held.foldl (fun (s : State) h => s.completeHeld h 0x16 0 0) { t with host := { t.host with serial := [] } }).setJob
      { s.job with epochs := [], shadows := [], snap := none }
  else s

/-- An exception of a pair: the handler, or the restart that R243 and R445 give. -/
def State.raiseSad (s : State) (p : Fin 4) (cause : Byte) (addr : W64) : State :=
  let q := s.sad[p]
  if q.alt || decide (64 ≤ q.stack.length) then
    (s.restartPair p).logEv 0x0A03 7 p.1 [(1, cause.toNat), (8, addr.toNat)]
  else s.setSad p fun q => q.enter q.pc (cause.setWidth 64) addr 0

def Saddler.core (q : Saddler) (len : Nat) : Core :=
  ⟨q.g, q.pc.toNat, (q.pc + BitVec.ofNat 48 len).toNat, q.stack.map (·.toNat), q.alt⟩

def Saddler.finish (q : Saddler) (len : Nat) (r : Run) : Saddler :=
  let g := regSets q.g r.writes
  let b := if r.reti then bankSwap g q.shadowG else (g, q.shadowG)
  { q with g := b.1, shadowG := b.2, alt := if r.reti then !q.alt else q.alt
           pc := pairPc (match r.jump with | some a => BitVec.ofNat 48 a | none => q.pc + BitVec.ofNat 48 len)
           stack := match r.stack with | some l => l.map (BitVec.ofNat 48 ·) | none => q.stack
           victim := r.victim
           asleep := r.halt }

/-- Lines of a pair that are enabled and pending (R444): all of 0 to 6. -/
def Saddler.irqLine (q : Saddler) : Option Nat :=
  if q.ie && !q.alt && decide (q.stack.length < 64) then (List.range 16).find? fun n => q.pend.getLsbD n else none

/-- A pair executes instruction i from device memory at its program counter. -/
def State.issueSad (s : State) (p : Fin 4) (i : Instr) (run : State → Core → Run) : State :=
  let q := s.sad[p]
  if q.fenced || q.asleep || (q.victim == .none && q.irqLine.isSome) then s
  else
    match decodeCompact p (s.mem.bytes q.pc.toNat 4) with
    | none => s
    | some (j, len) =>
      if j != i then s
      else if q.victim == .suppress then s.setSad p fun q => { q with pc := pairPc (q.pc + BitVec.ofNat 48 len), victim := .none }
      else
        let r := run s (q.core len)
        match r.exc with
        | some (c, a) => r.st.raiseSad p c a
        | none => (r.st.setSad p fun q => q.finish len r).resetAfter s

/-- A base-set instruction at its site. -/
def State.issue (s : State) (x : Site) (i : Instr) (h : How) (run : State → Core → Run) : State :=
  match x with
  | .wick w t _ res => s.issueWick w t res i h run
  | .sad p _ => s.issueSad p i run

/-! ## Loads and stores (R256–R263, R291) -/

/-- A loaded value, extended (R256). -/
def extend (uns : Bool) (l : List Byte) : W64 :=
  if uns then BitVec.ofNat 64 (leNat l) else BitVec.ofInt 64 (BitVec.ofNat (8 * l.length) (leNat l)).toInt

/-- Where a scalar access of a Wick lands: local memory, a control-page word, or ADDRESS with its g31 (R227, R259, R261). -/
inductive Scalar where
  | local_ (a : Nat)
  | page (off : Nat)
  | bad (addr : W64)
deriving DecidableEq, Repr

def scalarAt (ea : W64) (n : Nat) : Scalar :=
  let a := ea.toNat
  if a + n ≤ 0x40000 then .local_ a
  else if a < 0x40000 then (if a % 16 + n ≤ 16 then .bad ea else .bad 0x40000)
  else if cpBase ≤ a ∧ a + n ≤ cpBase + 0x200 ∧ n = 4 ∧ a % 4 = 0 then .page (a - cpBase)
  else .bad ea

/-- A scalar load of thread t. -/
def State.wickLoad (s : State) (w : WkId) (t : Fin 4) (ea : W64) (n : Nat) (uns : Bool) : Except W64 (State × Nat × W64) :=
  match scalarAt ea n with
  | .bad a => .error a
  | .page off => .ok (s, 0, extend uns (leBytes 4 (s.wick[w].cpRead t off).toNat))
  | .local_ a =>
    let (u, st, b) := s.loadLocal w t a n
    .ok (u, st, extend uns b)

/-- A scalar store of thread t. -/
def State.wickStore (s : State) (w : WkId) (t : Fin 4) (ea v : W64) (n : Nat) : Except W64 (State × Nat) :=
  match scalarAt ea n with
  | .bad a => .error a
  | .page off => .ok (s.setWick w fun k => k.cpWrite t off (v.setWidth 32) s.fab s.time.ftb, 0)
  | .local_ a => .ok (s.storeLocal w t a (leBytes n v.toNat))

/-- A data address of a Saddler pair (R291). -/
def sadAddr (ea : W64) (n : Nat) : Option Nat :=
  if ea.toNat < 2 ^ 48 ∧ ea.toNat % n = 0 then some ea.toNat else none

/-- A load of a pair; an address that maps nothing reads as 0 (log 29). -/
def State.sadLoad (s : State) (p : Fin 4) (ea : W64) (n : Nat) (uns : Bool) : Except W64 (State × Nat × W64) :=
  match sadAddr ea n with
  | none => .error ea
  | some a =>
    let (u, r) := s.coreAccess (.sad p) (.saddler p) a n none
    .ok (u, 0, extend uns r.data)

def State.sadStore (s : State) (p : Fin 4) (ea v : W64) (n : Nat) : Except W64 (State × Nat) :=
  match sadAddr ea n with
  | none => .error ea
  | some a => .ok ((s.coreAccess (.sad p) (.saddler p) a n (some (leBytes n v.toNat))).1, 0)

def State.loadAt (s : State) (x : Site) (ea : W64) (n : Nat) (uns : Bool) : Except W64 (State × Nat × W64) :=
  match x with
  | .wick w t _ _ => s.wickLoad w t ea n uns
  | .sad p _ => s.sadLoad p ea n uns

def State.storeAt (s : State) (x : Site) (ea v : W64) (n : Nat) : Except W64 (State × Nat) :=
  match x with
  | .wick w t _ _ => s.wickStore w t ea v n
  | .sad p _ => s.sadStore p ea v n

/-- R256–R258: a load; in mode 1 or 2 into its own base register it raises ILLEGAL. -/
def runLoad (x : Site) (sz : Size) (uns : Bool) (gd : G) (m : AMode) (gb : G) (s : State) (c : Core) : Run :=
  if modeUpdates m && gd == gb then Run.raise s 0x01 0
  else
    let (ea, nb) := eaOf m c.g gb
    match s.loadAt x ea (sizeBytes sz) uns with
    | .error a => Run.raise s 0x02 a
    | .ok (u, st, v) => { Run.regs u ((gd, v) :: (nb.map fun b => (gb, b)).toList) with stall := st }

/-- R256–R258: a store; the base register is updated after the access. -/
def runStore (x : Site) (sz : Size) (gs : G) (m : AMode) (gb : G) (s : State) (c : Core) : Run :=
  let (ea, nb) := eaOf m c.g gb
  match s.storeAt x ea (regGet c.g gs) (sizeBytes sz) with
  | .error a => Run.raise s 0x02 a
  | .ok (u, st) => { Run.regs u ((nb.map fun b => (gb, b)).toList) with stall := st }

/-- R256–R263: LOAD. -/
def execLoad (x : Site) (sz : Size) (uns : Bool) (gd : G) (m : AMode) (gb : G) (s : State) : Host.Outcome State Fault Refusal :=
  .next (s.issue x (.load x sz uns gd m gb) memHow (runLoad x sz uns gd m gb))

/-- R256–R263: STORE. -/
def storeEffect (x : Site) (sz : Size) (gs : G) (m : AMode) (gb : G) (s : State) : State :=
  s.issue x (.store x sz gs m gb) memHow (runStore x sz gs m gb)

def execStore (x : Site) (sz : Size) (gs : G) (m : AMode) (gb : G) (s : State) : Host.Outcome State Fault Refusal :=
  .next (storeEffect x sz gs m gb s)

/-! ### Stores to control-page registers that are commands of their own -/

/-- Scalar registers of a site. -/
def State.siteRegs (s : State) (x : Site) : Vector W64 32 :=
  match x with
  | .wick w t _ _ => s.wick[w].threads[t].g
  | .sad p _ => s.sad[p].g

/-- The store at this site whose address is the named control-page register: a word of a Wick's page, or the register of the
pair's own page (R250, R444). -/
def pageStore (x : Site) (off : Nat) (sz : Size) (gs : G) (m : AMode) (gb : G) (s : State) : State :=
  let a := (eaOf m (s.siteRegs x) gb).1.toNat
  let here := match x with
    | .wick _ _ _ _ => a == cpBase + off
    | .sad p _ => a == regBase + 0x0C001000 + 0x100 * p.1 + off
  if here then storeEffect x sz gs m gb s else s

/-- R248: CP_RCW_WRITE. -/
def execCpRcwWrite (x : Site) (gs : G) (m : AMode) (gb : G) (s : State) : Host.Outcome State Fault Refusal :=
  .next (pageStore x 0x14 .w gs m gb s)

/-- R245: CP_TAPER_OWNER_WRITE. -/
def execCpTaperOwnerWrite (x : Site) (gs : G) (m : AMode) (gb : G) (s : State) : Host.Outcome State Fault Refusal :=
  .next (pageStore x 0x0C .w gs m gb s)

/-- R246, R444: CP_RET_WRITE, a word on a Wick and a double word on a Saddler pair. -/
def execCpRetWrite (x : Site) (gs : G) (m : AMode) (gb : G) (s : State) : Host.Outcome State Fault Refusal :=
  .next (pageStore x 0x10 (match x with | .wick _ _ _ _ => .w | .sad _ _ => .d) gs m gb s)

/-! ## Events of the core -/

/-- R240: WICK_INTERRUPT_ENTRY, in the thread's slot. -/
def wickInterruptEffect (w : WkId) (t : Fin 4) (s : State) : State :=
  let k := s.wick[w].toSlot t
  match k.irqLine t with
  | none => s
  | some n =>
    if s.wick[w].threads[t].run != .running || s.wick[w].threads[t].victim != .none then s
    else s.setWick w fun _ =>
      let k := { k with irqPend := k.irqPend &&& ~~~(BitVec.ofNat 16 (2 ^ n.1)) }
      k.enter t k.threads[t].pc (BitVec.ofNat 64 (0x80 + n.1)) 0 0x40 1

def execWickInterruptEntry (w : WkId) (t : Fin 4) (s : State) : Host.Outcome State Fault Refusal := .next (wickInterruptEffect w t s)

/-- The first of a pair in the slot at hand whose second would be a vector or Taper instruction but is ILLEGAL by its encoding (R225,
R278). -/
def Wick.illegalSecond (k : Wick) (t : Fin 4) : Option PairFirst :=
  k.pair.bind fun p =>
    if p.thread == t && vectorSpace p.rest && decide (p.len + encodedLen p.rest ≤ 16) &&
      decodeWick 0 t true .clean k.testState p.rest == .illegal then some p else none

/-- A suppressed victim whose encoding is ILLEGAL, or that runs past local memory, consumes its slot and nothing else (R270; the bytes
that it takes: log 80). -/
def State.consume (s : State) (w : WkId) (t : Fin 4) : State :=
  s.setWick w fun k => (k.updT t fun th => { th.advance (min (encodedLen th.buf) th.buf.length) with victim := .none }).pass 1 0

/-- R242, R270, R275, R278, R280–R284: WICK_EXCEPTION, raised by the bytes at the program counter: an encoding that is ILLEGAL, or an instruction
that runs past local memory. Exceptions that an instruction raises when it executes are its own command's. -/
def wickExceptionEffect (w : WkId) (t : Fin 4) (s : State) : State :=
  if s.wick[w].threads[t].run != .running then s
  else
    match s.wick[w].illegalSecond t with
    | some p => s.raise w t 0x01 0 p.next p.branch 0
    | none =>
      let s1 := s.setWick w fun k => k.toSlot t
      let th := s1.wick[w].threads[t]
      if th.victim == .none && (s1.wick[w].irqLine t).isSome then s
      else
        match decodeWick w t false .clean s1.wick[w].testState th.buf with
        | .illegal => if th.victim == .suppress then s1.consume w t else s1.raise w t 0x01 0 th.pc false 1
        | .short =>
          if !th.runsPast then s
          else if th.victim == .suppress then s1.consume w t
          else s1.raise w t 0x02 0x40000 th.pc false 1
        | .ok _ _ => s

def execWickException (w : WkId) (t : Fin 4) (s : State) : Host.Outcome State Fault Refusal := .next (wickExceptionEffect w t s)

/-- The frame period P of R244. -/
def JobBlk.period (j : JobBlk) : Nat := (1000000000 * j.den + j.num - 1) / j.num

/-- R244: WICK_HANG, at 2 P + 50,000,000 ticks after the instance started. -/
def wickHangEffect (w : WkId) (t : Fin 4) (s : State) : State :=
  match s.wick[w].threads[t].started with
  | none => s
  | some a =>
    if s.job.state != .armed || s.wick[w].reachedHalt t then s
    else
      let s := s.reach (a + 2 * s.job.period + 50000000)
      let slot := decide (s.wick[w].threads[t].run = .running)
      let s := if slot then s.setWick w fun k => k.toSlot t else s
      let pc := s.wick[w].threads[t].pc
      ((s.setWick w fun k => k.updT t fun th => { th with rcw := none }).faultThread w t 0x09 0 pc (if slot then 1 else 0)).targetWk w

def execWickHang (w : WkId) (t : Fin 4) (s : State) : Host.Outcome State Fault Refusal := .next (wickHangEffect w t s)

/-- R248: RCW_WAIT_END. -/
def rcwWaitEndEffect (w : WkId) (t : Fin 4) (s : State) : State :=
  match s.wick[w].threads[t].rcw with
  | none => s
  | some r =>
    if s.wick[w].threads[t].run = .waiting ∧ r.row < s.fab.rowCount r.region r.buf then
      s.setWick w fun k => k.updT t fun th => { th with run := .running, rcw := none }
    else s

def execRcwWaitEnd (w : WkId) (t : Fin 4) (s : State) : Host.Outcome State Fault Refusal := .next (rcwWaitEndEffect w t s)

/-- R248: RCW_STALL, once, 1,000,000 ticks into a wait. -/
def rcwStallEffect (w : WkId) (t : Fin 4) (s : State) : State :=
  match s.wick[w].threads[t].rcw with
  | none => s
  | some r =>
    if r.logged then s
    else
      let s := s.reach (r.since + 1000000)
      (s.setWick w fun k => k.updT t fun th => { th with rcw := some { r with logged := true } }).logEv 0x0505 2 w.1
        [(1, t.1), (2, r.region), (1, r.buf), (4, r.row)]

def execRcwStall (w : WkId) (t : Fin 4) (s : State) : Host.Outcome State Fault Refusal := .next (rcwStallEffect w t s)

end Sys2Proof.Machine
end

