-- ==== Sys2Proof/Machine/Base.lean ====
section
/-! DEFINITION. The base instruction set (spec/09 R264–R279), at both of its sites. -/
namespace Sys2Proof.Machine

/-! ## Arithmetic -/

/-- An instruction whose one effect is a value in gd. -/
def runAlu (gd : G) (f : Vector W64 32 → W64) (s : State) (c : Core) : Run := Run.regs s [(gd, f c.g)]

def logicOp {w : Nat} (op : LogicOp) (a b : BitVec w) : BitVec w :=
  match op with
  | .and => a &&& b
  | .or => a ||| b
  | .xor => a ^^^ b

/-- A shift by n. -/
def shiftOp {w : Nat} (op : ShiftOp) (a : BitVec w) (n : Nat) : BitVec w :=
  match op with
  | .shl => a <<< n
  | .shr => a >>> n
  | .sar => a.sshiftRight n

/-- High half of a product (R264, R301). -/
def mulHigh {w : Nat} (uns : Bool) (a b : BitVec w) : BitVec w :=
  if uns then BitVec.ofNat w (a.toNat * b.toNat / 2 ^ w) else BitVec.ofInt w (a.toInt * b.toInt / 2 ^ w)

/-- Quotient, rounded toward zero (R266). -/
def quotient (uns : Bool) (a b : W64) : W64 := if uns then a.udiv b else a.sdiv b

/-- Remainder, with the sign of ga (R266). -/
def remainder (uns : Bool) (a b : W64) : W64 := if uns then a.umod b else a.srem b

/-- A division: DIV_ZERO at issue for a divisor of 0, else 32 stall W-cycles (R264, R266). -/
def runDivide (gd ga gb : G) (f : W64 → W64 → W64) (s : State) (c : Core) : Run :=
  if regGet c.g gb = 0 then Run.raise s 0x07 0
  else { Run.regs s [(gd, f (regGet c.g ga) (regGet c.g gb))] with stall := 32 }

/-- R264: ADD, SUB. -/
def execAddSub (x : Site) (sub : Bool) (gd ga gb : G) (s : State) : Host.Outcome State Fault Refusal :=
  .next (s.issue x (.addSub x sub gd ga gb) arithHow (runAlu gd fun g =>
    if sub then regGet g ga - regGet g gb else regGet g ga + regGet g gb))

/-- R264: AND, OR, XOR. -/
def execAndOrXor (x : Site) (op : LogicOp) (gd ga gb : G) (s : State) : Host.Outcome State Fault Refusal :=
  .next (s.issue x (.andOrXor x op gd ga gb) arithHow (runAlu gd fun g => logicOp op (regGet g ga) (regGet g gb)))

/-- R264: SHL, SHR, SAR by gb[5:0]. -/
def execShlShrSar (x : Site) (op : ShiftOp) (gd ga gb : G) (s : State) : Host.Outcome State Fault Refusal :=
  .next (s.issue x (.shlShrSar x op gd ga gb) arithHow (runAlu gd fun g => shiftOp op (regGet g ga) ((regGet g gb).toNat % 64)))

/-- R264: MUL. -/
def execMul (x : Site) (gd ga gb : G) (s : State) : Host.Outcome State Fault Refusal :=
  .next (s.issue x (.mul x gd ga gb) arithHow (runAlu gd fun g => regGet g ga * regGet g gb))

/-- R264: MULH, MULHU. -/
def execMulhMulhu (x : Site) (uns : Bool) (gd ga gb : G) (s : State) : Host.Outcome State Fault Refusal :=
  .next (s.issue x (.mulhMulhu x uns gd ga gb) arithHow (runAlu gd fun g => mulHigh uns (regGet g ga) (regGet g gb)))

/-- R264, R266: DIV, DIVU. -/
def execDivDivu (x : Site) (uns : Bool) (gd ga gb : G) (s : State) : Host.Outcome State Fault Refusal :=
  .next (s.issue x (.divDivu x uns gd ga gb) arithHow (runDivide gd ga gb (quotient uns)))

/-- R264, R266: REM, REMU. -/
def execRemRemu (x : Site) (uns : Bool) (gd ga gb : G) (s : State) : Host.Outcome State Fault Refusal :=
  .next (s.issue x (.remRemu x uns gd ga gb) arithHow (runDivide gd ga gb (remainder uns)))

/-- ADDI, ANDI, ORI, XORI, MULI on the sign-extended immediate. -/
def immOp (op : ImmOp) (a b : W64) : W64 :=
  match op with
  | .add => a + b
  | .and => a &&& b
  | .or => a ||| b
  | .xor => a ^^^ b
  | .mul => a * b

/-- R264, R284: the immediate forms. -/
def execImmediateAlu (x : Site) (op : ImmOp) (gd ga : G) (imm : BitVec 32) (s : State) : Host.Outcome State Fault Refusal :=
  .next (s.issue x (.immediateAlu x op gd ga imm) arithHow (runAlu gd fun g => immOp op (regGet g ga) (imm.signExtend 64)))

/-- R264: SHLI, SHRI, SARI. -/
def execShiftImmediate (x : Site) (op : ShiftOp) (gd ga : G) (imm : Fin 64) (s : State) : Host.Outcome State Fault Refusal :=
  .next (s.issue x (.shiftImmediate x op gd ga imm) arithHow (runAlu gd fun g => shiftOp op (regGet g ga) imm.1))

/-- R264: LI. -/
def execLi (x : Site) (gd : G) (imm : W64) (s : State) : Host.Outcome State Fault Refusal :=
  .next (s.issue x (.li x gd imm) plainHow (runAlu gd fun _ => imm))

/-- The width of LIS's immediate at a site: 32 when widened, else 16 (R284, R289). -/
def lisWidth : Site → Nat
  | .wick _ _ true _ => 32
  | _ => 16

/-- R264, R284: LIS. -/
def execLis (x : Site) (gd : G) (imm : BitVec 32) (s : State) : Host.Outcome State Fault Refusal :=
  .next (s.issue x (.lis x gd imm) plainHow (runAlu gd fun g => (regGet g gd <<< lisWidth x) ||| imm.setWidth 64))

/-! ## Bit operations -/

/-- CRCS steps over the low bits of a value, the lowest first (R267). -/
def crcSteps (poly : W32) : (n : Nat) → (v : Nat) → W32 → W32
  | 0, _, c => c
  | n + 1, v, c => crcSteps poly n (v / 2) (crcBit poly (if v % 2 = 1 then c ^^^ 1 else c))

/-- The polynomial that gb names: CRC-32C when gb[31:0] is 0 (R267). -/
def crcPoly (gb : W64) : W32 := if gb.setWidth 32 = (0 : W32) then 0x82F63B78 else gb.setWidth 32

/-- R267: CRCS. -/
def execCrcs (x : Site) (sz : Size) (gd ga gb : G) (s : State) : Host.Outcome State Fault Refusal :=
  .next (s.issue x (.crcs x sz gd ga gb) arithHow (runAlu gd fun g =>
    (crcSteps (crcPoly (regGet g gb)) (8 * sizeBytes sz) (regGet g ga).toNat ((regGet g gd).setWidth 32)).setWidth 64))

/-- Number of set bits among the low n of a value. -/
def popBits : (n : Nat) → (v : Nat) → Nat
  | 0, _ => 0
  | n + 1, v => v % 2 + popBits n (v / 2)

/-- The low n bits in reverse order. -/
def reverseBits : (n : Nat) → (v : Nat) → Nat
  | 0, _ => 0
  | n + 1, v => v % 2 * 2 ^ n + reverseBits n (v / 2)

/-- R268: PAR. -/
def execPar (x : Site) (gd ga : G) (s : State) : Host.Outcome State Fault Refusal :=
  .next (s.issue x (.par x gd ga) arithHow (runAlu gd fun g => BitVec.ofNat 64 (popBits 64 (regGet g ga).toNat % 2)))

/-- R268: BREV.W, BREV.D. -/
def execBrev (x : Site) (dbl : Bool) (gd ga : G) (s : State) : Host.Outcome State Fault Refusal :=
  .next (s.issue x (.brev x dbl gd ga) arithHow (runAlu gd fun g =>
    BitVec.ofNat 64 (if dbl then reverseBits 64 (regGet g ga).toNat else reverseBits 32 ((regGet g ga).toNat % 2 ^ 32))))

/-- Leading zeros of a 64-bit value, 0 to 64. -/
def leadingZeros (v : W64) : Nat := if v = 0 then 64 else 63 - Nat.log2 v.toNat

/-- R264: CLZ. -/
def execClz (x : Site) (gd ga : G) (s : State) : Host.Outcome State Fault Refusal :=
  .next (s.issue x (.clz x gd ga) arithHow (runAlu gd fun g => BitVec.ofNat 64 (leadingZeros (regGet g ga))))

/-! ## Skips (R269–R271) -/

/-- R269–R270: SKIP. The next instruction is its victim, suppressed when the condition holds; a victim that is itself a SKIP and
executes has a victim of its own. -/
def execSkip (x : Site) (cc : Cond) (ga : G) (rhs : SkipRhs) (s : State) : Host.Outcome State Fault Refusal :=
  .next (s.issue x (.skip x cc ga rhs) aloneHow fun s c =>
    let b := match rhs with | .reg gb => regGet c.g gb | .imm v => v.signExtend 64
    { Run.regs s [] with victim := if condHolds cc (regGet c.g ga) b then .suppress else .execute })

/-! ## Control transfer (R272–R274) -/

/-- Entries of the return stack of a site (R246, R291). -/
def stackDepth : Site → Nat
  | .wick _ _ _ _ => 32
  | .sad _ _ => 64

/-- The target of a branch; none where it raises ADDRESS: at or above 0x4_0000 on a Wick (R272), a register target with bit 0 set
or beyond 48 bits on a Saddler pair (R291). The second component is g31. -/
def branchTarget (x : Site) (tgt : Target) (c : Core) : Option Nat × W64 :=
  match x with
  | .wick _ _ _ _ =>
    let a : W64 := match tgt with | .rel off => BitVec.ofNat 64 c.pc + off.signExtend 64 | .reg ga => regGet c.g ga
    (if a.toNat < 0x40000 then some a.toNat else none, a)
  | .sad _ _ =>
    match tgt with
    | .rel off => (some ((BitVec.ofNat 48 c.pc + (off.signExtend 48 <<< 1)).toNat), 0)
    | .reg ga =>
      let a := regGet c.g ga
      (if a.toNat % 2 = 0 ∧ a.toNat < 2 ^ 48 then some a.toNat else none, a)

def runJump (x : Site) (tgt : Target) (s : State) (c : Core) : Run :=
  match branchTarget x tgt c with
  | (none, a) => Run.raise s 0x02 a
  | (some a, _) => { Run.regs s [] with jump := some a }

def runCall (x : Site) (tgt : Target) (s : State) (c : Core) : Run :=
  match branchTarget x tgt c with
  | (none, a) => Run.raise s 0x02 a
  | (some a, _) =>
    if stackDepth x ≤ c.stack.length then Run.raise s 0x04 0
    else { Run.regs s [] with jump := some a, stack := some (c.next :: c.stack) }

def runRet (s : State) (c : Core) : Run :=
  match c.stack with
  | [] => Run.raise s 0x05 0
  | a :: r => { Run.regs s [] with jump := some a, stack := some r }

/-- RETI: ILLEGAL in the primary bank; 2 stall W-cycles (R241). The shadow bank is active only with an entry on the stack. -/
def runReti (s : State) (c : Core) : Run :=
  if !c.alt then Run.raise s 0x01 0
  else
    match c.stack with
    | [] => Run.raise s 0x05 0
    | a :: r => { Run.regs s [] with jump := some a, stack := some r, reti := true, stall := 2 }

/-- R272: JMP. -/
def execJmp (x : Site) (tgt : Target) (s : State) : Host.Outcome State Fault Refusal :=
  .next (s.issue x (.jmp x tgt) plainHow (runJump x tgt))

/-- R272–R273: CALL. -/
def execCall (x : Site) (tgt : Target) (s : State) : Host.Outcome State Fault Refusal :=
  .next (s.issue x (.call x tgt) plainHow (runCall x tgt))

/-- R273: RET. -/
def execRet (x : Site) (s : State) : Host.Outcome State Fault Refusal := .next (s.issue x (.ret x) plainHow runRet)

/-- R241, R274: RETI. -/
def execReti (x : Site) (s : State) : Host.Outcome State Fault Refusal := .next (s.issue x (.reti x) aloneHow runReti)

/-! ## Feature reads, DRAIN, HALT, NOP -/

/-- FEATn at a site (R249, R279); FEAT7 of a Wick without a logical number is a free value. -/
def featValue (s : State) (x : Site) (n : Fin 16) : W64 :=
  match x with
  | .wick w t _ _ =>
    match n.1 with
    | 0 => 1
    | 1 => 4096
    | 2 => 4
    | 3 => 0x2004
    | 4 => 262144
    | 5 => 4096
    | 6 => BitVec.ofNat 64 t.1
    | 7 => (match s.rel.wk[w].logic with | some l => BitVec.ofNat 64 l | none => Config.freeWord s.misc.fresh)
    | 8 => 131072
    | 9 => 32
    | 10 => 4
    | 11 => 2048
    | _ => 0
  | .sad p _ =>
    match n.1 with
    | 0 => 1
    | 2 => 1
    | 7 => BitVec.ofNat 64 p.1
    | 9 => 64
    | _ => 0

/-- R279: FEATR. -/
def execFeatr (x : Site) (gd : G) (n : Fin 16) (s : State) : Host.Outcome State Fault Refusal :=
  .next (s.issue x (.featr x gd n) plainHow fun s _ => Run.regs s [(gd, featValue s x n)])

/-- R277: DRAIN: every store-buffer entry, at 2 stall W-cycles each; a Saddler pair's stores are complete when they execute. -/
def runDrain (x : Site) (s : State) (_ : Core) : Run :=
  match x with
  | .wick w _ _ _ =>
    let n := s.wick[w].sb.length
    { Run.regs (s.drainOldest w n) [] with stall := 2 * n }
  | .sad _ _ => Run.regs s []

def execDrain (x : Site) (s : State) : Host.Outcome State Fault Refusal := .next (s.issue x (.drain x) aloneHow (runDrain x))

/-- R276: HALT. -/
def execHalt (x : Site) (s : State) : Host.Outcome State Fault Refusal :=
  .next (s.issue x (.halt x) aloneHow fun s _ => { Run.regs s [] with halt := true })

/-- R264: NOP. -/
def execNop (x : Site) (s : State) : Host.Outcome State Fault Refusal := .next (s.issue x (.nop x) plainHow fun s _ => Run.regs s [])

end Sys2Proof.Machine
end

