-- ==== Sys2Proof/Machine/Hbm.lean ====
section
/-! DEFINITION. The HBM controllers (spec/12 R351–R364): slots, misses, read data, open service and temperature; the blocks that a slot
writes into an Urlan transmit window (R410) and from a receive window's link (R411). -/
namespace Sys2Proof.Machine

/-! ## Requests (R359) -/

/-- The request matches a slot: same requester, pseudo-channel, block and direction. -/
def HbmReq.fits (r : HbmReq) (port pc block : Nat) (write : Bool) : Bool :=
  r.port == port && r.pc == pc && r.block == block && r.write.isSome == write

def PastSlot.fits (p : PastSlot) (r : HbmReq) : Bool := r.fits p.port p.pc p.block p.write

/-- A miss of a request is counted and logged with the record whose slot passed (R359). -/
def State.logMiss (s : State) (st pc recIx port : Nat) : State :=
  ({ s with hbm := updNat s.hbm st fun h => { h with missCount := satInc h.missCount } } : State).logEv 0x0702 4 st [(1, pc), (4, recIx), (1, port)]

/-- A request reaches its controller; slots of the present frame that passed unused before make it late (R359). -/
def State.hbmArrive (s : State) (st : Nat) (r : HbmReq) : State :=
  let late := (getOr s.hbm st HbmCtl.reset).past.find? fun p => p.fits r
  let r := { r with since := s.time.ftb, missed := late.isSome }
  let s : State := { s with hbm := updNat s.hbm st fun h => { h with reqs := h.reqs ++ [r], past := h.past.filter fun p => !p.fits r } }
  match late with
  | some p => s.logMiss st r.pc p.recIx r.port
  | none => s

/-- The data of a write is in the controller 8 ticks before the slot, a read request by the slot (R358). -/
def HbmReq.inTime (r : HbmReq) (slot : Nat) : Bool := decide ((if r.write.isSome then r.since + 8 else r.since) ≤ slot)

/-! ## Writes of a block -/

/-- Sectors of a block written; a whole write also clears the poison marker (R361). -/
def MemBlk.writeSectors (m : MemBlk) (a : Nat) (mask : BitVec 16) (data : Row) (poison : Bool) : MemBlk :=
  if mask = 0xFFFF then m.writeBlock a data poison
  else
    let b := rowBytes data
    let m := allSectors.foldl (fun m i => if mask.getLsbD i then m.write (a + 32 * i) (slice b (32 * i) 32) else m) m
    let m := (List.range 8).foldl (fun (m : MemBlk) i => if mask.getLsbD (2 * i) && mask.getLsbD (2 * i + 1) then m.setEcc (a + 64 * i) 0 else m) m
    if poison then m.setPoison a true else m

/-- The link whose transmit window holds an address, with the block's INDEX (R409–R410). -/
def State.txLink (s : State) (a : Nat) : Option (Fin 6 × Nat) :=
  ((List.finRange 6).find? fun u =>
    let l := s.ur.links[u]
    l.txOn && decide (l.txBase.toNat ≤ a ∧ a < l.txBase.toNat + l.txSize.toNat)).map fun u => (u, (a - (s.ur.links[u]).txBase.toNat) / 512)

/-- A whole block that a DMA instance of a job frame writes into a transmit window is queued for its link, once in a frame (R410). -/
def State.txWrite (s : State) (a frame : Nat) (data : Row) (poison : Bool) : State :=
  match s.txLink a with
  | none => s
  | some (u, ix) =>
    if (s.ur.links[u]).txSeen.contains (frame, ix) then s.logEv 0x0905 6 u.1 [(8, frame), (4, ix)]
    else s.setUr { s.ur with links := upd s.ur.links u fun l =>
      { l with txQueue := l.txQueue ++ [⟨frame, ix, data, poison, s.time.ftb⟩], txSeen := (frame, ix) :: l.txSeen } }

/-- A write request is served at its slot. -/
def State.serveWrite (s : State) (a : Nat) (r : HbmReq) (w : BitVec 16 × Row × Bool) : State :=
  let t := s.setMem (s.mem.writeSectors a w.1 w.2.1 w.2.2)
  if 88 ≤ r.port ∧ r.port < 92 ∧ w.1 = 0xFFFF then t.txWrite a r.frame w.2.1 w.2.2 else t

/-! ## HBM_SLOT (R356–R359, R411) -/

/-- FTB count of block blk of a record in repetition rep of frame m (R356). -/
def slotTime (anchor period rep : Nat) (r : HbmRec) (blk : Nat) : Nat := anchor + 10 * period * rep + 10 * r.tick + r.sub + 16 * blk

/-- The repetition ends before the next anchor (R356). -/
def JobBlk.repRuns (j : JobBlk) (period m rep : Nat) : Bool := decide (j.anchor m + 10 * period * (rep + 1) < j.anchor (m + 1))

/-- The slot passes unused. -/
def State.passSlot (s : State) (st : Nat) (p : PastSlot) : State :=
  { s with hbm := updNat s.hbm st fun h => { h with past := (h.past.filter fun q => q.frame == p.frame) ++ [p] } }

/-- A slot of a requester that waits at the controller: the oldest matching request is served, or the slot passes unused; a write whose
data came less than 8 ticks before misses it. -/
def State.slotFor (s : State) (st : Nat) (p : PastSlot) (t : Nat) : State :=
  let a := hbmAddr st p.pc p.block
  let fits (r : HbmReq) : Bool := r.fits p.port p.pc p.block p.write
  match (getOr s.hbm st HbmCtl.reset).reqs.find? fits with
  | none => s.passSlot st p
  | some r =>
    if r.inTime t then
      let s : State := { s with hbm := updNat s.hbm st fun h => { h with reqs := h.reqs.erase r } }
      match r.write with
      | some w => s.serveWrite a r w
      | none =>
        let (u, d) := s.readBlock a r.port
        { u with hbm := updNat u.hbm st fun h => { h with flying := h.flying ++ [⟨t + 80, r.port, r.chan, a, d.data, d.poison⟩] } }
    else if r.missed then s
    else
      ({ s with hbm := updNat s.hbm st fun h =>
          { h with reqs := h.reqs.map fun q => if q == r then { q with missed := true } else q } } : State).logMiss st p.pc p.recIx p.port

/-- A WRITE slot of a link engine: the received block with its key goes into the receive window, and its credit is returned (R401,
R411). A block that has not been there for 8 ticks at the slot, or was late, waits for URLAN_LATE_BLOCK_WRITE (R358, R413). -/
def State.linkSlot (s : State) (u : Fin 6) (m a slot : Nat) : State :=
  let l := s.ur.links[u]
  let ix := (a - l.rxBase.toNat) / 512
  match l.rx.find? fun b => b.frame == m && b.index == ix with
  | some b =>
    if l.rxOn && decide (b.since + 8 ≤ slot) && decide (l.rxBase.toNat ≤ a) && !s.job.lateKeys.contains (u, m, ix) then
      (s.setMem (s.mem.writeBlock a b.data b.poison)).setUr
        { s.ur with links := upd s.ur.links u fun l => { l with rx := l.rx.erase b, owed := l.owed + 1 } }
    else s
  | none => s

/-- A bank's refresh slot (R356). -/
def HbmCtl.refresh (h : HbmCtl) (pc bank t : Nat) : HbmCtl :=
  { h with refreshed := (h.refreshed.filter fun x => !(x.1 == pc && x.2.1 == bank)) ++ [(pc, bank, t)] }

def hbmSlotEffect (st : Fin 4) (m rep rec blk : Nat) (s : State) : State :=
  match s.job.image.bind fun im => (im.hbm[st]).recs[rec]?.map fun r => ((im.hbm[st]).period, r) with
  | none => s
  | some (period, r) =>
    if s.job.state != .armed || decide (m < s.job.base) || decide (r.count ≤ blk) || !s.job.repRuns period m rep then s
    else
      let t := slotTime (s.job.anchor m) period rep r blk
      let s := s.reach t
      let a := hbmAddr st.1 r.pc (r.block + blk)
      if r.kind = 2 then s.setHbm st fun h => h.refresh r.pc (r.block % 64) t
      else if r.kind = 0 ∧ 96 ≤ r.req ∧ r.req < 100 then
        let (u, d) := s.readBlock a r.req
        { u with hbm := updNat u.hbm st.1 fun h => { h with flying := h.flying ++ [⟨t + 80, r.req, none, a, d.data, d.poison⟩] } }
      else if r.kind = 0 ∧ (100 ≤ r.req ∧ r.req < 102) then (s.readBlock a r.req).1
      else if r.kind = 1 ∧ 102 ≤ r.req then
        match toFin? 6 (r.req - 102) with
        | some u => s.linkSlot u m a t
        | none => s
      else s.slotFor st.1 ⟨m, r.req, r.pc, r.block + blk, r.kind == 1, rec⟩ t

def execHbmSlot (st : Fin 4) (m rep rec blk : Nat) (s : State) : Host.Outcome State Fault Refusal := .next (hbmSlotEffect st m rep rec blk s)

/-! ## HBM_READ_DATA (R358) -/

/-- The oldest read data of a controller enters its requester's crossing 80 ticks after its slot. -/
def hbmReadDataEffect (st : Fin 4) (s : State) : State :=
  match s.hbm[st].flying with
  | [] => s
  | d :: rest =>
    let s := (s.reach d.due).setHbm st fun h => { h with flying := rest }
    s.cross 0x7F d.port (s.time.ftb / 10) d.chan d.addr ⟨d.data, 0, d.poison⟩

def execHbmReadData (st : Fin 4) (s : State) : Host.Outcome State Fault Refusal := .next (hbmReadDataEffect st s)

/-! ## Open service and temperature (R354, R360–R362, R364) -/

/-- Who makes an access from no fabric port (R364). Of the sixteen harts and four pairs the port does not name one: the first. -/
def portAgent (port : Nat) : Option Agent :=
  if port = 0x80 then some .bar2 else if port = 0x81 then some (.app 0) else if port = 0x82 then some (.sad 0) else none

/-- A request of at most one block to an open pseudo-channel; one to a deterministic pseudo-channel is refused (R28, R354). -/
def hbmOpenEffect (port addr n : Nat) (write : Option (List Byte)) (s : State) : State :=
  let size := match write with | some l => l.length | none => n
  if !s.hbmUp addr || size = 0 || decide (512 < addr % 512 + size) then s
  else if s.hbmDet addr then
    match portAgent port with
    | some who =>
      let t := s.logRefused who addr
      if write.isNone then t.emit (.bytes addr (List.replicate n 0) false) else t
    | none => s
  else
    match write with
    | some l => s.setMem (s.mem.writePart addr l false)
    | none =>
      let (t, p) := s.checkBlock (rowBase addr) port (parts addr n 64)
      t.emit (.bytes addr (t.mem.bytes addr n) p)

def execHbmOpenAccess (port : Byte) (addr n : Nat) (write : Option (List Byte)) (s : State) : Host.Outcome State Fault Refusal :=
  .next (hbmOpenEffect port.toNat addr n write s)

def execHbmTempHigh (st : Fin 4) (temp : Byte) (s : State) : Host.Outcome State Fault Refusal := .next (s.hbmTemp st temp)

end Sys2Proof.Machine
end

