-- ==== Sys2Proof/Machine/Frames.lean ====
section
/-! DEFINITION. Ethernet frames: what the filters make of a received one (spec/13 R366–R367), and the Ethernet, IP and UDP headers of those
that the module sends (spec/00 R13, spec/13 R366–R367, R384, spec/15 R432). Formats that the spec names by their protocol alone are taken
from its standard (log 10); header fields that the spec gives no value are free (log 40). -/
namespace Sys2Proof.Machine

/-! ## Checksums -/

/-- Sum of the 16-bit words of bytes, most significant byte first; an odd last byte counts as a high byte. -/
def wordSum : List Byte → Nat
  | [] => 0
  | [a] => 256 * a.toNat
  | a :: b :: t => 256 * a.toNat + b.toNat + wordSum t

/-- Bytes with their Internet checksum in place sum to a multiple of 0xFFFF. -/
def sumOk (l : List Byte) : Bool := wordSum l % 65535 == 0

/-- The Internet checksum of bytes whose checksum field is 0. -/
def inetSum (l : List Byte) : Nat := (65535 - wordSum l % 65535) % 65535

/-- The pseudo-header of an IP payload of n bytes. -/
def pseudo (v6 : Bool) (src dst : List Byte) (proto n : Nat) : List Byte :=
  src ++ dst ++ (if v6 then beBytes 4 n ++ beBytes 4 proto else beBytes 2 proto ++ beBytes 2 n)

/-- A multicast address in its 16 bytes. -/
def isGroup (a : List Byte) : Bool := fld a 0 1 == 0xFF || (decide (224 ≤ fld a 0 1 ∧ fld a 0 1 < 240) && allZero (a.drop 4))

/-! ## Received frames (R366–R367) -/

/-- A packet of the protocols that the firmware speaks (R367): an ARP request, a neighbour solicitation, a general query of group
membership, or a packet that asks for no answer. -/
inductive Ctrl where
  | arp (mac ip target : List Byte)
  | nd (mac ip target : List Byte)
  | query (v6 : Bool)
  | silent
deriving DecidableEq, Repr

/-- What the filters make of a frame: dropped and counted, left to the firmware's protocols, or a UDP datagram. -/
inductive Filtered where
  | drop
  | control (c : Ctrl)
  | udp (v6 : Bool) (src dst : List Byte) (sport dport : Nat) (payload : List Byte)
deriving DecidableEq, Repr

/-- The UDP datagram at the head of an IP payload. -/
def udpOf (v6 : Bool) (src dst l : List Byte) : Filtered :=
  let n := befld l 4 2
  let ck := befld l 6 2
  if l.length < 8 ∨ n < 8 ∨ l.length < n then .drop
  else if (ck ≠ 0 ∨ v6) ∧ (ck = 0 ∨ sumOk (pseudo v6 src dst 17 n ++ l.take n) = false) then .drop
  else .udp v6 (padTo 16 src) (padTo 16 dst) (befld l 0 2) (befld l 2 2) (slice l 8 (n - 8))

/-- An IPv4 packet: a right header checksum, no fragment and no options; IGMP, whose packets carry the Router Alert option, is the
firmware's (log 40). -/
def ip4Of (l : List Byte) : Filtered :=
  let total := befld l 2 2
  let h := 4 * (fld l 0 1 % 16)
  if l.length < h ∨ h < 20 ∨ total < h ∨ l.length < total ∨ fld l 0 1 / 16 ≠ 4 ∨ befld l 6 2 % 0x4000 ≠ 0 ∨ sumOk (l.take h) = false then .drop
  else
    match fld l 9 1 with
    | 17 => if h = 20 then udpOf false (slice l 12 4) (slice l 16 4) (slice l 20 (total - 20)) else .drop
    | 2 => .control (if fld l h 1 = 0x11 ∧ befld l (h + 4) 4 = 0 ∧ sumOk (slice l h (total - h)) = true then .query false else .silent)
    | _ => .drop

/-- An ICMPv6 message of neighbour discovery or of group membership; any other is dropped. -/
def icmp6Of (mac src dst l : List Byte) : Filtered :=
  let good := sumOk (pseudo true src dst 58 l.length ++ l)
  match fld l 0 1 with
  | 135 => .control (if good = true ∧ 24 ≤ l.length then .nd mac src (slice l 8 16) else .silent)
  | 130 => .control (if good = true ∧ 24 ≤ l.length ∧ allZero (slice l 8 16) = true then .query true else .silent)
  | 131 | 132 | 133 | 134 | 136 | 137 | 143 => .control .silent
  | _ => .drop

/-- An IPv6 packet: no fragment; the hop-by-hop header stands before group membership alone. -/
def ip6Of (mac l : List Byte) : Filtered :=
  let n := befld l 4 2
  let src := slice l 8 16
  let dst := slice l 24 16
  if l.length < 40 + n ∨ fld l 0 1 / 16 ≠ 6 then .drop
  else
    match fld l 6 1 with
    | 17 => udpOf true src dst (slice l 40 n)
    | 58 => icmp6Of mac src dst (slice l 40 n)
    | 0 =>
      let h := 8 * (fld l 41 1 + 1)
      if fld l 40 1 = 58 then icmp6Of mac src dst (slice l (40 + h) (n - h)) else .drop
    | _ => .drop

/-- An ARP packet for IPv4 over Ethernet. -/
def arpOf (l : List Byte) : Filtered :=
  .control (if l.take 8 = [0, 1, 8, 0, 6, 4, 0, 1] ∧ 28 ≤ l.length then .arp (slice l 8 6) (slice l 14 4) (slice l 24 4) else .silent)

/-- The Ethernet payload after at most one IEEE 802.1Q tag; none for PAUSE and priority flow control. -/
def frameOf (b : List Byte) : Option Filtered :=
  let o := if befld b 12 2 = 0x8100 then 16 else 12
  let l := (b.take (b.length - 4)).drop (o + 2)
  match befld b o 2 with
  | 0x8808 => none
  | 0x0800 => some (ip4Of l)
  | 0x86DD => some (ip6Of (slice b 6 6) l)
  | 0x0806 => some (arpOf l)
  | _ => some .drop

/-- The frame check sequence is right. -/
def fcsOk (b : List Byte) : Bool := fld b (b.length - 4) 4 == (crc32 (b.take (b.length - 4))).toNat

/-- A frame of 64 to 9,216 bytes with a right FCS (R366). -/
def frameOk (b : List Byte) : Bool := decide (64 ≤ b.length ∧ b.length ≤ 9216) && fcsOk b

/-! ## Frames sent -/

/-- The port's own MAC address: no rule gives it. -/
def portMac (port : Nat) : List Byte := beBytes 6 (Config.portMac port).toNat

/-- A source address for packets of the firmware's own, which no binding gives. -/
def portIp (v6 : Bool) (port : Nat) : List Byte := if v6 then beBytes 16 (Config.portIp6 port).toNat else beBytes 4 (Config.portIp4 port).toNat

/-- The MAC address of a multicast group. -/
def groupMac (v6 : Bool) (a : List Byte) : List Byte :=
  if v6 then [0x33, 0x33] ++ slice a 12 4 else [0x01, 0x00, 0x5E, (a.drop 1).headD 0 &&& 0x7F] ++ slice a 2 2

/-- An Ethernet frame, with the 802.1Q tag of a VLAN field of R432 if it has one, padded to 64 bytes, with its FCS. -/
def ethFrame (dst src : List Byte) (vlan etype : Nat) (l : List Byte) : List Byte :=
  let tag := if bit vlan 15 then [0x81, 0x00] ++ beBytes 2 (8192 * bits vlan 14 12 + bits vlan 11 0) else []
  let b := dst ++ src ++ tag ++ beBytes 2 etype ++ l
  let b := b ++ List.replicate (60 - b.length) 0
  b ++ leBytes 4 (crc32 b).toNat

/-- An IPv4 packet; the identification, the don't-fragment flag and, without `ttl`, the TTL have no value in the spec. -/
def ip4Packet (port dscp proto : Nat) (ttl : Option Nat) (src dst opts l : List Byte) : List Byte :=
  let free := (Config.ipOpen port l).toNat
  let h (ck : Nat) : List Byte :=
    [BitVec.ofNat 8 (0x45 + opts.length / 4), BitVec.ofNat 8 (4 * dscp)] ++ beBytes 2 (20 + opts.length + l.length) ++ beBytes 2 (bits free 15 0) ++
      beBytes 2 (16384 * bits free 16 16) ++ [BitVec.ofNat 8 (ttl.getD (bits free 31 24)), BitVec.ofNat 8 proto] ++ beBytes 2 ck ++ src ++ dst ++ opts
  h (inetSum (h 0)) ++ l

/-- An IPv6 packet; the flow label and, without `ttl`, the hop limit have no value in the spec. -/
def ip6Packet (port dscp next : Nat) (ttl : Option Nat) (src dst l : List Byte) : List Byte :=
  let free := (Config.ipOpen port l).toNat
  beBytes 4 (0x60000000 + 4194304 * dscp + bits free 19 0) ++ beBytes 2 l.length ++ [BitVec.ofNat 8 next, BitVec.ofNat 8 (ttl.getD (bits free 31 24))] ++
    src ++ dst ++ l

/-- A UDP datagram with its checksum. -/
def udpPacket (v6 : Bool) (src dst : List Byte) (sport dport : Nat) (l : List Byte) : List Byte :=
  let n := 8 + l.length
  let h (ck : Nat) : List Byte := beBytes 2 sport ++ beBytes 2 dport ++ beBytes 2 n ++ beBytes 2 ck ++ l
  let ck := inetSum (pseudo v6 src dst 17 n ++ h 0)
  h (if ck = 0 then 0xFFFF else ck)

/-- The frame that carries a UDP payload on a path of a binding (R366, R384, R432). -/
def NetPath.frame (p : NetPath) (port : Nat) (l : List Byte) : List Byte :=
  let v6 := p.ipVer == 6
  let n := if v6 then 16 else 4
  let src := p.srcIp.take n
  let dst := p.dstIp.take n
  let udp := udpPacket v6 src dst p.srcPort p.dstPort l
  ethFrame (if isGroup p.dstIp then groupMac v6 p.dstIp else p.mac) (portMac port) p.vlan (if v6 then 0x86DD else 0x0800)
    (if v6 then ip6Packet port p.dscp 17 none src dst udp else ip4Packet port p.dscp 17 none src dst [] udp)

/-! ## The firmware's protocols (R367) -/

/-- An ICMPv6 message with its checksum. -/
def icmp6 (src dst : List Byte) (kind : Nat) (l : List Byte) : List Byte :=
  let h (ck : Nat) : List Byte := [BitVec.ofNat 8 kind, 0] ++ beBytes 2 ck ++ l
  h (inetSum (pseudo true src dst 58 (4 + l.length) ++ h 0))

/-- An ARP reply for an own address. -/
def arpReply (port : Nat) (mac ip target : List Byte) : List Byte :=
  ethFrame mac (portMac port) 0 0x0806 ([0, 1, 8, 0, 6, 4, 0, 2] ++ portMac port ++ target ++ mac ++ ip)

/-- A solicited neighbour advertisement of an own address. -/
def ndReply (port : Nat) (mac ip target : List Byte) : List Byte :=
  ethFrame mac (portMac port) 0 0x86DD
    (ip6Packet port 0 58 (some 255) target ip (icmp6 target ip 136 ([0x60, 0, 0, 0] ++ target ++ [2, 1] ++ portMac port)))

/-- A source-specific membership report of one group: record kind 5 (allow new sources) to join it, 1 (mode is include) to answer a
query. -/
def groupReport (port kind : Nat) (p : NetPath) : List Byte :=
  let v6 := p.ipVer == 6
  let n := if v6 then 16 else 4
  let src := portIp v6 port
  let record : List Byte := [BitVec.ofNat 8 kind, 0, 0, 1] ++ p.dstIp.take n ++ p.srcIp.take n
  if v6 then
    let dst : List Byte := [0xFF, 2] ++ List.replicate 13 0 ++ [0x16]
    ethFrame (groupMac true dst) (portMac port) p.vlan 0x86DD
      (ip6Packet port 0 0 (some 1) src dst ([58, 0, 5, 2, 0, 0, 1, 0] ++ icmp6 src dst 143 ([0, 0, 0, 1] ++ record)))
  else
    let dst : List Byte := [224, 0, 0, 22]
    let m (ck : Nat) : List Byte := [0x22, 0] ++ beBytes 2 ck ++ [0, 0, 0, 1] ++ record
    ethFrame (groupMac false dst) (portMac port) p.vlan 0x0800 (ip4Packet port 48 2 (some 1) src dst [0x94, 4, 0, 0] (m (inetSum (m 0))))

end Sys2Proof.Machine
end

