-- ==== Sys2Proof/Machine/Timetable.lean ====
section
/-! DEFINITION. Timetable instances: their placed times, predecessors and units (R41, R184–R187), their start and completion
(R186, R214, R436), and the job's stop at once (R455, R470). -/
namespace Sys2Proof.Machine

/-- Kinds of the anchor time base (R185). -/
def TtEntry.anchored (e : TtEntry) : Bool := decide (e.kind < 0x10)

/-- Placed offset of instance k in FTB ticks, as TT_SPAN counts it (R179, R185). -/
def TtEntry.offset (e : TtEntry) (k : Nat) : Nat :=
  if e.anchored then 10 * (e.tick + k * e.repStride) else e.tick + k * e.repStride

/-- FTB count at which an instance is placed, CYCLE not counted. -/
def JobBlk.placed (j : JobBlk) (e : TtEntry) (i : Inst) : Nat :=
  (if e.anchored then j.anchor i.frame else j.frameF i.frame) + e.offset i.inst

/-- Placed time with CYCLE, in 26ths of an FTB tick, at 26 L- or W-cycles or 13 M-cycles between epoch ticks (R37, R185). -/
def JobBlk.placedFine (j : JobBlk) (e : TtEntry) (i : Inst) : Nat :=
  26 * j.placed e i + (if e.kind = 5 then 20 else 10) * e.cycle

/-- Cycles between epoch ticks of the island of an instance's unit, at its present throttle step (R37, R185). -/
def State.unitRate (s : State) (e : TtEntry) : Nat :=
  let lan (l : Nat) : Nat := match s.rel.lnPhys l with | some n => s.perTick (n.1 / 9) | none => 26
  let wk (l : Nat) : Nat := match s.rel.wkPhys l with | some w => s.perTick (w.1 / 13) | none => 26
  match e.kind with
  | 1 | 2 | 3 => lan e.unit
  | 4 => wk e.unit
  | 8 => if bit e.unit 7 then wk (bits e.unit 5 0) else lan (bits e.unit 5 0)
  | _ => 13

/-- FTB tick in which the placed time of an instance falls, CYCLE counted in its island's cycles (R41, R185). -/
def State.startTick (s : State) (e : TtEntry) (i : Inst) : Nat := s.job.placed e i + 10 * e.cycle / s.unitRate e

/-! ## Units of instances (R186) -/

def TtEntry.isLnWindow (e : TtEntry) : Bool := e.kind == 8 && !bit e.unit 7
def TtEntry.isWkWindow (e : TtEntry) : Bool := e.kind == 8 && bit e.unit 7
/-- Logical unit of a TEST_WINDOW. -/
def TtEntry.windowUnit (e : TtEntry) : Nat := bits e.unit 5 0
/-- Thread of a WICK_START. -/
def TtEntry.thread (e : TtEntry) : Nat := bits e.arg1 1 0

/-- Logical Lantern whose array an instance occupies. -/
def TtEntry.array (e : TtEntry) : Option Nat :=
  if e.kind = 1 ∨ e.kind = 3 then some e.unit else if e.isLnWindow then some e.windowUnit else none

/-- Two entries share a unit, so that the later instance waits for the earlier one (R186). -/
def sameUnit (a b : TtEntry) : Bool :=
  (a.array.isSome && a.array == b.array) ||
  (a.kind == 2 && b.kind == 2 && a.unit == b.unit) || (a.kind == 5 && b.kind == 5 && a.unit == b.unit) ||
  (a.kind == 4 && b.kind == 4 && a.unit == b.unit && a.thread == b.thread) ||
  (a.isWkWindow && b.isWkWindow && a.windowUnit == b.windowUnit) ||
  (a.isWkWindow && b.kind == 4 && a.windowUnit == b.unit) || (a.kind == 4 && b.isWkWindow && a.unit == b.windowUnit)

/-! ## Order and completion -/

/-- Order of placed times, then entry index (R187); of equal ones a lower job frame is earlier. -/
def JobBlk.before (j : JobBlk) (a : TtEntry) (x : Inst) (b : TtEntry) (y : Inst) : Bool :=
  let p := j.placedFine a x
  let q := j.placedFine b y
  decide (p < q) || (p == q &&
    (decide (x.entry < y.entry) || (x.entry == y.entry && (decide (x.frame < y.frame) || (x.frame == y.frame && decide (x.inst < y.inst))))))

/-- STOP has taken effect and cancels this instance (R436). -/
def JobBlk.cancelled (j : JobBlk) (e : TtEntry) (i : Inst) : Bool :=
  match j.stopAt with
  | some n => j.stopping && decide ((if e.anchored then j.anchor n else j.frameF n) ≤ j.placed e i)
  | none => false

/-- The instance counts as complete for every wait on it (R186, R436). Frames more than four before the first of this run are
complete (R179: TT_SPAN is at most four frames). -/
def State.done (s : State) (i : Inst) : Bool :=
  s.job.completed.contains i || decide (i.frame + 4 < s.job.base) ||
  (match s.entryOf i with
   | some e => s.job.cancelled e i
   | none => false)

/-- Instances of an entry in the frames around m, from frame `lo` on. -/
def instancesOf (k : Nat) (e : TtEntry) (m lo : Nat) : List Inst :=
  ((List.range 9).map fun d => m + d).flatMap fun f =>
    if f < 4 + lo then [] else (List.range (e.rep + 1)).map fun r => ⟨f - 4, k, r⟩

/-- Every instance of the timetable around a job frame, with its entry. -/
def State.around (s : State) (m : Nat) : List (TtEntry × Inst) :=
  match s.job.image with
  | none => []
  | some im => (List.range im.entries.length).flatMap fun k =>
      match im.entries[k]? with
      | some e => (instancesOf k e m (s.job.base - 4)).map fun i => (e, i)
      | none => []

/-- The unit's earlier instances are complete (R186). -/
def State.unitFree (s : State) (e : TtEntry) (i : Inst) : Bool :=
  (s.around i.frame).all fun p => !(sameUnit p.1 e && s.job.before p.1 p.2 e i) || s.done p.2

/-- The predecessor is complete (R186). -/
def State.predDone (s : State) (e : TtEntry) (i : Inst) : Bool :=
  if e.pred = 0xFFFFFFFF then true
  else
    let d := bits e.pred 31 30
    let k := bits e.pred 29 0
    match s.job.image.bind fun im => im.entries[k]? with
    | none => true
    | some p => decide (i.frame < d) || s.done ⟨i.frame - d, k, min i.inst p.rep⟩

/-! ## Snapshot point (R56, R214) -/

/-- The snapshot point of a frame: its first SNAPSHOT_POINT instance. -/
def State.snapPoint (s : State) (n : Nat) : Option (TtEntry × Inst) :=
  (s.around n).foldl (fun (best : Option (TtEntry × Inst)) p =>
    if p.1.kind = 9 ∧ p.2.frame = n then
      match best with
      | some b => if s.job.before p.1 p.2 b.1 b.2 then some p else best
      | none => some p
    else best) none

/-- A snapshot under way holds back an instance placed after its point. -/
def State.heldBySnap (s : State) (e : TtEntry) (i : Inst) : Bool :=
  match s.job.snap with
  | some r =>
    match s.snapPoint r.frame with
    | some (pe, pi) => i != pi && s.job.before pe pi e i
    | none => false
  | none => false

/-! ## Start and completion -/

/-- A late block of an Urlan receive window holds back fabric instances placed at or after the missed slot (R413). -/
def JobBlk.heldByLink (j : JobBlk) (e : TtEntry) (i : Inst) : Bool :=
  match j.holdFrom with
  | some t => e.anchored && decide (t ≤ j.placed e i)
  | none => false

/-- The Lantern that serves the logical Lantern of an instance is to be moved or fenced at the end of its current operation, or a move of
it is under way (R211, R454, R457). A Wick's threads go on until all four have halted. -/
def State.lanternHeld (s : State) (e : TtEntry) : Bool :=
  let held (l : Nat) : Bool := match s.rel.lnPhys l with
    | some n => s.lan[n].fenceDue.isSome || s.job.moves.any fun m => m.left == .lantern n || m.spare == .lantern n
    | none => false
  match e.kind with
  | 1 | 2 | 3 => held e.unit
  | 8 => e.isLnWindow && held e.windowUnit
  | _ => false

/-- The instance may start (R41, R186, R211, R214, R413, R436). -/
def State.canStart (s : State) (e : TtEntry) (i : Inst) : Bool :=
  s.job.state == .armed && !s.lanternHeld e && !s.job.heldByLink e i && decide (s.job.base ≤ i.frame + 4) && !s.job.started.contains i && !s.job.cancelled e i &&
  !s.heldBySnap e i && s.predDone e i && s.unitFree e i

def JobBlk.start (j : JobBlk) (i : Inst) : JobBlk := { j with started := i :: j.started }
def JobBlk.complete (j : JobBlk) (i : Inst) : JobBlk := { j with completed := i :: j.completed }
def State.completeInst (s : State) (i : Inst) : State := s.setJob (s.job.complete i)

/-- An instance of a kind starts at the later of its placed time and the present, where it may start; otherwise it waits (log 8). -/
def State.startInst (s : State) (kind : Nat) (i : Inst) (run : State → TtEntry → State) : State :=
  match s.entryOf i with
  | some e =>
    if e.kind = kind ∧ s.canStart e i = true then
      let t := s.reach (s.startTick e i)
      run (t.setJob (t.job.start i)) e
    else s
  | none => s

/-! ## The end of a job -/

/-- The state becomes STOPPED: parked test state stays. -/
def JobBlk.halt (j : JobBlk) : JobBlk := { j with state := .stopped, stopAt := none, stopping := false, snap := none }

/-- The deterministic pseudo-channels return to open service at the next epoch tick (R353). -/
def State.openHbm (s : State) : State :=
  { s with hbm := s.hbm.map fun h => if h.mode = 2 then { h with openAt := some ((s.time.ftb / 10 + 1) * 10) } else h }

/-- Writes still waiting for a credit proceed in order (R436). -/
def State.freeWaits (s : State) : State :=
  s.fab.waits.foldl (fun s c => s.acceptWrite c.write)
    ((s.fab.waits.foldl (fun (s : State) c => s.countWait c.write.addr c.counted) s).setFab { s.fab with waits := [] })

end Sys2Proof.Machine
end

