-- ==== Sys2Proof/Machine/Window.lean ====
section
/-! DEFINITION. The window generator: element formats (R92–R94), window programs and their operands (R131–R146), the fetch list with
its timing (R138–R141), side lists (R119–R123) and weight blocks (R95–R101). -/
namespace Sys2Proof.Machine

/-! ## Formats (R92–R94, R118) -/

/-- Elements in a 512-byte row of activation format f. -/
def epr (f : Nat) : Nat := if f = 2 ∨ f = 3 then 1024 else if f = 4 then 256 else 512

/-- Rows of a tag block. -/
def blockRows (f : Nat) : Nat := 4096 / epr f

/-- Byte i of a row. -/
def rowByte (r : Row) (i : Nat) : Nat := r.toNat / 2 ^ (8 * i) % 256

/-- A code of w bits as a signed number. -/
def signedOf (w v : Nat) : Int := (BitVec.ofNat w v).toInt

/-- Element i of a row of activation format f; U12A ignores bits [15:12]. -/
def elemOf (f : Nat) (r : Row) (i : Nat) : Int :=
  match f with
  | 0 | 5 => signedOf 8 (rowByte r i)
  | 1 => rowByte r i
  | 2 => signedOf 4 (rowByte r (i / 2) / 16 ^ (i % 2) % 16)
  | 3 => (rowByte r (i / 2) / 16 ^ (i % 2) % 16 : Nat)
  | _ => ((rowByte r (2 * i) + 256 * rowByte r (2 * i + 1)) % 4096 : Nat)

/-- The escape code (R118); none for formats without outlier capture. -/
def escapeCode (f : Nat) : Option Int :=
  match f with
  | 0 => some (-128)
  | 1 => some 0
  | 2 => some (-8)
  | 3 => some 0
  | _ => none

/-! ## The output map and the positions of a vector (R132–R135, R145–R146) -/

/-- One axis of the output map. -/
def outDim (img p d k st : Nat) : Int := ((img : Int) + 2 * p - d * ((k : Int) - 1) - 1) / st + 1

def WinProg.outH (w : WinProg) : Int := outDim w.imgH w.pY w.dY w.kY w.sY
def WinProg.outW (w : WinProg) : Int := outDim w.imgW w.pX w.dX w.kX w.sX

/-- Segments in use: 32 in DUAL_LANE, otherwise 16. -/
def WinProg.segCount (w : WinProg) : Nat := if w.kind = 1 then 32 else 16

/-- Segment s: tap index or position ξ, and first channel; none when EMPTY. -/
def WinProg.seg (w : WinProg) (s : Nat) : Option (Nat × Nat) :=
  let e := w.rowmap.getD s 0xFFFF
  if e / 256 = 0xFF then none else some (e / 256, 16 * (e % 256))

/-- Row u of Bᵀ (R146). -/
def btRow (u : Nat) : List Int :=
  match u with
  | 0 => [1, 0, -1, 0]
  | 1 => [0, 1, 1, 0]
  | 2 => [0, -1, 1, 0]
  | _ => [0, 1, 0, -1]

/-- Input positions of output position q at a tap, each with its coefficient: one outside WINOGRAD; in WINOGRAD the elements of the
tile whose coefficient in V is not 0. -/
def WinProg.points (w : WinProg) (q tap : Nat) : List (Int × Int × Int) :=
  let wo := w.outW.toNat
  if w.kind = 2 then
    let ty : Int := (q / (wo / 2) : Nat)
    let tx : Int := (q % (wo / 2) : Nat)
    (List.range 16).filterMap fun j =>
      let c := (btRow (tap / 4)).getD (j / 4) 0 * (btRow (tap % 4)).getD (j % 4) 0
      if c = 0 then none else some (2 * ty + (j / 4 : Nat) - w.pY, 2 * tx + (j % 4 : Nat) - w.pX, c)
  else
    let ab := w.taps.getD tap (0, 0)
    [((q / wo : Nat) * (w.sY : Int) + ab.1 * w.dY - w.pY, (q % wo : Nat) * (w.sX : Int) + ab.2 * w.dX - w.pX, 1)]

/-- Element of a plane at an input position; none for padding (R133–R134). -/
def WinProg.elemAt (w : WinProg) (iy ix : Int) : Option Nat :=
  if 0 ≤ iy ∧ iy < w.imgH ∧ 0 ≤ ix ∧ ix < w.imgW then
    let y := iy.toNat - w.regY
    let x := ix.toNat
    some (if w.srcOrder = 0 then y * w.imgW + x else 4 * (y / 2 * (w.imgW / 2) + x / 2) + 2 * (y % 2) + x % 2)
  else none

/-- One source element that an operand uses: operand, channel, plane position, coefficient. -/
structure ElemUse where
  opnd : Nat
  ch   : Nat
  pos  : Nat
  coef : Int
deriving DecidableEq, Repr

/-- The elements that vector n uses, by operand (R135, R139). -/
def WinProg.uses (w : WinProg) (n : Nat) : List ElemUse :=
  (List.range w.segCount).flatMap fun sg =>
    match w.seg sg with
    | none => []
    | some (tap, c0) =>
      let pts := (w.points (w.q0 + n) tap).filterMap fun p => (w.elemAt p.1 p.2.1).map fun e => (e, p.2.2)
      (List.range 16).flatMap fun i =>
        if w.srcCh ≤ c0 + i then [] else pts.map fun p => ⟨16 * sg + i, c0 + i, p.1, p.2⟩

/-- Array row of an operand (R61, R135). -/
def WinProg.rowOfOpnd (w : WinProg) (o : Nat) : Nat := if w.kind = 1 then o / 2 else o

/-! ## The rows that an element needs (R123, R134, R139) -/

def WinProg.dataRow (w : WinProg) (u : ElemUse) : Nat := w.srcBase + u.ch * w.planeStride + u.pos / epr w.srcFmt
def WinProg.shiftRow (w : WinProg) (u : ElemUse) : Nat := w.shiftBase + u.ch / 64 * w.planeStride + u.pos / 512

/-- Byte offset of a slot from its side-list base (R120, R123). -/
def slotByte (slot blocks ch pos : Nat) : Nat := 8 * slot * (ch * blocks + pos / 4096)

/-- One row of a fetch list: scratchpad row, stream (0 data, 1 shift plane, 2 side list), tag block, and the first and last delivery of
its operands, counted from the pass's first streaming L-cycle. -/
structure FetchRow where
  row    : Nat
  stream : Nat
  blk    : Nat
  first  : Nat
  last   : Nat
deriving DecidableEq, Repr, Inhabited

/-- A use added to a fetch list. -/
def addFetch (l : List FetchRow) (f : FetchRow) : List FetchRow :=
  if l.any fun g => g.row == f.row then
    l.map fun g => if g.row == f.row then { g with first := min g.first f.first, last := max g.last f.last } else g
  else l ++ [f]

/-- The rows of one use, in the order of R139. -/
def rowsOfUse (w : WinProg) (p : PassDesc) (n : Nat) (u : ElemUse) : List FetchRow :=
  let d := n + w.rowOfOpnd u.opnd
  let k := u.pos / 4096
  [⟨w.dataRow u, 0, k, d, d⟩] ++ (if w.srcFmt = 5 then [⟨w.shiftRow u, 1, k, d, d⟩] else []) ++
  (if p.outlierEn then [⟨p.sideBase + slotByte p.sideSlot p.blocks u.ch u.pos / 512, 2, k, d, d⟩] else [])

/-- The fetch list of a pass (R139). -/
def fetchList (w : WinProg) (p : PassDesc) : List FetchRow :=
  (List.range p.n).foldl (fun l n => (w.uses n).foldl (fun l u => (rowsOfUse w p n u).foldl addFetch l) l) []

/-! ## Fetch timing (R138, R140) -/

/-- State of the fetch engine: entries issued, L-cycle of the last issue, issues in it, and the L-cycle from which each slot taken is
free again. -/
structure FetchSt where
  k    : Nat
  prev : Nat
  cnt  : Nat
  ends : List Nat
deriving DecidableEq, Repr

/-- The first L-cycle from t on with fewer than 512 slots held. -/
def slotFree (ends : List Nat) (t : Nat) : Nat :=
  let ok (x : Nat) : Bool := decide ((ends.filter fun e => decide (x < e)).length < 512)
  if ok t then t else (ends.filter fun e => decide (t ≤ e) && ok e).foldl min (ends.foldl max t)

/-- Issue L-cycles of a fetch list, counted from the first L-cycle of the weight load; `sf` is S − f. At most two rows issue per
L-cycle. -/
def issueTimes (sf : Nat) : FetchSt → List FetchRow → List (FetchRow × Nat)
  | _, [] => []
  | st, r :: t =>
    let c := slotFree st.ends (max (st.k / 2) (if st.cnt = 2 then st.prev + 1 else st.prev))
    (r, c) :: issueTimes sf ⟨st.k + 1, c, if c = st.prev then st.cnt + 1 else 1, (sf + r.last + 1) :: st.ends⟩ t

def fetchIssue (w : WinProg) (p : PassDesc) (sf : Nat) : List (FetchRow × Nat) := issueTimes sf ⟨0, 0, 0, []⟩ (fetchList w p)

/-- A fetch list is valid: every row is usable, 6 L-cycles after its issue, when its first operand is delivered (R141). -/
def fetchValid (w : WinProg) (p : PassDesc) : Bool := (fetchIssue w p 256).all fun x => decide (x.2 + 6 ≤ 256 + x.1.first)

/-! ## Side lists (R119–R123) -/

/-- The 64-bit entry j of a slot that starts at byte o of a row. -/
def sideEntry (r : Row) (o j : Nat) : W64 := BitVec.ofNat 64 (r.toNat / 2 ^ (8 * (o + 8 * j)))

def emptyEntry : W64 := 0x8000000000000000

/-- The exact value that a slot holds for a position (R119, R123). -/
def slotValue (r : Row) (o slot pos : Nat) : Option Int :=
  (List.range slot).findSome? fun j =>
    let e := sideEntry r o j
    if e ≠ emptyEntry ∧ e.toNat % 4096 = pos % 4096 then some (signedOf 32 (e.toNat / 2 ^ 32)) else none

/-! ## Operands of a vector (R107–R108, R137) -/

/-- A row as it was fetched. -/
abbrev Fetched := List (Nat × RowData)

def Fetched.row (f : Fetched) (r : Nat) : Row :=
  match f.find? fun x => x.1 == r with
  | some x => x.2.data
  | none => 0

/-- A zero point of an array that starts at element `first`; 0xFFFF_FFFF for all 0 (R192). -/
def zeroPoint (zps : List Int) (first i : Nat) : Int := if first = 0xFFFFFFFF then 0 else zps.getD (first + i) 0

/-- What the window generator delivers for a vector: operands that are not 0, the escaped operands with their exact value less the zero
point, the array rows whose escape has no entry, and the shift byte of each 64-row block (R83, R100, R107). -/
structure VecIn where
  vals    : List (Nat × Int)
  escapes : List (Nat × Int)
  noEntry : List Nat
  shifts  : List (Nat × Nat)
deriving DecidableEq, Repr, Inhabited

/-- One use delivered. -/
def deliver (w : WinProg) (p : PassDesc) (zps : List Int) (f : Fetched) (v : VecIn) (u : ElemUse) : VecIn :=
  let code := elemOf w.srcFmt (f.row (w.dataRow u)) (u.pos % epr w.srcFmt)
  let zp := zeroPoint zps p.azp u.ch
  let v := if w.srcFmt = 5 then
      { v with shifts := (u.opnd / 64, rowByte (f.row (w.shiftRow u)) (u.pos % 512)) :: v.shifts }
    else v
  if p.outlierEn && escapeCode w.srcFmt == some code then
    let o := slotByte p.sideSlot p.blocks u.ch u.pos
    match slotValue (f.row (p.sideBase + o / 512)) (o % 512) p.sideSlot u.pos with
    | some x => { v with escapes := v.escapes ++ [(u.opnd, x - zp)] }
    | none => { v with noEntry := v.noEntry ++ [w.rowOfOpnd u.opnd] }
  else { v with vals := v.vals ++ [(u.opnd, u.coef * (code - zp))] }

def vecIn (w : WinProg) (p : PassDesc) (zps : List Int) (f : Fetched) (n : Nat) : VecIn :=
  (w.uses n).foldl (deliver w p zps f) ⟨[], [], [], []⟩

/-! ## Weight blocks (R95–R101) -/

/-- Rows of a weight block, its weight-shift row included. -/
def weightRows (f : Nat) : Nat := if f = 4 then 256 else if f = 2 ∨ f = 3 then 129 else 128

/-- The stored weight of array row r, lane l and column c; `rows` are the rows of the block. -/
def storedWeight (f : Nat) (rows : List Row) (r l c : Nat) : Int :=
  match f with
  | 0 | 2 => signedOf 8 (rowByte (rows.getD (r / 2) 0) (256 * (r % 2) + c))
  | 1 | 3 => signedOf 4 (rowByte (rows.getD (r / 2) 0) (256 * (r % 2) + c) / 16 ^ l % 16)
  | _ => signedOf 16 (rowByte (rows.getD r 0) (2 * c) + 256 * rowByte (rows.getD r 0) (2 * c + 1))

/-- The weight shift byte of 64-row block j, lane l (R101); 0 for formats without one. -/
def weightShift (f : Nat) (rows : List Row) (j l : Nat) : Nat :=
  match f with
  | 2 => rowByte (rows.getD 128 0) j
  | 3 => rowByte (rows.getD 128 0) (2 * j + l)
  | _ => 0

/-- A weight bank: for each array row its 256 cells of two lanes, zero points subtracted (R63, R97). -/
def weightBank (p : PassDesc) (zps : List Int) (rows : List Row) : List (List (Int × Int)) :=
  (List.range 256).map fun r => (List.range 256).map fun c =>
    let w (l : Nat) : Int := storedWeight p.wFmt rows r l c - zeroPoint zps p.wzp c
    (w 0, if p.mode = 1 then w 1 else 0)

/-- The weight that operand o meets in column c. -/
def bankWeight (bank : List (List (Int × Int))) (dual : Bool) (o c : Nat) : Int :=
  let cell := (bank.getD (if dual then o / 2 else o) []).getD c (0, 0)
  if dual && o % 2 == 1 then cell.2 else cell.1

end Sys2Proof.Machine
end

