-- ==== Sys2Proof/Machine/Lantern.lean ====
section
/-! DEFINITION. Chains of the Lantern array (spec/03 R59–R91, spec/04 R103–R105, R125–R126, spec/05 R137–R142): occupancy, operands,
exact sums, the checksum compares, aborts and poison. L-cycles are counted by the clock of the Lantern's quadrant (R37; log 33). -/
namespace Sys2Proof.Machine

/-! ## Free values of a Lantern -/

/-! ## Classification of Lantern faults (R454, R457, R467) -/

/-- A TRANSIENT classification: the third within 3,600,000,000,000 ticks fences the Lantern (R454). -/
def Lantern.transient (l : Lantern) (now : Nat) : Lantern :=
  let t := now :: l.transients.filter fun x => decide (now < x + 3600000000000)
  { l with transients := t, fenceDue := if 3 ≤ t.length then some 1 else l.fenceDue }

/-- A residue mismatch in a Lantern (R457): RESIDUE_REPEAT, the classification, and the targeted test. Part numbers as log 28. -/
def State.residueLn (s : State) (n : LnId) (part : Nat) (bad : Bool) : State :=
  let prob := s.rel.ln[n].prob
  let s := s.setLan n fun l =>
    if bad then { l with fenceDue := some 3, unlocated := true }
    else if prob then { l with fenceDue := some 4, unlocated := true } else l.transient s.time.ftb
  ((s.logEv 0x0B0A 1 n.1 [(1, part), (1, if bad then 1 else 0)]).classify 1 n.1 (if bad || prob then 1 else 0) 0x0B0A 0x1FF).targetLn n none

/-! ## Partial sums (R70, R104) -/

/-- A row of 64 S48 values. -/
def sumRow (l : List Int) : Row :=
  BitVec.ofNat 4096 ((List.range 64).foldl (fun a j => a + (BitVec.ofInt 64 (l.getD j 0)).toNat * 2 ^ (64 * j)) 0)

/-- S48 value j of a row. -/
def sumAt (r : Row) (j : Nat) : Int := signedOf 64 (r.toNat / 2 ^ (64 * j))

/-- A sum as it is written: the nearer limit outside 48 bits (R104). -/
def sat48 (v : Int) : Int := satS 48 v

/-- ACC_OVERFLOW: sums saturated, of which k count; the first is logged once per chain or operation (R104, R116, R130). -/
def State.accOverflow (s : State) (n : LnId) (first : Option (Nat × Nat)) (k : Nat) (logIt : Bool) (idx : Nat) : State :=
  match first with
  | none => s
  | some (vec, col) =>
    let s := s.setLan n fun l => { l with err := l.err ||| 0x80, rq := { l.rq with accOvf := satAdd l.rq.accOvf k } }
    if logIt then s.logEv 0x0302 1 n.1 [(4, idx), (2, vec), (1, col)] else s

/-! ## Rows read -/

/-- Scratchpad rows read by a Lantern through their correction, in order. -/
def State.readRows (s : State) (l : List Nat) : State × List RowData :=
  l.foldl (fun (a : State × List RowData) r =>
    let (t, d) := a.1.readRow r
    (t, a.2 ++ [d])) (s, [])

/-- Rows as a read gives them, without what the reads count and log. -/
def State.peekRows (s : State) (l : List Nat) : List RowData := l.map fun r => (s.readRow r).2

/-- A stream-tag mismatch at a fetch: L-cycle of the fetch, stream, expected and found tag (R125–R126, R142). -/
structure TagMiss where
  at_    : Nat
  stream : Nat
  want   : Nat
  found  : Nat
deriving DecidableEq, Repr

/-- The rows of a fetch list with their L-cycles, up to the first tag mismatch (R142), and the mismatch. -/
def tagCheck (tagBase f : Nat) : List (FetchRow × Nat) → List RowData → List (Nat × Nat) × Option TagMiss
  | (r, k) :: t, d :: ds =>
    let want := (tagBase + r.blk) % 256
    if r.stream ≠ 2 ∧ d.tag.toNat ≠ want then ([(r.row, f + k)], some ⟨f + k, r.stream, want, d.tag.toNat⟩)
    else
      let (l, m) := tagCheck tagBase f t ds
      ((r.row, f + k) :: l, m)
  | _, _ => ([], none)

/-- Rows read in L-cycles before `stop`: their reads count and log, and the first poisoned one is given with its L-cycle. -/
def State.readBefore (s : State) (base : Nat → Nat) (stop : Nat) (l : List (Nat × Nat)) : State × Option (Nat × Nat) :=
  (l.filter fun x => decide (x.2 < stop)).foldl (fun (a : State × Option (Nat × Nat)) x =>
    let (t, d) := a.1.readRow (base x.1)
    (t, if d.poison && a.2.isNone then some x else a.2)) (s, none)

/-! ## Aborts (R78, R550) -/

/-- The end of a chain before its time: L-cycle, event and its detail, bits of LN_ERR beside ABORTED, LN_ABFT_LOC fields (first vector,
is a row, line) and whether the chain is repeated. -/
structure Abort where
  at_    : Nat
  code   : Nat
  items  : List (Nat × Nat)
  bits   : W32
  loc    : Option (Nat × Bool × Nat)
  again  : Bool
  pass   : Nat
deriving DecidableEq, Repr

def earlier (a b : Option Abort) : Option Abort :=
  match a, b with
  | some x, some y => if y.at_ < x.at_ then some y else some x
  | none, y => y
  | x, none => x

def earliest (l : List (Option Abort)) : Option Abort := l.foldl earlier none

/-! ## One pass -/

/-- One pass placed in a chain: descriptor index, descriptor, window program, first L-cycle of the weight load and first streaming
L-cycle. -/
structure PassAt where
  idx : Nat
  p   : PassDesc
  w   : WinProg
  f   : Nat
  s   : Nat
deriving DecidableEq, Repr

/-- A chain under evaluation. -/
structure ChainRun where
  st     : State
  /-- Written sums by vector, 256 columns each. -/
  acc    : List (List Int)
  bad    : Bool
  ovf    : Bool
  /-- Destination rows, counted from the first, that a residue repeat poisons (R457). -/
  rowBad : List Nat
  /-- L-cycles added by residue repeats in the outlier lane (R457). -/
  ext    : Nat
  abort  : Option Abort
  bank   : List (List (Int × Int))
  old    : List (List (Int × Int))
  last   : Nat
  /-- Sums of each pass with its first streaming L-cycle. -/
  done   : List (Nat × List (List Int))

/-- The first abort that the operands of a pass cause: an escape without entry, a full outlier window, a shift sum above 31
(R62, R84–R85, R98). -/
def operandAborts (x : PassAt) (vs : List VecIn) (wsh : Nat → Nat → Nat) : Option Abort :=
  let row (o : Nat) : Nat := x.w.rowOfOpnd o
  let vi := List.zip (List.range vs.length) vs
  let noEntry := vi.map fun v => (v.2.noEntry.foldl (fun (a : Option Nat) r => some (match a with | some b => min b r | none => r)) none).map
    fun r => (⟨x.s + v.1 + r, 0x0204, [(4, x.idx), (2, v.1), (1, r)], 0x40, none, false, x.idx⟩ : Abort)
  let windows := (List.range ((vs.length + 15) / 16)).map fun k =>
    let d := (vi.filter fun v => decide (v.1 / 16 = k)).flatMap fun v =>
      v.2.escapes.map (fun e => v.1 + row e.1) ++ v.2.noEntry.map fun r => v.1 + r
    (d.mergeSort (fun a b => decide (a ≤ b)))[64]?.map fun c =>
      (⟨x.s + c, 0x0203, [(4, x.idx), (1, k)], 0x20, none, false, x.idx⟩ : Abort)
  let lanes := if x.p.mode = 1 then [0, 1] else [0]
  let shifts := vi.flatMap fun v => (List.range 4).flatMap fun b => lanes.map fun l =>
    let a := (v.2.shifts.lookup b).getD 0
    let wv := wsh b l
    if 32 ≤ a ∨ 32 ≤ wv ∨ 31 < a + wv then
      some (⟨x.s + v.1 + 64 * b, 0x0205, [(4, x.idx), (1, b), (2, a + wv)], 0x100, none, false, x.idx⟩ : Abort)
    else none
  earliest (noEntry ++ windows ++ shifts)

/-- Sum of the amounts of the faults that satisfy a condition. -/
def faultSum (flt : List LnFault) (q : LnFault → Bool) : Int := (flt.filter q).foldl (fun a f => a + f.delta) 0

/-- The checksum classification of a pass (R72–R74, R105): the exact compares of a fault-free array agree, so they differ by the
amounts that faults add. The outlier lane's contributions are in the column compares only. -/
def checksum (x : PassAt) (flt : List LnFault) : Option Abort :=
  let col (c v : Nat) : Int := faultSum flt fun f => f.kind == .column && f.line == c && f.vec == v
  let chk (v : Nat) : Int := faultSum flt fun f => f.kind == .checkColumn && f.vec == v
  let data (v : Nat) : Int := faultSum flt fun f => f.kind == .column && decide (f.line < 256) && f.vec == v
  let pv := (List.range x.p.n).filter fun v => data v != chk v
  let lane (c v : Nat) : Int := faultSum flt fun f => f.kind == .outlierResidue && f.line == c && f.vec == v
  let total (g : Nat → Int) : Int := (List.range x.p.n).foldl (fun a v => a + g v) 0
  let cols := ((List.range 256).filter fun c => (total (col c) + total (lane c) - col c x.p.n) % 8191 != 0) ++
    (if (total chk - chk x.p.n) % 8191 != 0 then [256] else [])
  if pv.isEmpty && cols.isEmpty then none
  else
    let line := match cols with | [c] => c | _ => 0x1FF
    let fv := pv.headD 0xFFF
    some ⟨x.s + x.p.n + 260, 0x0201, [(4, x.idx), (2, line), (1, 0), (2, fv)],
      (if pv.isEmpty then 0 else 2) ||| (if line = 0x1FF then 8 else 4), some (fv, false, line), true, x.idx⟩

/-- The first row-parity failure (R76). -/
def parityAbort (x : PassAt) (flt : List LnFault) : Option Abort :=
  earliest (flt.map fun f => if f.kind = .rowParity ∧ f.vec < x.p.n ∧ f.line < 256 then
    some ⟨x.s + f.vec + f.line, 0x0202, [(4, x.idx), (2, f.line)], 0x10, some (0xFFF, true, f.line), true, x.idx⟩ else none)

/-- Column sums of a vector: data cells, the outlier lane, and faults (R59–R62, R83). -/
def vectorSums (x : PassAt) (bank : List (List (Int × Int))) (wsh : Nat → Nat → Nat) (flt : List LnFault) (v : Nat) (i : VecIn) : List Int :=
  let dual := x.p.mode == 1
  let ops := (i.vals ++ i.escapes).map fun o =>
    let r := x.w.rowOfOpnd o.1
    (o.1, o.2 * 2 ^ ((i.shifts.lookup (r / 64)).getD 0 + wsh (r / 64) (if dual then o.1 % 2 else 0)))
  (List.range 256).map fun c =>
    ops.foldl (fun a o => a + o.2 * bankWeight bank dual o.1 c) 0 +
    faultSum flt fun f => (f.kind == .column || (f.kind == .outlierResidue && f.delta != 0)) && f.line == c && f.vec == v

/-- The sums found at the destination: written by an earlier pass of the chain, or the stored contents (R71). -/
def sumsBefore (acc : List (List Int)) (rows : Nat → RowData) (v : Nat) : List Int :=
  match acc[v]? with
  | some l => l
  | none => (List.range 256).map fun c => sumAt (rows (4 * v + c / 64)).data (c % 64)

/-- The abort of a tag mismatch: in the set-up L-cycles before its pass streams, or in the L-cycle of the fetch (R142). -/
def TagMiss.abort (m : TagMiss) (x : PassAt) : Abort :=
  ⟨if x.s ≤ m.at_ then m.at_ else min (max (m.at_ + 1) (x.s - 12)) (x.s - 5), 0x0301, [(4, x.idx), (1, m.stream), (1, m.want), (1, m.found)], 0,
   none, false, x.idx⟩

/-- L-cycle of row d of a weight block that loads from L-cycle f on (R63, R96). -/
def weightCycle (wFmt f d : Nat) : Nat := f + (if wFmt = 4 then d else min 255 (2 * d))

/-- One pass of a chain. `flt` are the faults that strike in it. Reads, counts and events fall before the end of the chain (R78). -/
def ChainRun.pass (c : ChainRun) (n : LnId) (zps : List Int) (x : PassAt) (flt : List LnFault) : ChainRun :=
  let far := x.s + x.p.n + 100000
  let atEnd (a : Option Abort) : Nat := match a with | some a => a.at_ | none => far
  if atEnd c.abort ≤ x.f then c
  else
    let s := c.st
    let abft := bit s.lan[n].ctrl.toNat 0
    let par := bit s.lan[n].ctrl.toNat 1
    let wList := (List.range (weightRows x.p.wFmt)).map fun d => (x.p.weightRow + d, weightCycle x.p.wFmt x.f d)
    let rows := (s.peekRows (wList.map fun d => weightRow n.1 d.1)).map (·.data)
    let issue := fetchIssue x.w x.p (x.s - x.f)
    let data := s.peekRows (issue.map fun r => actRow n.1 r.1.row)
    let (fList, miss) := tagCheck x.p.tagBase x.f issue data
    let got : Fetched := List.zip (fList.map (·.1)) data
    let bank := weightBank x.p zps rows
    let wsh (b l : Nat) : Nat := weightShift x.p.wFmt rows b l
    let vs := (List.range x.p.n).map (vecIn x.w x.p zps got)
    let abort := earliest [c.abort, miss.map (·.abort x), operandAborts x vs wsh, if abft then checksum x flt else none,
      if par then parityAbort x flt else none]
    let stop := atEnd abort
    let (s1, wPoison) := s.readBefore (weightRow n.1) stop wList
    let (s2, fPoison) := s1.readBefore (actRow n.1) stop fList
    let need := if x.p.init then [] else (List.range (4 * x.p.n)).filter fun k => decide (c.acc.length ≤ k / 4)
    let (s3, pPoison) := s2.readBefore (psumRow n.1) stop (need.map fun k => (x.p.destRow + k, x.s + 256 + k / 4))
    let old := List.zip need (s2.peekRows (need.map fun k => psumRow n.1 (x.p.destRow + k)))
    let poison := [wPoison.map fun a => (a.2, 0, a.1), fPoison.map fun a => (a.2, 1, a.1), pPoison.map fun a => (a.2, 2, a.1)].foldl
      (fun (best : Option (Nat × Nat × Nat)) q => match best, q with
        | some a, some b => if b.1 < a.1 then some b else some a
        | none, q => q
        | a, none => a) none
    let s4 := match poison with
      | some q => (s3.setLan n fun l => { l with err := l.err ||| 0x200 }).logAt (max s.time.ftb (s.lFtb (n.1 / 9) q.1)) 0x0206 1 n.1
          [(4, x.idx), (1, q.2.1), (2, q.2.2)]
      | none => s3
    let raw := (List.zip (List.range vs.length) vs).map fun v =>
      let y := vectorSums x bank wsh flt v.1 v.2
      if x.p.init then y else List.zipWith (· + ·) (sumsBefore c.acc (fun k => (old.lookup k).getD ⟨0, 0, false⟩) v.1) y
    let ovs := (List.zip (List.range raw.length) raw).flatMap fun v =>
      if stop ≤ x.s + 256 + v.1 then [] else ((List.range 256).filter fun k => sat48 (v.2.getD k 0) != v.2.getD k 0).map fun k => (v.1, k)
    let s5 := s4.accOverflow n ovs.head? ovs.length (!c.ovf) x.idx
    let hits := flt.filter fun f => f.kind == .outlierResidue && decide (f.vec < x.p.n) && decide (x.s + min x.p.n (16 * (f.vec / 16) + 16) < stop)
    let s6 := hits.foldl (fun (s : State) f => s.residueLn n 2 (f.delta != 0)) s5
    let sums := raw.map (·.map sat48)
    { st := s6, acc := sums ++ c.acc.drop raw.length, bad := c.bad || poison.isSome, ovf := c.ovf || !ovs.isEmpty,
      rowBad := c.rowBad ++ (hits.filter fun f => f.delta != 0).map (fun f => 4 * f.vec + f.line / 64), ext := c.ext + 8 * hits.length,
      abort := abort, bank := bank, old := c.bank, last := x.s, done := c.done ++ [(x.s, sums)] }

/-! ## A chain -/

/-- First L-cycle of the first weight load of a chain that may start at `start` (R68). -/
def Lantern.loadStart (l : Lantern) (start : Nat) : Nat := if l.isolated then max start l.drainEnd else max start l.lastStream

/-- P of R66: the L-cycles of the load after the previous drain. -/
def Lantern.preload (l : Lantern) (start : Nat) : Nat := l.loadStart start + 256 - max (l.loadStart start) l.drainEnd

/-- The passes of a chain with their L-cycles (R66–R68), outlier stalls not counted. -/
def placePasses (windows : List WinProg) (f s : Nat) : List (Nat × PassDesc) → List PassAt
  | [] => []
  | (i, p) :: t => ⟨i, p, windows.getD p.window default, f, s⟩ :: placePasses windows s (s + max (p.n + 20) 256) t

/-- Σ (N + 20 + W) of R66 for passes after the first of their chain. -/
def streamLen : List PassDesc → Nat
  | [] => 0
  | [p] => p.n + 20
  | p :: t => max (p.n + 20) 256 + streamLen t

/-- Occupancy of a chain (R66–R67). -/
def occupancy (preload : Nat) (ps : List PassDesc) : Nat := preload + streamLen ps + 256

/-- Rows written by the array path. -/
def State.writeRows (s : State) (l : List (Nat × Row × Bool)) (tag : Byte) : State :=
  l.foldl (fun (s : State) r => s.writeRow r.1 0xFFFF r.2.1 tag r.2.2) s

/-- What destination row k of a chain holds at L-cycle `stop`: the sums of the last pass that has written it (R69, R71), if one has. A
vector's sums leave the array 256 L-cycles after it entered. -/
def ChainRun.rowAt (c : ChainRun) (stop k : Nat) : Option Row :=
  (c.done.filter fun p => decide (p.1 + 256 + k / 4 < stop) && decide (k / 4 < p.2.length)).getLast?.map fun p =>
    sumRow (((p.2.getD (k / 4) []).drop (64 * (k % 4))).take 64)

/-- Destination rows at an end of R78: the rows written by then, each with poison set. -/
def State.poisonRows (s : State) (l : List (Nat × Option Row)) (tag : Byte) : State :=
  l.foldl (fun (s : State) r => match r.2 with
    | some d => s.writeRow r.1 0xFFFF d tag true
    | none => s.setMem (s.mem.setPoison r.1 true)) s

/-- What LN_STATE shows of spans up to an L-cycle that no longer matters. -/
def trimSpans (now : Nat) (l : List LnSpan) : List LnSpan :=
  match (l.filter fun x => decide (x.since ≤ now)).getLast? with
  | some x => x :: l.filter fun y => decide (now < y.since)
  | none => l

/-- Spans of an array's work added to those before it; what begins before the end of the work before it shows from that end (log 87). -/
def Lantern.addSpans (l : Lantern) (now : Nat) (new : List LnSpan) : Lantern :=
  { l with spans := trimSpans now l.spans ++ new.map fun x => { x with since := max x.since l.drainEnd } }

/-- Spans of a chain: the load of its first weights, its passes, each with the bank that its marker selects, and the rest (R68, R90). -/
def chainSpans (bank : Bool) (load end_ : Nat) (xs : List PassAt) : List LnSpan :=
  let run := xs.filter fun x => decide (x.s ≤ end_)
  let at_ (i : Nat) : Bool := bank != (i % 2 == 1)
  [⟨load, some .load, false, bank⟩] ++ ((List.zip (List.range run.length) run).map fun x => ⟨x.2.s, some .pass, x.2.p.mode == 1, at_ (x.1 + 1)⟩) ++
    [⟨end_, none, false, at_ run.length⟩]

/-- R78: the chain ends. The destination rows are poisoned, the weight banks discarded, the event logged, the Lantern HALTED; an
abort of R550 leaves HALTED when the placed occupancy ends. -/
def State.endChain (s : State) (n : LnId) (inst : Inst) (a : Abort) (dest : List (Nat × Option Row)) (streamed occEnd : Nat) : State :=
  let s := (s.poisonRows dest s.freeTag).fresh 1
  let s := s.setLan n fun l => { l with
    mode := .halted, err := l.err ||| 1 ||| a.bits, active := [], shadow := [], isolated := true, drainEnd := occEnd, arrInst := some inst
    abftLoc := match a.loc with
      | some (fv, row, line) => BitVec.ofNat 32 (fv * 65536 + (if row then 512 else 0) + line)
      | none => l.abftLoc
    abftCount := if a.code = 0x0201 then satInc l.abftCount else l.abftCount
    parityCount := if a.code = 0x0202 then satInc l.parityCount else l.parityCount
    rq := { l.rq with tagMis := if a.code = 0x0301 then satInc l.rq.tagMis else l.rq.tagMis }
    passCount := l.passCount + BitVec.ofNat 64 streamed
    occEnd := if a.again then none else some occEnd
    failed := match a.again, a.loc with
      | true, some (_, row, line) => some ⟨inst, a.pass, line, row, a.code⟩
      | true, none => some ⟨inst, a.pass, 0x1FF, false, a.code⟩
      | false, _ => l.failed
    lines := match a.loc with
      | some (_, row, line) => if line = 0x1FF then l.lines else (row, line) :: l.lines
      | none => l.lines
    unlocated := l.unlocated || (match a.loc with | some (_, _, line) => line == 0x1FF | none => false) }
  let s := s.logAt (max s.time.ftb (s.lFtb (n.1 / 9) a.at_)) a.code 1 n.1 a.items
  if a.again then s.targetLn n (match a.loc with | some (_, row, line) => if line = 0x1FF then none else some (row, line) | none => none)
  else s

/-- A chain on a physical Lantern: `ls` and `ss` are the first L-cycles of its first weight load and of its streaming. The result is
the state and whether the chain drained (true) or ended early. -/
def State.runChain (s : State) (n : LnId) (inst : Inst) (im : JobImage) (ps : List (Nat × PassDesc)) (ls ss preload : Nat)
    (flt : List LnFault) : State × Option Abort :=
  let descs := ps.map (·.2)
  let xs := placePasses im.windows ls ss ps
  let run := (List.zip (List.range xs.length) xs).foldl (fun (c : ChainRun) x =>
      let x' := { x.2 with s := x.2.s + c.ext, f := if x.1 = 0 then x.2.f else x.2.f + c.ext }
      c.pass n im.zps x' (flt.filter fun f => f.pass == x.1))
    ⟨s, [], false, false, [], 0, none, [], [], ss, []⟩
  let drain := ss + streamLen descs + 256 + run.ext
  let dest := destRows n descs
  let spans := chainSpans s.lan[n].bank ls ((run.abort.map (·.at_)).getD drain) xs
  let st := run.st.setLan n fun l =>
    { l.addSpans (s.lNow (n.1 / 9)) spans with occupancy := occupancy preload descs + run.ext, bank := (spans.getLast?.map (·.bank)).getD l.bank }
  match run.abort with
  | some a =>
    let streamed := (xs.filter fun x => decide (x.s + x.p.n + 20 ≤ a.at_)).length
    (st.endChain n inst a ((List.zip (List.range dest.length) dest).map fun d => (d.2, run.rowAt a.at_ d.1)) streamed drain, some a)
  | none =>
    let rows := (List.zip (List.range dest.length) dest).map fun d =>
      (d.2, sumRow (((run.acc.getD (d.1 / 4) []).drop (64 * (d.1 % 4))).take 64), run.bad || run.rowBad.contains d.1)
    (((st.writeRows rows st.freeTag).fresh 1).setLan n fun l => { l with
      mode := .idle, active := run.bank, shadow := run.old, drainEnd := drain, lastStream := run.last, isolated := false, arrInst := some inst
      passCount := l.passCount + BitVec.ofNat 64 ps.length }, none)

/-- First L-cycle in which a Lantern may start an instance: at its placed time and not before the present (R41), nor before `start`, up to
which something else holds it. -/
def State.startCycle (s : State) (n : LnId) (e : TtEntry) (i : Inst) (start : Nat) : Nat :=
  max start (max (s.lFrom (n.1 / 9) (s.job.placed e i) + e.cycle) (s.lNow (n.1 / 9)))

/-- CHAIN (R59–R79): the chain of an instance on the Lantern that serves its logical Lantern. It may start under R41 and R186 at its
placed time, at the present or in L-cycle `start`, whichever is latest. -/
def chainEffect (i : Inst) (start : Nat) (flt : List LnFault) (s : State) : State :=
  s.startInst 1 i fun s e =>
    match s.rel.lnPhys e.unit, s.job.image with
    | some n, some im =>
      let l := s.lan[n]
      let c := s.startCycle n e i start
      let ls := l.loadStart c
      (s.runChain n i im (im.chainPasses (e.arg i.inst) e.arg1) ls (max (ls + 256) l.drainEnd) (l.preload c) flt).1
    | _, _ => s

def execChain (i : Inst) (start : Nat) (flt : List LnFault) (s : State) : Host.Outcome State Fault Refusal := .next (chainEffect i start flt s)

/-- The Lantern is HALTED until the end of its placed occupancy, and then IDLE (R126, R550). -/
def haltedEndEffect (n : LnId) (s : State) : State :=
  match s.lan[n].mode, s.lan[n].occEnd with
  | .halted, some e => (s.reach (s.lFtb (n.1 / 9) e)).setLan n fun l => { l with mode := .idle, occEnd := none }
  | _, _ => s

def execHaltedOccupancyEnd (n : LnId) (s : State) : Host.Outcome State Fault Refusal := .next (haltedEndEffect n s)

/-- LANTERN_HANG (R456): a chain that has not drained 4,096 L-cycles after its end is handled as an unlocated mismatch; `pass` is the
pass of the chain that hangs. -/
def lanternHangEffect (i : Inst) (start pass : Nat) (s : State) : State :=
  s.startInst 1 i fun s e =>
    match s.rel.lnPhys e.unit, s.job.image with
    | some n, some im =>
      let l := s.lan[n]
      let c := s.startCycle n e i start
      let ps := im.chainPasses (e.arg i.inst) e.arg1
      let descs := ps.map (·.2)
      let ss := max (l.loadStart c + 256) l.drainEnd
      let idx := (ps[pass]?.map (·.1)).getD (e.arg i.inst)
      let occ := occupancy (l.preload c) descs
      let end_ := ss + streamLen descs + 256 + 4096
      let dest := destRows n descs
      let s := s.setLan n fun l => { l.addSpans (s.lNow (n.1 / 9)) (chainSpans l.bank (l.loadStart c) end_ (placePasses im.windows (l.loadStart c) ss ps)) with
        occupancy := occ + 4096 }
      (s.fresh (64 * dest.length)).endChain n i ⟨end_, 0x0B0D, [(4, idx), (4, 4096)], 0, some (0xFFF, false, 0x1FF), true, idx⟩
        ((List.zip (List.range dest.length) dest).map fun d => (d.2, some (s.freeRow d.1))) 0 end_
    | _, _ => s

def execLanternHang (i : Inst) (start pass : Nat) (s : State) : Host.Outcome State Fault Refusal := .next (lanternHangEffect i start pass s)

end Sys2Proof.Machine
end

