-- ==== Sys2Proof/Machine/Requant.lean ====
section
/-! DEFINITION. The requantiser (spec/04 R109–R122, spec/05 R149, spec/03 R86) and the global-average unit (R88–R89, R123–R128). -/
namespace Sys2Proof.Machine

/-! ## Output formats (R92, R109, R199) -/

/-- Elements in a row of output format f: 0 S8A, 1 U8A, 2 S4A, 3 U4A, 4 B8S, 5 U16, 6 S16. -/
def outEpr (f : Nat) : Nat := if f = 2 ∨ f = 3 then 1024 else if f = 5 ∨ f = 6 then 256 else 512

/-- Bits of an element. -/
def outBits (f : Nat) : Nat := if f = 2 ∨ f = 3 then 4 else if f = 5 ∨ f = 6 then 16 else 8

/-- Code range (qmin, qmax). -/
def outRange (f : Nat) : Int × Int :=
  match f with
  | 1 => (0, 255)
  | 2 => (-8, 7)
  | 3 => (0, 15)
  | 5 => (0, 65535)
  | 6 => (-32768, 32767)
  | _ => (-128, 127)

/-- Zero point of a channel for an output format: ignored and taken as 0 for B8S (R109, R198). -/
def chanZp (f : Nat) (r : ChanRec) : Int := if f = 4 then 0 else if f = 5 then r.zp.toNat else r.zp.toInt

/-! ## One element (R112–R121) -/

/-- v of R112. -/
def requantValue (r : ChanRec) (zp acc : Int) : Int := roundShift ((acc + r.bias) * r.m) r.sh + zp

/-- What an element becomes: code, the counter that moves, and its side-list entry. -/
inductive Moved where
  | none | hi | lo | escape | full | range
deriving DecidableEq, Repr

/-- R113: outlier capture off. -/
def plainCode (qmin qmax v : Int) : Int × Moved :=
  if qmax < v then (qmax, .hi) else if v < qmin then (qmin, .lo) else (v, .none)

/-- R118–R121: outlier capture on; `held` entries stand in the block already, of `cap`. -/
def captureCode (qmin qmax v : Int) (held cap : Nat) : Int × Moved :=
  if qmin + 1 ≤ v ∧ v ≤ qmax then (v, .none)
  else
    let sat := if qmax < v then qmax else qmin + 1
    if v < -(2 ^ 31) + 1 ∨ 2 ^ 31 - 1 < v then (sat, .range)
    else if cap ≤ held then (sat, .full)
    else (qmin, .escape)

/-- The 64-bit entry of a value at a position (R119). -/
def entryOf (v : Int) (pos : Nat) : Nat := (BitVec.ofInt 32 v).toNat * 2 ^ 32 + pos % 4096

/-- The shift of a B8S block: the smallest s that fits every element, given as (t × M, sh) (R117). -/
def blockShift (l : List (Int × Nat)) : Nat :=
  ((List.range 32).find? fun s => l.all fun x => let m := roundShift x.1 (x.2 + s); decide (-128 ≤ m ∧ m ≤ 127)).getD 31

/-! ## Source sums -/

/-- A sum that enters the requantiser: channel within the operation, output position counted from START, value, source poison. -/
structure SrcSum where
  ch     : Nat
  pos    : Nat
  acc    : Int
  poison : Bool
deriving DecidableEq, Repr, Inhabited

/-- Partial-sum rows of an operation in the order of R86. -/
def sourceRows (op : RqOp) : List Nat :=
  (List.range op.n).flatMap fun v =>
    if op.q = 0 then (List.range ((op.channels + 63) / 64)).map fun k => op.srcRow + 4 * v + k
    else (List.range (16 / op.q)).flatMap fun j => (List.range 4).map fun k => op.srcRow + 4 * op.n * j + 4 * v + k

/-- Row i of Aᵀ (R149). -/
def atRow (i : Nat) : List Int := if i = 0 then [1, 1, 1, 0] else [0, 1, -1, -1]

/-- Y[i][j] of a Winograd tile from the sixteen position sums (R149). -/
def winoOut (m : Nat → Int) (i j : Nat) : Int :=
  (List.range 16).foldl (fun a x => a + (atRow i).getD (x / 4) 0 * (atRow j).getD (x % 4) 0 * m x) 0

/-- The sums of an operation, by vector (or tile), then channel. -/
def sourceSums (op : RqOp) (row : Nat → RowData) : List SrcSum :=
  (List.range op.n).flatMap fun v =>
    if op.q = 0 then
      (List.range op.channels).map fun c =>
        let d := row (op.srcRow + 4 * v + c / 64)
        ⟨c, v, sumAt d.data (c % 64), d.poison⟩
    else
      let cw := 256 / op.q
      (List.range op.channels).flatMap fun c =>
        let at_ (x : Nat) : RowData × Nat :=
          let col := x % op.q * cw + c
          (row (op.srcRow + 4 * op.n * (x / op.q) + 4 * v + col / 64), col % 64)
        let bad := (List.range 16).any fun x => (at_ x).1.poison
        (List.range 4).map fun k =>
          ⟨c, 4 * v + k, winoOut (fun x => sumAt (at_ x).1.data (at_ x).2) (k / 2) (k % 2) / 4, bad⟩

/-! ## An operation -/

/-- An element formed: channel, position from START, code, what moved, v, poison. -/
structure Elem where
  ch     : Nat
  pos    : Nat
  code   : Int
  moved  : Moved
  v      : Int
  poison : Bool
deriving DecidableEq, Repr

/-- Elements of every format but B8S. `held` counts the entries of each block so far. -/
def formElems (op : RqOp) (rec_ : Nat → ChanRec) (sums : List SrcSum) (add : SrcSum → Int) : List Elem :=
  (sums.foldl (fun (a : List Elem × List (Nat × Nat)) x =>
    let r := rec_ x.ch
    let v := requantValue r (chanZp op.outFmt r) x.acc + add x
    let q := outRange op.outFmt
    let blk := (op.start + x.pos) / 4096
    let held := (a.2.filter fun b => b == (x.ch, blk)).length
    let cm := if op.capture then captureCode q.1 q.2 v held op.cap else plainCode q.1 q.2 v
    (a.1 ++ [⟨x.ch, x.pos, cm.1, cm.2, v, x.poison⟩], if cm.2 = .escape then (x.ch, blk) :: a.2 else a.2)) ([], [])).1

/-- Elements of a B8S output and the shifts of its blocks as (group, position, shift, poison) (R117). -/
def formB8S (rec_ : Nat → ChanRec) (sums : List SrcSum) (add : SrcSum → Int) : List Elem × List (Nat × Nat × Nat × Bool) :=
  let keys := (sums.map fun x => (x.ch / 64, x.pos)).dedup
  let blocks := keys.map fun k =>
    let l := sums.filter fun x => (x.ch / 64, x.pos) == k
    let tm (x : SrcSum) : Int × Nat := let r := rec_ x.ch; ((x.acc + r.bias) * r.m, r.sh)
    let s := blockShift (l.map tm)
    (l.map fun x =>
      let m := roundShift (tm x).1 ((tm x).2 + s) + add x
      let cm := plainCode (-128) 127 m
      (⟨x.ch, x.pos, cm.1, cm.2, m, x.poison⟩ : Elem), (k.1, k.2, s, l.any (·.poison)))
  (blocks.flatMap (·.1), blocks.map (·.2))

/-- One output row: its row number from the plane's base, contents, poison. Positions without an element hold `fill`. -/
def outRows (epr width start count : Nat) (fill : Int) (code : Nat → Option (Int × Bool)) : List (Nat × Row × Bool) :=
  (List.range ((start + count - 1) / epr + 1 - start / epr)).map fun j =>
    let r := start / epr + j
    let cells := (List.range epr).map fun k => if r * epr + k < start then none else code (r * epr + k - start)
    (r, BitVec.ofNat 4096 ((List.zip (List.range epr) cells).foldl (fun a x =>
      a + (BitVec.ofInt width (match x.2 with | some c => c.1 | none => fill)).toNat * 2 ^ (width * x.1)) 0),
     cells.any fun c => match c with | some d => d.2 | none => false)

/-- A slot of C′ entries (R120). -/
def roundPow2 (n : Nat) : Nat := if n = 0 then 0 else 2 ^ Nat.clog 2 n

/-- A side-list row: row from the side-list base, sector mask, contents, poison (R120). `slots` are the covered slots: first byte from the
base, the entries in ascending position, and whether one of them comes from a poisoned sum. -/
def sideRows (c' : Nat) (slots : List (Nat × List Nat × Bool)) : List (Nat × BitVec 16 × Row × Bool) :=
  let rows := (slots.map fun s => s.1 / 512).dedup
  rows.map fun r =>
    let mine := slots.filter fun s => s.1 / 512 == r
    let entry (b : Nat) : Nat :=
      match mine.find? fun s => decide (s.1 % 512 ≤ b ∧ b < s.1 % 512 + 8 * c') with
      | some s => s.2.1.getD ((b - s.1 % 512) / 8) emptyEntry.toNat
      | none => emptyEntry.toNat
    let mask := allSectors.foldl (fun (m : BitVec 16) i =>
      if mine.any fun s => decide (s.1 % 512 < 32 * i + 32 ∧ 32 * i < s.1 % 512 + 8 * c') then m ||| BitVec.ofNat 16 (2 ^ i) else m) 0
    (r, mask, BitVec.ofNat 4096 ((List.range 64).foldl (fun a j => a + entry (8 * j) * 2 ^ (64 * j)) 0), mine.any (·.2.2))

/-- A row that the requantiser writes: its own activation scratchpad, or the map store through the fabric (R159, R199). -/
def State.rqWrite (s : State) (n : LnId) (map : Bool) (row : Nat) (mask : BitVec 16) (d : Row) (tag : Nat) (poison : Bool) : State :=
  if map then (s.fabricWrite ⟨n.1, none, mapRow row, mask, d, BitVec.ofNat 8 tag, poison⟩ .none).1
  else s.writeRow (actRow n.1 row) mask d (BitVec.ofNat 8 tag) poison

/-- Counters that the elements move; those from poisoned sums move none (R116). -/
def RqCounters.addAll (c : RqCounters) (l : List Elem) : RqCounters :=
  let k (m : Moved) : Nat := (l.filter fun e => e.moved == m && !e.poison).length
  { c with satHi := satAdd c.satHi (k .hi), satLo := satAdd c.satLo (k .lo), escape := satAdd c.escape (k .escape),
           sideFull := satAdd c.sideFull (k .full), escRange := satAdd c.escRange (k .range) }

/-- The channel record of an output channel: the foreground of the parameter memory (R111). -/
def Lantern.chan (l : Lantern) (im : JobImage) (k : Nat) : ChanRec := (l.params.lookup k).getD (im.chans.getD k default)

/-- Side-list slots of the blocks that an operation covers (R120). -/
def coveredSlots (op : RqOp) (els : List Elem) : List (Nat × List Nat × Bool) :=
  let c' := roundPow2 op.cap
  ((els.map fun e => (e.ch, (op.start + e.pos) / 4096)).dedup).map fun k =>
    let mine := els.filter fun e => (e.ch, (op.start + e.pos) / 4096) == k && e.moved == .escape
    (8 * c' * ((op.firstPlane + k.1) * op.blocks + k.2), mine.map (fun e => entryOf e.v (op.start + e.pos)), mine.any (·.poison))

/-- A requantiser operation on a physical Lantern (R86, R111–R122, R149), from L-cycle `start` on. Faults name a channel (`pass`) and a position (`vec`). -/
def State.runRequant (s : State) (n : LnId) (inst : Inst) (im : JobImage) (idx start : Nat) (op : RqOp) (flt : List LnFault) : State :=
  let src := sourceRows op
  let (s1, ds) := s.readRows (src.map fun r => psumRow n.1 r)
  let got := List.zip src ds
  let row (r : Nat) : RowData := ((got.find? fun x => x.1 == r).map (·.2)).getD ⟨0, 0, false⟩
  let raw := sourceSums op row
  let ovs := if op.q = 0 then [] else raw.filter fun x => sat48 x.acc != x.acc
  let sums := if op.q = 0 then raw else raw.map fun x => { x with acc := sat48 x.acc }
  let hits := flt.filter fun f => f.kind == .resultResidue
  let add (x : SrcSum) : Int := faultSum hits fun f => f.pass == x.ch && f.vec == x.pos
  let rec_ (c : Nat) : ChanRec := s.lan[n].chan im (op.params + c)
  let (els0, shifts) := if op.outFmt = 4 then formB8S rec_ sums add else (formElems op rec_ sums add, [])
  let els := els0.map fun e => if hits.any fun f => f.delta != 0 && f.pass == e.ch && f.vec == e.pos then { e with poison := true } else e
  let count := if op.q = 0 then op.n else 4 * op.n
  let tag (e r : Nat) : Nat := (op.outTagBase + r * e / 4096) % 256
  let s2 := match got.find? fun x => x.2.poison with
    | some x => s1.logEv 0x0206 1 n.1 [(4, idx), (1, 2), (2, x.1)]
    | none => s1
  let s3 := s2.accOverflow n (ovs.head?.map fun x => (x.pos / 4, x.ch)) (ovs.filter (!·.poison)).length true idx
  let s4 := (List.range op.channels).foldl (fun (s : State) c =>
    let mine := els.filter fun e => e.ch == c
    (outRows (outEpr op.outFmt) (outBits op.outFmt) op.start count (chanZp op.outFmt (rec_ c))
      (fun p => (mine.find? fun e => e.pos == p).map fun e => (e.code, e.poison))).foldl (fun (s : State) r =>
        s.rqWrite n op.destMap (op.outBase + c * op.outStride + r.1) 0xFFFF r.2.1 (tag (outEpr op.outFmt) r.1) r.2.2) s) s3
  let s5 := ((shifts.map (·.1)).dedup).foldl (fun (s : State) g =>
    (outRows 512 8 op.start count 0
      (fun p => (shifts.find? fun x => x.1 == g && x.2.1 == p).map fun x => ((x.2.2.1 : Int), x.2.2.2))).foldl (fun (s : State) r =>
        s.rqWrite n op.destMap (op.shiftBase + (op.firstPlane / 64 + g) * op.outStride + r.1) 0xFFFF r.2.1 (tag 512 r.1) r.2.2) s) s4
  let s6 := if op.capture && op.cap != 0 then
      (sideRows (roundPow2 op.cap) (coveredSlots op els)).foldl (fun (s : State) r =>
        s.rqWrite n op.destMap (op.sideBase + r.1) r.2.1 r.2.2.1 0 r.2.2.2) s5
    else s5
  let len := src.length + 12 + 8 * hits.length
  let s7 := s6.setLan n fun l => { l with rq := l.rq.addAll els0, occupancy := len, rqInst := some inst, rqEnd := start + len }
  let lost := (els0.filter fun e => (e.moved == .full || e.moved == .range) && !e.poison).length
  let s8 := if lost = 0 then s7 else s7.logEv 0x0303 1 n.1 [(4, idx), (4, lost)]
  hits.foldl (fun (s : State) f => s.residueLn n (if op.q ≠ 0 ∧ f.line = 1 then 3 else 0) (f.delta != 0)) s8

/-- REQUANT: the operation of an instance. -/
def requantEffect (i : Inst) (start : Nat) (flt : List LnFault) (s : State) : State :=
  s.startInst 2 i fun s e =>
    match s.rel.lnPhys e.unit, s.job.image with
    | some n, some im =>
      match im.rqops[e.arg i.inst]? with
      | some op => s.runRequant n i im (e.arg i.inst) (s.startCycle n e i start) op flt
      | none => s
    | _, _ => s

def execRequant (i : Inst) (start : Nat) (flt : List LnFault) (s : State) : Host.Outcome State Fault Refusal := .next (requantEffect i start flt s)

/-! ## The global-average unit (R88–R89, R128) -/

/-- The exact rounding divider (R128). -/
def roundDiv (v : Int) (d : Nat) : Int :=
  let q : Nat := (2 * v.natAbs + d) / (2 * d)
  if v < 0 then -q else q

/-- G: source rows of a channel. -/
def GavgOp.rows (o : GavgOp) : Nat := (o.e + epr o.srcFmt - 1) / epr o.srcFmt

/-- Occupancy in L-cycles (R89). -/
def GavgOp.occupancy (o : GavgOp) : Nat := o.c * max o.rows 24 + 34

/-- The exact sum of a channel so far and the rows read. -/
structure GavgRun where
  st     : State
  sums   : List Int
  poison : Option Nat
  abort  : Option Abort

/-- Sum of the elements of one source row of channel c; none where an escape has no entry (R85, R88, R123). -/
def State.gavgRow (s : State) (n : LnId) (zps : List Int) (o : GavgOp) (c r : Nat) (d : Row) : State × Option Int × Option Nat :=
  let zp := zeroPoint zps o.azp c
  let e := epr o.srcFmt
  (List.range (min e (o.e - r * e))).foldl (fun (a : State × Option Int × Option Nat) k =>
    match a.2.1 with
    | none => a
    | some t =>
      let code := elemOf o.srcFmt d k
      if o.outlierEn && escapeCode o.srcFmt == some code then
        let b := slotByte o.sideSlot o.blocks c (r * e + k)
        let (s1, x) := a.1.readRow (actRow n.1 (o.sideBase + b / 512))
        let p := if x.poison && a.2.2.isNone then some (o.sideBase + b / 512) else a.2.2
        match slotValue x.data (b % 512) o.sideSlot (r * e + k) with
        | some v => (s1, some (t + v - zp), p)
        | none => (s1, none, p)
      else (a.1, some (t + code - zp), a.2.2)) (s, some 0, none)

/-- Source row r of channel c. -/
def GavgRun.row (g : GavgRun) (n : LnId) (zps : List Int) (o : GavgOp) (idx start c r : Nat) : GavgRun :=
  if g.abort.isSome then g
  else
    let (s1, d) := g.st.readRow (actRow n.1 (o.srcBase + c * o.planeStride + r))
    let at_ := start + c * max o.rows 24 + r
    let want := (o.tagBase + r / blockRows o.srcFmt) % 256
    let p1 := if d.poison && g.poison.isNone then some (o.srcBase + c * o.planeStride + r) else g.poison
    if d.tag.toNat ≠ want then
      { g with st := s1, poison := p1,
               abort := some ⟨at_, 0x0301, [(4, idx), (1, 2), (1, want), (1, d.tag.toNat)], 0, none, false, idx⟩ }
    else
      match s1.gavgRow n zps o c r d.data with
      | (s2, some v, p2) => { g with st := s2, poison := p1 <|> p2, sums := g.sums.set c (g.sums.getD c 0 + v) }
      | (s2, none, p2) => { g with st := s2, poison := p1 <|> p2,
                                   abort := some ⟨at_, 0x0204, [(4, idx), (2, c), (1, 0)], 0x40, none, false, idx⟩ }

/-- A global-average operation on a physical Lantern, from L-cycle `start`. Faults name a channel (`vec`). -/
def State.runGavg (s : State) (n : LnId) (inst : Inst) (im : JobImage) (idx start : Nat) (o : GavgOp) (flt : List LnFault) : State :=
  let g := (List.range o.c).foldl (fun (g : GavgRun) c => (List.range o.rows).foldl (fun (g : GavgRun) r =>
    g.row n im.zps o idx start c r) g) ⟨s, List.replicate o.c 0, none, none⟩
  let s1 := match g.poison with
    | some r => (g.st.setLan n fun l => { l with err := l.err ||| 0x200 }).logEv 0x0206 1 n.1 [(4, idx), (1, 1), (2, r)]
    | none => g.st
  let dest := (List.range ((o.c + 63) / 64)).map fun k => psumRow n.1 (o.destRow + k)
  let spans (l : Lantern) (end_ : Nat) : Lantern :=
    l.addSpans (s.lNow (n.1 / 9)) [⟨start, some .gavg, false, l.bank⟩, ⟨end_, none, false, l.bank⟩]
  match g.abort with
  | some a => (s1.setLan n fun l => spans l a.at_).endChain n inst a (dest.map fun r => (r, none)) 0 (start + o.occupancy)
  | none =>
    let hits := flt.filter fun f => f.kind == .resultResidue
    let ovs := (List.range o.c).filter fun c => sat48 (g.sums.getD c 0) != g.sums.getD c 0
    let s2 := s1.accOverflow n (ovs.head?.map fun c => (c, 0)) ovs.length true idx
    let means := (List.range o.c).map fun c => roundDiv (sat48 (g.sums.getD c 0)) o.d + faultSum hits fun f => f.vec == c
    let bad (k : Nat) : Bool := g.poison.isSome || hits.any fun f => f.delta != 0 && f.vec / 64 == k
    let s3 := (s2.writeRows ((List.zip (List.range dest.length) dest).map fun d =>
      (d.2, sumRow ((means.drop (64 * d.1)).take 64), bad d.1)) s2.freeTag).fresh 1
    let s4 := hits.foldl (fun (s : State) f => s.residueLn n 1 (f.delta != 0)) s3
    let len := o.occupancy + 8 * hits.length
    s4.setLan n fun l => { spans l (start + len) with
      mode := .idle, isolated := true, drainEnd := start + len, arrInst := some inst, occupancy := len }

/-- GAVG: the operation of an instance; it starts at L-cycle `start`, or when the array is free. -/
def gavgEffect (i : Inst) (start : Nat) (flt : List LnFault) (s : State) : State :=
  s.startInst 3 i fun s e =>
    match s.rel.lnPhys e.unit, s.job.image with
    | some n, some im =>
      match im.gavgs[e.arg i.inst]? with
      | some o => s.runGavg n i im (e.arg i.inst) (max (s.startCycle n e i start) s.lan[n].drainEnd) o flt
      | none => s
    | _, _ => s

def execGavg (i : Inst) (start : Nat) (flt : List LnFault) (s : State) : Host.Outcome State Fault Refusal := .next (gavgEffect i start flt s)

end Sys2Proof.Machine
end

