-- ==== Sys2Proof/Machine/Recovery.lean ====
section
/-! DEFINITION. Recovery and in-field test (spec/16 R450–R470, spec/07 R209–R213, R551–R552): capture records, repeat and classification,
fencing and moves, test windows, rotations, sweeps and repair. -/
namespace Sys2Proof.Machine

/-! ## The end of a job at once (R455, R470) -/

/-- The state becomes STOPPED; a STOP under way completes with its frame, a SNAPSHOT under way with STOPPED (log 35). -/
def State.stopped (s : State) : State :=
  let n := s.job.stopAt.getD 0
  let stops := s.host.held.filter fun h => h.opcode == 7
  let snaps := s.host.held.filter fun h => h.opcode == 5
  let s := (s.setJob s.job.halt).openHbm
  let s : State := { s with wick := s.wick.map fun k => if k.mode = .test then { k with mode := .idle } else k }
  let s := stops.foldl (fun (s : State) h => s.completeHeld h 0 n 0) s
  snaps.foldl (fun (s : State) h => s.completeHeld h 0x17 0 0) s

def State.stopAtOnce (s : State) : State := if s.job.state = .armed then s.stopped else s

/-- Every instance of the frames from `base` − 4 to n, with its entry. -/
def State.upTo (s : State) (n : Nat) : List (TtEntry × Inst) :=
  match s.job.image with
  | none => []
  | some im => ((List.range (n + 5 - s.job.base)).map fun d => d + s.job.base).flatMap fun f4 =>
      if f4 < 4 then []
      else (List.range im.entries.length).flatMap fun k =>
        match im.entries[k]? with
        | some e => (List.range (e.rep + 1)).map fun r => (e, ⟨f4 - 4, k, r⟩)
        | none => []

/-- Every instance through job frame n is complete or cancelled. -/
def State.allDone (s : State) (n : Nat) : Bool := (s.upTo n).all fun p => s.done p.2

/-- The state becomes STOPPED once every earlier instance has completed. -/
def State.tryStop (s : State) : State :=
  match s.job.stopAt with
  | some n => if s.job.state = .armed ∧ s.job.stopping = true ∧ s.allDone n = true then s.stopped else s
  | none => s

/-! ## Units -/

def unitWick : UnitId → Bool
  | .lantern _ => false
  | .wick _ => true
def unitNum : UnitId → Nat
  | .lantern n => n.1
  | .wick w => w.1
/-- UNIT kind of R428. -/
def unitKind : UnitId → Nat
  | .lantern _ => 1
  | .wick _ => 2

def State.entry (s : State) : UnitId → FenceEntry
  | .lantern n => s.rel.ln[n]
  | .wick w => s.rel.wk[w]
def State.setEntry (s : State) (u : UnitId) (f : FenceEntry → FenceEntry) : State :=
  match u with
  | .lantern n => s.setRel { s.rel with ln := upd s.rel.ln n f }
  | .wick w => s.setRel { s.rel with wk := upd s.rel.wk w f }
def State.tst (s : State) : UnitId → TestSt
  | .lantern n => s.lan[n].tst
  | .wick w => s.wick[w].tst
def State.setTst (s : State) (u : UnitId) (f : TestSt → TestSt) : State :=
  match u with
  | .lantern n => s.setLan n fun l => { l with tst := f l.tst }
  | .wick w => s.setWick w fun k => { k with tst := f k.tst }
def State.fenceDue (s : State) : UnitId → Option Nat
  | .lantern n => s.lan[n].fenceDue
  | .wick w => s.wick[w].fenceDue
def State.setFenceDue (s : State) (u : UnitId) (r : Option Nat) : State :=
  match u with
  | .lantern n => s.setLan n fun l => { l with fenceDue := r }
  | .wick w => s.setWick w fun k => { k with fenceDue := r }
def FenceEntry.logNo (e : FenceEntry) : Nat := e.logic.getD 0xFF

/-- The unit's current work has ended: a Lantern is IDLE with no failed chain; every thread of a Wick has reached its halt (R211,
R457). -/
def State.unitIdle (s : State) : UnitId → Bool
  | .lantern n => s.lan[n].mode != .halted && s.lan[n].failed.isNone
  | .wick w => (List.finRange 4).all fun t => s.wick[w].reachedHalt t

/-- The unit is off, or idle (R90, R251). -/
def State.setIdle (s : State) (u : UnitId) (on : Bool) : State :=
  match u with
  | .lantern n => s.setLan n fun l => { l with mode := if on then .idle else .off }
  | .wick w => s.setWick w fun k => { k with mode := if on then .idle else .off }

/-- The first free spare of the kind, in ascending physical order. -/
def State.freeSpareOf (s : State) (wick : Bool) : Option UnitId :=
  if wick then ((List.finRange 52).find? fun w => s.rel.wk[w].st == .spare).map .wick
  else ((List.finRange 36).find? fun n => s.rel.ln[n].st == .spare).map .lantern

/-! ## Moves (R211–R212, R551) -/

/-- Entries of a sparse list in [src, src + len) repeated at dst, which is cleared first. -/
def Sparse.copy (d : Byte) (m : List Host.Cell) (src dst len : Nat) : List Host.Cell :=
  (m.filter fun c => decide (src ≤ c.1 ∧ c.1 < src + len)).foldl (fun a c => Sparse.set d a (c.1 - src + dst) c.2)
    (Sparse.clear m dst (dst + len))

def MemBlk.copyUnit (m : MemBlk) (src dst len : Nat) : MemBlk :=
  { m with cells := Sparse.copy 0 m.cells src dst len, tags := Sparse.copy 0 m.tags src dst len,
           poison := Sparse.copy 0 m.poison src dst len,
           ecc := Sparse.clear m.ecc dst (dst + len), sbEcc := Sparse.clear m.sbEcc dst (dst + len) }

/-- Rows of [a, a + len) with a stored error, which the copy reads through the correction. -/
def MemBlk.badRows (m : MemBlk) (a len : Nat) : List Nat :=
  ((m.ecc ++ m.sbEcc).filterMap fun c => if a ≤ c.1 ∧ c.1 < a + len then some (rowBase c.1) else none).dedup

/-- A Lantern's state copied to a spare: scratchpads and parameter memory; the weight banks are not copied. -/
def State.copyLantern (s : State) (l p : LnId) : State :=
  let s := (s.mem.badRows (lanBase l.1) 0x01000000).foldl (fun (s : State) r => s.checkRow r allSectors) s
  let s := s.setMem (s.mem.copyUnit (lanBase l.1) (lanBase p.1) 0x01000000)
  let src := s.lan[l]
  s.setLan p fun x => { x with params := src.params, paramsSh := src.paramsSh, active := [], shadow := [], isolated := true, mode := .idle }

/-- A Wick's four memories and thread state copied to a spare. A line or element with an uncorrectable error keeps its check bits
(R551). -/
def State.copyWick (s : State) (l p : WkId) : State :=
  let s := s.drainOldest l 4
  let low := s.mem.ecc.filter fun c => decide (wickBase l.1 ≤ c.1 ∧ c.1 < wickBase l.1 + 0x80000)
  let s := low.foldl (fun (s : State) c =>
    let o := c.1 - wickBase l.1
    if o < 0x40000 then (s.checkLine l (s.remap l o) 2).1
    else (s.checkElem l (decide (0x60000 ≤ o)) ((o - (if 0x60000 ≤ o then 0x60000 else 0x40000)) / 2) 2).1) s
  let s := (s.mem.badRows (wickBase l.1 + 0x200000) 0x200000).foldl (fun (s : State) r => s.checkRow r allSectors) s
  let s := s.setMem (s.mem.copyUnit (wickBase l.1) (wickBase p.1) 0x400000)
  let s := s.setMem (low.foldl (fun (m : MemBlk) c => if c.2 = 2 then m.setEcc (c.1 - wickBase l.1 + wickBase p.1) 2 else m) s.mem)
  let src := s.wick[l]
  s.setWick p fun x => { x with
    threads := src.threads, irqPend := src.irqPend, irqSrc := src.irqSrc, taperOwn := src.taperOwn, ownDue := src.ownDue, swapped := src.swapped, sb := []
    taper := { src.taper with ceCount := x.taper.ceCount, ueCount := x.taper.ueCount }, mode := .idle }

def State.copyUnit (s : State) (l p : UnitId) : State :=
  match l, p with
  | .lantern a, .lantern b => s.copyLantern a b
  | .wick a, .wick b => s.copyWick a b
  | _, _ => s

/-- A device address within a unit's window, at the same place in another unit's. -/
def moveAddr (u v : UnitId) (a : Nat) : Nat :=
  let base : UnitId → Nat
    | .lantern n => lanBase n.1
    | .wick w => wickBase w.1
  let size := if unitWick u then 0x400000 else 0x01000000
  if base u ≤ a ∧ a < base u + size then a - base u + base v else a

/-- Writes that wait at their source, and reads that a channel makes again, go to the new physical unit (R212). -/
def State.moveWaiting (s : State) (u v : UnitId) : State :=
  let wr (w : RowWrite) : RowWrite := { w with addr := moveAddr u v w.addr }
  { s with
    fab := { s.fab with waits := s.fab.waits.map (fun c => { c with write := wr c.write }), held := s.fab.held.map wr }
    dma := s.dma.map fun g => { g with ch := g.ch.map fun c =>
      { c with blocks := c.blocks.map fun b => if b.again then { b with addr := moveAddr u v b.addr } else b } } }

/-- M-cycles of a move (R211). -/
def moveCycles (wick : Bool) : Nat := if wick then 4160 else 16448

/-- A move begins: the state is copied and the logical unit maps to the spare; both units are busy until it ends, but a fenced unit is
fenced at once. -/
def State.beginMove (s : State) (u sp : UnitId) (fence : Bool) (window : Option Inst) : State :=
  let lg := (s.entry u).logic
  let s := (s.copyUnit u sp).moveWaiting u sp
  let s := s.setEntry u fun e => { e with st := if fence then .fenced else .busy, logic := none }
  let s := s.setEntry sp fun e => { e with st := .busy, logic := lg }
  let s := if fence then s.setIdle u false else s
  s.setJob { s.job with moves := s.job.moves.filter (fun m => m.left != u) ++
    [⟨u, sp, window, mCycle s.time.ftb + moveCycles (unitWick u)⟩] }

/-- The unit is fenced for a reason of R473; its logical unit moves to a free spare, or the job stops at once (R454–R455, R457). -/
def State.fenceUnit (s : State) (u : UnitId) (reason : Nat) : State :=
  let e := s.entry u
  if e.st = .fenced then s.setFenceDue u none
  else
    let s := ((s.setFenceDue u none).logEv 0x0B02 (unitKind u) (unitNum u) [(1, reason), (1, e.logNo)]).requestFence
    match e.logic, s.freeSpareOf (unitWick u) with
    | none, _ => (s.setEntry u fun e => { e with st := .fenced }).setIdle u false
    | some _, some sp => s.beginMove u sp true none
    | some lg, none =>
      (((s.setEntry u fun e => { e with st := .fenced, logic := none }).setIdle u false).logEv 0x0B07 (unitKind u) (unitNum u)
        [(1, if (unitWick u) then 1 else 0), (1, lg)]).stopAtOnce

/-- The move of a unit ends (R211–R212): the spare serves; a vacated unit waits for its test, or is a spare at once with LL_EN clear. -/
def State.endMove (s : State) (m : Move) : State :=
  let s := s.setJob { s.job with moves := s.job.moves.erase m }
  let s := s.setEntry m.spare fun e => { e with st := .serving }
  match m.window with
  | none => s
  | some i =>
    let s := s.setJob ((s.job.start i).complete i)
    if bit s.rel.ctrl.toNat 1 then s.setRel { s.rel with vacated := s.rel.vacated ++ [(m.left, some i)] }
    else s.setEntry m.left fun e => { e with st := .spare }

/-- The FTB reaches the end of a Lantern's current operations. -/
def State.workEnd (s : State) : UnitId → State
  | .lantern n => s.reach (s.lFtb (n.1 / 9) (max s.lan[n].drainEnd s.lan[n].rqEnd))
  | .wick _ => s

/-- UNIT_MOVE (R211, R454, R457): at the end of the unit's current work it is fenced, or left because its test window was postponed. -/
def unitMoveEffect (u : UnitId) (s : State) : State :=
  if !s.unitIdle u || ((s.fenceDue u).isNone && !s.job.moves.any fun m => m.left == u && m.endM == 0) then s
  else
    let s := s.workEnd u
    match s.fenceDue u, s.job.moves.find? fun m => m.left == u && m.endM == 0 with
    | some r, _ => s.fenceUnit u r
    | none, some m =>
      match s.freeSpareOf (unitWick u) with
      | some sp =>
        (s.beginMove u sp false m.window).logEv 0x0B03 (unitKind u) (unitNum u) [(1, (s.entry u).logNo), (1, (unitNum u)), (1, (unitNum sp))]
      | none => s.setJob { s.job with moves := s.job.moves.erase m }
    | none, none => s

def execUnitMove (u : UnitId) (s : State) : Host.Outcome State Fault Refusal := .next (unitMoveEffect u s)

/-- MOVE_END: the FTB reaches the end of the move of the unit left. -/
def moveEndEffect (u : UnitId) (s : State) : State :=
  match s.job.moves.find? fun m => m.left == u && m.endM != 0 with
  | some m => ((s.reach ((m.endM * 10 + 12) / 13)).endMove m).tryStop
  | none => s

def execMoveEnd (u : UnitId) (s : State) : Host.Outcome State Fault Refusal := .next (moveEndEffect u s)

/-! ## Test items (R458–R462, R467) -/

/-- Which list the next item comes from. -/
inductive ItemFrom where
  | again | targeted | rotation
deriving DecidableEq, Repr

/-- The next item of a unit: a due repeat, then the targeted set, then the rotation. An explicit rotation item that is not loaded yet
lets the next generated one run in its place (R464); the Bool says that this happens. -/
def TestSt.next (t : TestSt) (r : RelBlk) (wick : Bool) : Option (ItemFrom × Nat × Bool) :=
  match t.repeatDue, t.targeted with
  | some i, _ => some (.again, i, false)
  | none, i :: _ => some (.targeted, i, false)
  | none, [] =>
    let rot := r.rotation wick
    match rot[t.pos % max 1 rot.length]? with
    | none => none
    | some i =>
      let kind (k : Nat) : Nat := match r.items[k]? with | some it => it.kind | none => 0
      if kind i = 1 ∧ t.loaded ≠ some i then
        match ((List.range rot.length).map fun d => rot.getD ((t.pos + d) % max 1 rot.length) 0).find? fun k => kind k == 0 with
        | some g => some (.rotation, g, true)
        | none => some (.rotation, i, false)
      else some (.rotation, i, false)

/-- The item fails: signature, or for a Lantern the check units. -/
def itemFails (it : LibItem) (wick : Bool) (r : TestRun) : Bool := r.sig != it.expect || (!wick && !r.verified)

/-- SPARES_EXHAUSTED: a located line of a Lantern, not steered yet, finds no free spare of its kind (R82). -/
def State.spareShort (s : State) (n : LnId) (isRow : Bool) (line : Nat) : State :=
  let reg := if isRow then s.lan[n].rowSteer else s.lan[n].colSteer
  if 256 < line ∨ steered reg line = true ∨ (freeSpare reg).isSome = true then s
  else s.logEv 0x0208 1 n.1 [(1, if isRow then 0 else 1), (2, line)]

/-- A test has failed in a way that fences the unit (R82, R454). -/
def State.testFences (s : State) (u : UnitId) (it : LibItem) : State :=
  (match u with
   | .lantern n => if it.lineK = 0 then s else s.spareShort n (it.lineK == 1) it.line
   | .wick _ => s).setFenceDue u (some 2)

/-- Where the failure of an item was located, for the repair of R468. -/
def State.noteLine (s : State) (u : UnitId) (it : LibItem) : State :=
  match u with
  | .lantern n => s.setLan n fun l =>
      if it.lineK = 0 then { l with unlocated := true } else { l with lines := (it.lineK == 1, it.line) :: l.lines }
  | .wick _ => s

/-- The targeted test of a unit whose rotation item failed: of the item's line, if it has one (R462). -/
def State.targetItem (s : State) (u : UnitId) (it : LibItem) : State :=
  match u with
  | .lantern n => s.targetLn n (if it.lineK = 0 then none else some (it.lineK == 1, it.line))
  | .wick w => s.targetWk w

/-- TEST_FAILED (R461). -/
def State.testFailed (s : State) (u : UnitId) (idx : Nat) (it : LibItem) (found : W32) : State :=
  ((s.setRel { s.rel with testFail := satInc s.rel.testFail }).noteLine u it).logEv 0x0B04 (unitKind u) (unitNum u)
    [(2, idx), (4, it.expect.toNat), (4, found.toNat)]

/-- One item more without an error; the end of a rotation, and with it the end of probation (R460, R467). -/
def State.itemPassed (s : State) (u : UnitId) (advance : Bool) : State :=
  let len := max 1 (s.rel.rotation (unitWick u)).length
  let t := s.tst u
  let s := s.setTst u fun t => { t with
    pos := if advance then (t.pos + 1) % len else t.pos, clean := t.clean + 1
    rotations := if advance && t.pos + 1 == len then t.rotations + 1 else t.rotations }
  if (s.entry u).prob && decide (len ≤ t.clean + 1) then
    ((s.setEntry u fun e => { e with prob := false }).logEv 0x0B0F (unitKind u) (unitNum u) [(4, (s.tst u).rotations)]).requestFence
  else s

/-- The outcome of one item (R461–R462). -/
def State.itemDone (s : State) (u : UnitId) (src : ItemFrom) (idx : Nat) (inPlace : Bool) (it : LibItem) (run : TestRun) : State :=
  let bad := itemFails it (unitWick u) run
  match src with
  | .again =>
    let s := s.setTst u fun t => { t with repeatDue := none }
    if bad then (s.testFailed u idx it run.sig).testFences u it
    else
      let s := s.classify (unitKind u) (unitNum u) 0 0x0B04 0x1FF
      match u with
      | .lantern n => s.setLan n fun l => l.transient s.time.ftb
      | .wick _ => s
  | .targeted =>
    let s := s.setTst u fun t => { t with
      targeted := t.targeted.drop 1, tgtRun := t.tgtRun + 1, tgtFailed := if bad && t.tgtFailed.isNone then some idx else t.tgtFailed }
    let s := if bad then s.noteLine u it else s
    let t := s.tst u
    if t.targeted.isEmpty then
      let s := s.logEv 0x0B06 (unitKind u) (unitNum u) ([(1, if t.tgtFailed.isSome then 1 else 0), (1, t.tgtRun)] ++
        match t.tgtFailed with | some k => [(2, k)] | none => [])
      match t.tgtFailed.bind fun k => s.rel.items[k]? with
      | some first => s.testFences u first
      | none => s
    else s
  | .rotation =>
    if bad then
      ((s.testFailed u idx it run.sig).targetItem u it).setTst u fun t => { t with
        repeatDue := some idx, clean := 0
        pos := if inPlace then t.pos else (t.pos + 1) % max 1 (s.rel.rotation (unitWick u)).length }
    else
      let s := if inPlace then s.setTst u fun t => { t with loaded := (s.rel.rotation false)[t.pos % max 1 (s.rel.rotation false).length]? } else s
      s.itemPassed u (!inPlace)

/-- Items of one unit in order. For a Wick `budget` is the W-cycles left, of which each whole item takes its LENGTH; for a Lantern it is
the test passes left. An outcome that the command does not give is a pass. -/
def State.runItems (s : State) (u : UnitId) : (fuel budget : Nat) → List TestRun → State
  | 0, _, _ => s
  | fuel + 1, budget, runs =>
    match (s.tst u).next s.rel (unitWick u) with
    | none => s
    | some (src, idx, inPlace) =>
      match s.rel.items[idx]? with
      | none => s
      | some it =>
        let cost := if (unitWick u) then it.length else 1
        if budget < cost then s
        else (s.itemDone u src idx inPlace it (runs.headD ⟨it.expect, true⟩)).runItems u fuel (budget - cost) runs.tail

/-- The items of a test window (R209, R459–R460); none with LL_EN clear (R552). -/
def State.runWindow (s : State) (u : UnitId) (arg0 arg1 : Nat) (runs : List TestRun) : State :=
  if !bit s.rel.ctrl.toNat 1 then s
  else if (unitWick u) then s.runItems u (arg0 - 512) (arg0 - 512) runs
  else s.runItems u arg1 arg1 runs

/-- A unit is in test for `len` cycles of its clock from `start` on, when `on` says that items run. A Lantern's weight banks are lost, each
of its passes selects the other bank, and the next chain has P = 256 (R68, R90, R209, R459). -/
def State.inTest (s : State) (u : UnitId) (inst : Option Inst) (start len passes : Nat) (on : Bool) : State :=
  match u with
  | .lantern n => s.setLan n fun l =>
      let bank := if on then l.bank != (passes % 2 == 1) else l.bank
      let spans : List LnSpan := if on then [⟨start, some .test, false, l.bank⟩, ⟨start + len, none, false, bank⟩] else []
      { l.addSpans (s.lNow (n.1 / 9)) spans with
        active := [], shadow := [], isolated := true, bank := bank, drainEnd := start + len, arrInst := inst <|> l.arrInst
        passCount := l.passCount + BitVec.ofNat 64 (if on then passes else 0) }
  | .wick w => match inst with
    | some _ => s.setWick w fun k => { k with mode := if on then .test else k.mode, winEnd := start + len, winInst := inst }
    | none => s

/-- Quadrant of a unit (R522), and the first cycle of its clock in which it is free. -/
def State.freeCycle (s : State) : UnitId → Nat
  | .lantern n => max s.lan[n].drainEnd (s.lNow (n.1 / 9))
  | .wick w => s.lNow (w.1 / 13)

/-- Physical unit of a TEST_WINDOW. -/
def State.windowPhys (s : State) (e : TtEntry) : Option UnitId :=
  if e.isWkWindow then (s.rel.wkPhys e.windowUnit).map .wick else (s.rel.lnPhys e.windowUnit).map .lantern

/-- TEST_WINDOW (R210, R213, R463): it runs when it can start no later than 50,000,000 ticks after its placed time, or later where no
spare is free. -/
def testWindowEffect (i : Inst) (runs : List TestRun) (s : State) : State :=
  match s.entryOf i with
  | none => s
  | some e =>
    match s.windowPhys e with
    | none => s
    | some u =>
      let p := s.job.placed e i
      let late := decide (p + 50000000 < max p s.time.ftb)
      if e.kind ≠ 8 ∨ s.canStart e i = false ∨ s.unitIdle u = false ∨ (late = true ∧ (s.freeSpareOf (unitWick u)).isSome = true) then s
      else
        let s := s.reach (s.startTick e i)
        let s := s.setJob (s.job.start i)
        let s := if late then s.logEv 0x0B05 (unitKind u) (unitNum u) [(1, e.windowUnit), (4, i.entry), (8, s.time.ftb - p)] else s
        let q := match u with | .lantern n => n.1 / 9 | .wick w => w.1 / 13
        (s.runWindow u (e.arg i.inst) e.arg1 runs).inTest u (some i) (max (s.freeCycle u) (s.lFrom q p + e.cycle)) (e.arg i.inst) e.arg1
          (bit s.rel.ctrl.toNat 1)

def execTestWindow (i : Inst) (runs : List TestRun) (s : State) : Host.Outcome State Fault Refusal := .next (testWindowEffect i runs s)

/-- TEST_WINDOW_POSTPONED (R211): 50,000,000 ticks after its placed time the window has not started, and a spare is free. -/
def postponedEffect (i : Inst) (s : State) : State :=
  match s.entryOf i with
  | none => s
  | some e =>
    match s.windowPhys e with
    | none => s
    | some u =>
      if e.kind ≠ 8 ∨ s.job.state ≠ .armed ∨ s.job.started.contains i = true ∨ s.job.cancelled e i = true ∨
          (s.job.moves.any fun m => m.left == u) = true then s
      else
        let s := s.reach (s.job.placed e i + 50000000)
        if (s.freeSpareOf (unitWick u)).isNone then s else s.setJob { s.job with moves := s.job.moves ++ [⟨u, u, some i, 0⟩] }

def execTestWindowPostponed (i : Inst) (s : State) : Host.Outcome State Fault Refusal := .next (postponedEffect i s)

/-- VACATED_UNIT_TEST (R211): the window's items run on the vacated unit, which becomes a spare when it passes; a failed item is run
again in a further test, and a unit that fails again is fenced. -/
def vacatedTestEffect (u : UnitId) (runs : List TestRun) (s : State) : State :=
  match s.rel.vacated.find? fun v => v.1 == u with
  | none => s
  | some v =>
    let arg := match v.2.bind fun i => (s.entryOf i).map fun e => (e.arg i.inst, e.arg1) with
      | some a => a
      | none => (512, 1)
    let s := (s.runWindow u arg.1 arg.2 runs).inTest u none (s.freeCycle u) arg.1 arg.2 (bit s.rel.ctrl.toNat 1)
    if (s.tst u).repeatDue.isSome then s
    else
      let s := s.setRel { s.rel with vacated := s.rel.vacated.erase v }
      match s.fenceDue u with
      | some r => (s.setEntry u fun e => { e with st := .spare }).fenceUnit u r
      | none => s.setEntry u fun e => { e with st := .spare }

def execVacatedUnitTest (u : UnitId) (runs : List TestRun) (s : State) : Host.Outcome State Fault Refusal := .next (vacatedTestEffect u runs s)

/-- The armed job uses the unit. -/
def State.inUse (s : State) (u : UnitId) : Bool :=
  match (s.entry u).logic, s.job.image with
  | some l, some im => s.job.state == .armed && decide (l < if (unitWick u) then im.hdr.wicks else im.hdr.lanterns)
  | _, _ => false

/-- SPARE_ROTATION (R450, R552): a spare, fenced or unused unit runs its next item outside the timetable; with LL_EN clear none runs. -/
def spareRotationEffect (u : UnitId) (run : TestRun) (s : State) : State :=
  if !bit s.rel.ctrl.toNat 1 || s.inUse u || (s.entry u).st == .busy then s
  else
    let s := (s.runItems u 1 (if (unitWick u) then 65536 else 1) [run]).inTest u none (s.freeCycle u) 788 1 true
    match s.fenceDue u with
    | some r => s.fenceUnit u r
    | none => s

def execSpareRotation (u : UnitId) (run : TestRun) (s : State) : Host.Outcome State Fault Refusal := .next (spareRotationEffect u run s)

/-! ## Sweep and repair (R468) -/

/-- Library indices of the full sweep. -/
def RelBlk.sweep (r : RelBlk) (wick : Bool) : List Nat :=
  (List.range r.items.length).filter fun i =>
    match r.items[i]? with
    | some it => bit it.flags 1 && (if wick then it.kind == 2 else it.kind != 2)
    | none => false

/-- Every item of the sweep passes; an outcome that the command does not give is a pass. -/
def State.sweepPasses (s : State) (wick : Bool) (runs : List TestRun) : Bool :=
  let l := s.rel.sweep wick
  (List.zip (List.range l.length) l).all fun x =>
    match s.rel.items[x.2]? with
    | some it => !itemFails it wick (runs.getD x.1 ⟨it.expect, true⟩)
    | none => true

/-- Where the failures of a sweep were located. -/
def State.noteSweep (s : State) (u : UnitId) (runs : List TestRun) : State :=
  let l := s.rel.sweep (unitWick u)
  (List.zip (List.range l.length) l).foldl (fun (s : State) x =>
    match s.rel.items[x.2]? with
    | some it => if itemFails it (unitWick u) (runs.getD x.1 ⟨it.expect, true⟩) then s.noteLine u it else s
    | none => s) s

/-- A Lantern's sweep of 312,000,000 L-cycles. -/
def State.inSweep (s : State) (n : LnId) : State :=
  s.inTest (.lantern n) none (s.freeCycle (.lantern n)) 312000000 (s.rel.sweep false).length true

/-- FULL_SWEEP: on a fenced unit; `runs` are its outcomes, whose failing lines are noted. While no job is armed, a Lantern whose every
earlier failure was located first has its lines steered, and returns when the sweep passes. A fenced Wick, which is never repaired, is
from then on in recovery state (R459; log 68). -/
def fullSweepEffect (u : UnitId) (runs : List TestRun) (s : State) : State :=
  match u with
  | .wick w => if s.rel.wk[w].st = .fenced then s.setWick w fun k => { k with recovery := true } else s
  | .lantern n =>
    let l := s.lan[n]
    if s.rel.ln[n].st ≠ .fenced then s
    else if s.job.state = .armed ∨ l.unlocated = true ∨ l.lines = [] then (s.inSweep n).noteSweep u runs
    else
      let rows := (l.lines.filterMap fun x => if x.1 then some x.2 else none).dedup.filter fun k => !steered l.rowSteer k
      let cols := (l.lines.filterMap fun x => if x.1 then none else some x.2).dedup.filter fun k => !steered l.colSteer k
      match steerBoth l rows cols with
      | none =>
        (match steerNeed l rows cols with
         | some (col, line) => (s.inSweep n).logEv 0x0208 1 n.1 [(1, if col then 1 else 0), (2, line)]
         | none => s.inSweep n).noteSweep u runs
      | some (l1, ur, uc) =>
        let s := ((((s.setLan n fun _ => l1).logSteer n false ur).logSteer n true uc).requestFence).inSweep n
        if s.sweepPasses false runs then
          ((s.setEntry u fun e => { e with st := .spare, prob := true }).setLan n fun l =>
            { l with mode := .idle, lines := [], fenceDue := none, transients := [], tst := { TestSt.reset with pos := l.tst.pos } }).logEv
            0x0B0E 1 n.1 [(1, ur.length), (1, uc.length)]
        else s.noteSweep u runs

def execFullSweep (u : UnitId) (runs : List TestRun) (s : State) : Host.Outcome State Fault Refusal := .next (fullSweepEffect u runs s)

/-! ## Duplicated control (R470) -/

def sequencerEffect (cu : Fin 14) (s : State) : State :=
  (s.logEv 0x0B11 0 0 [(1, cu.1), (8, (s.job.frameAt s.time.ftb).getD 0)]).stopAtOnce

def execSequencerDivergence (cu : Fin 14) (s : State) : Host.Outcome State Fault Refusal := .next (sequencerEffect cu s)

/-! ## Capture records (R465) -/

/-- The 32 bytes of a pass descriptor (R192). -/
def PassDesc.bytes (p : PassDesc) : List Byte :=
  leBytes 1 p.mode ++ leBytes 1 ((if p.init then 1 else 0) + (if p.outlierEn then 2 else 0)) ++ leBytes 1 p.wFmt ++ leBytes 1 p.tagBase ++
  leBytes 2 p.n ++ leBytes 2 p.weightRow ++ leBytes 4 p.window ++ leBytes 2 p.destRow ++ leBytes 2 p.sideBase ++ leBytes 1 p.sideSlot ++
  leBytes 1 p.q ++ leBytes 2 p.blocks ++ leBytes 4 p.azp ++ leBytes 4 p.wzp ++ leBytes 4 0

/-- The 256 bytes of a window program (R190). -/
def WinProg.bytes (w : WinProg) : List Byte :=
  padTo 256 (leBytes 1 w.kind ++ leBytes 1 w.srcFmt ++ leBytes 1 w.srcOrder ++ leBytes 1 w.taps.length ++ leBytes 2 w.srcBase ++
  leBytes 2 w.planeStride ++ leBytes 2 w.srcCh ++ leBytes 2 w.shiftBase ++ leBytes 2 w.imgH ++ leBytes 2 w.imgW ++ leBytes 2 w.regY ++
  leBytes 2 w.regH ++ leBytes 1 w.kY ++ leBytes 1 w.kX ++ leBytes 1 w.sY ++ leBytes 1 w.sX ++ leBytes 1 w.dY ++ leBytes 1 w.dX ++
  leBytes 1 w.pY ++ leBytes 1 w.pX ++ leBytes 4 w.q0 ++ padTo 64 (w.rowmap.flatMap fun e => leBytes 2 e) ++
  w.taps.flatMap fun t => leBytes 1 t.1 ++ leBytes 1 t.2)

/-- Bytes padded with zeros to a multiple of 512. -/
def padRow (l : List Byte) : List Byte := padTo ((l.length + 511) / 512 * 512) l

/-- The record of a failing pass, and the state that its row reads leave. -/
def State.captureRecord (s : State) (n : LnId) (im : JobImage) (f : FailedChain) (first : Nat) : State × List Byte :=
  let p := im.passes.getD f.pass default
  let w := im.windows.getD p.window default
  let fl := fetchList w p
  let (s1, wr) := s.readRows ((List.range (weightRows p.wFmt)).map fun i => weightRow n.1 (p.weightRow + i))
  let (s2, fr) := s1.readRows (fl.map fun r => actRow n.1 r.row)
  let hdr := padRow (ascii "RQ9CAPT1" ++ leBytes 1 n.1 ++ leBytes 1 (s.rel.ln[n].logic.getD 0xFF) ++ leBytes 2 (f.pass - first) ++
    leBytes 4 s.lan[n].abftLoc.toNat ++ leBytes 8 f.inst.frame ++ leBytes 8 s.time.ftb ++ leBytes 4 wr.length ++ leBytes 4 fr.length ++
    im.digest)
  (s2, hdr ++ padTo 512 (padTo 256 p.bytes ++ w.bytes) ++ (wr.flatMap fun d => rowBytes d.data) ++ (fr.flatMap fun d => rowBytes d.data) ++
    padRow (fr.flatMap fun d => [d.tag, if d.poison then 1 else 0]))

/-- Rows written through channel 31 into open HBM. -/
def State.writeOpen (s : State) (a : Nat) (l : List Byte) : State :=
  s.setMem ((List.range ((l.length + 511) / 512)).foldl (fun (m : MemBlk) i => m.writePart (a + 512 * i) (slice l (512 * i) 512) false) s.mem)

/-- Step 1 of R452. -/
def State.capture (s : State) (n : LnId) (im : JobImage) (f : FailedChain) (first : Nat) : State :=
  if !bit s.lan[n].ctrl.toNat 2 then s
  else if bit s.rel.ctrl.toNat 0 && decide ((s.rel.capWrit - s.rel.capRel).toNat < s.rel.capSlots.toNat) then
    let (s1, r) := s.captureRecord n im f first
    let slot := s.rel.capWrit.toNat % max 1 s.rel.capSlots.toNat
    (((s1.writeOpen (s.rel.capBase.toNat + slot * 0x900000) r).setRel { s1.rel with capWrit := s1.rel.capWrit + 1 }).logEv
      0x0B08 1 n.1 [(1, slot), (4, r.length)])
  else s.logEv 0x0B09 1 n.1 [(1, n.1), (4, f.pass)]

/-! ## The failed chain (R452–R455) -/

/-- A replay: an isolated chain on a physical Lantern that is idle. -/
def State.replay (s : State) (n : LnId) (im : JobImage) (f : FailedChain) (ps : List (Nat × PassDesc)) (flt : List LnFault) :
    State × Option Abort :=
  let s := s.setLan n fun l => { l with mode := .idle, failed := none, occEnd := none }
  let d := max s.lan[n].drainEnd (s.lNow (n.1 / 9))
  s.runChain n f.inst im ps d (d + 256) 256 flt

/-- An UNRESOLVED classification: the destination stays poisoned and the chain is complete. -/
def State.unresolved (s : State) (n : LnId) (f : FailedChain) (free : Bool) : State :=
  (s.setLan n fun l => { l with failed := none, mode := if free then .idle else l.mode }).classify 1 n.1 2 f.code f.line

/-- Steps 4 and 5: PERMANENT, the move to a spare at once, and the replay there. -/
def State.permanentChain (s : State) (n : LnId) (im : JobImage) (f : FailedChain) (ps : List (Nat × PassDesc)) (flt : List LnFault)
    (reason : Nat) : State :=
  let s := s.classify 1 n.1 1 f.code f.line
  let s := ((s.spareShort n f.isRow f.line).setLan n fun l => { l with failed := none }).fenceUnit (.lantern n) reason
  match s.job.moves.find? fun m => m.left == .lantern n && m.endM != 0 with
  | none => s
  | some m =>
    let s := (s.reach ((m.endM * 10 + 12) / 13)).endMove m
    match m.spare with
    | .wick _ => s
    | .lantern sp =>
      match s.replay sp im f ps flt with
      | (s, none) => s
      | (s, some a) => s.unresolved sp f a.again

/-- FAILED_CHAIN_HANDLING: S2's steps on a Lantern whose chain failed. The operands are the faults of the replay on the same unit and of
the replay on the spare. -/
def failedChainEffect (n : LnId) (replay1 replay2 : List LnFault) (s : State) : State :=
  match s.lan[n].failed, s.job.image with
  | some f, some im =>
    match s.entryOf f.inst with
    | none => s
    | some e =>
      let first := e.arg f.inst.inst
      let ps := im.chainPasses first e.arg1
      let s := s.capture n im f first
      if s.rel.ln[n].prob then s.permanentChain n im f ps replay2 4
      else
        match s.replay n im f ps replay1 with
        | (s, none) => (s.classify 1 n.1 0 f.code f.line).setLan n fun l => l.transient s.time.ftb
        | (s, some a) => if a.again then s.permanentChain n im f ps replay2 0 else s.unresolved n f false
  | _, _ => s

def execFailedChainHandling (n : LnId) (replay1 replay2 : List LnFault) (s : State) : Host.Outcome State Fault Refusal :=
  .next (failedChainEffect n replay1 replay2 s)

end Sys2Proof.Machine
end

