-- ==== Sys2Proof/Machine/Parse.lean ====
section
/-! DEFINITION. The container of a job image read from bytes (spec/07 R178–R202, spec/11 R329, spec/12 R355): header, section table, and the
records of each section. A record whose encoding or reserved bytes are broken is `none`. -/
namespace Sys2Proof.Machine

/-- A rejection of LOAD_IMAGE (R205): status, section type, record index. -/
structure Rej where
  status : Nat
  sect   : Nat
  idx    : Nat
deriving DecidableEq, Repr

def badHeader : Rej := ⟨2, 0, 0⟩
def badSection (t i : Nat) : Rej := ⟨3, t, i⟩
def badRecord (t i : Nat) : Rej := ⟨4, t, i⟩
def badTimetable (i : Nat) : Rej := ⟨6, 1, i⟩

/-! ## Header (R179, R352) -/

/-- A range of HBM lies in deterministic pseudo-channels of its stack. DET_PC is a multiple of 8, so they fill whole octets (R351). -/
def detRange (det : Nat → Nat) (base size : Nat) : Bool :=
  decide (base < 4 * stackSize) && decide (base % stackSize + size ≤ det (base / stackSize) / 8 * 0x120000000)

def parseHeader (b : List Byte) : Option ImgHdr :=
  let det (s : Nat) : Nat := fld b (0x24 + s) 1
  let num := fld b 0x28 4
  let den := fld b 0x2C 4
  if b.take 8 = ascii "RQ9JOBIM" ∧ fld b 8 2 = 1 ∧ fld b 0xA 2 = 0 ∧ fld b 0xC 4 = 256 ∧
     (512 ≤ fld b 0x10 8 ∧ fld b 0x10 8 ≤ 2 ^ 34 ∧ fld b 0x10 8 % 64 = 0 ∧ fld b 0x10 8 = b.length) ∧
     (3 ≤ fld b 0x18 4 ∧ fld b 0x18 4 ≤ 8) ∧ fld b 0x1C 4 = 256 ∧ fld b 0x20 1 = 0xB1 ∧ fld b 0x21 1 = 1 ∧
     (1 ≤ fld b 0x22 1 ∧ fld b 0x22 1 ≤ 32) ∧ (1 ≤ fld b 0x23 1 ∧ fld b 0x23 1 ≤ 48) ∧
     (List.range 4).all (fun s => decide (det s ≤ 56 ∧ det s % 8 = 0)) = true ∧
     (1 ≤ num ∧ num ≤ 240000 ∧ 1 ≤ den ∧ den ≤ 1001 ∧ den ≤ num ∧ num ≤ 120 * den) ∧
     fld b 0x30 4 * num ≤ 4000000000 * den ∧ (1 ≤ fld b 0x34 2 ∧ fld b 0x34 2 ≤ 1024) ∧
     fld b 0x38 8 % 512 = 0 ∧ fld b 0x40 4 % 512 = 0 ∧ detRange det (fld b 0x38 8) (fld b 0x40 4) = true ∧ allZero (slice b 0x44 188) = true then
    some ⟨fld b 0x10 8, fld b 0x22 1, fld b 0x23 1, Vector.ofFn fun s => det s.1, num, den, fld b 0x30 4, fld b 0x34 2, fld b 0x38 8, fld b 0x40 4⟩
  else none

/-! ## Section table (R180–R182) -/

structure Section where
  type  : Nat
  count : Nat
  off   : Nat
  body  : List Byte
deriving DecidableEq, Repr, Inhabited

/-- Bytes of one record where COUNT counts records; 0 where the section has a sub-header. -/
def recordSize (t : Nat) : Nat :=
  match t with
  | 3 => 32
  | 4 => 16
  | 5 => 32
  | 7 => 32
  | 8 => 64
  | _ => 0

/-- One entry of the section table, given the sections before it. -/
def parseSection (b : List Byte) (n i : Nat) (before : List Section) : Option Section :=
  let e := slice b (256 + 32 * i) 32
  let t := fld e 0 2
  let off := fld e 8 8
  let size := fld e 0x10 8
  let body := slice b off size
  let clash (s : Section) : Bool := s.type == t || (decide (off < s.off + s.body.length) && decide (s.off < off + size))
  if 1 ≤ t ∧ t ≤ 8 ∧ fld e 2 2 = 0 ∧ fld e 0x1C 4 = 0 ∧ off % (if t = 5 then 512 else 64) = 0 ∧ off + size ≤ b.length ∧
     256 + 32 * n ≤ off ∧ before.any clash = false ∧ fld e 0x18 4 = (crc32c body).toNat ∧
     (if recordSize t = 0 then fld e 4 4 = 0 else fld e 4 4 * recordSize t ≤ size) then
    some ⟨t, fld e 4 4, off, body⟩
  else none

def parseSections (b : List Byte) : Except Rej (List Section) :=
  let n := fld b 0x18 4
  let r := (List.range n).foldl (fun (a : Except Rej (List Section)) i =>
    a.bind fun l => match parseSection b n i l with
      | some s => .ok (l ++ [s])
      | none => .error (badSection (fld b (256 + 32 * i) 2) i)) (.ok [])
  r.bind fun l => match [1, 2, 8].find? fun t => !l.any fun s => s.type == t with
    | some t => .error (badSection t 0)
    | none => .ok l

/-! ## Records -/

/-- `n` records of a size from an offset of a section; none where they do not lie in it. -/
def recordsAt (b : List Byte) (off n size : Nat) : Option (List (List Byte)) :=
  if off + n * size ≤ b.length then some ((List.range n).map fun i => slice b (off + size * i) size) else none

/-- Every record read; the first broken one is reported. -/
def readAll {α : Type} (t : Nat) (f : List Byte → Option α) (l : Option (List (List Byte))) : Except Rej (List α) :=
  match l with
  | none => .error (badRecord t 0)
  | some l => (l.foldl (fun (a : Except Rej (Nat × List α)) b =>
      a.bind fun p => match f b with
        | some x => .ok (p.1 + 1, p.2 ++ [x])
        | none => .error (badRecord t p.1)) (.ok (0, []))).map (·.2)

/-- Timetable entry (R184). -/
def entryRec (b : List Byte) : Option TtEntry :=
  if fld b 4 2 ≤ 255 ∧ fld b 0x1C 4 = 0 then
    some ⟨fld b 0 4, fld b 4 2, fld b 6 1, fld b 7 1, fld b 8 4, fld b 0xC 4, fld b 0x10 4, fld b 0x14 2, sfld b 0x16 2, fld b 0x18 4⟩
  else none

/-- Region descriptor (R188). -/
def regionRec (b : List Byte) : Option Region :=
  let n := fld b 5 1
  let rd (i : Nat) : Nat := fld b (0x14 + 2 * i) 2
  if 1 ≤ n ∧ n ≤ 6 ∧ fld b 6 2 = 0 ∧ fld b 2 1 ≤ 16 ∧ fld b 0 1 ≤ 4 ∧ fld b 3 1 ≤ 3 ∧
     (List.range 6).all (fun i => if i < n then decide (rd i / 256 ≤ 3) else rd i == 0xFFFF) = true then
    some ⟨fld b 0 1, fld b 1 1, fld b 2 1, fld b 3 1, fld b 4 1, fld b 8 4, fld b 0xC 4, fld b 0x10 4,
      (List.range n).map fun i => (rd i / 256, rd i % 256)⟩
  else none

/-- Slot-list record (R355). -/
def hbmRec (det : Nat) (b : List Byte) : Option HbmRec :=
  let r : HbmRec := ⟨fld b 0 4, fld b 4 1, fld b 5 1, fld b 6 1, fld b 7 1, fld b 8 4, fld b 0xC 2⟩
  if r.sub ≤ 9 ∧ r.pc < det ∧ r.kind ≤ 2 ∧ fld b 0xE 2 = 0 ∧
     (if r.kind = 2 then r.req = 0 ∧ r.block < 48 ∧ r.count = 1
      else r.req < 108 ∧ 1 ≤ r.count ∧ r.count ≤ 4096 ∧ r.block + r.count ≤ 1179648) then some r
  else none

/-- Slot list of a stack (R189); a broken record is reported by its place in the list. -/
def hbmList (b : List Byte) (off size det : Nat) : Except Rej HbmList :=
  if size = 0 then .ok ⟨0, []⟩
  else
    let n := fld b off 4
    let p := fld b (off + 8) 4
    if det = 0 ∨ b.length < off + size ∨ size ≠ 16 + 16 * n ∨ fld b (off + 4) 4 ≠ 16 ∨ fld b (off + 12) 4 ≠ 0 ∨ p < 1 ∨ 1000000 < p then .error (badRecord 1 0)
    else (readAll 1 (hbmRec det) (recordsAt b (off + 16) n 16)).map fun l => ⟨p, l⟩

/-- Window program (R190). -/
def winRec (b : List Byte) : Option WinProg :=
  let n := fld b 3 1
  let two (o : Nat) : Nat := fld b o 2
  let one (o : Nat) : Nat := fld b o 1
  if n ≤ 49 ∧ allZero (slice b (0x60 + 2 * n) (98 - 2 * n)) = true ∧ allZero (slice b 0xC2 62) = true then
    some {
      kind := one 0, srcFmt := one 1, srcOrder := one 2, srcBase := two 4, planeStride := two 6, srcCh := two 8, shiftBase := two 0xA
      imgH := two 0xC, imgW := two 0xE, regY := two 0x10, regH := two 0x12, kY := one 0x14, kX := one 0x15, sY := one 0x16, sX := one 0x17
      dY := one 0x18, dX := one 0x19, pY := one 0x1A, pX := one 0x1B, q0 := fld b 0x1C 4
      rowmap := (List.range 32).map fun i => two (0x20 + 2 * i)
      taps := (List.range n).map fun i => (one (0x60 + 2 * i), one (0x61 + 2 * i)) }
  else none

/-- Pass descriptor (R192). -/
def passRec (b : List Byte) : Option PassDesc :=
  if fld b 1 1 ≤ 3 ∧ fld b 0x1C 4 = 0 then
    some {
      mode := fld b 0 1, init := bit (fld b 1 1) 0, outlierEn := bit (fld b 1 1) 1, wFmt := fld b 2 1, tagBase := fld b 3 1, n := fld b 4 2
      weightRow := fld b 6 2, window := fld b 8 4, destRow := fld b 0xC 2, sideBase := fld b 0xE 2, sideSlot := fld b 0x10 1, q := fld b 0x11 1
      blocks := fld b 0x12 2, azp := fld b 0x14 4, wzp := fld b 0x18 4 }
  else none

/-- Global-average operation (R194). -/
def gavgRec (b : List Byte) : Option GavgOp :=
  if fld b 1 1 ≤ 1 ∧ fld b 0x1C 4 = 0 then
    some {
      srcFmt := fld b 0 1, outlierEn := bit (fld b 1 1) 0, tagBase := fld b 2 1, sideSlot := fld b 3 1, c := fld b 4 2, srcBase := fld b 6 2
      e := fld b 8 4, d := fld b 0xC 4, planeStride := fld b 0x10 2, destRow := fld b 0x12 2, sideBase := fld b 0x14 2, blocks := fld b 0x16 2
      azp := fld b 0x18 4 }
  else none

/-- Wick load segment (R195). -/
def segRec (b : List Byte) : Option WickSeg :=
  if fld b 2 2 = 0 ∧ fld b 0xC 4 = 0 ∧ fld b 0x18 8 = 0 ∧ fld b 1 1 ≤ 3 then some ⟨fld b 0 1, fld b 1 1, fld b 4 4, fld b 8 4, fld b 0x10 8⟩
  else none

/-- DMA descriptor (R329). -/
def dmaRec (b : List Byte) : Option DmaDesc :=
  let d : DmaDesc := {
    src := fld b 0 8, dst := fld b 8 8, srcBStride := sfld b 0x10 4, srcLStride := sfld b 0x14 4, dstBStride := sfld b 0x18 4
    dstLStride := sfld b 0x1C 4, srcBeats := fld b 0x20 2, srcLines := fld b 0x22 2, dstBeats := fld b 0x24 2, dstLines := fld b 0x26 2
    srcW := fld b 0x28 1, dstW := fld b 0x29 1, ctrl := fld b 0x2A 1, share := fld b 0x2B 1, retry := fld b 0x2C 1, tagMode := fld b 0x2D 1
    tag := fld b 0x2E 1, waitEn := fld b 0x2F 1, wait := fld b 0x30 4, tagRow0 := fld b 0x34 4, tagPStride := fld b 0x38 4
    tagRows := fld b 0x3C 1 }
  if fld b 0x3D 3 = 0 ∧ (1 ≤ d.srcW ∧ d.srcW ≤ 64) ∧ (1 ≤ d.dstW ∧ d.dstW ≤ 64) ∧ d.ctrl < 8 ∧ (bit d.ctrl 1 = true ∨ d.share = 0) ∧ d.retry < 8 ∧
     d.tagMode ≤ 2 ∧ (d.tagMode ≠ 0 ∨ d.tag = 0) ∧ d.waitEn ≤ 1 ∧ (d.waitEn = 1 ∨ d.wait = 0) ∧
     (if d.tagMode = 1 then 1 ≤ d.tagPStride ∧ d.tagPStride ≤ 524288 ∧ 1 ≤ d.tagRows else d.tagRow0 = 0 ∧ d.tagPStride = 0 ∧ d.tagRows = 0) then
    some d
  else none

/-- The descriptor lists of the DMA section (R196). -/
def dmaLists (s : Section) : Except Rej (List (List DmaDesc)) :=
  (List.range s.count).foldl (fun (a : Except Rej (List (List DmaDesc))) i =>
    a.bind fun l =>
      let h := slice s.body (16 * i) 16
      let n := fld h 0 4
      if n < 1 ∨ 65536 < n ∨ fld h 4 4 ≠ 0 then .error (badRecord 4 i)
      else match (recordsAt s.body (fld h 8 8) n 64).bind fun r => r.mapM dmaRec with
        | some d => .ok (l ++ [d])
        | none => .error (badRecord 4 i)) (.ok [])

/-- Weight placement (R197). -/
def weightRec (b : List Byte) : Option WeightPl :=
  if fld b 2 2 = 0 ∧ fld b 0x1C 4 = 0 ∧ fld b 0 1 ≤ 2 then some ⟨fld b 0 1, fld b 1 1, fld b 4 4, fld b 8 8, fld b 0x10 8, fld b 0x18 4⟩ else none

/-- Channel record (R198) with M and sh in range (R110) and an S48 bias. -/
def chanRec (b : List Byte) : Option ChanRec :=
  let r : ChanRec := ⟨fld b 0 4, fld b 4 1, BitVec.ofNat 16 (fld b 6 2), sfld b 8 8⟩
  if fld b 5 1 = 0 ∧ 2 ^ 30 ≤ r.m ∧ r.m < 2 ^ 31 ∧ r.sh ≤ 63 ∧ -(2 ^ 47) ≤ r.bias ∧ r.bias < 2 ^ 47 then some r else none

/-- Requantiser operation (R199). -/
def rqRec (b : List Byte) : Option RqOp :=
  if fld b 1 1 ≤ 3 ∧ fld b 0xF 1 = 0 ∧ allZero (slice b 0x2A 22) = true then
    some {
      outFmt := fld b 0 1, capture := bit (fld b 1 1) 0, destMap := bit (fld b 1 1) 1, outTagBase := fld b 2 1, cap := fld b 3 1
      params := fld b 4 4, srcRow := fld b 8 2, channels := fld b 0xA 2, n := fld b 0xC 2, q := fld b 0xE 1, outBase := fld b 0x10 4
      outStride := fld b 0x14 4, shiftBase := fld b 0x18 4, sideBase := fld b 0x1C 4, start := fld b 0x20 4, blocks := fld b 0x24 4
      firstPlane := fld b 0x28 2 }
  else none

/-- Epoch block (R201). -/
def blockRec (b : List Byte) : Option EpochBlk :=
  if fld b 0x18 8 = 0 then some ⟨fld b 0 2, fld b 2 1, fld b 3 1, fld b 4 4, fld b 8 4, fld b 0xC 4, fld b 0x10 8⟩ else none

/-- Stream binding (R202). -/
def streamRec (b : List Byte) : Option StreamBind :=
  if allZero (slice b 0x29 23) then
    some {
      slot := fld b 0 1, dir := fld b 1 1, portA := fld b 2 1, portB := fld b 3 1, width := fld b 4 2, height := fld b 6 2, format := fld b 8 1
      d := fld b 9 1, stripeH := fld b 0xA 2, halo := fld b 0xC 1, camera := fld b 0xD 1, fill := fld b 0xE 2, bufBase := fld b 0x10 8
      bufStride := fld b 0x18 4, stripes := fld b 0x1C 4, frameNum := fld b 0x20 4, frameDen := fld b 0x24 4, link := fld b 0x28 1 }
  else none

/-! ## The whole image -/

/-- A parsed image with the bodies of its sections. -/
structure Parsed where
  im   : JobImage
  sect : List Section

def Parsed.body (p : Parsed) (t : Nat) : List Byte := ((p.sect.find? fun s => s.type == t).map (·.body)).getD []

def parseImage (b : List Byte) : Except Rej Parsed :=
  match parseHeader b with
  | none => .error badHeader
  | some h => do
    let l ← parseSections b
    let find (t : Nat) : Section := (l.find? fun s => s.type == t).getD ⟨t, 0, 0, []⟩
    let s1 := (find 1).body
    let s2 := (find 2).body
    let s6 := (find 6).body
    let has6 := l.any fun s => s.type == 6
    if s1.length < 64 || !allZero (slice s1 0x30 16) then throw (badRecord 1 0)
    let entries ← readAll 1 entryRec (recordsAt s1 (fld s1 4 4) (fld s1 0 4) 32)
    let regions ← readAll 1 regionRec (recordsAt s1 (fld s1 0xC 4) (fld s1 8 4) 32)
    let lists ← (List.range 4).mapM fun k => hbmList s1 (fld s1 (0x10 + 4 * k) 4) (fld s1 (0x20 + 4 * k) 4) (getOr h.detPc k 0)
    if s2.length < 32 || !allZero (slice s2 0x18 8) then throw (badRecord 2 0)
    let windows ← readAll 2 winRec (recordsAt s2 (fld s2 4 4) (fld s2 0 4) 256)
    let passes ← readAll 2 passRec (recordsAt s2 (fld s2 0xC 4) (fld s2 8 4) 32)
    let gavgs ← readAll 2 gavgRec (recordsAt s2 (fld s2 0x14 4) (fld s2 0x10 4) 32)
    let segs ← readAll 3 segRec (recordsAt (find 3).body 0 (find 3).count 32)
    let dma ← dmaLists (find 4)
    let weights ← readAll 5 weightRec (recordsAt (find 5).body 0 (find 5).count 32)
    if has6 && (s6.length < 32 || !allZero (slice s6 0x18 8)) then throw (badRecord 6 0)
    let chans ← readAll 6 chanRec (recordsAt s6 (fld s6 4 4) (fld s6 0 4) 16)
    let zps ← readAll 6 (fun z => some (sfld z 0 2)) (recordsAt s6 (fld s6 0xC 4) (fld s6 8 4) 2)
    let rqops ← readAll 6 rqRec (recordsAt s6 (fld s6 0x14 4) (fld s6 0x10 4) 64)
    let blocks ← readAll 7 blockRec (recordsAt (find 7).body 0 (find 7).count 32)
    let streams ← readAll 8 streamRec (recordsAt (find 8).body 0 (find 8).count 64)
    pure ⟨{ digest := sha512 b, hdr := h, entries, regions, hbm := Vector.ofFn fun k => lists.getD k.1 ⟨0, []⟩, windows, passes, gavgs, segs, dma,
            weights, chans, zps, rqops, blocks, streams }, l⟩

end Sys2Proof.Machine
end

