-- ==== Sys2Proof/Machine/Check.lean ====
section
/-! DEFINITION. The checks of LOAD_IMAGE over the records of a job image (spec/07 R184–R202, R209; spec/03 R64–R65, R88; spec/04 R92, R95,
R109–R114; spec/05 R131–R148; spec/06 R170; spec/08 R231; spec/11 R328–R330; spec/12 R357; spec/13 R374, R377; spec/17 R474, R481). The
first failing check is reported (R205). -/
namespace Sys2Proof.Machine

/-- Index of the first element that fails. -/
def firstBad {α : Type} (ok : Nat → α → Bool) (l : List α) : Option Nat :=
  (List.range l.length).find? fun i =>
    match l[i]? with
    | some x => !ok i x
    | none => false

def checkList {α : Type} (rej : Nat → Rej) (ok : Nat → α → Bool) (l : List α) : Except Rej Unit :=
  match firstBad ok l with
  | some i => .error (rej i)
  | none => .ok ()

def checkThat (b : Bool) (r : Rej) : Except Rej Unit := if b then .ok () else .error r

/-- Two half-open ranges overlap. -/
def overlap (a n b m : Nat) : Bool := decide (a < b + m) && decide (b < a + n)

/-- No two ranges of a list overlap. -/
def disjoint : List (Nat × Nat) → Bool
  | [] => true
  | x :: t => t.all (fun y => !overlap x.1 x.2 y.1 y.2) && disjoint t

/-! ## Regions (R170, R188) -/

/-- Rows of a memory, by MEM. -/
def memRows (m : Nat) : Nat := [8192, 16384, 8192, 4096, 524288].getD m 0

/-- The logical units of MEM that an image uses; one map store. -/
def memUnits (h : ImgHdr) (m : Nat) : Nat := if m < 3 then h.lanterns else if m = 3 then h.wicks else 1

/-- A DMA channel that job images may use (R327). -/
def jobChannel (c : Nat) : Bool := decide (c < 128 ∧ c % 32 ≠ 31)

def Region.writerOk (h : ImgHdr) (g : Region) : Bool :=
  match g.writerKind with
  | 0 => jobChannel g.writer
  | 1 => g.mem == 4 && decide (g.writer < h.lanterns)
  | 2 => decide (g.writer < 4)
  | _ => g.writer == 0

def readerOk (h : ImgHdr) (r : Nat × Nat) : Bool :=
  match r.1 with
  | 0 => decide (r.2 < 128)
  | 1 => decide (r.2 < h.lanterns)
  | 2 => decide (r.2 < h.wicks)
  | _ => decide (r.2 < 4)

/-- Regions with mailbox writers: the ith serves inbound mailbox i (R442). -/
def mailboxRegions (l : List Region) : Nat := (l.filter fun g => g.writerKind == 3).length

def Region.ok (im : JobImage) (i : Nat) (g : Region) : Bool :=
  decide (0 < g.rows ∧ g.rows % g.granule = 0 ∧ g.firstRow % g.granule = 0 ∧ 1 ≤ g.initCredits ∧ g.initCredits ≤ g.granules) &&
  decide (g.firstRow + g.rows ≤ memRows g.mem ∧ g.unit < memUnits im.hdr g.mem) && g.writerOk im.hdr &&
  g.readers.all (readerOk im.hdr) && decide (mailboxRegions (im.regions.take (i + 1)) ≤ 16) &&
  (im.regions.take i).all fun k => !(k.mem == g.mem && k.unit == g.unit && overlap k.firstRow k.rows g.firstRow g.rows)

/-! ## Timetable entries (R65, R184–R185, R193, R209) -/

def TtEntry.argAt (e : TtEntry) (k : Nat) : Int := e.arg0 + k * e.arg0Step

/-- Every instance's ARG0. -/
def TtEntry.args (e : TtEntry) : List Nat := (List.range (e.rep + 1)).map e.arg

/-- The Winograd group of a pass: ⌊ξ / q⌋ of its segments. -/
def passGroups (w : WinProg) (q : Nat) : List Nat := (List.range 16).filterMap fun s => (w.seg s).map fun x => x.1 / q

/-- Passes a to a + n − 1 form one chain (R65, R193), with one q and one group in WINOGRAD (R148). -/
def chainOk (im : JobImage) (a n : Nat) : Bool :=
  match im.passes[a]? with
  | none => false
  | some p =>
    let rest := (im.passes.drop (a + 1)).take (n - 1)
    let groups := (p :: rest).flatMap fun x => if x.mode = 2 then passGroups (im.windows.getD x.window default) x.q else []
    decide (1 ≤ n ∧ a + n ≤ im.passes.length) && p.init && rest.all (fun x => !x.init && x.destRow == p.destRow && x.q == p.q) &&
    groups.all fun g => g == groups.headD 0

def JobImage.stream (im : JobImage) (slot : Nat) : Option StreamBind := im.streams.find? fun b => b.slot == slot

/-- UNIT, ARG0 and ARG1 by kind. -/
def TtEntry.kindOk (im : JobImage) (e : TtEntry) : Bool :=
  let ln := decide (e.unit < im.hdr.lanterns)
  let dir (d : Nat) (f : StreamBind → Bool) : Bool :=
    match im.stream e.unit with
    | some b => b.dir == d && f b
    | none => false
  match e.kind with
  | 1 => ln && e.args.all fun a => chainOk im a e.arg1
  | 2 => ln && e.arg1 == 0 && e.args.all fun a => decide (a < im.rqops.length)
  | 3 => ln && e.arg1 == 0 && e.args.all fun a => decide (a < im.gavgs.length)
  | 4 => decide (e.unit < im.hdr.wicks) && e.args.all fun a => decide (a < 0x40000)
  | 5 => jobChannel e.unit && e.arg1 == 0 && e.args.all fun a => decide (a < im.dma.length)
  | 6 => e.unit == 0 && e.args.all fun a =>
      match im.regions[a]? with
      | some g => decide (1 ≤ e.arg1 ∧ e.arg1 ≤ g.granules)
      | none => false
  | 7 => decide (e.unit < 16 ∧ 1 ≤ e.arg1 ∧ e.arg1 ≤ 4096) && e.args.all fun a => decide (a + (e.arg1 + 511) / 512 ≤ 524288)
  | 8 =>
    if bit e.unit 7 then !bit e.unit 6 && decide (e.windowUnit < im.hdr.wicks) && e.arg1 == 0
    else !bit e.unit 6 && decide (e.windowUnit < im.hdr.lanterns) && e.args.all fun a => a == 788 * e.arg1
  | 9 => e.unit == 0 && e.arg1 == 0 && e.args.all fun a => a == 0
  | 0x10 => e.arg1 == 0 && dir 0 fun b => e.args.all fun a => decide (a < b.stripes)
  | 0x11 => dir 2 (fun _ => true) || dir 1 fun b => e.args.all fun a => decide (1 ≤ e.arg1 ∧ a + e.arg1 ≤ b.height)
  | 0x12 => e.arg1 == 0 && e.args.all (fun a => a == 0) && dir 3 fun _ => true
  | _ => false

def TtEntry.ok (im : JobImage) (e : TtEntry) : Bool :=
  let inRange (v : Int) : Bool := decide (0 ≤ v ∧ v < 2 ^ 32)
  inRange (e.argAt 0) && inRange (e.argAt e.rep) &&
  (e.cycle == 0 || !(e.kind == 6 || e.kind == 7 || e.kind == 9 || !e.anchored)) &&
  (e.pred == 0xFFFFFFFF || decide (bits e.pred 29 0 < im.entries.length)) && e.kindOk im

/-! ## BAD_TIMETABLE: limits, density, slot lists, T40 (R187, R209, R357, R481) -/

def sumOver {α : Type} (l : List α) (f : α → Nat) : Nat := l.foldl (fun a x => a + f x) 0

/-- The instances of the entries up to entry i stay within the limits, and those of entry i within TT_SPAN. -/
def limitOk (im : JobImage) (i : Nat) (e : TtEntry) : Bool :=
  let n := sumOver (im.entries.take (i + 1)) fun e => e.rep + 1
  decide (n ≤ 4194304 ∧ 32 * n ≤ im.hdr.queueSize) && decide (e.offset e.rep ≤ im.hdr.ttSpan ∧ e.offset 0 ≤ im.hdr.ttSpan)

/-- The test-density rule, and a window for each logical Wick. -/
def densityOk (im : JobImage) : Bool :=
  (List.range im.hdr.lanterns).all (fun l =>
    let tests := sumOver im.entries fun e => if e.isLnWindow && e.windowUnit == l then (e.rep + 1) * e.arg1 else 0
    let passes := sumOver im.entries fun e => if e.kind == 1 && e.unit == l then (e.rep + 1) * e.arg1 else 0
    decide (passes ≤ tests * im.hdr.llDensity)) &&
  (List.range im.hdr.wicks).all fun w => im.entries.any fun e => e.isWkWindow && e.windowUnit == w

def HbmRec.slot (r : HbmRec) : Nat := 10 * r.tick + r.sub

/-- Anchor spacings of a frame rate: the whole epoch ticks below and above the frame period (R34). -/
def spacings (h : ImgHdr) : List Nat :=
  let q := 100000000 * h.frameDen
  [10 * (q / h.frameNum), 10 * ((q + h.frameNum - 1) / h.frameNum)]

/-- Slots at which a bus record serves a bank. -/
def bankSlots (r : HbmRec) (bank : Nat) : List Nat :=
  (List.range r.count).filterMap fun j => if (r.block + j) % 48 = bank then some (r.slot + 16 * j) else none

/-- n ticks from a and m ticks from b + k p meet for some whole k, where p is the length of a repetition (R357). -/
def meetsEvery (p a n b m : Nat) : Bool :=
  let d := (((b : Int) - a) % (p : Int)).toNat
  decide (d < n) || decide (p - d < m)

/-- n ticks from a and m ticks from b + e + k p meet for some k from 0 on: b stands in the next frame's first repetition, e after the last
one of the frame of a. -/
def meetsFrom (p e a n b m : Nat) : Bool :=
  let first := ((a : Int) - m - b - e) / p + 1
  let k := max 0 first
  decide ((b : Int) + e + k * p < a + n)

/-- Slots a + [0, n) and b + [0, m) of one slot list meet in some frame, within a repetition, in another or across the anchor (R357). -/
def HbmList.near (h : ImgHdr) (l : HbmList) (a n b m : Nat) : Bool :=
  let p := 10 * l.period
  meetsEvery p a n b m || (spacings h).any fun sp =>
    meetsFrom p (sp - ((sp - 1) / p - 1) * p) a n b m || meetsFrom p (sp - ((sp - 1) / p - 1) * p) b m a n

/-- R357 on record i of a slot list: its burst fits the period and meets no earlier burst and no refresh of a bank that it uses; a refresh
is followed by the bank's next one in time. -/
def hbmRecOk (h : ImgHdr) (l : HbmList) (i : Nat) (r : HbmRec) : Bool :=
  let p := 10 * l.period
  let refs (bank : Nat) : List Nat := (l.recs.filter fun x => x.pc == r.pc && x.kind == 2 && x.block == bank).map HbmRec.slot
  if r.kind ≠ 2 then
    decide (16 * r.count ≤ p) &&
    (l.recs.take i).all (fun x => x.pc != r.pc || x.kind == 2 || !l.near h r.slot (16 * r.count) x.slot (16 * x.count)) &&
    (List.range 48).all fun bank => (bankSlots r bank).all fun x => (refs bank).all fun y => !l.near h x 16 y 280
  else
    let t := refs r.block
    match (t.filter fun y => decide (r.slot < y)).min?, t.head? with
    | some y, _ => decide (y - r.slot ≤ 1950)
    | none, some a =>
      decide (a + p - r.slot ≤ 1950) && (spacings h).all fun sp => decide (1 ≤ (sp - 1) / p) && decide (sp - ((sp - 1) / p - 1) * p - r.slot + a ≤ 1950)
    | none, none => true

/-- Every bank of the deterministic pseudo-channels is refreshed (R357). -/
def hbmRefreshed (det : Nat) (l : HbmList) : Bool :=
  (List.range det).all fun pc => (List.range 48).all fun bank => l.recs.any fun r => r.pc == pc && r.kind == 2 && r.block == bank

/-- Records in order of TICK, then SUB (R355). -/
def hbmOrdered (l : HbmList) (i : Nat) (r : HbmRec) : Bool := i == 0 || decide ((l.recs.getD (i - 1) default).slot ≤ r.slot)

/-- R481 on one entry: T40 + 250,000 before the first video instance of the next frame, at the shortest frame. -/
def t40Ok (im : JobImage) (e : TtEntry) : Bool :=
  match (if e.kind = 0x11 then im.stream e.unit else none) with
  | some b =>
    if b.dir = 2 then
      let first := (im.entries.filter fun x => x.kind == 0x11 && x.unit == b.link).map fun x => x.offset 0
      match first.min? with
      | some f => decide (e.offset e.rep + 250000 < 1000000000 * im.hdr.frameDen / im.hdr.frameNum + f)
      | none => true
    else true
  | none => true

/-! ## LANTERN section (R64, R88, R95, R131–R148, R190–R194) -/

/-- Zero points of an activation format (R92); 0 alone for B8S. -/
def azpRange (f : Nat) : Int × Int :=
  match f with
  | 0 => (-128, 127)
  | 1 => (0, 255)
  | 2 => (-8, 7)
  | 3 => (0, 15)
  | 4 => (0, 4095)
  | _ => (0, 0)

/-- Zero points of a weight format in a mode (R95). -/
def wzpRange (f : Nat) : Int × Int := if f = 0 then (-128, 127) else if f = 1 then (-8, 7) else (0, 0)

/-- Weight formats of a mode (R95). -/
def wFmtOk (mode f : Nat) : Bool :=
  match mode with
  | 0 => f == 0 || f == 2
  | 1 => f == 1 || f == 3
  | _ => f == 4

/-- Source formats of a kind (R60, R144). -/
def srcFmtOk (kind f : Nat) : Bool :=
  match kind with
  | 0 => f == 0 || f == 1 || f == 4 || f == 5
  | 1 => f == 2 || f == 3
  | _ => f == 0 || f == 2

/-- Elements first to first + n − 1 of the zero-point array lie in a range; 0xFFFF_FFFF stands for all 0. -/
def zpOk (zps : List Int) (first n : Nat) (r : Int × Int) : Bool :=
  first == 0xFFFFFFFF || (decide (first + n ≤ zps.length) && ((zps.drop first).take n).all fun z => decide (r.1 ≤ z ∧ z ≤ r.2))

/-- Rows of a plane of a window program, in a format with `e` elements per row (R134). -/
def WinProg.planeRows (w : WinProg) (e : Nat) : Nat :=
  ((if w.srcOrder = 0 then w.regH * w.imgW else (w.regH + 1) / 2 * 2 * w.imgW) + e - 1) / e

/-- Segments of a B8S source: fours with one tap and four consecutive channel groups, or EMPTY (R136). -/
def WinProg.b8sOk (w : WinProg) : Bool :=
  (List.range 4).all fun j =>
    let g := (List.range 4).map fun i => w.seg (4 * j + i)
    g.all (·.isNone) ||
    (match w.seg (4 * j) with
     | some (t, c) => c % 64 == 0 && (List.range 4).all fun i => w.seg (4 * j + i) == some (t, c + 16 * i)
     | none => false)

def spread (l : List Nat) : Nat := l.foldl max 0 - l.foldl min (l.headD 0)

def WinProg.ok (w : WinProg) : Bool :=
  let range (lo v hi : Nat) : Bool := decide (lo ≤ v ∧ v ≤ hi)
  let ho := w.outH
  let wo := w.outW
  decide (w.kind ≤ 2) && srcFmtOk w.kind w.srcFmt && decide (w.srcOrder ≤ 1) && decide (w.srcBase ≤ 16383) && range 1 w.planeStride 16384 &&
  range 1 w.srcCh 4096 && range 1 w.imgH 16384 && range 1 w.imgW 16384 && decide (w.regY < w.imgH) && range 1 w.regH (w.imgH - w.regY) &&
  (w.srcOrder == 0 || (w.imgW % 2 == 0 && w.regY % 2 == 0)) && range 1 w.kY 31 && range 1 w.kX 31 && range 1 w.sY 15 && range 1 w.sX 15 &&
  range 1 w.dY 255 && range 1 w.dX 255 && decide (1 ≤ ho ∧ 1 ≤ wo) &&
  (if w.kind = 2 then
     w.kY == 3 && w.kX == 3 && w.sY == 1 && w.sX == 1 && w.dY == 1 && w.dX == 1 && w.taps.isEmpty && ho.toNat % 2 == 0 && wo.toNat % 2 == 0
   else
     range 1 w.taps.length 49 && w.taps.all (fun t => decide (t.1 < w.kY ∧ t.2 < w.kX)) && decide (spread (w.taps.map (·.1)) ≤ 6) &&
     decide (spread (w.taps.map (·.2)) ≤ 6)) &&
  decide (w.q0 < ho.toNat * wo.toNat) &&
  (List.range 32).all (fun s =>
    let e := w.rowmap.getD s 0xFFFF
    if w.segCount ≤ s then e == 0xFFFF else e / 256 == 0xFF || decide (e / 256 < if w.kind = 2 then 16 else w.taps.length)) &&
  decide (w.planeRows (epr w.srcFmt) ≤ w.planeStride) &&
  decide (w.srcBase + (w.srcCh - 1) * w.planeStride + w.planeRows (epr w.srcFmt) ≤ 16384) &&
  (if w.srcFmt = 5 then
     w.b8sOk && decide (w.planeRows 512 ≤ w.planeStride) &&
     decide (w.shiftBase + ((w.srcCh + 63) / 64 - 1) * w.planeStride + w.planeRows 512 ≤ 16384)
   else w.shiftBase == 0)

/-- Every input position inside the image that a vector reads lies in the rows held (R133). -/
def WinProg.regionOk (w : WinProg) (n : Nat) : Bool :=
  let taps := ((List.range w.segCount).filterMap fun s => (w.seg s).map (·.1)).dedup
  (List.range n).all fun v => taps.all fun t => (w.points (w.q0 + v) t).all fun p =>
    decide (p.1 < 0 ∨ (w.imgH : Int) ≤ p.1 ∨ p.2.1 < 0 ∨ (w.imgW : Int) ≤ p.2.1 ∨
      ((w.regY : Int) ≤ p.1 ∧ p.1 < (w.regY + w.regH : Nat)))

/-- C′ of a side list: 0, or a power of two up to 64 (R120). -/
def sideSlotOk (c : Nat) : Bool := [0, 1, 2, 4, 8, 16, 32, 64].contains c

/-- Rows of a side list of p planes (R120). -/
def sideListRows (slot blocks planes : Nat) : Nat := (8 * slot * blocks * planes + 511) / 512

/-- The outlier lane's fields (R108, R120, R192). -/
def outlierOk (en : Bool) (base slot blocks fmt ch : Nat) : Bool :=
  sideSlotOk slot && (if en then (escapeCode fmt).isSome && decide (base + sideListRows slot blocks ch ≤ 16384) else base == 0)

def PassDesc.ok (im : JobImage) (p : PassDesc) : Bool :=
  match im.windows[p.window]? with
  | none => false
  | some w =>
    let q := w.outH.toNat * w.outW.toNat
    p.mode == w.kind && wFmtOk p.mode p.wFmt && decide (1 ≤ p.n ∧ p.n ≤ 2048 ∧ p.weightRow + weightRows p.wFmt ≤ 8192) &&
    decide (p.destRow % 4 = 0 ∧ p.destRow + 4 * p.n ≤ 8192) && outlierOk p.outlierEn p.sideBase p.sideSlot p.blocks w.srcFmt w.srcCh &&
    zpOk im.zps p.azp w.srcCh (azpRange w.srcFmt) && zpOk im.zps p.wzp 256 (wzpRange p.wFmt) && decide (w.q0 + p.n ≤ q) &&
    (if p.mode = 2 then
       !p.outlierEn && (p.q == 1 || p.q == 2 || p.q == 4) && decide (p.n ≤ 128 * p.q) &&
       (passGroups w p.q).all (fun g => g == (passGroups w p.q).headD 0)
     else p.q == 0) &&
    w.regionOk p.n && fetchValid w p

def GavgOp.ok (im : JobImage) (g : GavgOp) : Bool :=
  let rows := (g.e + epr g.srcFmt - 1) / epr g.srcFmt
  decide (g.srcFmt ≤ 4 ∧ 1 ≤ g.c ∧ g.c ≤ 4096 ∧ 1 ≤ g.e ∧ g.e ≤ 2 ^ 24 ∧ 1 ≤ g.d ∧ g.d ≤ 2 ^ 24) &&
  decide (rows ≤ g.planeStride ∧ g.srcBase + (g.c - 1) * g.planeStride + rows ≤ 16384 ∧ g.destRow + (g.c + 63) / 64 ≤ 8192) &&
  outlierOk g.outlierEn g.sideBase g.sideSlot g.blocks g.srcFmt g.c && zpOk im.zps g.azp g.c (azpRange g.srcFmt)

/-! ## Winograd groups (R148) -/

/-- A row of weight placed for a logical Lantern: placements follow in order, so that the last one over a row stands. -/
def Parsed.weightRow (p : Parsed) (unit row : Nat) : Row :=
  match p.im.weights.reverse.find? fun x => x.dest == 0 && x.unit == unit && decide (x.row ≤ row ∧ row < x.row + x.rows) with
  | some x => rowOf (slice (p.body 5) (x.data + 512 * (row - x.row)) 512)
  | none => 0

/-- The weight block of a WINOGRAD pass is 0 wherever the positions of row and column differ. -/
def Parsed.winogradZeros (p : Parsed) (unit : Nat) (d : PassDesc) (w : WinProg) : Bool :=
  (List.range 256).all fun r =>
    match w.seg (r / 16) with
    | none => true
    | some (x, _) =>
      let row := p.weightRow unit (d.weightRow + r)
      (List.range 256).all fun c =>
        decide (d.q * (x / d.q) + c / (256 / d.q) = x) || (rowByte row (2 * c) == 0 && rowByte row (2 * c + 1) == 0)

/-- Every requantiser operation of the Lantern whose SRC_ROW is the group's WG_BASE states the same q. -/
def winogradQ (im : JobImage) (unit : Nat) (d : PassDesc) (w : WinProg) : Bool :=
  match passGroups w d.q with
  | [] => true
  | j :: _ => im.entries.all fun e =>
      !(e.kind == 2 && e.unit == unit) || e.args.all fun a =>
        match im.rqops[a]? with
        | some op => op.srcRow + 4 * d.n * j != d.destRow || op.q == d.q
        | none => true

def Parsed.winogradOk (p : Parsed) (e : TtEntry) : Bool :=
  e.kind != 1 || e.args.all fun a => ((p.im.passes.drop a).take e.arg1).all fun d =>
    d.mode != 2 || (match p.im.windows[d.window]? with
      | some w => p.winogradZeros e.unit d w && winogradQ p.im e.unit d w
      | none => true)

/-! ## WICK, DMA, WEIGHTS (R195–R197, R328–R330) -/

/-- Bytes of a Wick memory, by MEM. -/
def wickMemBytes (m : Nat) : Nat := [0x40000, 0x20000, 0x20000, 0x200000].getD m 0

def sameWick (a b : Nat) : Bool := a == b || a == 0xFF || b == 0xFF

def WickSeg.ok (im : JobImage) (size i : Nat) (g : WickSeg) : Bool :=
  (decide (g.wick < im.hdr.wicks) || g.wick == 0xFF) && decide (g.load + g.size ≤ wickMemBytes g.mem ∧ g.data + g.size ≤ size) &&
  (g.mem != 3 || g.load % 512 == 0) &&
  (im.segs.take i).all fun k => !(k.mem == g.mem && sameWick k.wick g.wick && overlap k.load k.size g.load g.size)

/-- Device addresses of the beats of one side of a descriptor. -/
def beatAddrs (base : Nat) (bs ls : Int) (beats lines : Nat) : List Int :=
  (List.range (lines + 1)).flatMap fun l => (List.range (beats + 1)).map fun b => (base : Int) + l * ls + b * bs

/-- A region of the channel covers a beat in a row memory; of any channel for a list that no entry starts (log 86). -/
def writerCovers (im : JobImage) (ch : Option Nat) (mem unit row : Nat) : Bool :=
  im.regions.any fun g => g.writerKind == 0 && ch.all (g.writer == ·) && g.mem == mem && g.unit == unit && decide (g.firstRow ≤ row ∧ row < g.firstRow + g.rows)

/-- Widths and alignment of destination beats (R340): whole sectors in row memories and HBM, a power of two in a Wick's local memory and
Taper X and Y. -/
def dstWidthOk (w n : Nat) : Bool :=
  match place n with
  | .local_ _ _ | .taperX _ _ | .taperY _ _ => [1, 2, 4, 8, 16, 32, 64].contains w && n % w == 0
  | _ => (w == 32 || w == 64) && n % 32 == 0

/-- The beat at an image address is allowed; unit numbers are logical (R183). -/
def beatOk (im : JobImage) (ch : Option Nat) (w : Nat) (dst : Bool) (a : Int) : Bool :=
  let n := a.toNat
  decide (0 ≤ a) && decide (n % 512 + w ≤ 512) && (!dst || dstWidthOk w n) &&
  (match place n with
   | .hbm st off => decide (hbmPc off < getOr im.hdr.detPc st 0)
   | .lan l off =>
     let (m, r) := if off < 0x00400000 then (0, off / 512) else if off < 0x00C00000 then (1, (off - 0x00400000) / 512) else (2, (off - 0x00C00000) / 512)
     decide (l < im.hdr.lanterns) && (!dst || writerCovers im ch m l r)
   | .vec k off => decide (k < im.hdr.wicks) && (!dst || writerCovers im ch 3 k (off / 512))
   | .map off => !dst || writerCovers im ch 4 0 (off / 512)
   | .local_ k off => decide (k < im.hdr.wicks) && (!dst || im.blocks.any fun b =>
       b.kind != 2 && (b.unit == 0xFF || b.unit == k) && decide (b.shadow ≤ off ∧ off + w ≤ b.shadow + b.size))
   | .taperX k _ | .taperY k _ => decide (k < im.hdr.wicks)
   | _ => false)

def DmaDesc.ok (im : JobImage) (ch : Option Nat) (d : DmaDesc) : Bool :=
  (d.srcBeats + 1) * (d.srcLines + 1) * d.srcW == (d.dstBeats + 1) * (d.dstLines + 1) * d.dstW &&
  (beatAddrs d.src d.srcBStride d.srcLStride d.srcBeats d.srcLines).all (beatOk im ch d.srcW false) &&
  (beatAddrs d.dst d.dstBStride d.dstLStride d.dstBeats d.dstLines).all (beatOk im ch d.dstW true)

/-- Channels that start a list. -/
def startersOf (im : JobImage) (list : Nat) : List Nat :=
  (im.entries.filter fun e => e.kind == 5 && e.args.contains list).map TtEntry.unit

/-- Every list is right for every channel that starts it, also where none does, and the lists up to it fit the engines' descriptor memories (R328). -/
def dmaListOk (im : JobImage) (i : Nat) (l : List DmaDesc) : Bool :=
  l.all (DmaDesc.ok im none) && (startersOf im i).all (fun ch => l.all (DmaDesc.ok im (some ch))) &&
  (List.range 4).all fun eng =>
    decide (sumOver (List.range (i + 1)) (fun k =>
      if (startersOf im k).any fun ch => ch / 32 == eng then (im.dma.getD k []).length else 0) ≤ 65536)

def WeightPl.ok (im : JobImage) (size : Nat) (p : WeightPl) : Bool :=
  decide (p.data % 512 = 0 ∧ p.data + 512 * p.rows ≤ size) &&
  (match p.dest with
   | 0 => decide (p.unit < im.hdr.lanterns ∧ p.row + p.rows ≤ 8192 ∧ p.addr = 0)
   | 1 => decide (p.unit = 0 ∧ p.row + p.rows ≤ 524288 ∧ p.addr = 0)
   | _ => decide (p.unit = 0 ∧ p.row = 0 ∧ p.addr % 512 = 0 ∧ p.addr + 512 * p.rows ≤ 4 * stackSize))

/-! ## QPARAM (R109–R114, R148, R199–R200) -/

/-- Codes of an output format (R109); U16 and S16 after the activation formats. -/
def rqZpRange (f : Nat) : Int × Int := if f = 5 then (0, 65535) else if f = 6 then (-32768, 32767) else azpRange f

/-- zp of a channel record as the output format reads it. -/
def ChanRec.zpOf (c : ChanRec) (f : Nat) : Int := if f = 5 then c.zp.toNat else c.zp.toInt

/-- Elements per row of an output format. -/
def rqEpr (f : Nat) : Nat := if f = 2 ∨ f = 3 then 1024 else if f = 5 ∨ f = 6 then 256 else 512

/-- Positions that an operation writes in each plane. -/
def RqOp.count (op : RqOp) : Nat := if op.q = 0 then op.n else 4 * op.n

/-- C′ of an operation (R120). -/
def RqOp.slots (op : RqOp) : Nat := if op.cap = 0 then 0 else ([1, 2, 4, 8, 16, 32, 64].find? fun c => decide (op.cap ≤ c)).getD 64

/-- Rows that an operation writes: data, shift planes and side list. -/
def RqOp.rows (op : RqOp) : List Nat :=
  let a := op.start
  let b := op.start + op.count - 1
  let e := rqEpr op.outFmt
  let span (base e : Nat) : List Nat := (List.range (b / e + 1 - a / e)).map fun i => base + a / e + i
  (List.range op.channels).flatMap (fun c => span (op.outBase + c * op.outStride) e) ++
  (if op.outFmt = 4 then (List.range ((op.channels + 63) / 64)).flatMap fun g => span (op.shiftBase + (op.firstPlane / 64 + g) * op.outStride) 512 else []) ++
  (if op.capture && op.slots != 0 then
     (List.range op.channels).flatMap fun c => (List.range (b / 4096 + 1 - a / 4096)).map fun k =>
       op.sideBase + 8 * op.slots * ((op.firstPlane + c) * op.blocks + a / 4096 + k) / 512
   else [])

/-- The REQUANT entries' Lanterns of an operation. -/
def lanternsOf (im : JobImage) (op : Nat) : List Nat := (im.entries.filter fun e => e.kind == 2 && e.args.contains op).map TtEntry.unit

def RqOp.ok (im : JobImage) (i : Nat) (op : RqOp) : Bool :=
  let r := rqZpRange op.outFmt
  let rows := op.rows
  decide (op.outFmt ≤ 6 ∧ op.cap ≤ 64 ∧ 1 ≤ op.channels ∧ op.channels ≤ 256 ∧ 1 ≤ op.n ∧ op.n ≤ 2048 ∧ op.start % 4096 = 0) &&
  (!op.capture || decide (op.outFmt ≤ 3)) && (op.q == 0 || op.q == 1 || op.q == 2 || op.q == 4) &&
  decide (op.params + op.channels ≤ im.chans.length) &&
  (op.outFmt == 4 || ((im.chans.drop op.params).take op.channels).all fun c => decide (r.1 ≤ c.zpOf op.outFmt ∧ c.zpOf op.outFmt ≤ r.2)) &&
  (if op.q = 0 then decide (op.srcRow + 4 * op.n ≤ 8192)
   else decide (op.channels ≤ 256 / op.q ∧ op.n ≤ 128 * op.q ∧ op.srcRow + 4 * op.n * (16 / op.q) ≤ 8192)) &&
  (!op.capture || op.cap == 0 || decide ((op.start + op.count - 1) / 4096 < op.blocks)) &&
  rows.all (fun x => decide (x < if op.destMap then 524288 else 16384)) &&
  (!op.destMap || (lanternsOf im i).all fun l => rows.all fun x =>
    im.regions.any fun g => g.mem == 4 && g.writerKind == 1 && g.writer == l && decide (g.firstRow ≤ x ∧ x < g.firstRow + g.rows))

/-- Channel records that an epoch block covers. -/
def covered (im : JobImage) (c : Nat) : Bool := im.blocks.any fun b => b.kind == 2 && decide (b.fg ≤ c ∧ c < b.fg + b.size / 16)

/-- Channel records that a logical Lantern uses. -/
def chansOf (im : JobImage) (l : Nat) : List Nat :=
  (List.range im.chans.length).filter fun c => im.entries.any fun e => e.kind == 2 && e.unit == l && e.args.any fun a =>
    match im.rqops[a]? with
    | some op => decide (op.params ≤ c ∧ c < op.params + op.channels)
    | none => false

/-- At most 4,096 places in each parameter memory (R200). -/
def placesOk (im : JobImage) : Bool :=
  (List.range im.hdr.lanterns).all fun l => decide (sumOver (chansOf im l) (fun c => if covered im c then 2 else 1) ≤ 4096)

/-! ## TABLES and STREAMS (R201–R202, R231, R374, R377, R474) -/

/-- The ranges of a block: copy bases with a tag for the space they lie in. -/
def EpochBlk.copies (b : EpochBlk) : List (Nat × Nat) := if b.kind = 2 then [(b.fg, b.size / 16)] else [(b.fg, b.size), (b.shadow, b.size)]

def EpochBlk.clash (a b : EpochBlk) : Bool :=
  (if a.kind = 2 ∨ b.kind = 2 then a.kind == b.kind else sameWick a.unit b.unit) &&
  a.copies.any fun x => b.copies.any fun y => overlap x.1 x.2 y.1 y.2

def copyOk (size c : Nat) : Bool :=
  if 0x80000000 ≤ c then decide (c - 0x80000000 + size ≤ 0x200000 ∧ c % 32 = 0) else decide (c + size ≤ 0x40000)

def EpochBlk.ok (im : JobImage) (bytes i : Nat) (b : EpochBlk) : Bool :=
  let before := im.blocks.take i
  decide (1 ≤ b.id ∧ b.id ≤ 4095 ∧ b.kind ≤ 2 ∧ 1 ≤ b.size ∧ b.size ≤ 65536) && before.all (fun k => k.id != b.id && !k.clash b) &&
  (if b.kind = 2 then b.unit == 0 && b.shadow == 0 && b.data == 0 && decide (b.size % 16 = 0 ∧ b.fg + b.size / 16 ≤ im.chans.length)
   else
     decide (b.size % 64 = 0 ∧ b.data + b.size ≤ bytes) && (decide (b.unit < im.hdr.wicks) || b.unit == 0xFF) && copyOk b.size b.fg &&
     copyOk b.size b.shadow && !overlap b.fg b.size b.shadow b.size &&
     (List.range im.hdr.wicks).all fun w =>
       !sameWick b.unit w || decide ((before.filter fun k => k.kind != 2 && sameWick k.unit w).length < 64))

/-- Format codes of a direction (R377). -/
def formatOk (dir f : Nat) : Bool :=
  match dir with
  | 0 => f == 1
  | 1 => decide (0x10 ≤ f ∧ f ≤ 0x14)
  | 2 => f == 0x20
  | _ => f == 0x30

/-- RRS bindings that a video binding covers, in ascending SLOT (R474). -/
def JobImage.covers (im : JobImage) (b : StreamBind) : List StreamBind :=
  (List.range 32).filterMap fun k => (im.stream k).filter fun x => x.dir == 0 && x.camera == b.camera

/-- R202. A binding without stripes states STRIPE_H and STRIPES 0; one without frame buffers may state BUF_BASE 0 (log 84). -/
def StreamBind.ok (im : JobImage) (i : Nat) (b : StreamBind) : Bool :=
  let before := im.streams.take i
  let det (s : Nat) : Nat := getOr im.hdr.detPc s 0
  decide (b.slot < 32 ∧ b.dir ≤ 3 ∧ b.portA < 4 ∧ b.width ≤ 16384 ∧ b.camera < 32) && (decide (b.portB < 4) || b.portB == 0xFF) &&
  before.all (fun k => k.slot != b.slot) && formatOk b.dir b.format && b.frameNum == im.hdr.frameNum && b.frameDen == im.hdr.frameDen &&
  (if b.dir = 0 then decide (2 ≤ b.d ∧ b.d ≤ 8) else b.d == 0) &&
  decide (b.halo ≤ 64) && (if b.stripeH = 0 then b.stripes == 0 else
    decide (8 ≤ b.stripeH ∧ b.stripeH ≤ 1024) && b.stripes == (b.height + b.stripeH - 1) / b.stripeH) &&
  (if b.dir = 2 then (match im.stream b.link with | some v => v.dir == 1 | none => false) else b.link == 0xFF) &&
  (match b.dir with
   | 0 =>
     decide (1 ≤ b.stripeH ∧ 1 ≤ b.width ∧ 1 ≤ b.height) && detRange det b.bufBase (b.d * b.bufStride) &&
     decide (sumOver ((im.streams.take (i + 1)).filter fun k => k.dir == 0 && k.portA == b.portA) (fun k => 6 * k.width * k.stripeH) ≤ 16777216)
   | 1 =>
     let leaves := sumOver (im.covers b) StreamBind.stripes
     decide (1 ≤ b.width ∧ 1 ≤ b.height ∧ 1 ≤ leaves ∧ leaves ≤ 256) && detRange det b.bufBase (2 * b.bufStride)
   | _ => b.bufBase == 0 || detRange det b.bufBase b.bufStride)

/-! ## All checks, in order of section type -/

def Parsed.check (p : Parsed) : Except Rej Unit := do
  let im := p.im
  checkList (badRecord 1) (Region.ok im) im.regions
  (List.range 4).forM fun k => checkList (badRecord 1) (hbmOrdered (getOr im.hbm k ⟨0, []⟩)) (getOr im.hbm k ⟨0, []⟩).recs
  checkList (badRecord 1) (fun _ e => e.ok im) im.entries
  checkList badTimetable (limitOk im) im.entries
  checkThat (densityOk im) (badTimetable 0)
  (List.range 4).forM fun k => do
    let det := getOr im.hdr.detPc k 0
    let l := getOr im.hbm k ⟨0, []⟩
    if det = 0 then pure ()
    else
      checkList badTimetable (hbmRecOk im.hdr l) l.recs
      checkThat (hbmRefreshed det l) (badTimetable 0)
  checkList badTimetable (fun _ e => t40Ok im e) im.entries
  checkList (badRecord 2) (fun _ w => w.ok) im.windows
  checkList (badRecord 2) (fun _ d => d.ok im) im.passes
  checkList (badRecord 2) (fun _ g => g.ok im) im.gavgs
  checkList (badRecord 1) (fun _ e => p.winogradOk e) im.entries
  checkList (badRecord 3) (WickSeg.ok im (p.body 3).length) im.segs
  checkList (badRecord 4) (dmaListOk im) im.dma
  checkList (badRecord 5) (fun _ w => w.ok im (p.body 5).length) im.weights
  checkList (badRecord 6) (RqOp.ok im) im.rqops
  checkThat (placesOk im) (badRecord 6 0)
  checkList (badRecord 7) (EpochBlk.ok im (p.body 7).length) im.blocks
  checkList (badRecord 8) (StreamBind.ok im) im.streams

end Sys2Proof.Machine
end

