-- ==== Sys2Proof/Machine/Epochs.lean ====
section
/-! DEFINITION. Parameter epochs: staging, commit points, the anchor switch and UPDATE_PARAMS (spec/02 R44–R49, spec/04 R110–R111,
spec/15 R433–R435, spec/17 R479). -/
namespace Sys2Proof.Machine

/-! ## Epochs and their commands -/

/-- The frame at which the next anchor falls, in the order of the job's own commands. -/
def JobBlk.next (j : JobBlk) : Nat :=
  match j.current with
  | none => j.base
  | some m => m + 1

def JobBlk.blockOf (j : JobBlk) (id : Nat) : Option EpochBlk := j.image.bind fun im => im.blocks.find? fun b => b.id == id

/-- An epoch leaves the pending set. -/
def JobBlk.dropEpoch (j : JobBlk) (e : Epoch) : JobBlk :=
  { j with epochs := j.epochs.filter fun x => x.order != e.order, shadows := j.shadows.filter fun x => x.order != e.order }

/-- The pending command of an epoch completes: RESULT0 as given, RESULT1 SEQ (R433). -/
def State.endEpoch (s : State) (e : Epoch) (status r0 : Nat) : State :=
  let s := s.setJob (s.job.dropEpoch e)
  match s.host.held.find? fun h => h.opcode == 4 && h.order == e.order with
  | some h => s.completeHeld h status r0 e.seq
  | none => s

/-- Every pending epoch completes with STOPPED (R430, R435). -/
def State.endEpochs (s : State) : State := s.job.epochs.foldl (fun (s : State) e => s.endEpoch e 0x17 e.target) s

/-- Frames whose Stamp records show what became of an epoch (R49). -/
def Epoch.marks (e : Epoch) : List Nat := if e.carried then [e.target, e.due] else [e.target]

def State.logEpoch (s : State) (ftb code : Nat) (e : Epoch) : State := s.logAt ftb code 0 0 [(2, e.block), (4, e.seq), (8, e.target)]

/-- An epoch is discarded (R45–R47). -/
def State.discard (s : State) (ftb code status : Nat) (e : Epoch) : State :=
  ((s.setJob { s.job with marks := s.job.marks ++ e.marks }).logEpoch ftb code e).endEpoch e status e.target

/-- Rank of two epochs for one frame: sequence, then the order of their commands (R47). -/
def Epoch.below (a b : Epoch) : Bool := decide (a.seq < b.seq) || (a.seq == b.seq && decide (a.order < b.order))

/-- Order of the queue of a block (R434). -/
def Epoch.ahead (a b : Epoch) : Bool := decide (a.due < b.due) || (a.due == b.due && a.below b)

/-- What the shadow of a block holds, with its epoch. -/
def JobBlk.shadowOf (j : JobBlk) (block : Nat) : Option (ShadowSt × Epoch) :=
  (j.shadows.find? fun x => x.block == block).bind fun x => (j.epochs.find? fun e => e.order == x.order).map fun e => (x, e)

/-- The epoch of a block to be copied next: the head of its queue, that in the shadow not counted. -/
def JobBlk.headOf (j : JobBlk) (block : Nat) : Option Epoch :=
  j.epochs.foldl (fun (best : Option Epoch) e =>
    if e.block != block || (j.shadows.any fun x => x.order == e.order) then best
    else match best with
      | some b => if e.ahead b then some e else best
      | none => some e) none

/-! ## Contents -/

/-- The 16 bytes of a channel record (R198). -/
def ChanRec.bytes (c : ChanRec) : List Byte := leBytes 4 c.m ++ leBytes 1 c.sh ++ [0] ++ leBytes 2 c.zp.toNat ++ leBytes 8 (BitVec.ofInt 64 c.bias).toNat

/-- A channel record of a payload. -/
def payloadChan (l : List Byte) (i : Nat) : ChanRec :=
  let b := slice l (16 * i) 16
  ⟨fld b 0 4, fld b 4 1, BitVec.ofNat 16 (fld b 6 2), sfld b 8 8⟩

/-- M and sh of every record of a channel-set payload are in range (R109–R110). -/
def payloadOk (b : EpochBlk) (l : List Byte) : Bool :=
  b.kind != 2 || (List.range (l.length / 16)).all fun i =>
    let c := payloadChan l i
    decide (2 ^ 30 ≤ c.m ∧ c.m < 2 ^ 31 ∧ c.sh ≤ 63)

/-- Logical Wicks of a block. -/
def JobImage.blockWicks (im : JobImage) (b : EpochBlk) : List Nat := if b.unit = 0xFF then List.range im.hdr.wicks else [b.unit]

/-- Physical Wicks that hold a block. -/
def State.blockPhys (s : State) (b : EpochBlk) : List WkId :=
  match s.job.image with
  | some im => (im.blockWicks b).filterMap s.rel.wkPhys
  | none => []

/-- Bytes written at an offset encoded as FG, through the remap, sectors of the vector scratchpad with tag 0x00 and no poison (R201, R434). -/
def State.blockWrite (s : State) (w : WkId) (code : Nat) (l : List Byte) : State :=
  if code < 0x80000000 then s.localPut w code l
  else
    let off := code - 0x80000000
    (List.range ((off % 512 + l.length + 511) / 512)).foldl (fun (s : State) i =>
      let r := off / 512 + i
      let lo := max off (512 * r)
      let hi := min (off + l.length) (512 * r + 512)
      let k := (lo - 512 * r) / 32
      let n := (hi - lo + 31) / 32
      s.writeVecRow w r (BitVec.ofNat 16 ((2 ^ n - 1) * 2 ^ k)) (rowOf (List.replicate (lo - 512 * r) 0 ++ slice l (lo - off) (hi - lo))) 0 false) s

/-- A payload into every shadow copy of a block. -/
def State.shadowWrite (s : State) (b : EpochBlk) (l : List Byte) : State :=
  if b.kind = 2 then
    let add (n : Lantern) : Lantern :=
      { n with paramsSh := n.paramsSh.map fun p =>
          if b.fg ≤ p.1 ∧ p.1 < b.fg + b.size / 16 then (p.1, payloadChan l (p.1 - b.fg)) else p }
    { s with lan := s.lan.map add }
  else (s.blockPhys b).foldl (fun (s : State) w => s.blockWrite w b.shadow l) s

/-! ## Staging (R434, R46, R110) -/

/-- The epoch may be copied over what the shadow holds. -/
def mayCopy (held : Option (ShadowSt × Epoch)) (e : Epoch) : Bool :=
  match held with
  | none => true
  | some (x, v) => x.verified && (decide (e.due < v.due) || (e.due == v.due && v.below e))

/-- R434: EPOCH_STAGE_COPY. Channel 31 copies the head of a block's queue into its shadow copies; a verified epoch for the same frame is
superseded, one for a later frame stays pending. A copy that may not begin waits (log 8). -/
def stageEffect (block : Nat) (s : State) : State :=
  match s.job.headOf block, s.job.blockOf block with
  | some e, some b =>
    let held := s.job.shadowOf block
    if (s.job.commits.any fun c => c.1 == block) || !mayCopy held e then s
    else if !s.outerOk e.source e.length then s.endEpoch e 0x11 e.target
    else
      let s := match held with
        | some (_, v) => if v.due = e.due then s.discard s.time.ftb 0x0109 0x13 v else s
        | none => s
      let (s, l) := s.outerRead e.source e.length
      (s.setJob { s.job with shadows := (s.job.shadows.filter fun x => x.block != block) ++ [⟨block, e.order, l, false⟩] }).shadowWrite b l
  | _, _ => s

def execEpochStageCopy (block : Nat) (s : State) : Host.Outcome State Fault Refusal := .next (stageEffect block s)

/-- R46, R110: EPOCH_PAYLOAD_COMPLETE. Channel 31 has moved the payload (Saddler line 1, R444); the check word decides the copy under way. -/
def payloadEffect (block : Nat) (s : State) : State :=
  match s.job.shadowOf block, s.job.blockOf block with
  | some (x, e), some b =>
    if x.verified then s
    else if crc32c x.payload = e.crc ∧ payloadOk b x.payload = true then
      (s.sadLine 1).setJob { s.job with shadows := s.job.shadows.map fun y => if y.order = x.order then { y with verified := true } else y }
    else (s.sadLine 1).discard s.time.ftb 0x0108 0x12 e
  | _, _ => s

def execEpochPayloadComplete (block : Nat) (s : State) : Host.Outcome State Fault Refusal := .next (payloadEffect block s)

/-! ## Commit points and anchors (R44–R48, R435–R436) -/

/-- The epoch is complete at C_n: verified in the shadow, and due there by its target or by the one carry from it. -/
def JobBlk.complete? (j : JobBlk) (n : Nat) (e : Epoch) : Bool :=
  (match j.shadowOf e.block with
   | some (x, v) => x.verified && v.order == e.order
   | none => false) && e.due == n && (!e.carried || e.target + 1 == n)

/-- The fate of one due epoch at C_n, given the epochs that commit there. -/
def State.decide_ (s : State) (n c : Nat) (wins : List Epoch) (e : Epoch) : State :=
  if wins.any fun w => w.order == e.order then s.setJob { s.job with commits := s.job.commits ++ [(e.block, e.order)] }
  else if wins.any fun w => w.block == e.block && e.below w then s.discard c 0x0109 0x13 e
  else if e.carried then s.discard c 0x0108 0x12 e
  else
    (s.setJob { s.job with
      marks := s.job.marks ++ [e.target]
      epochs := s.job.epochs.map fun x => if x.order = e.order then { x with due := n + 1, carried := true } else x }).logEpoch c 0x0107 e

/-- R44–R47, R58, R435: COMMIT_POINT. The epochs of the frame in which a snapshot was taken were committed before it. -/
def commitEffect (n : Nat) (s : State) : State :=
  if s.job.state ≠ .armed ∨ n ≠ s.job.next then s
  else
    let c := s.job.commitPoint n
    let s := s.reach c
    if (match s.job.stopAt with | some k => decide (k ≤ n) | none => false) || (s.job.resumed && n == s.job.base) then s
    else
      let due := s.job.epochs.filter fun e => decide (e.due ≤ n) && !s.job.commits.any fun x => x.2 == e.order
      let wins := due.filter (s.job.complete? n)
      due.foldl (fun (s : State) e => s.decide_ n c wins e) s

def execCommitPoint (n : Nat) (s : State) : Host.Outcome State Fault Refusal := .next (commitEffect n s)

/-- The two copies of a block change places (R44, R48, R231): in the remap of its Wicks, or in the parameter memories. -/
def State.switchBlock (s : State) (b : EpochBlk) : State :=
  if b.kind = 2 then
    let mine (p : Nat × ChanRec) : Bool := decide (b.fg ≤ p.1 ∧ p.1 < b.fg + b.size / 16)
    let flip (n : Lantern) : Lantern :=
      { n with
        params := n.params.map fun p => if mine p then (p.1, (n.paramsSh.lookup p.1).getD p.2) else p
        paramsSh := n.paramsSh.map fun p => if mine p then (p.1, (n.params.lookup p.1).getD p.2) else p }
    { s with lan := s.lan.map flip }
  else
    (s.blockPhys b).foldl (fun (s : State) w => s.setWick w fun k =>
      { k with swapped := if k.swapped.contains b.id then k.swapped.erase b.id else b.id :: k.swapped }) s

/-- D_b replaced, the list by ascending BLOCK_ID (R479). -/
def putDigest (l : List (Nat × List Byte)) (id : Nat) (d : List Byte) : List (Nat × List Byte) :=
  l.map fun p => if p.1 = id then (id, d) else p

/-- PARAMS: the prefix over the pairs of BLOCK_ID and D_b (R479). -/
def StampBlk.paramsNow (b : StampBlk) : List Byte := prefix32 (sha512 (b.digests.flatMap fun p => leBytes 2 p.1 ++ p.2))

/-- One committed epoch takes the foreground at A_n. -/
def State.switchEpoch (s : State) (n : Nat) (c : Nat × Nat) : State :=
  match s.job.shadowOf c.1, s.job.blockOf c.1, s.job.epochs.find? fun e => e.order == c.2 with
  | some (x, _), some b, some e =>
    let s := (s.switchBlock b).setJob { s.job with front := (s.job.front.filter fun p => p.1 != b.id) ++ [(b.id, x.payload)] }
    (s.setStamp { s.stamp with digests := putDigest s.stamp.digests b.id (sha512 x.payload) }).endEpoch e 0 n
  | _, _, _ => s

/-- R44, R48, R479: ANCHOR_SWITCH. The foreground of every committed block switches; nothing switches at the anchor of a STOP. -/
def anchorEffect (n : Nat) (s : State) : State :=
  if s.job.state ≠ .armed ∨ n ≠ s.job.next then s
  else
    let s := s.reach (s.job.anchor n)
    let s := s.job.commits.foldl (fun (s : State) c => s.switchEpoch n c) s
    let s := s.setJob { s.job with current := some n, commits := [] }
    s.setStamp { s.stamp with params := (n, s.stamp.paramsNow) :: s.stamp.params }

def execAnchorSwitch (n : Nat) (s : State) : Host.Outcome State Fault Refusal := .next (anchorEffect n s)

/-! ## UPDATE_PARAMS (R433–R434) -/

/-- The epoch that a command describes. -/
def epochOf (c : Taken) (order : Nat) : Epoch :=
  let t := fld c.entry 0x10 8
  { ring := c.ring, tag := c.tag, source := fld c.entry 8 8, target := t, seq := fld c.entry 0x18 4, block := fld c.entry 0x1C 2
    length := fld c.entry 0x20 4, crc := BitVec.ofNat 32 (fld c.entry 0x24 4), order, due := t, carried := false }

def updateRun (io : IoFail) (s : State) (c : Taken) : State :=
  let e := epochOf c s.job.nextOrder
  let answer (status : Nat) : State := s.finish c status e.target e.seq io
  if s.job.state = .none then answer 9
  else
    match s.job.blockOf e.block with
    | none => answer 0x14
    | some b =>
      if e.length ≠ b.size then answer 0x14
      else if 256 ≤ s.job.epochs.length then answer 0x15
      else
        let late := match s.job.shadowOf e.block with
          | some (x, v) => x.verified && v.due == e.due && decide (e.seq < v.seq)
          | none => false
        if late then
          ((s.setJob { s.job with marks := s.job.marks ++ e.marks, nextOrder := e.order + 1 }).logEpoch s.time.ftb 0x0109 e).finish c 0x13 e.target e.seq io
        else
          { s with
            job := { s.job with epochs := s.job.epochs ++ [e], nextOrder := e.order + 1 }
            host := { s.host with held := s.host.held ++ [⟨4, c.ring, c.tag, c.ep, e.order⟩] } }

def execUpdateParams (k : Fin 64) (io : IoFail) (s : State) : Host.Outcome State Fault Refusal :=
  .next (s.takeCommand k io (fun op => op == 4) [(8, 0x16), (0x20, 8)] (updateRun io))

end Sys2Proof.Machine
end

