-- ==== Sys2Proof/Machine/Load.lean ====
section
/-! DEFINITION. LOAD_IMAGE (spec/07 R187, R195–R205, R208; spec/12 R353; spec/15 R430): placement of a checked image. -/
namespace Sys2Proof.Machine

/-! ## Placement (R204 step 5) -/

/-- Bytes written with fresh check bits. -/
def MemBlk.load (m : MemBlk) (a : Nat) (l : List Byte) : MemBlk :=
  let m := m.write a l
  { m with ecc := Sparse.clear m.ecc a (a + l.length) }

/-- Bytes of rows: tag 0x00 and no poison in every row touched (R195, R197, R201). -/
def MemBlk.loadRows (m : MemBlk) (a : Nat) (l : List Byte) : MemBlk :=
  let m := m.load a l
  let lo := rowBase a
  let hi := (a + l.length + 511) / 512 * 512
  { m with tags := Sparse.clear m.tags lo hi, poison := Sparse.clear m.poison lo hi, sbEcc := Sparse.clear m.sbEcc lo hi }

/-- A weight placement (R197). -/
def State.placeWeights (s : State) (body : List Byte) (p : WeightPl) : State :=
  let l := slice body p.data (512 * p.rows)
  match p.dest with
  | 0 => match s.rel.lnPhys p.unit with
    | some n => s.setMem (s.mem.loadRows (weightRow n.1 p.row) l)
    | none => s
  | 1 => s.setMem (s.mem.loadRows (mapRow p.row) l)
  | _ => s.setMem (s.mem.loadRows p.addr l)

/-- Logical Wicks that a segment names. -/
def JobImage.segWicks (im : JobImage) (w : Nat) : List Nat := if w = 0xFF then List.range im.hdr.wicks else [w]

/-- A Wick load segment (R195). -/
def State.placeSeg (s : State) (im : JobImage) (body : List Byte) (g : WickSeg) : State :=
  let l := slice body g.data g.size
  ((im.segWicks g.wick).filterMap s.rel.wkPhys).foldl (fun (s : State) w =>
    let base := wickBase w.1
    match g.mem with
    | 0 => s.setMem (s.mem.load (base + g.load) l)
    | 1 => s.setMem (s.mem.load (base + 0x00040000 + g.load) l)
    | 2 => s.setMem (s.mem.load (base + 0x00060000 + g.load) l)
    | _ => s.setMem (s.mem.loadRows (base + 0x00200000 + g.load) l)) s

/-- Initial contents of an epoch block (R201). -/
def blockInit (im : JobImage) (body : List Byte) (b : EpochBlk) : List Byte :=
  if b.kind = 2 then ((im.chans.drop b.fg).take (b.size / 16)).flatMap ChanRec.bytes else slice body b.data b.size

/-- Both copies of a block hold the initial contents. -/
def State.placeBlock (s : State) (body : List Byte) (im : JobImage) (b : EpochBlk) : State :=
  if b.kind = 2 then s
  else
    let l := blockInit im body b
    let put (m : MemBlk) (w : WkId) (code : Nat) : MemBlk :=
      if code < 0x80000000 then m.load (wickBase w.1 + code) l else m.loadRows (wickBase w.1 + 0x00200000 + (code - 0x80000000)) l
    (s.blockPhys b).foldl (fun (s : State) w => s.setMem (put (put s.mem w b.fg) w b.shadow)) s

/-- The parameter memory of each Lantern that serves the image (R200). -/
def State.placeParams (s : State) (im : JobImage) : State :=
  (List.range im.hdr.lanterns).foldl (fun (s : State) l =>
    match s.rel.lnPhys l with
    | some n =>
      let cs := (chansOf im l).map fun c => (c, im.chans.getD c default)
      s.setLan n fun x => { x with params := cs, paramsSh := cs.filter fun p => covered im p.1 }
    | none => s) s

/-- Blocks by ascending BLOCK_ID with the digests of their contents (R479). -/
def digestsOf (contents : List (Nat × List Byte)) : List (Nat × List Byte) :=
  ((List.range 4096).filterMap fun id => contents.find? fun p => p.1 == id).map fun p => (p.1, sha512 p.2)

/-- The queue area: 32 bytes for each instance, whose layout the spec leaves open (R187): free values (log 36). -/
def State.placeQueues (s : State) (im : JobImage) : State :=
  let n := 4 * sumOver im.entries fun e => e.rep + 1
  (s.setMem (s.mem.loadRows im.hdr.queueBase ((List.range n).flatMap fun k => leBytes 8 (Config.freeWord (s.misc.fresh + k)).toNat))).fresh n

/-- LOAD_IMAGE and RESUME set every control-page field to its reset value, every TCB, TCL, OVF, SAT and TSIG to theirs (R224, R250, R308,
R322). -/
def Wick.controlReset (w : Wick) : Wick :=
  { w with
    irqPend := 0, irqSrc := Vector.replicate 16 0, taperOwn := 0, ownDue := none, threads := w.threads.map fun t => { t with ie := false }
    taper := { w.taper with tcb := Vector.replicate 8 0, tcl := Vector.replicate 8 65536, ovf := false, sat := false, tsig := 0xFFFFFFFF } }

/-- CP_RET reads the top of the return stack, so its reset value empties the stack (R246, R250). -/
def Wick.loadReset (w : Wick) : Wick :=
  let w := w.controlReset
  { w with swapped := [], threads := w.threads.map fun t => { t with stack := [] } }

/-- Regions with their initial credits, windows empty (R171). -/
def initRegions (im : JobImage) : List RegionSt := im.regions.map fun g => ⟨0, 0, g.initCredits, 0⟩

/-- Step 5: the previous image is discarded and the new one placed (R204). -/
def State.placeImage (s : State) (p : Parsed) : State :=
  let im := p.im
  let front := im.blocks.map fun b => (b.id, blockInit im (p.body 7) b)
  let s := s.setJob { s.job with
    state := .loaded, image := some im, launch := 0, frame0 := 0, base := 0, current := none, started := [], completed := [], shadows := [],
    front, commits := [], marks := [], holdFrom := none, lateKeys := [], lateRecs := [] }
  let s : State := { s with
    hbm := Vector.ofFn fun k => { s.hbm[k] with detPc := im.hdr.detPc[k], past := [] }
    wick := s.wick.map Wick.loadReset }
  let s := im.weights.foldl (fun (s : State) w => s.placeWeights (p.body 5) w) s
  let s := im.segs.foldl (fun (s : State) g => s.placeSeg im (p.body 3) g) s
  let s := (im.blocks.foldl (fun (s : State) b => s.placeBlock (p.body 7) im b) s).placeParams im
  let s := s.placeQueues im
  (s.setFab { s.fab with regions := initRegions im, waits := [], rowsDone := [], rowHits := [] }).setStamp { s.stamp with digests := digestsOf front, params := [] }

/-- The previous image, every binding and every pending epoch go (R430, R435). -/
def State.discardImage (s : State) : State :=
  let s := s.endEpochs
  s.setJob { s.job with state := .none, image := none, bindings := [], started := [], completed := [], shadows := [], front := [], commits := [] }

/-- The fence map provides the logical units (R204 step 4). -/
def State.unitsOk (s : State) (h : ImgHdr) : Bool :=
  (List.range h.lanterns).all (fun l => (s.rel.lnPhys l).isSome) && (List.range h.wicks).all fun w => (s.rel.wkPhys w).isSome

/-! ## The command (R203–R208) -/

def State.rejectImage (s : State) (c : Taken) (r : Rej) (io : IoFail) : State :=
  (s.logEv 0x0E21 7 s.firmwarePair [(1, r.status), (2, r.sect), (4, r.idx)]).finish c r.status (r.sect + 65536 * r.idx) 0 io

/-- Steps 1 to 4: the image read and checked, or the first failure. -/
def State.checkImage (s : State) (src size : Nat) (io : IoFail) : Except Rej Parsed :=
  if io.source || !s.outerOk src size then .error ⟨8, 0, 0⟩
  else do
    let p ← parseImage (s.mem.bytes src size)
    p.check
    if s.unitsOk p.im.hdr then pure p else throw ⟨5, 0, 0⟩

/-- LOAD_IMAGE as the firmware runs it. `placeError`: an uncorrectable error while placing. -/
def loadRun (io : IoFail) (placeError : Bool) (s : State) (c : Taken) : State :=
  if s.job.state = .armed then s.finish c 1 0 0 io
  else
    let src := fld c.entry 8 8
    let size := fld c.entry 0x10 8
    match s.checkImage src size io with
    | .error r => (s.seeHbm 0x82 src size).rejectImage c r io
    | .ok p =>
      let s := (s.seeHbm 0x82 src size).discardImage
      if placeError then s.rejectImage c ⟨7, 0, 0⟩ io
      else
        let d := leNat (p.im.digest.take 8)
        ((s.placeImage p).logEv 0x0E20 7 s.firmwarePair [(8, d)]).finish c 0 d 0 io

def execLoadImage (k : Fin 64) (io : IoFail) (placeError : Bool) (s : State) : Host.Outcome State Fault Refusal :=
  .next (s.takeCommand k io (fun op => op == 1) [(8, 16)] (loadRun io placeError))

end Sys2Proof.Machine
end

