-- ==== Sys2Proof/Machine/Job.lean ====
section
/-! DEFINITION. BIND_STREAM, ARM and STOP (spec/02 R35–R36, spec/07 R203, R207, spec/13 R365–R367, spec/14 R409, spec/15 R430–R432,
R436), and what a job's start sets. -/
namespace Sys2Proof.Machine

/-! ## BIND_STREAM (R432) -/

def netPath (b : List Byte) : NetPath := ⟨fld b 0 1, fld b 1 1, fld b 2 2, slice b 4 6, fld b 0xA 2, fld b 0xC 2, slice b 0x10 16, slice b 0x20 16⟩

def bindingOf (b : List Byte) : Binding :=
  ⟨fld b 0 1, fld b 1 1, fld b 2 1, fld b 3 1, fld b 4 4, netPath (slice b 0x20 112), netPath (slice b 0x90 112)⟩

/-- Sub-ports of a port: 1, 2 or 4 by ETH_PORT_CFG.MODE (R365). -/
def EthPort.subs (p : EthPort) : Nat := [1, 2, 4].getD (bits p.cfg.toNat 1 0) 0

/-- The slot is in the image, and the ports' modes have the sub-ports. -/
def State.bindingOk (s : State) (b : Binding) : Bool :=
  match s.job.image.bind fun im => im.stream b.slot with
  | none => false
  | some st =>
    let subs (p : Nat) : Nat := (getOr s.net.ports p EthPort.reset).subs
    decide (b.subA < subs st.portA) && (if st.portB = 0xFF then b.subB == 0xFF else decide (b.subB < subs st.portB))

def bindRun (io : IoFail) (s : State) (c : Taken) : State :=
  let a := fld c.entry 8 8
  match s.job.state with
  | .none => s.finish c 9 0 0 io
  | .armed => s.finish c 1 0 0 io
  | _ =>
    if io.source || !s.outerOk a 256 then s.finish c 0x11 0 0 io
    else
      let b := bindingOf (s.mem.bytes a 256)
      let s := s.seeHbm 0x82 a 256
      if s.bindingOk b then
        (s.setJob { s.job with bindings := (s.job.bindings.filter fun x => x.slot != b.slot) ++ [b] }).finish c 0 0 0 io
      else s.finish c 4 0 0 io

def execBindStream (k : Fin 64) (io : IoFail) (s : State) : Host.Outcome State Fault Refusal :=
  .next (s.takeCommand k io (fun op => op == 2) [(8, 8)] (bindRun io))

/-! ## The start of a run -/

/-- The first absolute frame whose start count is at or after L (R36). -/
def firstFrame (num den l : Nat) : Nat := if l = 0 then 0 else (l - 1) * num / (1000000000 * den) + 1

def JobBlk.startRun (j : JobBlk) (l base : Nat) : JobBlk :=
  { j with
    state := .armed, launch := l, frame0 := firstFrame j.num j.den l, base, resumed := false, current := none, started := [], completed := [], stopAt := none
    stopping := false, snap := none, commits := [], marks := [], holdFrom := none, lateKeys := [], lateRecs := [], releasing := [] }

/-- What a stream slot keeps of an earlier run: its counters and its staging page. SEQ and the extended sequence number start at 0 at
ARM (R379, R385). -/
def Stream.startRun (t : Stream) : Stream := { Stream.reset with ctr := t.ctr, staging := t.staging }

/-- Channels of an earlier run are IDLE; counters and failing addresses stay. -/
def Engine.startRun (e : Engine) : Engine :=
  { e with ch := e.ch.map fun c => { Chan.reset with errAddr := c.errAddr }, owner := none, slice := 0, preempted := none }

/-- The paths of the bindings with their streams, ports and sub-ports (R432). -/
def State.boundPaths (s : State) : List (StreamBind × GroupJoin) :=
  s.job.bindings.flatMap fun b =>
    match s.job.image.bind fun im => im.stream b.slot with
    | some st => (st, ⟨st.portA, b.subA, b.a⟩) :: (if st.portB = 0xFF then [] else [(st, ⟨st.portB, b.subB, b.b⟩)])
    | none => []

/-- The module's own addresses: the egress sources and the unicast ingress destinations of its bindings (R367, R432). -/
def State.ownAddrs (s : State) : List (List Byte) :=
  (s.boundPaths.map fun p => if p.1.dir = 0 then p.2.path.dstIp else p.2.path.srcIp).filter fun a => !isGroup a

/-- The groups that the ingress bindings name (R367). -/
def State.bindGroups (s : State) : List GroupJoin := (s.boundPaths.filter fun p => p.1.dir == 0 && isGroup p.2.path.dstIp).map (·.2)

/-- The module joins its groups: one source-specific report for each (R367). -/
def State.joinGroups (s : State) : State :=
  let l := s.bindGroups
  l.foldl (fun (s : State) g => s.emit (.packet g.port g.sub s.time.ftb (groupReport g.port 5 g.path))) (s.setNet { s.net with joined := l })

/-- The windows of a link at ARM (R409). -/
def State.armLink (s : State) (u : Fin 6) : State :=
  let l := s.ur.links[u]
  let det (k : Nat) : Nat := match s.job.image with
    | some im => getOr im.hdr.detPc k 0
    | none => 0
  let good (b z : W64) : Bool := detRange det b.toNat z.toNat
  let on (b z : W64) : Bool := z != 0 && good b z
  let s := s.setUr { s.ur with links := upd s.ur.links u fun l =>
    { l with
      txOn := on l.txBase l.txSize, rxOn := on l.rxBase l.rxSize, txQueue := [], txSeen := [], rx := [], rxSeen := []
      owed := l.owed + l.rx.length } }
  let s := if l.txSize ≠ 0 ∧ good l.txBase l.txSize = false then s.logEv 0x0907 6 u.1 [(1, 0), (8, l.txBase.toNat)] else s
  if l.rxSize ≠ 0 ∧ good l.rxBase l.rxSize = false then s.logEv 0x0907 6 u.1 [(1, 1), (8, l.rxBase.toNat)] else s

/-- The deterministic pseudo-channels of a run: every bank is refreshed once before A_0 (R353). -/
def HbmCtl.startRun (h : HbmCtl) (a0 : Nat) : HbmCtl :=
  { h with
    mode := if h.mode = 1 ∧ h.detPc ≠ 0 then 2 else h.mode
    past := [], refreshed := [], reqs := [], flying := [], openAt := none
    armRefresh := if h.detPc = 0 then none else some (a0 - 280) }

/-- The state of a run from its launch count and its first job frame: sequencers, streams, links, mailboxes, HBM service and the Stamp
chain (R36, R207, R353, R367, R379, R385, R409, R441, R480). -/
def State.startRun (s : State) (l base : Nat) : State :=
  let s := s.setJob { s.job.startRun l base with armedAt := s.time.ftb }
  let s : State := { s with
    hbm := s.hbm.map (HbmCtl.startRun · (s.job.anchor 0))
    dma := s.dma.map Engine.startRun
    net := { s.net with slots := s.net.slots.map Stream.startRun }
    app := { s.app with ob := s.app.ob.map fun b => { b with written := 0, released := 0 } }
    stamp := { s.stamp with
      lanes := Vector.replicate 64 none, waiting := [], leaves := [], nodes := [], head := none, resumed := false, lastKey := none, params := []
      records := [], t40 := [] } }
  ((List.finRange 6).foldl State.armLink s).joinGroups

/-! ## ARM (R35, R203, R207) -/

/-- R35: L is a multiple of 10 and at least 1,000,000 ticks ahead. -/
def State.launchOk (s : State) (l : Nat) : Bool := l % 10 == 0 && decide (s.time.ftb + 1000000 ≤ l)

/-- Every stream slot of the image has been bound. -/
def JobBlk.allBound (j : JobBlk) (im : JobImage) : Bool := im.streams.all fun b => j.bindings.any fun x => x.slot == b.slot

def State.launchLate (s : State) (l : Nat) : State := s.logEv 0x010A 0 0 [(8, l), (8, s.time.ftb)]

def armRun (io : IoFail) (s : State) (c : Taken) : State :=
  let l := fld c.entry 8 8
  match s.job.state, s.job.image with
  | .loaded, some im =>
    if !s.job.allBound im then s.finish c 0x0A l 0 io
    else if !s.launchOk l then (s.launchLate l).finish c 0x0B l 0 io
    else
      let s := s.startRun l 0
      ((s.setFab { s.fab with regions := initRegions im, rowsDone := [], rowHits := [] }).logEv 0x0E22 7 s.firmwarePair [(8, l)]).finish c 0 l 0 io
  | .armed, _ => s.finish c 1 l 0 io
  | _, _ => s.finish c 9 l 0 io

def execArm (k : Fin 64) (io : IoFail) (s : State) : Host.Outcome State Fault Refusal :=
  .next (s.takeCommand k io (fun op => op == 3) [(8, 8)] (armRun io))

/-! ## STOP (R436) -/

def stopRun (io : IoFail) (s : State) (c : Taken) : State :=
  if s.job.state = .armed then
    { s with
      job := { s.job with stopAt := some (s.job.nextCommit s.time.ftb) }
      host := { s.host with held := s.host.held ++ [⟨7, c.ring, c.tag, c.ep, 0⟩] } }
  else s.finish c 0 0 0 io

def execStop (k : Fin 64) (io : IoFail) (s : State) : Host.Outcome State Fault Refusal :=
  .next (s.takeCommand k io (fun op => op == 7) [] (stopRun io))

/-- RELEASE instances that wait at A_n: placed before it and not complete. -/
def State.waitingReleases (s : State) (n : Nat) : List Inst :=
  ((s.upTo n).filter fun p => p.1.kind == 6 && decide (s.job.placed p.1 p.2 < s.job.anchor n) && !s.done p.2).map (·.2)

/-- R436: STOP_AT_ANCHOR, STOP takes effect at A_n. -/
def stopAnchorEffect (s : State) : State :=
  match s.job.stopAt with
  | none => s
  | some n =>
    if s.job.state ≠ .armed ∨ s.job.stopping = true then s
    else
      let s := s.reach (s.job.anchor n)
      let s := s.setJob { s.job with stopping := true, completed := s.waitingReleases n ++ s.job.completed }
      s.freeWaits.tryStop

def execStopAtAnchor (s : State) : Host.Outcome State Fault Refusal := .next (stopAnchorEffect s)

end Sys2Proof.Machine
end

