-- ==== Sys2Proof/Machine/Run.lean ====
section
/-! DEFINITION. Timetable instances of kinds WICK_START, RELEASE and MAILBOX_OUT (spec/06 R172, spec/08 R224, spec/01 R27,
spec/15 R441). -/
namespace Sys2Proof.Machine

/-! ## WICK_START (R224) -/

/-- Pending bits left when those of the lines routed to thread t are cleared. -/
def Wick.clearRouted (k : Wick) (t : Fin 4) : BitVec 16 :=
  (List.finRange 16).foldl (fun (b : BitVec 16) l => if irqThread k.irqSrc[l] == t.1 then b &&& ~~~(BitVec.ofNat 16 (2 ^ l.1)) else b) k.irqPend

/-- The primary bank becomes active (R224, R240). -/
def Thread.primary (th : Thread) : Thread :=
  if th.alt then { th with g := (bankSwap th.g th.shadowG).1, shadowG := (bankSwap th.g th.shadowG).2, alt := false } else th

/-- The thread as a WICK_START instance leaves it: ARG0 in the pc, ARG1[31:2] in g3. -/
def Thread.startAt (th : Thread) (arg0 arg1 ftb : Nat) (i : Inst) : Thread :=
  { th.primary with
    run := .running, pc := BitVec.ofNat 18 arg0, g := regSet th.primary.g 3 (BitVec.ofNat 64 (bits arg1 31 2)), stack := [], ie := false
    poison := false, poisonLog := false, ovfLog := false, buf := [], coming := [], victim := .none, rcw := none, started := some ftb
    inst := some i }

/-- W-cycles that have passed by the count of the quadrant's clock, as slots that no thread uses, when all four threads are at their halt
(R30, R37; log 61). -/
def Wick.catchUp (k : Wick) (now : Nat) : Wick :=
  if (List.finRange 4).all fun t => k.reachedHalt t then k.pass (now - k.wcyc) 0 else k

def Wick.startThread (k : Wick) (t : Fin 4) (arg0 arg1 ftb : Nat) (i : Inst) : Wick :=
  { k with threads := upd k.threads t fun th => th.startAt arg0 arg1 ftb i, irqPend := k.clearRouted t }

/-- The physical Wick serves, its thread has reached its halt, and no move is under way (R186, R212). -/
def State.threadFree (s : State) (w : WkId) (t : Fin 4) : Bool :=
  s.wick[w].reachedHalt t && s.wick[w].mode == .idle && !s.moving (wickBase w.1)

def wickStartEffect (i : Inst) (s : State) : State :=
  match (s.entryOf i).bind fun e => (s.rel.wkPhys e.unit).bind fun w => (toFin? 4 e.thread).map fun t => (w, t) with
  | none => s
  | some (w, t) =>
    if s.threadFree w t then s.startInst 4 i fun s e => s.setWick w fun k =>
      (k.catchUp (max (s.lFrom (w.1 / 13) (s.job.placed e i) + e.cycle) (s.lNow (w.1 / 13)))).startThread t (e.arg i.inst) e.arg1 s.time.ftb i else s

def execWickStart (i : Inst) (s : State) : Host.Outcome State Fault Refusal := .next (wickStartEffect i s)

/-! ## RELEASE (R172) -/

/-- The instances of an entry read the region of a reader (R172, R188). -/
def TtEntry.readsFor (im : JobImage) (e : TtEntry) (r : Nat × Nat) : Bool :=
  match r.1 with
  | 0 => e.kind == 5 && e.unit == r.2
  | 1 => (e.kind == 1 || e.kind == 2 || e.kind == 3) && e.unit == r.2
  | 2 => e.kind == 4 && e.unit == r.2
  | _ => e.kind == 0x11 && (match im.stream e.unit with | some b => b.portA == r.2 | none => false)

/-- Every row of an egress slot has been read: the first packet of each, with which the row is read, has left (R172; log 49). -/
def Stream.rowsRead (t : Stream) (e : TtEntry) (i : Inst) : Bool :=
  !t.lateRows.contains i &&
  !(t.due.any fun p => p.frame == i.frame && p.idx == 0 && decide (e.arg i.inst ≤ p.row ∧ p.row < e.arg i.inst + e.arg1))

/-- An instance has ended its reading of a region: it is complete, or it is an ST 2110-20 slot whose last row has been read (R172). -/
def State.hasRead (s : State) (im : JobImage) (e : TtEntry) (i : Inst) : Bool :=
  s.done i || (e.kind == 0x11 && s.job.started.contains i && match im.stream e.unit with
    | some b => b.dir == 1 && (getOr s.net.slots e.unit Stream.reset).rowsRead e i
    | none => false)

/-- Every instance that reads the region and is placed before this RELEASE, in its job frame or an earlier one, has ended its reading. -/
def State.readersDone (s : State) (im : JobImage) (g : Region) (e : TtEntry) (i : Inst) : Bool :=
  (s.upTo i.frame).all fun p =>
    !(g.readers.any (p.1.readsFor im) && decide (s.job.placed p.1 p.2 < s.job.placed e i)) || s.hasRead im p.1 p.2

/-- Earlier RELEASE instances of the region are complete; TT_SPAN lets instances of four later frames be placed before (R179). -/
def State.releasesDone (s : State) (e : TtEntry) (i : Inst) : Bool :=
  (s.upTo (i.frame + 4)).all fun p =>
    !(p.1.kind == 6 && p.1.arg p.2.inst == e.arg i.inst && s.job.before p.1 p.2 e i) || s.done p.2

/-- Granules that the instance has released so far. -/
def JobBlk.released (j : JobBlk) (i : Inst) : Nat :=
  match j.releasing.find? fun p => p.1 == i with
  | some p => p.2
  | none => 0

/-- Up to `n` granules leave the writer's window in ring order, as many as it holds. -/
def State.releaseSome (s : State) (region n total : Nat) : State :=
  s.setFab (s.fab.updRegion region fun r => (List.range (min n r.len)).foldl (fun r _ => r.release total) r)

/-- A credit returned to an inbound mailbox signals its source (R440, R442). -/
def State.creditSource (s : State) (region : Nat) : State :=
  match (List.range 16).find? fun m => s.ibRegion m == some region with
  | some m => s.irqSource (16 + m)
  | none => s

/-- Granules of the writer's window now. -/
def State.windowLen (s : State) (region : Nat) : Nat :=
  match s.fab.regions[region]? with
  | some r => r.len
  | none => 0

def State.releaseStep (s : State) (i : Inst) (e : TtEntry) (g : Region) : State :=
  let region := e.arg i.inst
  let gone := s.job.released i
  let k := min (e.arg1 - gone) (s.windowLen region)
  let t := if k = 0 then s else (s.releaseSome region k g.granules).creditSource region
  if gone + k = e.arg1 then
    ((t.setJob { t.job with releasing := t.job.releasing.filter fun p => p.1 != i }).completeInst i).tryStop
  else t.setJob { t.job with releasing := (t.job.releasing.filter fun p => p.1 != i) ++ [(i, gone + k)] }

/-- A RELEASE instance starts, and releases the granules that the window holds; a later command goes on with the rest. -/
def releaseEffect (i : Inst) (s : State) : State :=
  match s.job.image, s.entryOf i with
  | some im, some e =>
    match im.regions[e.arg i.inst]? with
    | none => s
    | some g =>
      if s.readersDone im g e i && s.releasesDone e i then
        if s.job.started.contains i then
          (if e.kind = 6 ∧ s.done i = false ∧ s.job.state = .armed then s.releaseStep i e g else s)
        else s.startInst 6 i fun s e => s.releaseStep i e g
      else s
  | _, _ => s

def execRelease (i : Inst) (s : State) : Host.Outcome State Fault Refusal := .next (releaseEffect i s)

/-! ## Outbound mailboxes (R27, R441) -/

def ObBox.slots (b : ObBox) : Nat := bits b.cfg.toNat 8 0

/-- ENABLE with 2 to 256 slots; other values of SLOTS disable the mailbox (R446). -/
def ObBox.enabled (b : ObBox) : Bool := bit b.cfg.toNat 31 && decide (2 ≤ b.slots ∧ b.slots ≤ 256)

/-- A slot is free and the path's buffer of 16 records is not full. -/
def State.slotFree (s : State) (m : Fin 16) : Bool :=
  let b := s.app.ob[m]
  b.enabled && decide ((b.written - b.released).toNat + (s.app.path.filter fun r => r.box == m).length < b.slots) && decide (s.app.path.length < 16)

/-- Number of the slot that the next record takes. -/
def State.nextSlot (s : State) (m : Fin 16) : Nat :=
  let b := s.app.ob[m]
  (b.written.toNat + (s.app.path.filter fun r => r.box == m).length) % max 1 b.slots

/-- The record is put into the path, and its rows are requested of their banks (R165, R441). -/
def State.takeSlot (s : State) (m : Fin 16) (i : Inst) (count row n : Nat) : State :=
  let rows := (List.range ((n + 511) / 512)).map fun j => (mapRow (row + j), 512 * j)
  let t := rows.foldl (fun (s : State) r => s.fabricRead 100 none r.1 (s.time.ftb / 10)) s
  t.setApp { t.app with path := t.app.path ++ [⟨m, s.nextSlot m, i, count, List.replicate n 0, rows⟩] }

/-- A row of the mailbox path arrives: the first record that still needs it takes its bytes; with its last row the instance is complete
(R441). -/
def State.mailRow (s : State) (a : Nat) (b : List Byte) : State :=
  match s.app.path.findSome? fun r => (r.rows.find? fun x => x.1 == a).map fun x => (r, x.2) with
  | none => s
  | some (r, o) =>
    let r' : ObRec := { r with rows := r.rows.erase (a, o), payload := (r.payload.take o ++ b ++ r.payload.drop (o + b.length)).take r.payload.length }
    let t := s.setApp { s.app with path := s.app.path.map fun x => if x == r then r' else x }
    if r'.rows = [] then (t.completeInst r.inst).tryStop else t

/-- R155, R165, R332, R441: MAP_STORE_BANK_GRANT. A granted write is in its row. The data of a read enters the requester's crossing 14
M-cycles after the grant; 13 M-cycles make an epoch tick. -/
def bankGrantEffect (bank : Fin 64) (s : State) : State :=
  let t := s.fab.grantAt bank
  match bankPick s.fab.banks[bank] t with
  | none => s
  | some r =>
    let s := s.setFab { s.fab with banks := upd s.fab.banks bank fun q => q.erase r, bankNext := upd s.fab.bankNext bank fun _ => t + 1 }
    let s := s.reach (t * 10 / 13)
    match r.write with
    | some w => ((s.writeRow w.addr w.mask w.data w.tag w.poison).countRow w.addr).acceptedAt w t
    | none =>
      let (u, d) := s.readRow r.addr
      if r.port = 100 then u.mailRow r.addr (rowBytes d.data)
      else u.setFab (u.fab.put 0x7F r.port ⟨(t + 14) / 13, r.chan, r.addr, d.data, d.tag, d.poison, t + 14, false⟩)

def execMapStoreBankGrant (bank : Fin 64) (s : State) : Host.Outcome State Fault Refusal := .next (bankGrantEffect bank s)


def mailboxOutEffect (i : Inst) (s : State) : State :=
  s.startInst 7 i fun s e =>
    match toFin? 16 e.unit with
    | none => s
    | some m =>
      if s.slotFree m then s.takeSlot m i (s.job.placed e i) (e.arg i.inst) e.arg1
      else ((s.logAt (s.job.placed e i) 0x0A11 0 0 [(1, m.1), (8, i.frame)]).completeInst i).tryStop

def execMailboxOut (i : Inst) (s : State) : Host.Outcome State Fault Refusal := .next (mailboxOutEffect i s)

/-- The header of an outbound record (R441). -/
def ObRec.header (r : ObRec) (seq : Nat) : List Byte :=
  leBytes 4 seq ++ leBytes 4 r.payload.length ++ leBytes 8 r.inst.frame ++ leBytes 8 r.count ++ leBytes 4 r.inst.entry ++ leBytes 4 r.inst.inst ++
  List.replicate 32 0

/-- MAILBOX_RECORD_WRITE (R441): payload, header, OB_WRITTEN and source m. Bytes for memory that does not answer are lost (log 39). -/
def recordWriteEffect (s : State) : State :=
  match s.app.path with
  | [] => s
  | r :: rest =>
    if r.rows ≠ [] then s
    else
    let b := s.app.ob[r.box]
    let a := b.base.toNat + 4160 * r.slot
    let seq := b.written + 1
    let s := s.setApp { s.app with path := rest, ob := upd s.app.ob r.box fun b => { b with written := seq } }
    let s := if s.outerOk a 4160 then s.setMem ((s.mem.storeOuter (a + 64) r.payload).storeOuter a (r.header seq.toNat)) else s
    s.irqSource r.box.1

def execMailboxRecordWrite (s : State) : Host.Outcome State Fault Refusal := .next (recordWriteEffect s)

end Sys2Proof.Machine
end

