-- ==== Sys2Proof/Machine/Dma.lean ====
section
/-! DEFINITION. The DMA engines (spec/11 R327–R348): arbitration, the step, waits, bus errors, descriptors and halted transfers; credit
waits of the row memories (R171, R173). -/
namespace Sys2Proof.Machine

/-! ## Credit waits (R171, R173) -/

/-- Writes wait no more: STOP has taken effect, or no job is armed (R436). -/
def State.freely (s : State) : Bool := s.job.stopping || s.job.state != .armed

/-- The channel that writes a region and waits for its credit, with the device address of its next write. -/
def State.waitingChan (s : State) (region : Nat) : Option (Fin 4 × Fin 32 × Nat) :=
  match s.regionList[region]? with
  | none => none
  | some g =>
    if g.writerKind != 0 then none
    else
      (toFin? 4 (g.writer / 32)).bind fun e => (toFin? 32 (g.writer % 32)).bind fun c =>
        let x := s.dma[e].ch[c]
        match s.nextWrite x with
        | some a => if x.wait == .credit && s.regionAt a == some region then some (e, c, a) else none
        | none => none

/-- The write that a channel would make at an address, as the credits see it. -/
def chanWrite (e : Fin 4) (c : Fin 32) (a : Nat) : RowWrite := ⟨88 + e.1, some c, a, 0, 0, 0, false⟩

/-- R163, R171, R342, R436: of the writes that wait for a region, the oldest that no earlier write of its writer precedes takes the credit
that has returned and is presented to its memory, unless its unit is under a move (R212); a DMA channel leaves its credit wait, and its
next step takes the credit with its write. -/
def creditWaitEndEffect (region : Nat) (eng : EngineUse) (s : State) : State :=
  match s.fab.nextWait region with
  | some c =>
    if s.moving c.write.addr || s.portWaits c.write.addr 512 true then s
    else
      let (t, ok) := if s.freely then (s, true) else s.takeCredits region c.write
      if ok then (((t.setFab { t.fab with waits := t.fab.waits.erase c }).countWait c.write.addr c.counted).presentWrite c.write eng).acceptedAt
          c.write (mCycle s.time.ftb)
      else t
  | none =>
    match s.waitingChan region with
    | none => s
    | some (e, c, a) =>
      let (t, ok) := if s.freely then (s, true) else s.takeCredits region (chanWrite e c a)
      if ok then (s.countWait a s.dma[e].ch[c].counted).setChan e c fun x => { x with wait := .none } else t

def execCreditWaitEnd (c : CreditGrant) (s : State) : Host.Outcome State Fault Refusal :=
  .next (creditWaitEndEffect c.region c.eng s)

/-- CREDIT_STALL at the end of a wait of 1,000,000 ticks. -/
def State.logStall (s : State) (region a port : Nat) : State :=
  let u := memUnit a
  s.logEv 0x0403 u.1 u.2 [(1, (memNo a).getD 0), (4, region), (1, port)]

/-- The inbound mailbox whose store waits for a credit of the region and has logged no stall yet, with the wait. -/
def State.waitingIb (s : State) (region : Nat) : Option (Fin 16 × IbWait) :=
  (List.finRange 16).findSome? fun i =>
    if s.ibRegion i.1 = some region then ((s.app.ib[i]).waiting.find? fun w => !w.logged).map fun w => (i, w) else none

/-- R173: a wait of 1,000,000 ticks logs once: of a write held at a memory's port, of a channel, or of a store to IB_SEND. -/
def creditStallEffect (region : Nat) (s : State) : State :=
  match s.fab.waits.find? fun c => c.region == region && !c.logged with
  | some c =>
    let t := s.reach (c.since + 1000000)
    (t.setFab { t.fab with waits := t.fab.waits.map fun d => if d == c then { d with logged := true } else d }).logStall region c.write.addr
      c.write.port
  | none =>
    match s.waitingChan region with
    | none =>
      (match s.waitingIb region with
       | none => s
       | some (i, w) =>
         ((s.reach (w.since + 1000000)).updIb i fun b =>
           { b with waiting := b.waiting.map fun v => if v == w then { v with logged := true } else v }).logStall region mapBase 100)
    | some (e, c, a) =>
      if s.dma[e].ch[c].waitLog then s
      else ((s.reach (s.dma[e].ch[c].waitSince + 1000000)).setChan e c fun x => { x with waitLog := true }).logStall region a (88 + e.1)

def execCreditStall (region : Nat) (s : State) : Host.Outcome State Fault Refusal := .next (creditStallEffect region s)

/-! ## Descriptors (R332, R339, R342, R345) -/

def waitRegion (w : Nat) : Nat := bits w 31 20
def waitBuf (w : Nat) : Nat := bits w 19 19
def waitRow (w : Nat) : Nat := bits w 18 0

/-- A descriptor becomes current (R332, R339, R342). -/
def Chan.make (c : Chan) (ix : Nat) (d : DmaDesc) (held : Bool) (ftb : Nat) : Chan :=
  { c with
    descIx := ix, cur := d, srcDone := 0, dstDone := 0, hold := [], blocks := [], asked := 0, retries := 0, pace := 256, refused := none, redo := 0
    wait := if held then .rows else .none, waitSince := ftb, waitLog := false }

/-- The descriptor waits for an image row whose completion counter does not exceed it yet. -/
def State.rowHeld (s : State) (d : DmaDesc) : Bool := bit d.waitEn 0 && decide (s.fab.rowCount (waitRegion d.wait) (waitBuf d.wait) ≤ waitRow d.wait)

def State.descAt (s : State) (list ix : Nat) : Option DmaDesc := (s.job.image.bind fun im => im.dma[list]?).bind fun l => l[ix]?

/-- The descriptor steps from M-cycle `first` on (R185, R332). -/
def State.makeCurrent (s : State) (e : Fin 4) (c : Fin 32) (ix : Nat) (d : DmaDesc) (first : Nat) : State :=
  s.setChan e c fun x => { x.make ix d (s.rowHeld d) s.time.ftb with from_ := first }

/-- DMA_START (R185, R332). -/
def dmaStartEffect (i : Inst) (s : State) : State :=
  match (s.entryOf i).bind fun t => (toFin? 4 (t.unit / 32)).bind fun e => (toFin? 32 (t.unit % 32)).map fun c => (e, c) with
  | none => s
  | some (e, c) =>
    if s.dma[e].ch[c].state != .idle then s
    else s.startInst 5 i fun s t =>
      match s.descAt (t.arg i.inst) 0 with
      | none => (s.completeInst i).tryStop
      | some d =>
        (s.setChan e c fun x => { Chan.reset with state := .running, list := t.arg i.inst, inst := some i, errAddr := x.errAddr }).makeCurrent e c 0 d
          (13 * (s.job.placed t i / 10) + t.cycle)

def execDmaStart (i : Inst) (s : State) : Host.Outcome State Fault Refusal := .next (dmaStartEffect i s)

/-- No write of the channel is still on its way to its memory. -/
def State.writesAccepted (s : State) (e : Fin 4) (c : Fin 32) : Bool :=
  let mine (w : RowWrite) : Bool := dmaChan w == some (e, c)
  !(s.fab.held.any mine) && !(s.fab.waits.any fun w => mine w.write) &&
  !(s.fab.banks.toList.any fun q => q.any fun r => match r.write with | some w => mine w | none => false) &&
  !(s.hbm.toList.any fun h => h.reqs.any fun r => r.port == 88 + e.1 && r.chan == some c && r.write.isSome)

/-- End of count (R345): the pending bit, and each Wick line of KIND 1 that names the channel. -/
def State.endOfCount (s : State) (e : Fin 4) (c : Fin 32) : State :=
  let s := s.setEng e fun g => { g with eocPend := g.eocPend ||| BitVec.ofNat 32 (2 ^ c.1) }
  { s with wick := s.wick.map fun k => k.raiseIrq fun _ src => irqKind src == 1 && bits src.toNat 6 0 == 32 * e.1 + c.1 }

/-- DMA_DESCRIPTOR_COMPLETE (R332, R345): the next descriptor becomes current, or the instance is complete. -/
def descriptorCompleteEffect (e : Fin 4) (c : Fin 32) (s : State) : State :=
  let x := s.dma[e].ch[c]
  if x.state != .running || decide (x.dstDone < x.cur.dstTotal) || !s.writesAccepted e c then s
  else
    let s := if bit x.cur.ctrl 2 then s.endOfCount e c else s
    match s.descAt x.list (x.descIx + 1) with
    | some d => s.makeCurrent e c (x.descIx + 1) d (x.accAt + 1)
    | none =>
      let t := s.setChan e c fun x => { x with state := .idle, wait := .none, hold := [], blocks := [] }
      match x.inst with
      | some i => ((t.setChan e c fun x => { x with inst := none }).completeInst i).tryStop
      | none => t

def execDmaDescriptorComplete (e : Fin 4) (c : Fin 32) (s : State) : Host.Outcome State Fault Refusal := .next (descriptorCompleteEffect e c s)

/-! ## Row-completion waits (R155, R342) -/

def dmaRowWaitEndEffect (e : Fin 4) (c : Fin 32) (s : State) : State :=
  let x := s.dma[e].ch[c]
  let w := x.cur.wait
  if x.wait = .rows ∧ waitRow w < s.fab.rowCount (waitRegion w) (waitBuf w) then s.setChan e c fun x => { x with wait := .none } else s

def execDmaRowWaitEnd (e : Fin 4) (c : Fin 32) (s : State) : Host.Outcome State Fault Refusal := .next (dmaRowWaitEndEffect e c s)

def dmaWaitStallEffect (e : Fin 4) (c : Fin 32) (s : State) : State :=
  let x := s.dma[e].ch[c]
  let w := x.cur.wait
  if x.wait != .rows || x.waitLog then s
  else ((s.reach (x.waitSince + 1000000)).setChan e c fun x => { x with waitLog := true }).logEv 0x0603 3 e.1
    [(1, c.1), (2, waitRegion w), (1, waitBuf w), (4, waitRow w)]

def execDmaWaitStall (e : Fin 4) (c : Fin 32) (s : State) : Host.Outcome State Fault Refusal := .next (dmaWaitStallEffect e c s)

/-! ## Read requests (R336, R338) -/

/-- Blocks whose last source beat has been performed are freed in the step after it. -/
def Chan.free (c : Chan) : Chan := { c with blocks := c.blocks.filter fun b => !(b.back && decide (b.last ≤ c.srcDone)) }

/-- The first source beat from b on that lies in another block than `blk`, looking at n beats. -/
def runEnd (d : DmaDesc) (blk b : Nat) : Nat → Nat
  | 0 => b
  | n + 1 => if rowBase (d.srcAt b).toNat = blk then runEnd d blk (b + 1) n else b

/-- The channel can issue a request: for a block whose request failed, or for the next run with fewer than 16 blocks held. -/
def Chan.canAsk (c : Chan) : Bool := (c.blocks.any fun b => b.again) || (decide (c.blocks.length < 16) && decide (c.asked < c.cur.srcTotal))

/-- The request goes to the target of a block; false where none claims the address. A Lantern or a Wick takes it in the 4th cycle after the
next epoch tick, and its row, 6 cycles later, leaves in that tick's interval (R38, R157, R338). -/
def State.chanRead (s : State) (e : Fin 4) (c : Fin 32) (a : Nat) : State × Bool :=
  let port := 88 + e.1
  let next := s.time.ftb / 10 + 1
  match place a with
  | .map _ | .lan _ _ | .vec _ _ => (s.fabricRead port (some c) a next, true)
  | .local_ w _ | .taperX w _ | .taperY w _ =>
    match toFin? 52 w with
    | some k =>
      let (t, b, bad) := (s.usePort k (a - wickBase w) 512).localRead k (a - wickBase w) 512
      (t.cross (islandOf a) port next (some c) a ⟨rowOf b, 0, bad⟩, true)
    | none => (s, false)
  | .hbm st off =>
    if s.hbmDet a then (s.hbmArrive st ⟨port, some c, hbmPc off, hbmBlk off, none, 0, 0, false⟩, true)
    else
      let (t, d) := s.readBlock a port
      (t.cross 0x7F port (s.time.ftb / 10) (some c) a d, true)
  | _ => (s, false)

/-- A request is issued again, or the next run is requested; one to a unit under a move is held (R212, R335). -/
def State.ask (s : State) (e : Fin 4) (c : Fin 32) : State :=
  let x := s.dma[e].ch[c]
  if (s.nextRead x).any s.moving && x.canAsk then s.setChan e c fun x => { x with wait := .move }
  else
  match x.blocks.find? fun b => b.again with
  | some b =>
    let t := s.setChan e c fun x => { x with blocks := x.blocks.map fun q => if q == b then { q with again := false } else q }
    (t.chanRead e c b.addr).1
  | none =>
    if !x.canAsk then s
    else
      let a := (x.cur.srcAt x.asked).toNat
      let last := runEnd x.cur (rowBase a) x.asked (x.cur.srcTotal - x.asked)
      let blk := (s.imageAddr (rowBase a)).getD (2 ^ 48)
      let t := s.setChan e c fun x => { x with blocks := x.blocks ++ [⟨blk, last, false, false, 0, 0, false⟩], asked := last }
      match t.chanRead e c blk with
      | (u, true) => u
      | (u, false) => u.setChan e c fun x => { x with wait := .retry, refused := some (false, blk) }

/-- Data that has arrived for a block: released by its crossing, or, from the map store, whose island the engine shares, granted (R338). -/
def FabBlk.arrived (f : FabBlk) (port : Nat) (chan : Fin 32) (a : Nat) : Option (Nat × XItem) :=
  let fits (x : XItem) : Bool := x.chan == some chan && x.addr == a
  f.cross.findSome? fun c =>
    if c.dst != port then none
    else
      match c.taken.find? fits with
      | some x => some (c.src, x)
      | none => if mapBase ≤ a ∧ a < mapBase + 0x10000000 then (c.items.find? fits).map fun x => (c.src, x) else none

def FabBlk.takeItem (f : FabBlk) (src dst : Nat) (x : XItem) : FabBlk :=
  { f with cross := f.cross.map fun c =>
      if c.src == src && c.dst == dst then (if c.taken.contains x then { c with taken := c.taken.erase x } else { c with items := c.items.erase x })
      else c }

/-- The first n elements of a list, with a block's contents put into the block that waits for it. -/
def Block.fill (b : Block) (x : XItem) : Block := { b with back := true, data := x.data, tag := x.tag, poison := x.poison }

/-! ## Beats (R336–R337) -/

/-- The beats of one step: the holding register, beats performed, and the destination beats' logical addresses with their bytes. -/
structure Beats where
  hold : List (Byte × Byte × Bool)
  src  : Nat
  dst  : Nat
  out  : List (Nat × List (Byte × Byte × Bool))
deriving DecidableEq, Repr

/-- Bytes of the next source beat, with the tag and poison of its block; none while it cannot be performed. -/
def Chan.srcBeat (c : Chan) (b : Beats) : Option (List (Byte × Byte × Bool)) :=
  match c.blocks with
  | [] => none
  | k :: _ =>
    let i := c.srcDone + b.src
    if k.back && decide (i < k.last) && decide (b.src < 8) && decide (b.hold.length + c.cur.srcW ≤ 128) then
      some ((slice (rowBytes k.data) ((c.cur.srcAt i).toNat % 512) c.cur.srcW).map fun x => (x, k.tag, k.poison))
    else none

/-- Address of the next destination beat, while it can be performed; a request issued again has the beats that it had (R343). -/
def Chan.dstBeat (c : Chan) (b : Beats) : Option Nat :=
  let i := c.dstDone + b.dst
  let a := (c.cur.dstAt i).toNat
  if decide (i < c.cur.dstTotal) && decide (b.dst < if c.redo = 0 then 8 else c.redo) && decide (c.cur.dstW ≤ b.hold.length) &&
      (match b.out with | o :: _ => rowBase o.1 == rowBase a | [] => true) then some a
  else none

/-- Source and destination beats in byte-stream order, a destination beat as soon as it can be performed. -/
def Chan.beats (c : Chan) (write : Bool) : (fuel : Nat) → Beats → Beats
  | 0, b => b
  | n + 1, b =>
    match (if write then c.dstBeat b else none) with
    | some a => c.beats write n { b with hold := b.hold.drop c.cur.dstW, dst := b.dst + 1, out := b.out ++ [(a, b.hold.take c.cur.dstW)] }
    | none =>
      match c.srcBeat b with
      | some l => c.beats write n { b with hold := b.hold ++ l, src := b.src + 1 }
      | none => b

def Chan.stepBeats (c : Chan) (write : Bool) : Beats := c.beats write 16 ⟨c.hold, 0, 0, []⟩

def Chan.took (c : Chan) (b : Beats) : Chan := { c with hold := b.hold, srcDone := c.srcDone + b.src, dstDone := c.dstDone + b.dst }

/-! ## Write requests (R340–R341) -/

/-- Bytes laid over a block at their offsets. -/
def overlay (blk : List Byte) (out : List (Nat × List (Byte × Byte × Bool))) : List Byte :=
  out.foldl (fun b o => b.take (o.1 % 512) ++ (o.2.map (·.1)) ++ b.drop (o.1 % 512 + o.2.length)) blk

/-- Sectors that a request selects. -/
def sectorMask (out : List (Nat × List (Byte × Byte × Bool))) : BitVec 16 :=
  out.foldl (fun (m : BitVec 16) o => (parts o.1 o.2.length 32).foldl (fun m i => m ||| BitVec.ofNat 16 (2 ^ i)) m) 0

/-- The tag of a write request into the row at a logical address (R340). -/
def DmaDesc.tagOf (d : DmaDesc) (a : Nat) (first : Byte) : Byte :=
  match d.tagMode with
  | 0 => first
  | 1 =>
    let r : Int := ((rowBase a : Nat) : Int) / 512 - ((rowBase d.dst : Nat) : Int) / 512
    BitVec.ofNat 8 (d.tag + (((d.tagRow0 : Int) + r) % (max 1 d.tagPStride : Nat)).toNat / max 1 d.tagRows)
  | _ => BitVec.ofNat 8 d.tag

/-- What a write request needs before its beats are performed: ready, a credit wait, the end of a move, or nothing serves the address. -/
inductive WriteNeed where
  | ready | credit | move | none
deriving DecidableEq, Repr

/-- The link's transmit queue of 1,024 blocks has room for a further write of a whole block (R410). -/
def State.txRoom (s : State) (a : Nat) : Bool :=
  match s.txLink a with
  | none => true
  | some (u, _) =>
    let l := s.ur.links[u]
    let waiting := (s.hbm.toList.map fun h => (h.reqs.filter fun r => r.write.isSome && decide (88 ≤ r.port ∧ r.port < 92)).length).sum
    decide (l.txQueue.length + waiting < 1024)

/-- Credits for a write into a row memory, and room for a block of a transmit window (R342, R410). -/
def State.writeNeed (s : State) (e : Fin 4) (c : Fin 32) (a : Nat) : State × WriteNeed :=
  if s.moving a then (s, .move)
  else
  match place a with
  | .map _ | .lan _ _ | .vec _ _ =>
    let w := chanWrite e c a
    if s.freely || !s.mayWrite w then (s, .ready)
    else
      match s.takeCredits ((s.regionAt a).getD 0) w with
      | (t, true) => (t, .ready)
      | (t, false) => (t, .credit)
  | .hbm _ _ => (s, if s.hbmDet a && !s.txRoom a then .credit else .ready)
  | .none => (s, .none)
  | _ => (s, .ready)

/-- The request at its target: the device address of the block, the beats, tag and poison. The Bool is false for an error response. -/
def State.dmaPut (s : State) (e : Fin 4) (c : Fin 32) (eng : EngineUse) (blk : Nat) (out : List (Nat × List (Byte × Byte × Bool))) (tag : Byte)
    (poison : Bool) : State × Bool :=
  let port := 88 + e.1
  let data := rowOf (overlay (List.replicate 512 0) out)
  match place blk with
  | .map _ | .lan _ _ | .vec _ _ => s.fabricWrite ⟨port, some c, blk, sectorMask out, data, tag, poison⟩ eng
  | .local_ w _ | .taperX w _ | .taperY w _ =>
    match toFin? 52 w with
    | some k => out.foldl (fun (r : State × Bool) o =>
        if r.2 then r.1.localFabric k port (blk + o.1 % 512 - wickBase w) 0 (some (o.2.map (·.1))) else r) (s, true)
    | none => (s, false)
  | .hbm st off =>
    let frame := match (s.dma[e].ch[c]).inst with | some i => i.frame | none => 0
    let w := (sectorMask out, data, poison)
    if s.hbmDet blk then (s.hbmArrive st ⟨port, some c, hbmPc off, hbmBlk off, some w, frame, 0, false⟩, true)
    else (s.setMem (s.mem.writeSectors blk w.1 data poison), true)
  | _ => (s, false)

/-- The first write with poison of an instance logs DMA_POISON_COPIED (R341). -/
def State.copyPoison (s : State) (e : Fin 4) (c : Fin 32) (a : Nat) : State :=
  let x := s.dma[e].ch[c]
  if x.poisonLog then s
  else (s.setChan e c fun x => { x with poisonLog := true }).logEv 0x0602 3 e.1 [(1, c.1), (4, x.list), (2, x.descIx), (8, a)]

/-- The beats of the owner's step and their write request. A request that waits for a credit, or that the target refuses, leaves the
step without destination beats (R342, R343). -/
def State.performBeats (s : State) (e : Fin 4) (c : Fin 32) (eng : EngineUse) : State :=
  let x := s.dma[e].ch[c]
  let b := x.stepBeats true
  let dry (s : State) (wait : ChWait) (bad : Option (Bool × Nat)) : State :=
    s.setChan e c fun x => { (x.took (x.stepBeats false)) with
      wait, refused := bad, redo := if bad.isSome then b.dst else x.redo, waitSince := s.time.ftb, waitLog := false, counted := s.time.ftb }
  match b.out with
  | [] => s.setChan e c fun x => x.took b
  | o :: _ =>
    let a := (s.imageAddr o.1).getD (2 ^ 48)
    let blk := (s.imageAddr (rowBase o.1)).getD (2 ^ 48)
    match s.writeNeed e c a with
    | (t, .credit) => dry t .credit none
    | (t, .move) => dry t .move none
    | (t, .none) => dry t .retry (some (true, a))
    | (t, .ready) =>
      let poison := b.out.any fun o => o.2.any fun y => y.2.2
      let first := match o.2 with | y :: _ => y.2.1 | [] => 0
      match t.dmaPut e c eng blk b.out (x.cur.tagOf o.1 first) poison with
      | (u, false) => dry u .retry (some (true, a))
      | (u, true) =>
        let u := if poison then u.copyPoison e c a else u
        let held := u.fab.held.any fun w => dmaChan w == some (e, c)
        u.setChan e c fun x => { (x.took b) with wait := if held then .collision else .none, redo := 0, accAt := s.dma[e].mcyc }

/-! ## Arbitration (R333–R335, R339) -/

/-- A wait for a move ends with it (R212), a credit wait for room in a link's transmit queue with the room. -/
def State.waitOver (s : State) (x : Chan) : Bool :=
  x.wait == .none || (x.wait == .move && !s.chanMoves x) || (x.wait == .credit && (s.freely || (match s.imageAddr (x.cur.dstAt x.dstDone).toNat with
    | some a => (match place a with | .hbm _ _ => s.txRoom a | _ => false)
    | none => false)))

/-- Eligible but for pacing (R335). -/
def State.couldStep (s : State) (x : Chan) : Bool :=
  let y := x.free
  x.state == .running && s.waitOver x && !s.chanPorts y && (y.canAsk || (y.dstBeat ⟨y.hold, 0, 0, []⟩).isSome || (y.srcBeat ⟨y.hold, 0, 0, []⟩).isSome)

/-- M-cycles from the engine's last step until a channel that could step is not held back by its pace. -/
def Chan.paceWait (c : Chan) (gone : Nat) : Nat :=
  if c.paced then (256 - c.paceAfter gone + c.cur.share) / (c.cur.share + 1) else 0

def Engine.prio (g : Engine) (c : Fin 32) : Bool := bit g.ch[c].cur.ctrl 0

/-- The next channel after the last owner of a class, with wrap-around (R333). -/
def nextChan (last : Nat) (p : Fin 32 → Bool) : Option (Fin 32) :=
  ((List.range 32).filterMap fun d => toFin? 32 ((last + 1 + d) % 32)).find? p

/-- A channel takes a new slice of its class. -/
def Engine.give (g : Engine) (c : Fin 32) : Engine :=
  if g.prio c then { g with owner := some c, slice := 0, lastHigh := c.1 } else { g with owner := some c, slice := 0, lastLow := c.1 }

/-- The owner of the M-cycle among the eligible channels (R333, R334). -/
def Engine.arbitrate (g : Engine) (elig : Fin 32 → Bool) : Option (Engine × Fin 32) :=
  let hi (c : Fin 32) : Bool := elig c && g.prio c
  let lo (c : Fin 32) : Bool := elig c && !g.prio c
  let fresh (g : Engine) (last : Nat) (p : Fin 32 → Bool) : Option (Engine × Fin 32) := (nextChan last p).map fun c => (g.give c, c)
  if (List.finRange 32).any hi then
    match g.owner with
    | some o =>
      if hi o then some (g, o)
      else if lo o then fresh { g with preempted := some o, preempt := satInc g.preempt } g.lastHigh hi
      else fresh g g.lastHigh hi
    | none => fresh g g.lastHigh hi
  else
    let low (g : Engine) : Option (Engine × Fin 32) :=
      match g.preempted with
      | some p => if lo p then some ({ g with owner := some p, slice := 0, preempted := none }, p) else fresh { g with preempted := none } g.lastLow lo
      | none => fresh g g.lastLow lo
    match g.owner with
    | some o => if lo o then some (g, o) else low g
    | none => low g

/-- The engine comes to M-cycle m: the pacing accumulators have grown, and a slice is lost where M-cycles passed without a step. -/
def Engine.toCycle (g : Engine) (m : Nat) : Engine :=
  { g with
    mcyc := m, owner := if g.mcyc + 1 < m then none else g.owner
    ch := g.ch.map fun c => if c.state = .running ∧ c.paced = true then { c with pace := c.paceAfter (m - g.mcyc) } else c }

/-- A step of the owner's slice ends: 16 steps end the slice, and a paced step costs 256. -/
def Engine.stepped (g : Engine) (c : Fin 32) : Engine :=
  { g with
    slice := (g.slice + 1) % 16, owner := if g.slice + 1 = 16 then none else g.owner
    ch := upd g.ch c fun x => if x.paced then { x with pace := x.pace - 256 } else x }

/-- The M-cycle of the engine's next step as things stand: the first in which a channel is eligible (R335, R339). -/
def State.nextCycle (s : State) (e : Fin 4) : Option Nat :=
  let g := s.dma[e]
  let m0 := max (g.mcyc + 1) (mCycle s.time.ftb)
  (((List.finRange 32).filter fun c => s.couldStep g.ch[c]).map fun c =>
    max (m0 + g.ch[c].paceWait (m0 - g.mcyc)) g.ch[c].from_).min?

/-- A channel's wait ends at its step; a credit wait is counted up to it (R173, R342). -/
def State.endWait (s : State) (e : Fin 4) (c : Fin 32) : State :=
  let x := s.dma[e].ch[c]
  let t := if x.wait = .credit then (match s.nextWrite x with | some a => s.countWait a x.counted | none => s) else s
  t.setChan e c fun x => { x.free with wait := .none }

/-- DMA_STEP (R333–R341): the next M-cycle in which a channel is eligible, and its owner's step. -/
def dmaStepEffect (e : Fin 4) (eng : EngineUse) (s : State) : State :=
  match s.nextCycle e with
  | none => s
  | some m =>
    let h := s.dma[e].toCycle m
    match h.arbitrate fun c => s.couldStep s.dma[e].ch[c] && decide (h.ch[c].from_ ≤ m) && (!h.ch[c].paced || h.ch[c].pace == 256) with
    | none => s
    | some (h, c) =>
      let s := (s.reach (m * 10 / 13)).setEng e fun _ => h
      let s := (s.endWait e c).ask e c
      let s := if s.dma[e].ch[c].wait = .none then s.performBeats e c eng else s
      s.setEng e fun g => g.stepped c

def execDmaStep (e : Fin 4) (eng : EngineUse) (s : State) : Host.Outcome State Fault Refusal := .next (dmaStepEffect e eng s)

/-! ## Returned blocks (R338) -/

/-- The M-cycle in which an engine can use arrived data: the one after it enters the engine, from the map store 14 M-cycles after the grant,
through a crossing in the 4th M-cycle of its release (R38, R165, R338). -/
def XItem.usableAt (x : XItem) : Nat := (if x.mcyc = 0 then 13 * (x.tick + 1) + 4 else x.mcyc) + 1

/-- M-cycles up to m pass without a step. -/
def Engine.idleTo (g : Engine) (m : Nat) : Engine := if g.mcyc < m then { g.toCycle m with owner := none } else g

/-- DMA_BLOCK_RETURNED (R338): the oldest requested block whose data has arrived becomes usable, once no channel can step before the
M-cycle in which it does (log 47). -/
def blockReturnedEffect (e : Fin 4) (c : Fin 32) (s : State) : State :=
  match (s.dma[e].ch[c]).blocks.findSome? fun b =>
      if b.back || b.again then none else (s.fab.arrived (88 + e.1) c b.addr).map fun p => (b, p.1, p.2) with
  | none => s
  | some (b, src, x) =>
    if ((s.nextCycle e).map fun n => decide (n < x.usableAt)) = some true then s
    else
      let s := (s.reach (x.usableAt * 10 / 13)).setEng e fun g => g.idleTo (x.usableAt - 1)
      (s.setFab (s.fab.takeItem src (88 + e.1) x)).setChan e c fun q =>
        { q with blocks := q.blocks.map fun k => if k.last = b.last then k.fill x else k }

def execDmaBlockReturned (e : Fin 4) (c : Fin 32) (s : State) : Host.Outcome State Fault Refusal := .next (blockReturnedEffect e c s)

/-! ## Bus errors (R343) and halted transfers (R344) -/

/-- The error response answers a request of the channel: one that the memory refused, or a read still in flight. -/
def Chan.erred (c : Chan) (write : Bool) (addr : Nat) : Bool :=
  c.refused == some (write, addr) || (!write && c.blocks.any fun b => !b.back && b.addr == addr)

/-- A retry: the same request is issued again in the channel's next step. -/
def Chan.retry (c : Chan) (write : Bool) (addr : Nat) : Chan :=
  { c with
    refused := none, wait := .none, retries := c.retries + 1
    blocks := if write then c.blocks else c.blocks.map fun b => if !b.back && b.addr == addr then { b with again := true } else b }

/-- DMA_BUS_ERROR (R343): a retry, or the channel halts. -/
def busErrorEffect (e : Fin 4) (c : Fin 32) (write : Bool) (addr : Nat) (s : State) : State :=
  let x := s.dma[e].ch[c]
  if x.state != .running || !x.erred write addr then s
  else if x.retries < x.cur.retry then
    (s.setEng e fun g => { g with retryCnt := satInc g.retryCnt }).setChan e c fun x => x.retry write addr
  else
    (s.setChan e c fun x => { x with state := .halted, wait := .none, refused := none, errAddr := addr }).logEv 0x0601 3 e.1
      [(1, c.1), (4, x.list), (2, x.descIx), (1, if write then 1 else 0), (8, addr)]

def execDmaBusError (e : Fin 4) (c : Fin 32) (write : Bool) (addr : Nat) (s : State) : Host.Outcome State Fault Refusal :=
  .next (busErrorEffect e c write addr s)

/-- Logical addresses of the destination rows with a byte still unwritten: of the current descriptor from its next beat on, and of the
descriptors after it (R344). -/
def State.unwritten (s : State) (x : Chan) : List Nat :=
  let rowsOf (d : DmaDesc) (from_ : Nat) : List Nat := (List.range (d.dstTotal - from_)).map fun i => rowBase (d.dstAt (from_ + i)).toNat
  let rest := match s.job.image.bind fun im => im.dma[x.list]? with
    | some l => l.drop (x.descIx + 1)
    | none => []
  (rowsOf x.cur x.dstDone ++ rest.flatMap fun d => rowsOf d 0).dedup

/-- Poison, with no sectors selected, into the unwritten rows, as writes of the halted channel (R168, R344). -/
def State.poisonRest (s : State) (e : Fin 4) (c : Fin 32) : State :=
  (((s.unwritten s.dma[e].ch[c]).filterMap s.imageAddr).filter fun a => (memNo a).isSome).foldl (fun (s : State) a =>
    (s.fabricWrite ⟨88 + e.1, some c, a, 0, 0, s.mem.tag a, true⟩ .none).1) s

/-- HALTED_CHANNEL_COMPLETION (R344): the unwritten rows are poisoned; the channel is IDLE and the instance complete once every such
write has been accepted (R332). -/
def haltedCompletionEffect (e : Fin 4) (c : Fin 32) (s : State) : State :=
  let x := s.dma[e].ch[c]
  if x.state != .halted then s
  else
    let s := if x.flushed then s else (s.poisonRest e c).setChan e c fun x => { x with flushed := true }
    if !s.writesAccepted e c then s
    else
      let t := s.setChan e c fun x => { x with state := .idle, wait := .none, hold := [], blocks := [], flushed := false, inst := none }
      match x.inst with
      | some i => (t.completeInst i).tryStop
      | none => t

def execHaltedChannelCompletion (e : Fin 4) (c : Fin 32) (s : State) : Host.Outcome State Fault Refusal := .next (haltedCompletionEffect e c s)

end Sys2Proof.Machine
end

