-- ==== Sys2Proof/Machine/Time.lean ====
section
/-! DEFINITION. The FTB servo (spec/02 R29–R33, spec/13 R390–R392, spec/14 R406–R407). -/
namespace Sys2Proof.Machine

/-- UR_GCFG.UPLINK is 7: the module disciplines its FTB to PTP (R406). -/
def State.isRoot (s : State) : Bool := bits s.ur.gcfg.toNat 7 5 == 7

/-- Lock band in ns: ±100 for PTP (R32), ±2 for an uplink (R406). -/
def State.lockBand (s : State) : Int := if s.isRoot then 100 else 2

/-! ## Pull (R31) -/

/-- Pulls in force at some moment since an FTB count, newest first. -/
def pullsSince (t : Nat) : List (Nat × Int) → List Int
  | [] => []
  | p :: rest => if p.1 ≤ t then [p.2] else p.2 :: pullsSince t rest

/-- The pull that the servo applies: within ±50 ppm, and while a job is armed within 0.1 ppm of every pull that it has applied in the last
second since the ARM. -/
def TimeBlk.nextPull (t : TimeBlk) (armed : Option Nat) (offset : Int) : Int :=
  let want := clampInt (-50000) 50000 (Config.servoPull offset t.pull)
  match armed with
  | some from_ => clampInt (t.pull - 100) (t.pull + 100)
      ((pullsSince (max from_ (t.ftb - second)) t.pulls).foldr (fun p v => clampInt (p - 100) (p + 100) v) want)
  | none => want

/-- Sum of the pulls from `t0` to `upto`, each weighted with its ticks. -/
def pullSum (t0 : Nat) : (upto : Nat) → List (Nat × Int) → Int
  | _, [] => 0
  | upto, p :: rest => ((upto - max t0 p.1 : Nat) : Int) * p.2 + pullSum t0 (min upto p.1) rest

/-- The mean over the last 60 s in whole ppb; the spec gives no rounding, so a fraction is rounded by a free value (log 9). -/
def TimeBlk.meanPull (t : TimeBlk) (up : Bool) : Int :=
  let t0 := t.ftb - 60 * second
  let n := t.ftb - t0
  let sum := pullSum t0 t.ftb t.pulls
  if n = 0 then t.pull else sum / (n : Int) + (if up && sum % (n : Int) != 0 then 1 else 0)

/-! ## Steps (R29) -/

/-- An FTB count moved by a step. -/
def shifted (d : Int) (n : Nat) : Nat := ((n : Int) + d).toNat

/-- The FTB steps by d, with the moments that the servo remembers; the offset is then 0 and within its band, and timestamps of the FTB before
the step are dropped (log 88). -/
def TimeBlk.step (t : TimeBlk) (d : Int) : TimeBlk :=
  let n := shifted d t.ftb
  { t with
    ftb := n, pulls := t.pulls.map fun p => (shifted d p.1, p.2), lastValid := n, inBand := some n, outBand := none
    lastExcess := t.lastExcess.map (shifted d), lAt := t.lAt.map (shifted d), pps := ppsAfter t.pps t.ftb n
    ptp := t.ptp.map fun p => { p with sync := none, dreq := none } }

/-- FTB_STEPPED: the step ends its FTB cycle. -/
def State.stepFtb (s : State) (d : Int) : State :=
  let s := s.drain
  (s.setTime (s.time.step d)).logEv 0x0101 0 0 [(8, sdet 8 d)]

/-! ## The servo (R31–R33) -/

/-- The band state after a measured offset: since when it has stayed in the band. -/
def TimeBlk.track (t : TimeBlk) (band offset : Int) : TimeBlk :=
  { t with
    lastValid := t.ftb
    inBand := if -band ≤ offset ∧ offset ≤ band then some (t.inBand.getD t.ftb) else none }

/-- R406: an uplink's offset beyond its band for 1 s returns a LOCKED module to ACQUIRING. -/
def TimeBlk.trackOut (t : TimeBlk) (band offset : Int) : TimeBlk :=
  if t.servo ≠ .locked ∨ (-band ≤ offset ∧ offset ≤ band) then { t with outBand := none }
  else
    let since := t.outBand.getD t.ftb
    if since + second ≤ t.ftb then { t with servo := .acquiring, outBand := none } else { t with outBand := some since }

/-- FREE and HOLDOVER end with a valid exchange (R32). -/
def TimeBlk.acquire (t : TimeBlk) : TimeBlk :=
  if t.servo = .free ∨ t.servo = .holdover then { t with servo := .acquiring, inBand := none } else t

/-- An excess of R33 or R407 is over once the offset is within its limit again. -/
def TimeBlk.calm (t : TimeBlk) (limit offset : Int) : TimeBlk :=
  if -limit ≤ offset ∧ offset ≤ limit then { t with lastExcess := none } else t

/-- A valid exchange or TIME flit has measured an offset: a step, or a pull (R29, R31, R32). -/
def State.measured (s : State) (offset : Int) : State :=
  let armed := s.job.state == .armed
  let band := s.lockBand
  let t := s.time.acquire
  let t := if s.isRoot then t else t.trackOut band offset
  let t := t.calm (if s.isRoot then 1000000 else 16) offset
  if t.servo = .acquiring ∧ armed = false ∧ (offset < -1000 ∨ 1000 < offset) then (s.setTime t).stepFtb (-offset)
  else
    let t := t.track band offset
    s.setTime (t.setPull (t.nextPull (if armed then some s.job.armedAt else none) offset))

/-! ## PTP (R390–R391) -/

/-- A PTP message that the port does not discard: times in ns, corrections in units of 2^-16 ns. -/
inductive PtpIn where
  | announce (m : PtpMaster)
  | sync (sender seq : Nat) (twoStep : Bool) (t1 : Nat) (corr : Int)
  | followUp (sender seq t1 : Nat) (corr : Int)
  | delayResp (sender seq dest t4 : Nat) (corr : Int)
deriving DecidableEq, Repr

/-- A timestamp: 48 bits of seconds, 32 bits of ns. -/
def ptpTime (b : List Byte) (o : Nat) : Nat := befld b o 6 * second + befld b (o + 6) 4

/-- A message of IEEE 1588 in a domain (R13, R390; fields PRESUMED, log 10). Peer delay, management, signalling and another domain are
discarded, and so is an Announce of an alternate master or after 255 steps. -/
def ptpIn (domain : Nat) (mac ip b : List Byte) : Option PtpIn :=
  let sender := befld b 20 10
  let seq := befld b 30 2
  let corr := (BitVec.ofNat 64 (befld b 8 8)).toInt
  if b.length < 44 ∨ b.length < befld b 2 2 ∨ fld b 1 1 % 16 ≠ 2 ∨ fld b 4 1 ≠ domain then none
  else
    match fld b 0 1 % 16 with
    | 0 => some (.sync sender seq (bit (fld b 6 1) 1) (ptpTime b 34) corr)
    | 8 => some (.followUp sender seq (ptpTime b 34) corr)
    | 9 => if b.length < 54 then none else some (.delayResp sender seq (befld b 44 10) (ptpTime b 34) corr)
    | 11 =>
      if b.length < 64 ∨ bit (fld b 6 1) 0 = true ∨ 255 ≤ befld b 61 2 then none
      else some (.announce ⟨sender, BitVec.ofNat 64 (fld b 53 8), befld b 47 16, mac, ip⟩)
    | _ => none

/-- Mode of a port (R365). -/
def State.portMode (s : State) (p : Fin 4) : Nat := bits (s.net.ports[p]).cfg.toNat 1 0

/-- PTP_CFG.DOMAIN. -/
def State.ptpDomain (s : State) : Nat := bits s.net.ptpCfg.toNat 15 8

/-- The arrival of a message whose start-of-frame delimiter came at an FTB count: the fixed latency of the port's PHY and FEC is removed
(R392). -/
def State.rxStamp (s : State) (p : Fin 4) (sfd : Nat) : Int := (min sfd s.time.ftb : Nat) - (Config.ptpRxLatency (s.portMode p) : Nat)

/-- The departure of a message whose start-of-frame delimiter leaves the timestamp unit now (R392). -/
def State.txStamp (s : State) (p : Fin 4) : Int := (s.time.ftb : Nat) + (Config.ptpTxLatency (s.portMode p) : Nat)

/-- The offset of the end-to-end mechanism, FTB minus PTP time, in ns: half the difference of the two one-way differences, less their
corrections; a fraction is rounded by a free value. -/
def ptpOffsetOf (t1 : Nat) (t2 : Int) (c2 : Int) (t3 : Int) (t4 : Nat) (c4 : Int) : Int :=
  let n := ((t2 - t1) * 65536 - c2) - ((t4 - t3) * 65536 - c4)
  n / 131072 + (if n % 131072 ≠ 0 ∧ Config.ptpRoundUp n = true then 1 else 0)

def State.setPtp (s : State) (p : Fin 4) (f : PtpPort → PtpPort) : State := s.setTime { s.time with ptp := upd s.time.ptp p f }

/-- A valid exchange with a port's master has measured an offset: it counts on the root module, on the port followed. -/
def State.exchanged (s : State) (p : Fin 4) (offset : Int) : State :=
  if s.isRoot && p.1 == s.followed then (s.setTime { s.time with ptpOffset := offset }).measured offset else s

/-- A message received: an Announce of any master, or a part of an exchange with the port's own. -/
def State.ptpTake (s : State) (p : Fin 4) (sfd : Nat) (m : PtpIn) : State :=
  let x := s.time.ptp[p]
  let own (sender : Nat) : Bool := x.best.any fun b => b.sender == sender
  match m with
  | .announce m => (s.setPtp p fun x => { x with masters := x.masters.filter (fun y => y.sender != m.sender) ++ [m] }).follow
  | .sync sender seq two t1 corr =>
    if own sender then s.setPtp p fun x => { x with sync := some ⟨seq, if two then none else some t1, s.rxStamp p sfd, corr⟩ } else s
  | .followUp sender seq t1 corr =>
    if own sender then s.setPtp p fun x => { x with sync := x.sync.map fun y =>
      if y.seq = seq ∧ y.t1 = none then { y with t1 := some t1, corr := y.corr + corr } else y } else s
  | .delayResp sender seq dest t4 c4 =>
    match x.sync, x.dreq with
    | some ⟨_, some t1, t2, c2⟩, some (n, t3) =>
      if own sender && seq == n && dest == (Config.ptpIdentity p.1).toNat then
        (s.setPtp p fun x => { x with dreq := none }).exchanged p (ptpOffsetOf t1 t2 c2 t3 t4 c4)
      else s
    | _, _ => s

/-- The bytes of a Delay_Req: IEEE 1588-2019, with no correction and no origin timestamp. -/
def delayReq (domain : Nat) (unicast : Bool) (identity : Nat) (seq : Nat) : List Byte :=
  [0x01, 0x12, 0, 44, BitVec.ofNat 8 domain, 0, if unicast then 4 else 0, 0] ++ List.replicate 12 0 ++ beBytes 10 identity ++ beBytes 2 seq ++
    [1, 0x7F] ++ List.replicate 10 0

/-- The multicast address of PTP over IPv4 (R390). -/
def ptpGroup : List Byte := [224, 0, 1, 129]

/-- The frame of a Delay_Req, to the group or to the master (R390). Its source address and DSCP stand in no rule. -/
def State.delayReqFrame (s : State) (p : Fin 4) (m : PtpMaster) : List Byte :=
  let uni := bit s.net.ptpCfg.toNat 5
  let src := portIp false p.1
  let dst := if uni then m.ip else ptpGroup
  let udp := udpPacket false src dst 319 319 (delayReq s.ptpDomain uni (Config.ptpIdentity p.1).toNat (s.time.ptp[p]).nextSeq.toNat)
  ethFrame (if uni then m.mac else groupMac false ptpGroup) (portMac p.1) 0 0x0800
    (ip4Packet p.1 (bits (Config.ipOpen p.1 udp).toNat 22 17) 17 none src dst [] udp)

/-- A Delay_Req leaves, ahead of all stream packets (R389), and its departure is captured. -/
def State.sendDelayReq (s : State) (p : Fin 4) : State :=
  match (s.time.ptp[p]).best with
  | none => s
  | some m =>
    (s.setPtp p fun x => { x with dreq := some (x.nextSeq.toNat, s.txStamp p), nextSeq := x.nextSeq + 1 }).emit
      (.packet p.1 0 s.time.ftb (s.delayReqFrame p m))

def ptpEffect (p : Fin 4) (m : PtpMsg) (s : State) : State :=
  if !s.ptpPort p.1 then s
  else
    match m with
    | .received sfd mac ip b => (ptpIn s.ptpDomain mac ip b).elim s fun m => s.ptpTake p sfd m
    | .delayReq => s.sendDelayReq p
    | .announceTimeout =>
      (s.setPtp p fun x => { x with masters := x.masters.filter fun y => some y.sender != x.best.map (·.sender), sync := none, dreq := none }).follow

def execPtpMessage (p : Fin 4) (m : PtpMsg) (s : State) : Host.Outcome State Fault Refusal := .next (ptpEffect p m s)

/-! ## PTP_LOCKED and PTP_HOLDOVER (R32, R406) -/

/-- The PTP port followed; nothing states it for an uplink, so it is a free value there (log 9). -/
def State.portDetail (s : State) : Nat := if s.isRoot then s.followed else (Config.freeWord s.misc.fresh).toNat

def ptpLockedEffect (s : State) : State :=
  match s.time.inBand with
  | none => s
  | some t =>
    if s.time.servo = .acquiring ∧ t + 10 * second < s.time.lastValid + 3 * second then
      let u := s.reach (t + 10 * second)
      ((u.setTime { u.time with servo := .locked }).logEv 0x0102 0 0 [(1, u.portDetail)]).fresh 1
    else s

def execPtpLocked (s : State) : Host.Outcome State Fault Refusal := .next (ptpLockedEffect s)

def ptpHoldoverEffect (s : State) : State :=
  if s.time.servo = .acquiring ∨ s.time.servo = .locked then
    let u := s.reach (s.time.lastValid + 3 * second)
    let p := u.time.meanPull ((Config.freeWord u.misc.fresh).getLsbD 0)
    ((u.setTime { (u.time.setPull p) with servo := .holdover, inBand := none, outBand := none }).logEv 0x0103 0 0 [(4, sdet 4 p)]).fresh 1
  else s

def execPtpHoldover (s : State) : Host.Outcome State Fault Refusal := .next (ptpHoldoverEffect s)

/-! ## Offsets beyond their limit while a job is armed (R33, R407) -/

/-- Once each second: the FTB count of the next event. -/
def TimeBlk.nextExcess (t : TimeBlk) : Nat :=
  match t.lastExcess with
  | some n => n + second
  | none => t.ftb

/-- The servo slews the offset of an armed job. -/
def State.slewing (s : State) : Bool := s.job.state == .armed && (s.time.servo == .acquiring || s.time.servo == .locked)

def excessLog (code kind num : Nat) (offset : Int) (s : State) : State :=
  let u := s.reach s.time.nextExcess
  (u.setTime { u.time with lastExcess := some u.time.ftb }).logEv code kind num [(8, sdet 8 offset)]

def ptpOffsetExcessEffect (s : State) : State :=
  if s.slewing && s.isRoot && (decide (1000000 < s.time.ptpOffset) || decide (s.time.ptpOffset < -1000000)) then
    excessLog 0x0104 0 0 s.time.ptpOffset s
  else s

def execPtpOffsetExcess (s : State) : Host.Outcome State Fault Refusal := .next (ptpOffsetExcessEffect s)

def urlanFtbOffsetEffect (s : State) : State :=
  if s.slewing && !s.isRoot && (decide (16 < s.time.urOffset) || decide (s.time.urOffset < -16)) then
    excessLog 0x0906 6 (bits s.ur.gcfg.toNat 7 5) s.time.urOffset s
  else s

def execUrlanFtbOffset (s : State) : Host.Outcome State Fault Refusal := .next (urlanFtbOffsetEffect s)

end Sys2Proof.Machine
end

