-- ==== Sys2Proof/Machine/Net.lean ====
section
/-! DEFINITION. Ethernet ports and streams (spec/13 R365–R389, R394; spec/02 R42–R43, R50–R52): received frames, RRS ingress, stripe release,
ST 2110-20 egress and RRS-C. -/
namespace Sys2Proof.Machine

def State.setSlot (s : State) (k : Fin 32) (f : Stream → Stream) : State := s.setNet { s.net with slots := upd s.net.slots k f }
def State.updCnt (s : State) (k : Fin 32) (f : StCounters → StCounters) : State := s.setSlot k fun t => { t with ctr := f t.ctr }
def State.streamAt (s : State) (k : Fin 32) : Option StreamBind := s.job.image.bind fun im => im.stream k.1

/-! ## PORT_LINK (R365, R394) -/

def EthPort.enabled (p : EthPort) : Bool := bit p.cfg.toNat 8

def EthPort.setLink (p : EthPort) (sub : Nat) (up : Bool) : EthPort :=
  let put (b : BitVec 4) : BitVec 4 := if up then b ||| BitVec.ofNat 4 (2 ^ sub) else b &&& ~~~(BitVec.ofNat 4 (2 ^ sub))
  { p with link := put p.link, fec := put p.fec }

/-- A sub-port of the port's mode changes its link state. -/
def portLinkEffect (p sub : Fin 4) (up : Bool) (s : State) : State :=
  let x := s.net.ports[p]
  if !x.enabled || decide (x.subs ≤ sub.1) || x.link.getLsbD sub.1 == up then s
  else (s.setNet { s.net with ports := upd s.net.ports p fun x => x.setLink sub.1 up }).logEv 0x0801 5 p.1 [(1, sub.1), (1, if up then 1 else 0)]

def execPortLink (p sub : Fin 4) (up : Bool) (s : State) : Host.Outcome State Fault Refusal := .next (portLinkEffect p sub up s)

/-! ## Received datagrams (R367) -/

/-- The ingress path of a binding that a datagram on a sub-port matches (R367, R432): IP version, addresses and UDP ports. -/
def NetPath.fits (p : NetPath) (v6 : Bool) (src dst : List Byte) (sport dport : Nat) : Bool :=
  p.ipVer == (if v6 then 6 else 4) && p.srcIp == src && p.dstIp == dst && p.srcPort == sport && p.dstPort == dport

/-- Slot and path of the ingress binding that matches. -/
def State.ingressOf (s : State) (port sub : Nat) (v6 : Bool) (src dst : List Byte) (sport dport : Nat) : Option (Fin 32 × Bool) :=
  s.job.bindings.findSome? fun b =>
    (toFin? 32 b.slot).bind fun k =>
      match s.streamAt k with
      | some st =>
        if st.dir != 0 then none
        else if st.portA == port && b.subA == sub && b.a.fits v6 src dst sport dport then some (k, false)
        else if st.portB == port && b.subB == sub && b.b.fits v6 src dst sport dport then some (k, true)
        else none
      | none => none

/-- PTP event and general messages over UDP and IPv4 on a PTP port, to the PTP group or the port's own address (R390; port numbers PRESUMED:
IEEE 1588, log 10). -/
def State.ptpDatagram (s : State) (port : Nat) (v6 : Bool) (dst : List Byte) (dport : Nat) : Bool :=
  s.ptpPort port && !v6 && (dport == 319 || dport == 320) && (dst == padTo 16 ptpGroup || dst == padTo 16 (portIp false port))

def State.unmatched (s : State) (p : Fin 4) : State := s.setNet { s.net with ports := upd s.net.ports p fun x => { x with unmatched := x.unmatched + 1 } }

/-! ## RRS ingress (R368–R374) -/

/-- Rows of a stripe (R371). -/
def StreamBind.rowsOf (b : StreamBind) (k : Nat) : Nat := min (k * b.stripeH + b.stripeH) b.height - k * b.stripeH
/-- Bytes of a stripe. -/
def StreamBind.stripeBytes (b : StreamBind) (k : Nat) : Nat := 2 * b.width * b.rowsOf k
/-- Address of stripe k in frame buffer j (R370). -/
def StreamBind.stripeAddr (b : StreamBind) (j k : Nat) : Nat := b.bufBase + j * b.bufStride + 2 * b.width * (k * b.stripeH)

def rrsSeq (p : List Byte) : Nat := befld p 4 4
def rrsRow (p : List Byte) : Nat := befld p 12 2
def rrsCol (p : List Byte) : Nat := befld p 14 2
def rrsPixels (p : List Byte) : Nat := befld p 16 2

/-- Check 1 of R369. -/
def rrsShape (p : List Byte) : Bool :=
  decide (24 ≤ p.length) && fld p 0 1 == 1 && fld p 1 1 == 1 && fld p 3 1 == 0 && fld p 18 2 == 0 && p.length == 24 + 2 * rrsPixels p

/-- Check 2. -/
def rrsCrc (p : List Byte) : Bool := befld p (p.length - 4) 4 == (crc32c (p.take (p.length - 4))).toNat

/-- Check 3. -/
def StreamBind.geometry (b : StreamBind) (p : List Byte) : Bool :=
  fld p 2 1 == b.camera && decide (rrsRow p < b.height) && rrsCol p % 8 == 0 && decide (8 ≤ rrsPixels p ∧ rrsPixels p ≤ 4096) &&
  rrsPixels p % 8 == 0 && decide (rrsCol p + rrsPixels p ≤ b.width)

/-- Check 4: the job frame that FRAME names, no more than D − 1 beyond the latest frame whose start count has passed. -/
def JobBlk.rrsFrame (j : JobBlk) (ftb d frame : Nat) : Option Nat :=
  let top := ftb * j.num / (1000000000 * j.den) + d - 1
  let back := (top + (2 ^ 32 - frame)) % 2 ^ 32
  if j.frame0 + back ≤ top then some (top - back - j.frame0 + j.base) else none

/-- The release instance of a stripe (R185), and its count. -/
def State.releaseInst (s : State) (slot n k : Nat) : Option Inst :=
  match s.job.image with
  | none => none
  | some im => (List.range im.entries.length).findSome? fun j =>
      match im.entries[j]? with
      | some e => if e.kind == 0x10 && e.unit == slot then ((List.range (e.rep + 1)).find? fun i => e.arg i == k).map fun i => ⟨n, j, i⟩ else none
      | none => none

/-- Check 5 fails: the stripe has been released, or its release count has come (R50). -/
def State.isReleased (s : State) (slot : Fin 32) (n k : Nat) : Bool :=
  ((s.net.slots[slot]).released.any fun r => r.frame == n && r.stripe == k) ||
  (match s.releaseInst slot.1 n k with
   | some i => match s.entryOf i with
     | some e => decide (s.job.placed e i ≤ s.time.ftb)
     | none => false
   | none => false)

/-- Stripe k's frame buffer is free for job frame n (R376): every successor of its release in frame n − D is complete. -/
def State.bufferFree (s : State) (b : StreamBind) (n k : Nat) : Bool :=
  if n < b.d then true
  else
    match s.releaseInst b.slot (n - b.d) k, s.job.image with
    | some r, some im => (List.range im.entries.length).all fun j =>
        match im.entries[j]? with
        | some e =>
          if e.pred = 0xFFFFFFFF ∨ bits e.pred 29 0 ≠ r.entry then true
          else (List.range (e.rep + 1)).all fun i =>
            match im.entries[r.entry]? with
            | some p => min i p.rep != r.inst || s.done ⟨n - b.d + bits e.pred 31 30, j, i⟩
            | none => true
        | none => true
    | _, _ => true

/-- Bytes held in the assembly store of a port's engine (R374). -/
def State.storeUsed (s : State) (port : Nat) : Nat :=
  sumOver (List.finRange 32) fun k =>
    match s.streamAt k with
    | some b => if b.dir = 0 ∧ b.portA = port then sumOver (s.net.slots[k]).assembly fun a => b.stripeBytes a.stripe else 0
    | none => 0

def Stream.assemblyOf (t : Stream) (n k : Nat) : Assembly := (t.assembly.find? fun a => a.frame == n && a.stripe == k).getD ⟨n, k, [], []⟩

/-- The 8-pixel groups that a packet covers and that are not yet written: column groups. -/
def Assembly.fresh (a : Assembly) (p : List Byte) : List Nat :=
  ((List.range (rrsPixels p / 8)).map fun g => rrsCol p / 8 + g).filter fun g => !a.groups.contains (rrsRow p, g)

/-- The sample of a packet at a column. -/
def rrsSample (p : List Byte) (x : Nat) : Nat := befld p (20 + 2 * (x - rrsCol p)) 2

/-- The packet's fresh groups written, as U12A elements (R370). -/
def Assembly.add (a : Assembly) (w : Nat) (p : List Byte) : Assembly :=
  let gs := a.fresh p
  let y := rrsRow p
  { a with
    groups := a.groups ++ gs.map fun g => (y, g)
    pixels := a.pixels ++ gs.flatMap fun g => (List.range 8).map fun i =>
      (2 * (y * w + (8 * g + i)), BitVec.ofNat 16 (rrsSample p (8 * g + i) % 4096)) }

/-- Samples with a bit of [15:12] set among those written. -/
def highSamples (gs : List Nat) (p : List Byte) : Nat :=
  (gs.flatMap fun g => (List.range 8).map fun i => rrsSample p (8 * g + i)).countP fun v => decide (4096 ≤ v)

/-- SEQ of a path is counted (R373). -/
def seqGap (last : Option Nat) (seq : Nat) : Nat := match last with | some h => seq - h - 1 | none => 0

def State.countSeq (s : State) (k : Fin 32) (pathB : Bool) (seq : Nat) : State :=
  s.setSlot k fun t =>
    let last := if pathB then t.seqB else t.seqA
    let top := some (match last with | some h => max h seq | none => seq)
    { t with
      ctr := { t.ctr with seqGap := satAdd t.ctr.seqGap (seqGap last seq) }
      seqA := if pathB then t.seqA else top, seqB := if pathB then top else t.seqB }

/-- Job frame whose start count passed last; none before the first. -/
def State.frameNow (s : State) : Option Nat :=
  let m := s.time.ftb * s.job.num / (1000000000 * s.job.den)
  if m < s.job.frame0 then none else some (m - s.job.frame0 + s.job.base)

/-- A path has delivered an accepted packet (R372). -/
def Stream.delivered (t : Stream) (pathB : Bool) (now : Option Nat) : Stream :=
  let add (l : List Nat) : List Nat := match now with | some n => if l.contains n then l else (n :: l).take 8 | none => l
  if pathB then { t with gotB := add t.gotB, silentB := false } else { t with gotA := add t.gotA, silentA := false }

/-- An accepted packet (R370, R393). -/
def State.accept (s : State) (k : Fin 32) (b : StreamBind) (pathB : Bool) (n : Nat) (p : List Byte) : State :=
  let now := s.frameNow
  s.setSlot k fun t =>
    let a := t.assemblyOf n (rrsRow p / b.stripeH)
    let bad := highSamples (a.fresh p) p
    let t := t.delivered pathB now
    { t with
      assembly := t.assembly.filter (fun x => !(x.frame == a.frame && x.stripe == a.stripe)) ++ [a.add b.width p]
      ctr := { t.ctr with
        malformed := satAdd t.ctr.malformed bad
        pktA := if pathB then t.ctr.pktA else satInc t.ctr.pktA, pktB := if pathB then satInc t.ctr.pktB else t.ctr.pktB } }

/-- Check 7 fails: ST_LATE, and INGRESS_BACKLOG once for the stripe (R43). -/
def State.backlog (s : State) (k : Fin 32) (b : StreamBind) (n stripe : Nat) : State :=
  let once := (s.net.slots[k]).backlog.contains (n, stripe)
  let t := s.setSlot k fun t => { t with ctr := { t.ctr with late := satInc t.ctr.late }, backlog := if once then t.backlog else (n, stripe) :: t.backlog }
  if once then t else t.logEv 0x010C 5 b.portA [(1, k.1), (2, stripe), (8, n)]

/-- The checks of R369 in their order. -/
def rrsEffect (k : Fin 32) (pathB : Bool) (p : List Byte) (s : State) : State :=
  match s.streamAt k with
  | none => s
  | some b =>
    if b.dir ≠ 0 ∨ s.job.state ≠ .armed ∨ (pathB = true ∧ b.portB = 0xFF) then s
    else if !rrsShape p then s.updCnt k fun c => { c with malformed := satInc c.malformed }
    else if !rrsCrc p then s.updCnt k fun c => { c with crc := satInc c.crc }
    else
      let s := s.countSeq k pathB (rrsSeq p)
      if !b.geometry p then s.updCnt k fun c => { c with malformed := satInc c.malformed }
      else
        let stripe := rrsRow p / b.stripeH
        match s.job.rrsFrame s.time.ftb b.d (befld p 8 4) with
        | none => s.updCnt k fun c => { c with late := satInc c.late }
        | some n =>
          let t := s.net.slots[k]
          if s.isReleased k n stripe then s.updCnt k fun c => { c with late := satInc c.late }
          else if ((t.assemblyOf n stripe).fresh p).isEmpty then s.updCnt k fun c => { c with dup := satInc c.dup }
          else if !s.bufferFree b n stripe || (!(t.assembly.any fun a => a.frame == n && a.stripe == stripe) &&
              decide (16777216 < s.storeUsed b.portA + b.stripeBytes stripe)) then s.backlog k b n stripe
          else s.accept k b pathB n p

def execRrsPacket (k : Fin 32) (pathB : Bool) (p : List Byte) (s : State) : Host.Outcome State Fault Refusal := .next (rrsEffect k pathB p s)

/-- FTB ticks from the first bit after a frame's start-of-frame delimiter to its last byte, at the rate of the port's mode (R365); a part of a
tick counts whole (log 88). -/
def wireTicks (mode len : Nat) : Nat := (2 ^ mode * len + 49) / 50

/-- Saddler line 4 rises (R444), and the firmware answers ARP and neighbour discovery for an own address, and a general query with its
groups of that port (R367). -/
def State.answerCtrl (s : State) (p sub : Fin 4) (c : Ctrl) : State :=
  let s := s.sadLine 4
  let send (s : State) (b : List Byte) : State := s.emit (.packet p.1 sub.1 s.time.ftb b)
  match c with
  | .arp mac ip a => if s.ownAddrs.contains (padTo 16 a) then send s (arpReply p.1 mac ip a) else s
  | .nd mac ip a => if s.ownAddrs.contains a then send s (ndReply p.1 mac ip a) else s
  | .query v6 => (s.net.joined.filter fun g => g.port == p.1 && g.sub == sub.1 && (g.path.ipVer == 6) == v6).foldl
      (fun s g => send s (groupReport p.1 1 g.path)) s
  | .silent => s

/-- The sub-port takes in frames: the port is enabled and the link is up. -/
def EthPort.hears (x : EthPort) (sub : Fin 4) : Bool := x.enabled && decide (sub.1 < x.subs) && x.link.getLsbD sub.1

/-- ETH_FRAME_RECEIVED (R366–R367): a frame of a wrong FCS or size is discarded; an RRS datagram goes through its checks, a PTP message to
its port, and the rest to the firmware. -/
def ethFrameEffect (p sub : Fin 4) (b : List Byte) (s : State) : State :=
  if !(s.net.ports[p]).hears sub then s
  else if !fcsOk b then s.setNet { s.net with ports := upd s.net.ports p fun x => { x with badFcs := x.badFcs + 1 } }
  else if !frameOk b then s
  else
    match frameOf b with
    | none => s
    | some (.control c) => s.answerCtrl p sub c
    | some .drop => s.unmatched p
    | some (.udp v6 src dst sport dport l) =>
      match s.ingressOf p.1 sub.1 v6 src dst sport dport with
      | some (k, pathB) => rrsEffect k pathB l s
      | none =>
        if s.ptpDatagram p.1 v6 dst dport then ptpEffect p (.received (s.time.ftb - wireTicks (s.portMode p) b.length) (slice b 6 6) (src.take 4) l) s
        else s.unmatched p

def execEthFrameReceived (p sub : Fin 4) (b : List Byte) (s : State) : Host.Outcome State Fault Refusal := .next (ethFrameEffect p sub b s)

/-- NETWORK_CONTROL_PACKET (R367): a frame of the firmware's protocols. -/
def networkControlEffect (p sub : Fin 4) (b : List Byte) (s : State) : State :=
  if !(s.net.ports[p]).hears sub || !frameOk b then s
  else
    match frameOf b with
    | some (.control c) => s.answerCtrl p sub c
    | _ => s

def execNetworkControlPacket (p sub : Fin 4) (b : List Byte) (s : State) : Host.Outcome State Fault Refusal :=
  .next (networkControlEffect p sub b s)

/-- INGRESS_PATH_SILENT (R372), at the end of a job frame in which one path delivered nothing and the other delivered. -/
def pathSilentEffect (k : Fin 32) (pathB : Bool) (n : Nat) (s : State) : State :=
  match s.streamAt k with
  | none => s
  | some b =>
    let t := s.net.slots[k]
    let mine := if pathB then t.gotB else t.gotA
    let other := if pathB then t.gotA else t.gotB
    if b.dir ≠ 0 ∨ b.portB = 0xFF ∨ s.job.state ≠ .armed ∨ (if pathB then t.silentB else t.silentA) = true ∨ mine.contains n = true ∨
        other.contains n = false then s
    else
      ((s.reach (s.job.frameF (n + 1))).setSlot k fun t =>
        { t with silentA := t.silentA || !pathB, silentB := t.silentB || pathB }).logEv 0x0802 5 (if pathB then b.portB else b.portA)
        [(1, k.1), (1, if pathB then 1 else 0), (8, n)]

def execIngressPathSilent (k : Fin 32) (pathB : Bool) (n : Nat) (s : State) : Host.Outcome State Fault Refusal := .next (pathSilentEffect k pathB n s)

/-! ## Stripe release (R51–R52, R371, R375–R376) -/

/-- Every 8-pixel group of the stripe's core rows has been written. -/
def Assembly.complete (a : Assembly) (b : StreamBind) : Bool := decide (b.rowsOf a.stripe * (b.width / 8) ≤ a.groups.length)

/-- The assembled rows in address order. -/
def Assembly.bytes (a : Assembly) (b : StreamBind) : List Byte :=
  let o := 2 * b.width * (a.stripe * b.stripeH)
  (List.range (b.stripeBytes a.stripe / 2)).flatMap fun i => leBytes 2 ((a.pixels.lookup (o + 2 * i)).getD 0).toNat

/-- Contents of a released stripe, its fill code in bits [11:0] (R94), how it was formed (0 complete, 1 substituted, 2 filled), and whether it stands on poisoned blocks. -/
def State.stripeContents (s : State) (b : StreamBind) (a : Assembly) : List Byte × Nat × (Nat → Bool) :=
  if a.complete b then (a.bytes b, 0, fun _ => false)
  else if a.frame = 0 then ((List.range (b.stripeBytes a.stripe / 2)).flatMap fun _ => leBytes 2 (b.fill % 4096), 2, fun _ => false)
  else
    let src := b.stripeAddr ((a.frame - 1) % b.d) a.stripe
    (s.mem.bytes src (b.stripeBytes a.stripe), 1, fun o => s.mem.poisoned (rowBase (src + o)) || s.mem.eccAt ((src + o) / 64 * 64) == 2)

/-- The blocks of HBM that a stripe's bytes fill, as write requests of the engine's port: block, sectors, merged data. -/
def State.stripeWrites (s : State) (b : StreamBind) (n k : Nat) (l : List Byte) (bad : Nat → Bool) : List (Nat × HbmReq) :=
  (pieces (b.stripeAddr (n % b.d) k) l.length).filterMap fun p =>
    match place p.1 with
    | .hbm st off =>
      let blk := rowBase p.1
      let old := s.mem.bytes blk 512
      let data := old.take (p.1 - blk) ++ slice l p.2.1 p.2.2 ++ old.drop (p.1 - blk + p.2.2)
      let mask : BitVec 16 := (parts p.1 p.2.2 32).foldl (fun m i => m ||| BitVec.ofNat 16 (2 ^ i)) 0
      some (st, ⟨92 + b.portA, none, hbmPc off, hbmBlk off, some (mask, rowOf data, bad p.2.1 || bad (p.2.1 + p.2.2 - 1)), n, 0, false⟩)
    | _ => none

/-- Ticks of the lane that hashes a stripe (R475). -/
def leafTicks (n : Nat) : Nat := 80 * ((n + 21 + 127) / 128) + 40

/-- Leaf digest of a released stripe (R475). -/
def leafDigest (slot k : Nat) (l : List Byte) : List Byte := sha512 ([0, BitVec.ofNat 8 slot] ++ beBytes 2 k ++ l)

def State.sendWrites (s : State) (l : List (Nat × HbmReq)) : State := l.foldl (fun (s : State) p => s.hbmArrive p.1 p.2) s

/-- The stripe is fixed, queued for its hash lane, and written; a write whose buffer is not free waits. -/
def State.releaseStripe (s : State) (slot : Fin 32) (b : StreamBind) (n k at_ : Nat) : State :=
  let a := (s.net.slots[slot]).assemblyOf n k
  let (l, how, bad) := s.stripeContents b a
  let w := s.stripeWrites b n k l bad
  let s := if how = 1 then s.seeHbm (92 + b.portA) (b.stripeAddr ((n - 1) % b.d) k) l.length else s
  let s := if how = 0 then s else s.logAt at_ 0x0106 5 b.portA [(1, slot.1), (2, k), (8, n)]
  let s := s.setStamp { s.stamp with waiting := s.stamp.waiting ++ [⟨slot.1, n, k, leafDigest slot.1 k l, leafTicks l.length⟩] }
  let free := s.bufferFree b n k
  let s := s.setSlot slot fun t => { t with
    released := t.released ++ [⟨n, k, how⟩], unwritten := if free then t.unwritten else t.unwritten ++ [(n, k, w)] }
  if free then s.sendWrites w else s

/-- A released stripe whose buffer has become free is written (R376). -/
def State.writeHeld (s : State) (slot : Fin 32) (b : StreamBind) (n k : Nat) : State :=
  match (s.net.slots[slot]).unwritten.find? fun u => u.1 == n && u.2.1 == k with
  | some u =>
    if s.bufferFree b n k then
      (s.setSlot slot fun t => { t with unwritten := t.unwritten.filter fun x => !(x.1 == n && x.2.1 == k) }).sendWrites u.2.2
    else s
  | none => s

def ingressReleaseEffect (i : Inst) (s : State) : State :=
  match s.entryOf i with
  | none => s
  | some e =>
    match (toFin? 32 e.unit).bind fun k => (s.streamAt k).map fun b => (k, b) with
    | none => s
    | some (k, b) =>
      if e.kind = 0x10 ∧ b.dir = 0 ∧ s.job.started.contains i = true then s.writeHeld k b i.frame (e.arg i.inst)
      else if b.dir ≠ 0 then s
      else s.startInst 0x10 i fun s e => s.releaseStripe k b i.frame (e.arg i.inst) (s.job.placed e i)

def execIngressRelease (i : Inst) (s : State) : Host.Outcome State Fault Refusal := .next (ingressReleaseEffect i s)

/-! ## ST 2110-20 egress (R42, R378–R381, R384) -/

/-- Bytes and pixels of a pgroup, and pixels of a packet (R377). -/
def pgroup (format : Nat) : Nat × Nat × Nat :=
  match format with
  | 0x10 => (5, 2, 480)
  | 0x11 => (6, 2, 480)
  | 0x12 => (15, 4, 384)
  | _ => (9, 2, 320)

def StreamBind.perRow (b : StreamBind) : Nat := (b.width + (pgroup b.format).2.2 - 1) / (pgroup b.format).2.2
/-- Bytes of a run of pixels. -/
def StreamBind.pixBytes (b : StreamBind) (n : Nat) : Nat := (n + (pgroup b.format).2.1 - 1) / (pgroup b.format).2.1 * (pgroup b.format).1
/-- Address of row y of job frame m (R378). -/
def StreamBind.rowAddr (b : StreamBind) (m y : Nat) : Nat := b.bufBase + m % 2 * b.bufStride + y * (512 * ((b.pixBytes b.width + 511) / 512))

/-- S of R380: REP_STRIDE, or the ticks to the next frame start when REP is 0. -/
def State.slotSpan (s : State) (e : TtEntry) (t : Nat) : Nat :=
  if e.rep = 0 then frameStart s.job.num s.job.den (t * s.job.num / (1000000000 * s.job.den) + 1) - t else e.repStride

/-- The EGRESS_SLOT instances of a stream in a job frame, with their placed times. -/
def State.egressSlots (s : State) (slot n : Nat) : List (Inst × Nat) :=
  match s.job.image with
  | none => []
  | some im => (List.range im.entries.length).flatMap fun j =>
      match im.entries[j]? with
      | some e => if e.kind == 0x11 && e.unit == slot then (List.range (e.rep + 1)).map fun i => (⟨n, j, i⟩, s.job.placed e ⟨n, j, i⟩) else []
      | none => []

/-- One instance comes before another: by placed time, and at one time in timetable order. -/
def slotBefore (a b : Inst × Nat) : Bool :=
  decide (a.2 < b.2) || (a.2 == b.2 && (decide (a.1.entry < b.1.entry) || (a.1.entry == b.1.entry && decide (a.1.inst < b.1.inst))))

/-- The instance carries the last packets of its frame (R22, R379). -/
def State.lastSlot (s : State) (slot : Nat) (i : Inst) (t : Nat) : Bool := (s.egressSlots slot i.frame).all fun x => !slotBefore (i, t) x

/-- Every earlier instance of the stream's frame has come. -/
def State.slotsInOrder (s : State) (slot : Nat) (i : Inst) (t : Nat) : Bool :=
  (s.egressSlots slot i.frame).all fun x => !slotBefore x (i, t) || s.job.started.contains x.1

/-- The packets of a slot instance from an FTB count on. -/
def State.slotPackets (s : State) (b : StreamBind) (e : TtEntry) (i : Inst) (t from_ : Nat) : List EgPkt :=
  let n := e.arg1 * b.perRow
  let last := s.lastSlot b.slot i t
  (List.range n).map fun j =>
    ⟨from_ + j * s.slotSpan e t / n, i.frame, e.arg i.inst + j / b.perRow, j % b.perRow, last && j + 1 == n⟩

/-- An egress slot may come: everything but its predecessors, whose rows it sends late (R42). -/
def State.slotComes (s : State) (e : TtEntry) (i : Inst) : Bool :=
  e.kind == 0x11 && s.job.state == .armed && s.slotsInOrder e.unit i (s.job.placed e i) && decide (s.job.base ≤ i.frame + 4) && !s.job.started.contains i && !s.job.cancelled e i && !s.heldBySnap e i

/-- EGRESS_SLOT (R42, R380, R481): the packets are due, or the rows are late, behind any that are late already. -/
def egressSlotEffect (i : Inst) (s : State) : State :=
  match s.entryOf i with
  | none => s
  | some e =>
    match (toFin? 32 e.unit).bind fun k => (s.streamAt k).map fun b => (k, b) with
    | none => s
    | some (k, b) =>
      if !s.slotComes e i then s
      else
        let t := s.job.placed e i
        let s := s.reach t
        let s := s.setJob (s.job.start i)
        if b.dir = 2 then (s.setStamp { s.stamp with t40 := s.stamp.t40 ++ [(k.1, i.frame, t)] })
        else if s.predDone e i && (s.net.slots[k]).lateRows.isEmpty then
          let l := s.slotPackets b e i t t
          s.setSlot k fun x => { x with due := x.due ++ l }
        else s.setSlot k fun x => { x with lateRows := x.lateRows ++ [i] }

def execEgressSlot (i : Inst) (s : State) : Host.Outcome State Fault Refusal := .next (egressSlotEffect i s)

/-- EGRESS_LATE_SEND (R42): the oldest late rows are complete; their packets keep order and spacing. -/
def egressLateEffect (k : Fin 32) (s : State) : State :=
  match (s.net.slots[k]).lateRows, s.streamAt k with
  | i :: rest, some b =>
    match s.entryOf i with
    | some e =>
      if s.predDone e i then
        let t := s.job.placed e i
        let now := max s.time.ftb ((((s.net.slots[k]).due.getLast?).map (·.due)).getD 0)
        let l := s.slotPackets b e i t now
        (s.setSlot k fun x => { x with lateRows := rest, due := x.due ++ l }).logAt t 0x010B 5 b.portA [(1, k.1), (4, now - t), (8, i.frame)]
      else s
    | none => s
  | _, _ => s

def execEgressLateSend (k : Fin 32) (s : State) : Host.Outcome State Fault Refusal := .next (egressLateEffect k s)

/-- RTP timestamp of a frame start (R379). -/
def rtpStamp (f : Nat) : Nat := f * 9 / 100000 % 2 ^ 32

/-- RTP header and the high half of the extended sequence number (RFC 3550, RFC 4175; log 10). -/
def rtpHead (marker : Bool) (pt seq ts ssrc : Nat) : List Byte :=
  [0x80, BitVec.ofNat 8 ((if marker then 128 else 0) + pt % 128)] ++ beBytes 2 (seq % 65536) ++ beBytes 4 ts ++ beBytes 4 ssrc ++ beBytes 2 (seq / 65536)

def State.bindingAt (s : State) (k : Nat) : Option Binding := s.job.bindings.find? fun b => b.slot == k

/-- A UDP payload leaves on each path of a stream, in the frame and on the sub-port that the binding sets, at the same count, and is counted
(R365, R384, R393). -/
def State.sendBoth (s : State) (k : Fin 32) (b : StreamBind) (at_ : Nat) (l : List Byte) : State :=
  let d := (s.bindingAt k.1).getD default
  let s := (s.emit (.packet b.portA d.subA at_ (d.a.frame b.portA l))).updCnt k fun c => { c with pktA := satInc c.pktA }
  if b.portB = 0xFF then s else (s.emit (.packet b.portB d.subB at_ (d.b.frame b.portB l))).updCnt k fun c => { c with pktB := satInc c.pktB }

/-- The sub-ports on which a stream sends. -/
def State.sendsOn (s : State) (k : Fin 32) (b : StreamBind) : List (Nat × Nat) :=
  let d := (s.bindingAt k.1).getD default
  (b.portA, d.subA) :: (if b.portB = 0xFF then [] else [(b.portB, d.subB)])

/-- The instance is an RRSC_SLOT of an RRS-C stream: its slot, stream and scheduled time. -/
def State.rrscOf (s : State) (i : Inst) : Option (TtEntry × Fin 32 × StreamBind × Nat) :=
  match s.entryOf i with
  | some e =>
    if e.kind ≠ 0x12 then none
    else (toFin? 32 e.unit).bind fun k => ((s.streamAt k).filter fun b => b.dir == 3).map fun b => (e, k, b, s.job.placed e i)
  | none => none

/-- An RRS-C message that is due by an FTB count goes ahead of a stream packet on one of its sub-ports (R389). -/
def State.rrscAhead (s : State) (k : Fin 32) (b : StreamBind) (at_ : Nat) : Bool :=
  (List.finRange 32).any fun q => (s.net.slots[q]).latched.any fun l =>
    match s.rrscOf l.1 with
    | some (e, _, c, t) => decide (t ≤ at_) && !s.job.cancelled e l.1 && (s.sendsOn q c).any fun x => (s.sendsOn k b).contains x
    | none => false

/-- The blocks that hold n bytes from an address. -/
def rowsUnder (a n : Nat) : List Nat := (List.range ((a % 512 + n + 511) / 512)).map fun j => rowBase a + 512 * j

/-- A row of a frame buffer carries poison: a stored marker or an uncorrectable codeword (R362, R381). -/
def State.rowPoison (s : State) (a n : Nat) : Bool :=
  (rowsUnder a n).any fun r => s.mem.poisoned r || (List.range 8).any fun i => s.mem.eccAt (r + 64 * i) == 2

/-- A row read from its frame buffer by egress engine `port`: every block passes through the correction (R360, R362). -/
def State.readEgressRow (s : State) (port a n : Nat) : State :=
  (rowsUnder a n).foldl (fun s r => (s.checkBlock r (96 + port) (List.range 8)).1) s

/-- The payload of a packet of a row (R378–R379). -/
def State.videoPayload (s : State) (b : StreamBind) (bd : Option Binding) (p : EgPkt) (seq : Nat) : List Byte :=
  let per := (pgroup b.format).2.2
  let col := p.idx * per
  let n := b.pixBytes (min per (b.width - col))
  let body := s.mem.bytes (b.rowAddr p.frame p.row + b.pixBytes col) n
  rtpHead p.last ((bd.map (·.pt)).getD 0) seq (rtpStamp (s.job.frameF p.frame)) ((bd.map (·.ssrc)).getD 0) ++
    beBytes 2 n ++ beBytes 2 p.row ++ beBytes 2 col ++ body

/-- EGRESS_PACKET (R380–R381, R389): the next packet due leaves within 1,000 ticks of its count, behind RRS-C messages due by then. The first
packet of a row reads the row (log 49). -/
def egressPacketEffect (k : Fin 32) (delay : Nat) (s : State) : State :=
  match (s.net.slots[k]).due, s.streamAt k with
  | p :: rest, some b =>
    if 1000 < delay || s.rrscAhead k b (max (p.due + delay) s.time.ftb) then s
    else
      let s := s.reach (p.due + delay)
      let at_ := max (p.due + delay) s.time.ftb
      let row := b.rowAddr p.frame p.row
      let s := if p.idx = 0 then s.readEgressRow b.portA row (b.pixBytes b.width) else s
      let bad := s.rowPoison row (b.pixBytes b.width)
      let first := bad && !((s.net.slots[k]).poisoned.any fun q => q.1 == p.frame)
      let s := if first then s.logEv 0x0803 5 b.portA [(1, k.1), (8, p.frame), (2, p.row)] else s
      let t := s.net.slots[k]
      let s := s.sendBoth k b at_ (s.videoPayload b (s.bindingAt k.1) p t.rtpSeq.toNat)
      s.setSlot k fun t => { t with
        due := rest, rtpSeq := t.rtpSeq + 1, sentFrames := if p.last then t.sentFrames ++ [(p.frame, at_)] else t.sentFrames
        poisoned := if first then t.poisoned ++ [(p.frame, p.row)] else t.poisoned }
  | _, _ => s

def execEgressPacket (k : Fin 32) (delay : Nat) (s : State) : Host.Outcome State Fault Refusal := .next (egressPacketEffect k delay s)

/-! ## RRS-C (R385–R389) -/

/-- RRSC_LATCH (R388): at T − 5,000 the pending command, if it was committed earlier, is latched; else a held message is chosen. -/
def rrscLatchEffect (i : Inst) (s : State) : State :=
  match s.rrscOf i with
  | none => s
  | some (e, k, _, t) =>
    if s.job.state ≠ .armed ∨ s.job.cancelled e i = true ∨ s.job.started.contains i = true ∨ ((s.net.slots[k]).latched.lookup i).isSome = true then s
    else
      (s.reach (t - 5000)).setSlot k fun x =>
        match x.pending with
        | some c =>
          if c.at_ + 5000 < t then { x with pending := none, latched := x.latched ++ [(i, some c)] } else { x with latched := x.latched ++ [(i, none)] }
        | none => { x with latched := x.latched ++ [(i, none)] }

def execRrscLatch (i : Inst) (s : State) : Host.Outcome State Fault Refusal := .next (rrscLatchEffect i s)

/-- An RRS-C message (R385). -/
def rrscMessage (camera : Nat) (held : Bool) (seq t apply_ cmdSeq : Nat) (items : List (Nat × W32)) : List Byte :=
  let l := [1, 0x10, BitVec.ofNat 8 camera, if held then 1 else 0] ++ beBytes 4 seq ++ beBytes 8 t ++ beBytes 4 apply_ ++ beBytes 2 cmdSeq ++
    [BitVec.ofNat 8 items.length, 0] ++ items.flatMap fun i => beBytes 2 i.1 ++ [0, 0] ++ beBytes 4 i.2.toNat
  l ++ beBytes 4 (crc32c l).toNat

/-- m_T: the first absolute frame with F > T (R385). -/
def JobBlk.frameAfter (j : JobBlk) (t : Nat) : Nat := t * j.num / (1000000000 * j.den) + 1

/-- The command of a message when none has been committed since ARM: no items; the spec states neither CMD_SEQ nor OFFSET of it (log 9). -/
def noCommand (fresh : Nat) : RrscCmd :=
  let v := (Config.freeWord fresh).toNat
  ⟨bits v 19 16, [], bits v 15 0, 0⟩

/-- R389: at T + 2,000 the message is not sent. -/
def State.missSlot (s : State) (i : Inst) (k : Fin 32) (b : StreamBind) (t : Nat) : State :=
  let s := (s.reach (t + 2000)).setSlot k fun x => { x with latched := x.latched.filter fun l => l.1 != i }
  ((s.logAt t 0x0805 5 b.portA [(1, k.1), (8, t)]).completeInst i).tryStop

/-- The message of a slot leaves at T plus its delay: the command latched, or a held one (R388). -/
def State.sendSlot (s : State) (i : Inst) (k : Fin 32) (b : StreamBind) (t delay : Nat) (cmd : Option RrscCmd) : State :=
  let s := s.reach (t + delay)
  let x := s.net.slots[k]
  let held := cmd.isNone
  let c := cmd.getD (x.last.getD (noCommand s.misc.fresh))
  let s := if cmd.isNone && x.last.isNone then s.fresh 1 else s
  let s := if held && !x.lastHeld && x.msgSeq != 0 then s.logAt t 0x0804 5 b.portA [(1, k.1), (2, c.cmdSeq)] else s
  let msg := rrscMessage b.camera held x.msgSeq.toNat t ((s.job.frameAfter t + c.offset) % 2 ^ 32) c.cmdSeq c.items
  let s := (s.sendBoth k b (max (t + delay) s.time.ftb) msg).setSlot k fun x => { x with
    latched := x.latched.filter (fun l => l.1 != i), last := if cmd.isSome then cmd else x.last, lastHeld := held, msgSeq := x.msgSeq + 1
    lastSeq := BitVec.ofNat 16 c.cmdSeq, ctr := if held then { x.ctr with held := satInc x.ctr.held } else x.ctr }
  (s.completeInst i).tryStop

/-- RRSC_SLOT (R388–R389): the message leaves within 1,000 ticks of T; one that cannot leave by T + 2,000 is missed. -/
def rrscSlotEffect (i : Inst) (delay : Nat) (s : State) : State :=
  match s.rrscOf i with
  | none => s
  | some (_, k, b, t) =>
    match (s.net.slots[k]).latched.lookup i with
    | none => s
    | some cmd =>
      if 1000 < delay then s
      else if t + 2000 < s.time.ftb then s.startInst 0x12 i fun s _ => s.missSlot i k b t
      else s.startInst 0x12 i fun s _ => s.sendSlot i k b t delay cmd

def execRrscSlot (i : Inst) (delay : Nat) (s : State) : Host.Outcome State Fault Refusal := .next (rrscSlotEffect i delay s)

/-- RRSC_MISSED (R389): at T + 2,000 the message has not left. -/
def rrscMissedEffect (i : Inst) (s : State) : State :=
  match s.rrscOf i with
  | none => s
  | some (_, k, b, t) => s.startInst 0x12 i fun s _ => s.missSlot i k b t

def execRrscMissed (i : Inst) (s : State) : Host.Outcome State Fault Refusal := .next (rrscMissedEffect i s)

end Sys2Proof.Machine
end

