-- ==== Sys2Proof/Machine/Complete.lean ====
section
/-! DEFINITION. INSTANCE_COMPLETE (spec/07 R186): when the work of a timetable instance is over. -/
namespace Sys2Proof.Machine

/-- Thread of a logical Wick that an instance started has reached its halt (R186, R223). -/
def State.wickEnded (s : State) (e : TtEntry) (i : Inst) : Bool :=
  match s.rel.wkPhys e.unit, toFin? 4 e.thread with
  | some w, some t => s.wick[w].threads[t].inst != some i || s.wick[w].reachedHalt t
  | _, _ => true

/-- The channel that the instance started is IDLE (R344). -/
def State.chanEnded (s : State) (e : TtEntry) (i : Inst) : Bool :=
  match toFin? 4 (e.unit / 32), toFin? 32 (e.unit % 32) with
  | some g, some c => s.dma[g].ch[c].inst != some i
  | _, _ => true

/-- No Lantern holds a failed chain of the instance (R452). -/
def State.chainEnded (s : State) (i : Inst) : Bool :=
  s.lan.toList.all fun l => match l.failed with
    | some f => f.inst != i
    | none => true

/-- Every write of a released stripe has been accepted (R375). -/
def State.stripeWritten (s : State) (b : StreamBind) (n k : Nat) : Bool :=
  let lo := rowBase (b.stripeAddr (n % b.d) k)
  let hi := b.stripeAddr (n % b.d) k + b.stripeBytes k
  let in_ (st : Nat) (r : HbmReq) : Bool :=
    let a := hbmAddr st r.pc r.block
    r.port == 92 + b.portA && r.frame == n && decide (lo ≤ a ∧ a < hi)
  !((List.range 4).any fun st => (getOr s.hbm st HbmCtl.reset).reqs.any (in_ st)) &&
  !((getOr s.net.slots b.slot Stream.reset).unwritten.any fun u => u.1 == n && u.2.1 == k)

/-- Every packet of an egress slot has left (R172, R380). -/
def Stream.slotSent (t : Stream) (e : TtEntry) (i : Inst) : Bool :=
  !t.lateRows.contains i && !(t.due.any fun p => p.frame == i.frame && decide (e.arg i.inst ≤ p.row ∧ p.row < e.arg i.inst + e.arg1))

/-- The Stamp record of a frame has left on an ST 2110-40 stream (R172, R383). -/
def State.recordSent (s : State) (b : StreamBind) (frame : Nat) : Bool :=
  s.stamp.records.any fun r => r.slot == b.link && r.frame == frame && r.sent.contains b.slot

/-- The work of an instance that has started is over (R186). RELEASE, MAILBOX_OUT, SNAPSHOT_POINT and RRSC_SLOT complete in their own
commands. -/
def State.ended (s : State) (e : TtEntry) (i : Inst) : Bool :=
  match e.kind with
  | 1 | 3 | 8 => s.chainEnded i
  | 4 => s.wickEnded e i
  | 5 => s.chanEnded e i
  | 6 | 7 | 9 | 0x12 => false
  | 0x10 => match s.job.image.bind fun im => im.stream e.unit with
    | some b => s.stripeWritten b i.frame (e.arg i.inst)
    | none => true
  | 0x11 => match s.job.image.bind fun im => im.stream e.unit with
    | some b => if b.dir = 2 then s.recordSent b i.frame else (getOr s.net.slots e.unit Stream.reset).slotSent e i
    | none => true
  | _ => true

/-- A stripe written to its frame buffer leaves the assembly store (R374). -/
def State.freeStore (s : State) (e : TtEntry) (i : Inst) : State :=
  if e.kind = 0x10 then
    s.setNet { s.net with slots := updNat s.net.slots e.unit fun t =>
      { t with assembly := t.assembly.filter fun a => !(a.frame == i.frame && a.stripe == e.arg i.inst) } }
  else s

/-- The FTB reaches the end of the instance's work on an array, a requantiser or a Wick, as its clock runs (R37, R53). A Wick leaves the
test state with its window. -/
def State.reachEnd (s : State) (e : TtEntry) (i : Inst) : State :=
  match e.kind with
  | 1 | 2 | 3 | 8 =>
    let s := (List.finRange 36).foldl (fun (s : State) n =>
      let s := if s.lan[n].arrInst = some i then s.reach (s.lFtb (n.1 / 9) s.lan[n].drainEnd) else s
      if s.lan[n].rqInst = some i then s.reach (s.lFtb (n.1 / 9) s.lan[n].rqEnd) else s) s
    (List.finRange 52).foldl (fun (s : State) w =>
      if s.wick[w].winInst = some i then
        (s.reach (s.lFtb (w.1 / 13) s.wick[w].winEnd)).setWick w fun k => { k with mode := if k.mode = .test then .idle else k.mode, winInst := none }
      else s) s
  | 4 =>
    match s.rel.wkPhys e.unit with
    | some w => s.reach (s.lFtb (w.1 / 13) s.wick[w].wcyc)
    | none => s
  | _ => s

def instanceCompleteEffect (i : Inst) (s : State) : State :=
  match s.entryOf i with
  | some e => if s.job.started.contains i && !s.done i && s.ended e i then (((s.reachEnd e i).freeStore e i).completeInst i).tryStop else s
  | none => s

def execInstanceComplete (i : Inst) (s : State) : Host.Outcome State Fault Refusal := .next (instanceCompleteEffect i s)

end Sys2Proof.Machine
end

