-- ==== Sys2Proof/Machine/Saddler.lean ====
section
/-! DEFINITION. Events of the Saddler pairs (R443–R445, R469, R471) and writes to CP_IRQ_SWI (R250, R444). -/
namespace Sys2Proof.Machine

/-- R240, R444: SADDLER_INTERRUPT: the lowest pending line is entered; HALT ends (R276). -/
def saddlerInterruptEffect (p : Fin 4) (s : State) : State :=
  let q := s.sad[p]
  if q.fenced || q.victim != .none then s
  else
    match q.irqLine with
    | none => s
    | some n => s.setSad p fun q =>
      { (q.enter q.pc (BitVec.ofNat 64 (0x80 + n)) 0 0x40) with
        pend := q.pend &&& ~~~(BitVec.ofNat 16 (2 ^ n)), asleep := false, line2 := if n = 2 then none else q.line2 }

def execSaddlerInterrupt (p : Fin 4) (s : State) : Host.Outcome State Fault Refusal := .next (saddlerInterruptEffect p s)

/-- R444: the FTB reaches the next multiple of 1,000,000 and raises line 2 on the pairs. -/
def saddlerTimerEffect (s : State) : State :=
  let t := s.reach ((s.time.ftb / 1000000 + 1) * 1000000)
  let u := t.sadLine 2
  { u with sad := u.sad.map fun q => { q with line2 := match q.line2 with | some a => some a | none => some t.time.ftb } }

def execSaddlerTimerTick (s : State) : Host.Outcome State Fault Refusal := .next (saddlerTimerEffect s)

/-- R270, R288–R290, R445: SADDLER_EXCEPTION. FETCH_ERROR and HANG restart the pair. ILLEGAL is raised where the bytes at the program
counter spell no instruction, and a suppressed victim of that kind is consumed. The other causes are raised by the instruction that
has them, with its own command. -/
def saddlerExceptionEffect (p : Fin 4) (cause : Byte) (addr : W64) (s : State) : State :=
  let q := s.sad[p]
  if q.fenced then s
  else if cause = 0x08 ∨ cause = 0x09 then (s.restartPair p).logEv 0x0A03 7 p.1 [(1, cause.toNat), (8, addr.toNat)]
  else if q.asleep || (q.victim == .none && q.irqLine.isSome) || (decodeCompact p (s.mem.bytes q.pc.toNat 4)).isSome || cause != 0x01 then s
  else if q.victim == .suppress then
    s.setSad p fun q => { q with pc := pairPc (q.pc + (if fld (s.mem.bytes q.pc.toNat 2) 0 2 < 0x8000 then 2 else 4)), victim := .none }
  else s.raiseSad p 0x01 0

def execSaddlerException (p : Fin 4) (cause : Byte) (addr : W64) (s : State) : Host.Outcome State Fault Refusal :=
  .next (saddlerExceptionEffect p cause addr s)

/-- The pair that takes the work of pair p (R469). -/
def partner (p : Fin 4) : Fin 4 := ⟨p.1 ^^^ 1, by revert p; decide⟩

/-- R469: SADDLER_DIVERGENCE: the pair restarts; on the third within 60,000,000,000 ticks it is fenced and its partner takes its
work, unless it has taken another pair's. -/
def saddlerDivergenceEffect (p : Fin 4) (s : State) : State :=
  let q := s.sad[p]
  if q.fenced then s
  else
    let times := s.time.ftb :: q.divTimes.filter fun t => decide (s.time.ftb < t + 60000000000)
    let fence := decide (3 ≤ times.length) && !q.tookWork
    let s := (s.restartPair p).setSad p fun q => { q with divTimes := times, fenced := fence }
    let s := if fence then s.setSad (partner p) fun q => { q with tookWork := true } else s
    s.logEv 0x0B0B 7 p.1 [(1, p.1), (4, times.length)]

def execSaddlerDivergence (p : Fin 4) (s : State) : Host.Outcome State Fault Refusal := .next (saddlerDivergenceEffect p s)

/-- R471: WATCHDOG: line 2 stays untaken for 10,000,000 ticks. -/
def watchdogEffect (p : Fin 4) (s : State) : State :=
  match s.sad[p].line2 with
  | none => s
  | some a =>
    if s.sad[p].fenced then s
    else (((s.reach (a + 10000000)).restartPair p).setSad p fun q => { q with line2 := none }).logEv 0x0B0C 7 p.1 [(1, p.1), (8, a)]

def execWatchdog (p : Fin 4) (s : State) : Host.Outcome State Fault Refusal := .next (watchdogEffect p s)

/-- R250, R444: CP_IRQ_SWI_WRITE: the pending bits of enabled software lines of a Wick, or line 3 of a pair. -/
def execCpIrqSwiWrite (tgt : SwiTarget) (value : W32) (s : State) : Host.Outcome State Fault Refusal :=
  .next (match tgt with
    | .wick w t => s.setWick w fun k => k.cpWrite t 0x04 value s.fab s.time.ftb
    | .saddler p => s.sadSwi p value)

end Sys2Proof.Machine
end

