-- ==== Sys2Proof/Machine/Snapshot.lean ====
section
/-! DEFINITION. SNAPSHOT, RESUME, QUERY and FENCE_QUERY (spec/02 R56–R58, spec/07 R203, R214–R219, spec/10 R322, spec/11 R346, spec/15
R430, R437). The layouts of chunks 0x0008, 0x0009 and 0x000B, which the spec leaves open, are the model's (log 38). -/
namespace Sys2Proof.Machine

/-! ## The chunks of an image (R215–R217) -/

/-- A chunk: kind, logical unit, size. -/
structure Chunk where
  kind : Nat
  unit : Nat
  size : Nat
deriving DecidableEq, Repr

/-- Regions of the map store, in region order. -/
def JobImage.mapRegions (im : JobImage) : List Region := im.regions.filter fun g => g.mem == 4

/-- Deterministic HBM ranges: base and length (R351, R217). -/
def JobImage.detRanges (im : JobImage) : List (Nat × Nat) :=
  (List.range 4).filterMap fun k =>
    let d := getOr im.hdr.detPc k 0
    if d = 0 then none else some (k * stackSize, d / 8 * 0x120000000)

/-- Rows of the whole-map regions of an image, each with its region's index (R155). -/
def JobImage.wholeMapRows (im : JobImage) : List (Nat × Nat) :=
  im.regions.zipIdx.flatMap fun x => if x.1.mem = 4 ∧ x.1.granules = 2 then (List.range (2 * x.1.granule)).map fun r => (x.2, r) else []

/-- Bytes that chunk 0x0009 gives a stream: a head of 512 and, for nine frames, 65 for each stripe. -/
def streamBytes (b : StreamBind) : Nat := 1024 + 9 * 65 * b.stripes

/-- Bytes that chunk 0x0008 gives a block: foreground, staged payload, and 16 of staged state. -/
def blockBytes (b : EpochBlk) : Nat := 2 * b.size + 16

/-- Job frames marked under R49 for which chunk 0x0008 has room. -/
def markRoom : Nat := 1024

def JobImage.chunks (im : JobImage) : List Chunk :=
  ((List.range im.hdr.lanterns).map fun l => ⟨1, l, 32768 * 514⟩) ++ ((List.range im.hdr.lanterns).map fun l => ⟨2, l, 65536⟩) ++
  ((List.range im.hdr.wicks).map fun w => ⟨3, w, 0x80000 + 4096 * 514⟩) ++ ((List.range im.hdr.wicks).map fun w => ⟨4, w, 0x16440⟩) ++
  [⟨5, 0, 514 * sumOver im.mapRegions Region.rows⟩] ++ ((List.range 4).map fun e => ⟨6, e, 0x2040⟩) ++ [⟨7, 0, 16 * im.regions.length⟩] ++
  [⟨8, 0, sumOver im.blocks blockBytes + 8 + 256 * 64 + 8 + 8 * markRoom⟩, ⟨9, 0, sumOver im.streams streamBytes⟩, ⟨10, 0, 16 * im.detRanges.length⟩,
   ⟨11, 0, 36 * im.entries.length + 8 * im.regions.length + im.wholeMapRows.length⟩]

def align512 (n : Nat) : Nat := (n + 511) / 512 * 512

/-- Chunks with their offsets in the record. -/
def JobImage.placedChunks (im : JobImage) : List (Chunk × Nat) :=
  let l := im.chunks
  (l.foldl (fun (a : Nat × List (Chunk × Nat)) c => (align512 (a.1 + c.size), a.2 ++ [(c, a.1)])) (align512 (256 + 32 * l.length), [])).2

/-- Bytes of a snapshot record, its trailer included (R215–R216). -/
def JobImage.snapSize (im : JobImage) : Nat :=
  match im.placedChunks.getLast? with
  | some (c, o) => o + c.size + 64
  | none => 320

/-! ## Contents -/

/-- Rows with their data, then one sideband pair for each (R217). -/
def MemBlk.rowChunk (m : MemBlk) (rows : List Nat) : List Byte :=
  (rows.flatMap fun r => m.bytes r 512) ++ rows.flatMap fun r => [m.tag r, if m.poisoned r then 1 else 0]

def MemBlk.putRows (m : MemBlk) (rows : List Nat) (l : List Byte) : MemBlk :=
  (List.zip (List.range rows.length) rows).foldl (fun m p =>
    m.writeRow p.2 0xFFFF (rowOf (slice l (512 * p.1) 512)) (l.getD (512 * rows.length + 2 * p.1) 0)
      ((l.getD (512 * rows.length + 2 * p.1 + 1) 0).getLsbD 0)) m

def lanternRows (n : LnId) : List Nat := (List.range 8192).map (weightRow n.1) ++ (List.range 16384).map (actRow n.1) ++ (List.range 8192).map (psumRow n.1)
def wickRows (w : WkId) : List Nat := (List.range 4096).map (vecRow w.1)
def JobImage.mapRows (im : JobImage) : List Nat := im.mapRegions.flatMap fun g => (List.range g.rows).map fun r => mapRow (g.firstRow + r)

/-- Parameter memory: the foreground places, then the shadow places (R200). -/
def Lantern.paramBytes (l : Lantern) : List Byte := padTo 65536 ((l.params ++ l.paramsSh).flatMap fun p => p.2.bytes)

def Lantern.putParams (l : Lantern) (im : JobImage) (lg : Nat) (b : List Byte) : Lantern :=
  let cs := chansOf im lg
  let sh := cs.filter (covered im)
  { l with
    params := (List.zip (List.range cs.length) cs).map fun p => (p.2, payloadChan b p.1)
    paramsSh := (List.zip (List.range sh.length) sh).map fun p => (p.2, payloadChan b (cs.length + p.1)) }

def s64 (v : BitVec 56) : List Byte := leBytes 8 (v.signExtend 64).toNat

/-- The value set by VSETL as a u64 (R297). -/
def Thread.vsetl (t : Thread) : Nat := t.vl % 0x2000 + 0x10000 * t.sew.1 + 0x40000 * t.grp.1

/-- One thread of chunk 0x0004 (R218, R224, R297). -/
def Thread.bytes (t : Thread) : List Byte :=
  leBytes 8 t.pc.toNat ++ ((t.g.toList.drop 1).flatMap fun x => leBytes 8 x.toNat) ++ (t.shadowG.toList.flatMap fun x => leBytes 8 x.toNat) ++
  padTo 256 (t.stack.reverse.flatMap fun a => leBytes 8 a.toNat) ++
  [BitVec.ofNat 8 t.stack.length, if t.alt then 1 else 0,
   BitVec.ofNat 8 ((match t.run with | .halted => 0 | .running => 1 | .faulted => 2 | .waiting => 3) + (if t.poison then 4 else 0) +
     (if t.ie then 8 else 0)), 0, 0, 0, 0, 0] ++
  leBytes 8 t.vsetl ++ leBytes 8 t.vfidx ++ List.replicate 360 0 ++
  (t.m.toList.flatMap rowBytes) ++ t.v.toList.flatMap rowBytes

/-- A recorded thread; CP_IE has its reset value after RESUME (R224, R250). -/
def threadOf (t : Thread) (b : List Byte) : Thread :=
  let st := fld b 0x282 1
  { t with
    pc := BitVec.ofNat 18 (fld b 0 8), g := Vector.ofFn fun i => if i.1 = 0 then 0 else BitVec.ofNat 64 (fld b (8 * i.1) 8)
    shadowG := Vector.ofFn fun i => BitVec.ofNat 64 (fld b (0x100 + 8 * i.1) 8)
    stack := ((List.range (min 32 (fld b 0x280 1))).map fun i => BitVec.ofNat 18 (fld b (0x180 + 8 * i) 8)).reverse
    alt := bit (fld b 0x281 1) 0, run := [RunState.halted, .running, .faulted, .waiting].getD (st % 4) .halted, poison := bit st 2, ie := false
    vl := bits (fld b 0x288 8) 12 0, sew := Fin.ofNat 4 (bits (fld b 0x288 8) 17 16), grp := Fin.ofNat 4 (bits (fld b 0x288 8) 19 18)
    vfidx := fld b 0x290 8
    m := Vector.ofFn fun i => rowOf (slice b (0x400 + 512 * i.1) 512), v := Vector.ofFn fun i => rowOf (slice b (0x1400 + 512 * i.1) 512)
    buf := [], coming := [], victim := .none, rcw := none, started := none, inst := none, vloads := [] }

/-- Chunk 0x0004 of a Wick (R218, R322). -/
def Wick.bytes (w : Wick) : List Byte :=
  (w.threads.toList.flatMap Thread.bytes) ++ (w.taper.acc.toList.flatMap s64) ++ (w.threads.toList.flatMap fun t => t.accSh.toList.flatMap s64) ++
  (w.taper.tcb.toList.flatMap (leBytes 4)) ++ w.taper.tcl.toList.flatMap (leBytes 4)

def recAcc (b : List Byte) (o : Nat) : BitVec 56 := BitVec.ofNat 56 (fld b o 8)

/-- The control page, OVF, SAT, TSIG and the circular buffers at their reset values (R224, R308, R322; log 82); threads and accumulators as
recorded. -/
def Wick.put (w : Wick) (b : List Byte) : Wick :=
  let w := w.controlReset
  { w with
    threads := Vector.ofFn fun t =>
      { threadOf w.threads[t] (slice b (0x5400 * t.1) 0x5400) with accSh := Vector.ofFn fun i => recAcc b (0x15400 + 1024 * t.1 + 8 * i.1) }
    taper := { w.taper with
      acc := Vector.ofFn fun i => recAcc b (0x15000 + 8 * i.1), tcb := Vector.replicate 8 0, tcl := Vector.replicate 8 65536, loader := none }
    swapped := [], sb := [], pair := none }

/-! ## DMA engines (R346) -/

def DmaDesc.bytes (d : DmaDesc) : List Byte :=
  leBytes 8 d.src ++ leBytes 8 d.dst ++ leBytes 4 (sdet 4 d.srcBStride) ++ leBytes 4 (sdet 4 d.srcLStride) ++ leBytes 4 (sdet 4 d.dstBStride) ++
  leBytes 4 (sdet 4 d.dstLStride) ++ leBytes 2 d.srcBeats ++ leBytes 2 d.srcLines ++ leBytes 2 d.dstBeats ++ leBytes 2 d.dstLines ++
  leBytes 1 d.srcW ++ leBytes 1 d.dstW ++ leBytes 1 d.ctrl ++ leBytes 1 d.share ++ leBytes 1 d.retry ++ leBytes 1 d.tagMode ++ leBytes 1 d.tag ++
  leBytes 1 d.waitEn ++ leBytes 4 d.wait ++ leBytes 4 d.tagRow0 ++ leBytes 4 d.tagPStride ++ leBytes 1 d.tagRows ++ leBytes 3 0

def Chan.bytes (c : Chan) : List Byte :=
  let beat (n per : Nat) : List Byte := leBytes 4 (n % (per + 1)) ++ leBytes 4 (n / (per + 1))
  c.cur.bytes ++ leBytes 4 c.list ++ leBytes 4 c.descIx ++ beat c.srcDone c.cur.srcBeats ++ beat c.dstDone c.cur.dstBeats ++
  leBytes 1 (match c.state with | .idle => 0 | .running => 1 | .halted => 2) ++ leBytes 1 c.hold.length ++ leBytes 1 c.retries ++ [0] ++
  leBytes 2 c.pace ++ List.replicate 34 0 ++ padTo 128 (c.hold.map fun x => x.1)

/-- The engine at M-cycle m, after M-cycles in which no channel was eligible: accumulators have grown, and the slice is lost (R333, R339). -/
def Engine.settled (e : Engine) (m : Nat) : Engine :=
  if e.mcyc < m then { e with
    mcyc := m, owner := none, slice := 0
    ch := e.ch.map fun c => if c.paced then { c with pace := c.paceAfter (m - e.mcyc) } else c } else e

def Engine.bytes (e : Engine) : List Byte :=
  let o (x : Option (Fin 32)) : Nat := match x with | some c => c.1 | none => 0xFF
  (e.ch.toList.flatMap Chan.bytes) ++
  padTo 64 (leBytes 1 (o e.owner) ++ leBytes 1 e.slice ++ leBytes 1 e.lastHigh ++ leBytes 1 e.lastLow ++ leBytes 1 (o e.preempted))

/-- The recorded channel: read-ahead blocks are read again, and the register is empty at a snapshot point (R344, R346). -/
def chanOf (c : Chan) (b : List Byte) : Chan :=
  let d := (dmaRec (slice b 0 64)).getD DmaDesc.zero
  { Chan.reset with
    cur := d, list := fld b 0x40 4, descIx := fld b 0x44 4, srcDone := fld b 0x48 4 + (d.srcBeats + 1) * fld b 0x4C 4
    dstDone := fld b 0x50 4 + (d.dstBeats + 1) * fld b 0x54 4, state := [ChState.idle, .running, .halted].getD (fld b 0x58 1) .idle
    asked := fld b 0x48 4 + (d.srcBeats + 1) * fld b 0x4C 4, retries := fld b 0x5A 1, pace := fld b 0x5C 2, hold := (slice b 0x80 (fld b 0x59 1)).map fun x => (x, 0, false), errAddr := c.errAddr }

def Engine.put (e : Engine) (b : List Byte) : Engine :=
  let o (k : Nat) : Option (Fin 32) := toFin? 32 (fld b (0x2000 + k) 1)
  { e with
    ch := Vector.ofFn fun c => chanOf e.ch[c] (Sys2Proof.Machine.slice b (256 * c.1) 256), owner := o 0, slice := fld b 0x2001 1, lastHigh := fld b 0x2002 1
    lastLow := fld b 0x2003 1, preempted := o 4 }

/-! ## Epochs, streams, sequencers (chunks 0x0007 to 0x000B) -/

def Epoch.bytes (e : Epoch) : List Byte :=
  padTo 64 (leBytes 1 e.ring.1 ++ [if e.carried then 1 else 0] ++ leBytes 2 e.block ++ leBytes 4 e.tag.toNat ++ leBytes 8 e.source ++
    leBytes 8 e.target ++ leBytes 8 e.due ++ leBytes 4 e.seq ++ leBytes 4 e.length ++ leBytes 4 e.crc.toNat ++ leBytes 8 e.order)

def epochFrom (b : List Byte) : Epoch :=
  { ring := Fin.ofNat 64 (fld b 0 1), carried := bit (fld b 1 1) 0, block := fld b 2 2, tag := BitVec.ofNat 32 (fld b 4 4), source := fld b 8 8
    target := fld b 0x10 8, due := fld b 0x18 8, seq := fld b 0x20 4, length := fld b 0x24 4, crc := BitVec.ofNat 32 (fld b 0x28 4)
    order := fld b 0x2C 8 }

def JobBlk.blockChunk (j : JobBlk) (b : EpochBlk) : List Byte :=
  let sh := j.shadows.find? fun x => x.block == b.id
  padTo b.size ((j.front.lookup b.id).getD []) ++ padTo b.size ((sh.map (·.payload)).getD []) ++
  (match sh with
   | some x => [1, if x.verified then 1 else 0, 0, 0, 0, 0, 0, 0] ++ leBytes 8 x.order
   | none => List.replicate 16 0)

/-- Frames marked under R49 whose records a run from frame n on still forms. -/
def JobBlk.marksFrom (j : JobBlk) (n : Nat) : List Nat := ((j.marks.dedup).filter fun m => decide (n ≤ m + 4)).take markRoom

/-- Chunk 0x0008: the blocks, the epochs pending, and the frames marked under R49 (log 38). -/
def JobBlk.epochChunk (j : JobBlk) (im : JobImage) (n : Nat) : List Byte :=
  (im.blocks.flatMap j.blockChunk) ++ leBytes 8 j.epochs.length ++ padTo (256 * 64) (j.epochs.flatMap Epoch.bytes) ++
  leBytes 8 (j.marksFrom n).length ++ padTo (8 * markRoom) ((j.marksFrom n).flatMap (leBytes 8))

/-- Offsets of the blocks' parts in chunk 0x0008. -/
def blockOffsets (l : List EpochBlk) : List (EpochBlk × Nat) :=
  (l.foldl (fun (a : Nat × List (EpochBlk × Nat)) b => (a.1 + blockBytes b, a.2 ++ [(b, a.1)])) (0, [])).2

def JobBlk.putEpochs (j : JobBlk) (im : JobImage) (b : List Byte) : JobBlk :=
  let o := sumOver im.blocks blockBytes
  { j with
    front := (blockOffsets im.blocks).map fun p => (p.1.id, slice b p.2 p.1.size)
    shadows := (blockOffsets im.blocks).filterMap fun p =>
      let q := p.2 + 2 * p.1.size
      if fld b q 1 = 1 then some ⟨p.1.id, fld b (q + 8) 8, slice b (p.2 + p.1.size) p.1.size, bit (fld b (q + 1) 1) 0⟩ else none
    epochs := (List.range (min 256 (fld b o 8))).map fun i => epochFrom (slice b (o + 8 + 64 * i) 64)
    marks := (List.range (min markRoom (fld b (o + 8 + 256 * 64) 8))).map fun i => fld b (o + 16 + 256 * 64 + 8 * i) 8 }

/-- Digest of a released stripe, its leaf complete or not. -/
def StampBlk.leafOf (b : StampBlk) (slot frame stripe : Nat) : List Byte :=
  match b.leaves.find? fun x => x.slot == slot && x.frame == frame && x.idx == stripe with
  | some x => x.digest
  | none => (((b.lanes.toList.filterMap id ++ b.waiting).find? fun x => x.slot == slot && x.frame == frame && x.stripe == stripe).map (·.digest)).getD []

/-- What chunk 0x0009 says of a frame of a video stream: sent with poison, last packet departed, record formed. -/
def State.frameFlags (s : State) (slot frame : Nat) : Byte :=
  let t := getOr s.net.slots slot Stream.reset
  let one (v : Nat) (b : Bool) : Nat := if b then v else 0
  BitVec.ofNat 8 (one 1 (t.poisoned.any fun q => q.1 == frame) + one 2 (t.sentFrames.any fun q => q.1 == frame) +
    one 8 (match s.stamp.lastKey with
      | some k => decide (frame < k.1) || (frame == k.1 && decide (slot ≤ k.2))
      | none => false))

/-- Chunk 0x0009 for one stream at a snapshot in job frame n: sequence numbers and the last RRS-C command, the flags of the frames n − 4 to
n + 4, the frame buffer in use in frame n, and PARAMS of n − 4 to n, then what each stripe of the frames n − 4 to n + 4 was released as, with its leaf. -/
def State.streamChunk (s : State) (n : Nat) (b : StreamBind) : List Byte :=
  let t := getOr s.net.slots b.slot Stream.reset
  padTo 400 (leBytes 4 t.rtpSeq.toNat ++ leBytes 4 t.msgSeq.toNat ++ leBytes 2 t.lastSeq.toNat ++ [if t.lastHeld then 1 else 0] ++
    (match t.last with
     | some c => [1] ++ leBytes 4 c.offset ++ leBytes 4 c.cmdSeq ++ leBytes 8 c.at_ ++ leBytes 4 c.items.length ++
       c.items.flatMap fun i => leBytes 4 i.1 ++ leBytes 4 i.2.toNat
     | none => [0])) ++
  padTo 112 (((List.range 9).map fun d => if n + d < 4 then 0 else s.frameFlags b.slot (n + d - 4)) ++ leBytes 1 (n % max 1 b.d)) ++
  padTo 512 ((List.range 5).flatMap fun d => match s.stamp.params.find? fun x => x.1 + 4 == n + d with
    | some x => [1] ++ padTo 32 x.2
    | none => List.replicate 33 0) ++
  (List.range 9).flatMap fun d => (List.range b.stripes).flatMap fun k =>
    (match t.released.find? fun r => r.frame + 4 == n + d && r.stripe == k with
     | some r => leBytes 1 (r.how + 1) ++ padTo 64 (s.stamp.leafOf b.slot r.frame k)
     | none => List.replicate 65 0)

/-- Frames n − 4 to n + 4 that have a flag of chunk 0x0009. -/
def flaggedFrames (n flag : Nat) (b : List Byte) : List Nat :=
  (List.range 9).filterMap fun d => if n + d < 4 ∨ bit (fld b (400 + d) 1) flag = false then none else some (n + d - 4)

def streamFrom (t : Stream) (n stripes : Nat) (b : List Byte) : Stream :=
  { t with
    rtpSeq := BitVec.ofNat 32 (fld b 0 4), msgSeq := BitVec.ofNat 32 (fld b 4 4), lastSeq := BitVec.ofNat 16 (fld b 8 2), lastHeld := bit (fld b 10 1) 0
    last := if fld b 11 1 = 1 then
        some ⟨fld b 12 4, (List.range (min 30 (fld b 28 4))).map fun i => (fld b (32 + 8 * i) 4, BitVec.ofNat 32 (fld b (36 + 8 * i) 4)),
          fld b 16 4, fld b 20 8⟩
      else none
    poisoned := (flaggedFrames n 0 b).map fun f => (f, 0)
    sentFrames := (flaggedFrames n 1 b).map fun f => (f, 0)
    released := (List.range 9).flatMap fun d => (List.range stripes).filterMap fun k =>
      let how := fld b (1024 + 65 * (d * stripes + k)) 1
      if how = 0 ∨ n + d < 4 then none else some ⟨n + d - 4, k, how - 1⟩ }

/-- Leaves that chunk 0x0009 holds for a stream. -/
def leavesFrom (slot n stripes : Nat) (b : List Byte) : List TreeNode :=
  (List.range 9).flatMap fun d => (List.range stripes).filterMap fun k =>
    let o := 1024 + 65 * (d * stripes + k)
    if fld b o 1 = 0 ∨ n + d < 4 then none else some ⟨slot, n + d - 4, 0, k, slice b (o + 1) 64, 0⟩

/-- PARAMS that chunk 0x0009 holds. -/
def paramsFrom (n : Nat) (b : List Byte) : List (Nat × List Byte) :=
  (List.range 5).filterMap fun d => if n + d < 4 ∨ fld b (512 + 33 * d) 1 = 0 then none else some (n + d - 4, slice b (513 + 33 * d) 32)

/-- The later of two chain keys (R480). -/
def laterKey (a b : Option (Nat × Nat)) : Option (Nat × Nat) :=
  match a, b with
  | some x, some y => if x.1 < y.1 ∨ (x.1 = y.1 ∧ x.2 < y.2) then b else a
  | none, _ => b
  | _, none => a

/-- What chunk 0x0009 gives the Stamp engine for a stream: leaves, PARAMS, and the last record formed. -/
def StampBlk.streamFrom (t : StampBlk) (x : StreamBind) (n : Nat) (b : List Byte) : StampBlk :=
  let keys := if x.dir = 1 then (flaggedFrames n 3 b).map fun f => some (f, x.slot) else []
  { t with
    leaves := t.leaves ++ leavesFrom x.slot n x.stripes b
    params := if t.params.isEmpty then paramsFrom n b else t.params
    lastKey := keys.foldl laterKey t.lastKey }

/-- Chunk 0x000B: for each entry, how many of its instances in each of the frames n − 4 to n + 4 have completed, the row-completion
counters of each region's two buffers, and which rows of the whole-map regions their counters rest on. -/
def State.sequencerChunk (s : State) (im : JobImage) (n : Nat) : List Byte :=
  ((List.range im.entries.length).flatMap fun k => (List.range 9).flatMap fun d =>
    leBytes 4 (s.job.completed.filter fun i => i.entry == k && i.frame + 4 == n + d).length) ++
  ((List.range im.regions.length).flatMap fun g => leBytes 4 (s.fab.rowCount g 0) ++ leBytes 4 (s.fab.rowCount g 1)) ++
  im.wholeMapRows.map fun x => if s.fab.rowHits.contains x then 1 else 0

/-- Instances that chunk 0x000B names as complete. -/
def instancesFrom (im : JobImage) (n : Nat) (b : List Byte) : List Inst :=
  (List.range im.entries.length).flatMap fun k => (List.range 9).flatMap fun d =>
    if n + d < 4 then [] else (List.range (fld b (36 * k + 4 * d) 4)).map fun i => ⟨n + d - 4, k, i⟩

/-! ## The record (R214–R218) -/

/-- The recorded memories are read through their correction (R56, R167, R232, R321). -/
def State.snapReads (s : State) (im : JobImage) : State :=
  let ls := (List.range im.hdr.lanterns).filterMap s.rel.lnPhys
  let ws := (List.range im.hdr.wicks).filterMap s.rel.wkPhys
  let s := (ls.flatMap lanternRows ++ ws.flatMap wickRows ++ im.mapRows).foldl (fun (s : State) r => s.checkRow r allSectors) s
  ws.foldl (fun (s : State) w => (((s.localRead w 0 0x40000).1.localRead w 0x40000 0x20000).1.localRead w 0x60000 0x20000).1) s

/-- Contents of a chunk. Vector-scratchpad rows and local memory are read through the remap, so FG holds the committed copy. -/
def State.chunkData (s : State) (im : JobImage) (n : Nat) (c : Chunk) : List Byte :=
  match c.kind with
  | 1 => match s.rel.lnPhys c.unit with
    | some l => s.mem.rowChunk (lanternRows l)
    | none => []
  | 2 => match s.rel.lnPhys c.unit with
    | some l => s.lan[l].paramBytes
    | none => []
  | 3 => match s.rel.wkPhys c.unit with
    | some w =>
      let rows := (List.range 4096).map fun r => (s.readVecRow w r).2
      s.localBytes w 0 0x40000 ++ s.mem.bytes (wickBase w.1 + 0x40000) 0x40000 ++ (rows.flatMap fun r => rowBytes r.data) ++
        rows.flatMap fun r => [r.tag, if r.poison then 1 else 0]
    | none => []
  | 4 => match s.rel.wkPhys c.unit with
    | some w => s.wick[w].bytes
    | none => []
  | 5 => s.mem.rowChunk im.mapRows
  | 6 => ((getOr s.dma c.unit Engine.reset).settled (mCycle s.time.ftb)).bytes
  | 7 => s.fab.regions.flatMap fun r => leBytes 4 r.start ++ leBytes 4 r.len ++ leBytes 4 r.credits ++ leBytes 4 r.relPos
  | 8 => s.job.epochChunk im n
  | 9 => im.streams.flatMap (s.streamChunk n)
  | 10 => im.detRanges.flatMap fun r => leBytes 8 r.1 ++ leBytes 8 r.2
  | _ => s.sequencerChunk im n

/-- The bytes of the record, trailer included. -/
def State.snapRecord (s : State) (im : JobImage) (n point : Nat) : List Byte :=
  let cs := im.placedChunks
  let data := cs.map fun c => padTo c.1.size (s.chunkData im n c.1)
  let head := ascii "RQ9SNAPS" ++ leBytes 2 1 ++ leBytes 2 0 ++ leBytes 4 cs.length ++ leBytes 8 im.snapSize ++ leBytes 8 n ++ leBytes 4 point ++
    leBytes 4 0 ++ padTo 64 im.digest ++ padTo 64 (s.stamp.head.getD []) ++ leBytes 8 s.time.ftb ++ List.replicate 80 0
  let table := (List.zip cs data).flatMap fun p =>
    leBytes 2 p.1.1.kind ++ leBytes 2 p.1.1.unit ++ leBytes 4 0 ++ leBytes 8 p.1.2 ++ leBytes 8 p.1.1.size ++ leBytes 4 (crc32c p.2).toNat ++ leBytes 4 0
  let body := (padTo (align512 (256 + 32 * cs.length)) (head ++ table) ++ data.flatMap fun d => padTo (align512 d.length) d).take (im.snapSize - 64)
  body ++ sha512 body

/-! ## SNAPSHOT (R56, R203, R214–R215) -/

def JobImage.hasPoint (im : JobImage) : Bool := im.entries.any fun e => e.kind == 9

def snapshotRun (io : IoFail) (s : State) (c : Taken) : State :=
  match s.job.state, s.job.image with
  | .armed, some im =>
    let dest := fld c.entry 0x10 8
    if !im.hasPoint then s.finish c 0x0E 0 im.snapSize io
    else if fld c.entry 0x18 8 < im.snapSize then s.finish c 0x0F 0 im.snapSize io
    else if io.dest || !s.outerOk dest im.snapSize then s.finish c 0x11 0 im.snapSize io
    else
      let n := max (fld c.entry 8 8) (s.job.nextCommit s.time.ftb)
      { s with
        job := { s.job with snap := some ⟨c.ring, c.tag, n, dest⟩ }
        host := { s.host with held := s.host.held ++ [⟨5, c.ring, c.tag, c.ep, 0⟩] } }
  | _, _ => s.finish c 9 0 0 io

def execSnapshot (k : Fin 64) (io : IoFail) (s : State) : Host.Outcome State Fault Refusal :=
  .next (s.takeCommand k io (fun op => op == 5) [(8, 24)] (snapshotRun io))

/-- The snapshot is taken: the record is written, the command completes, and the state becomes STOPPED. -/
def State.takeSnapshot (s : State) (im : JobImage) (r : SnapReq) (point : Nat) : State :=
  let s := s.snapReads im
  let s := s.outerWrite r.dest (s.snapRecord im r.frame point)
  let s := s.logEv 0x010D 0 0 [(8, r.frame), (4, point)]
  let s := match s.host.held.find? fun h => h.opcode == 5 with
    | some h => s.completeHeld h 0 r.frame im.snapSize
    | none => s
  s.stopped

/-- R214: SNAPSHOT_POINT. The point is reached when every instance placed before it is complete, no move is under way
and every line loader is idle (R322). -/
def snapPointEffect (i : Inst) (s : State) : State :=
  match s.entryOf i, s.job.image with
  | some e, some im =>
    let ready := (s.upTo (i.frame + 4)).all (fun p => !s.job.before p.1 p.2 e i || s.done p.2) && !s.job.moves.any fun m => m.endM != 0
    if e.kind ≠ 9 ∨ s.canStart e i = false ∨ ready = false ∨ (s.wick.toList.any fun k => k.taper.loader.isSome) = true then s
    else
      let s := s.reach (s.job.placed e i)
      let s := s.setJob ((s.job.start i).complete i)
      match s.job.snap with
      | some r => if r.frame = i.frame ∧ (s.snapPoint r.frame).map (·.2) = some i then s.takeSnapshot im r i.entry else s.tryStop
      | none => s.tryStop
  | _, _ => s

def execSnapshotPoint (i : Inst) (s : State) : Host.Outcome State Fault Refusal := .next (snapPointEffect i s)

/-! ## RESUME (R57, R203, R219, R435) -/

/-- The status and chunk index of a refused record (R219). -/
def resumeCheck (s : State) (im : JobImage) (b : List Byte) : Option (Nat × Nat) :=
  let cs := im.placedChunks
  let sz := fld b 0x10 8
  let bad (k : Nat) : Bool :=
    let e := slice b (256 + 32 * k) 32
    match cs[k]? with
    | some (c, o) =>
      fld e 0 2 != c.kind || fld e 2 2 != c.unit || fld e 8 8 != o || fld e 0x10 8 != c.size ||
      fld e 0x18 4 != (crc32c (slice b o c.size)).toNat
    | none => true
  if b.take 8 ≠ ascii "RQ9SNAPS" ∨ fld b 8 2 ≠ 1 ∨ sz < 64 ∨ b.length ≠ sz ∨ lastN 64 b ≠ sha512 (b.take (sz - 64)) then some (0x0C, 0)
  else if slice b 0x28 64 ≠ im.digest then some (0x0D, 0)
  else match (List.range cs.length).find? bad with
    | some k => some (0x0C, k)
    | none => if s.unitsOk im.hdr then none else some (5, 0)

/-- A chunk restored into the physical units that the fence map names. -/
def State.putChunk (s : State) (im : JobImage) (n : Nat) (c : Chunk) (b : List Byte) : State :=
  match c.kind with
  | 1 => match s.rel.lnPhys c.unit with
    | some l => s.setMem (s.mem.putRows (lanternRows l) b)
    | none => s
  | 2 => match s.rel.lnPhys c.unit with
    | some l => s.setLan l fun x => x.putParams im c.unit b
    | none => s
  | 3 => match s.rel.wkPhys c.unit with
    | some w => s.setMem ((s.mem.load (wickBase w.1) (slice b 0 0x80000)).putRows (wickRows w) (b.drop 0x80000))
    | none => s
  | 4 => match s.rel.wkPhys c.unit with
    | some w => s.setWick w fun k => k.put b
    | none => s
  | 5 => s.setMem (s.mem.putRows im.mapRows b)
  | 6 => { s with dma := updNat s.dma c.unit fun e => e.put b }
  | 7 => s.setFab { s.fab with regions := (List.range im.regions.length).map fun i =>
      ⟨fld b (16 * i) 4, fld b (16 * i + 4) 4, fld b (16 * i + 8) 4, fld b (16 * i + 12) 4⟩ }
  | 8 => s.setJob (s.job.putEpochs im b)
  | 9 =>
    (im.streams.foldl (fun (a : Nat × State) x =>
      let part := slice b a.1 (streamBytes x)
      let s := a.2
      let s := s.setNet { s.net with slots := updNat s.net.slots x.slot fun t => Sys2Proof.Machine.streamFrom t n x.stripes part }
      (a.1 + streamBytes x, s.setStamp (s.stamp.streamFrom x n part))) (0, s)).2
  | 11 =>
    let done := instancesFrom im n b
    let o := 36 * im.entries.length
    let s := s.setJob { s.job with started := done, completed := done }
    s.setFab { s.fab with
      rowsDone := (List.range im.regions.length).flatMap fun g => [(g, 0, fld b (o + 8 * g) 4), (g, 1, fld b (o + 8 * g + 4) 4)]
      rowHits := im.wholeMapRows.zipIdx.filterMap fun x => if fld b (o + 8 * im.regions.length + x.2) 1 = 0 then none else some x.1 }
  | _ => s

/-- Pending commands whose epochs the record does not hold complete with STOPPED (R435). -/
def State.dropUnrecorded (s : State) (kept : List Epoch) : State :=
  (s.job.epochs.filter fun e => !kept.contains e).foldl (fun (s : State) e => s.endEpoch e 0x17 e.target) s

/-- The record restored and the job armed under R57: weight banks empty, the Stamp chain continued (R68, R219, R480). -/
def State.resumeFrom (s : State) (im : JobImage) (b : List Byte) (l : Nat) : State :=
  let n := fld b 0x18 8
  let kept := match im.placedChunks.find? fun c => c.1.kind == 8 with
    | some (c, o) => (s.job.putEpochs im (slice b o c.size)).epochs
    | none => []
  let s := (s.dropUnrecorded kept).startRun l n
  let s : State := { s with
    lan := s.lan.map fun x => { x with active := [], shadow := [], isolated := true }
    fab := { s.fab with waits := [], held := [] } }
  let s := im.placedChunks.foldl (fun (s : State) c => s.putChunk im n c.1 (slice b c.2 c.1.size)) s
  let order := s.job.epochs.foldl (fun a e => max a (e.order + 1)) s.job.nextOrder
  (s.setJob { s.job with nextOrder := order, resumed := true }).setStamp { s.stamp with
    head := some (slice b 0x68 64), resumed := true, digests := digestsOf s.job.front }

def resumeRun (io : IoFail) (s : State) (c : Taken) : State :=
  let a := fld c.entry 8 8
  let l := fld c.entry 0x10 8
  match s.job.state, s.job.image with
  | .none, _ | _, none => s.finish c 9 l 0 io
  | .armed, _ => s.finish c 1 l 0 io
  | _, some im =>
    let head := s.mem.bytes a 256
    let refuse (s : State) (st k : Nat) : State := (s.logEv 0x0E23 7 s.firmwarePair [(1, st), (4, k)]).finish c st l k io
    if io.source || !s.outerOk a 256 then s.finish c 0x11 l 0 io
    else if head.take 8 ≠ ascii "RQ9SNAPS" ∨ fld head 8 2 ≠ 1 then refuse s 0x0C 0
    else if !s.outerOk a (fld head 0x10 8) then s.finish c 0x11 l 0 io
    else
      let (s, b) := s.outerRead a (fld head 0x10 8)
      match resumeCheck s im b with
      | some (st, k) => refuse s st k
      | none =>
        if !s.job.allBound im then s.finish c 0x0A l 0 io
        else if !s.launchOk l then (s.launchLate l).finish c 0x0B l 0 io
        else ((s.resumeFrom im b l).logEv 0x010E 0 0 [(8, fld b 0x18 8), (8, l)]).finish c 0 l 0 io

def execResume (k : Fin 64) (io : IoFail) (s : State) : Host.Outcome State Fault Refusal :=
  .next (s.takeCommand k io (fun op => op == 6) [(8, 16)] (resumeRun io))

/-! ## QUERY and FENCE_QUERY (R437) -/

def countEntries {n : Nat} (v : Vector FenceEntry n) (st : FenceSt) : Nat := (v.toList.filter fun e => e.st == st).length

def JobBlk.snapSize (j : JobBlk) : Nat :=
  match j.image with
  | some im => im.snapSize
  | none => 0

def State.queryRecord (s : State) : List Byte :=
  padTo 0x40 ([BitVec.ofNat 8 s.job.state.code, BitVec.ofNat 8 s.time.servo.code, 0, 0, 0, 0, 0, 0] ++ leBytes 8 s.jobFrameReg ++ leBytes 8 s.time.ftb ++
    leBytes 8 s.job.snapSize ++ leBytes 8 s.job.launch ++
    leBytes 1 (countEntries s.rel.ln .serving) ++ leBytes 1 (countEntries s.rel.wk .serving) ++ leBytes 1 (countEntries s.rel.ln .spare) ++
    leBytes 1 (countEntries s.rel.wk .spare)) ++
  padTo 192 (match s.job.image with | some im => im.digest | none => [])

def FenceEntry.word (e : FenceEntry) : Nat :=
  e.logNo + 256 * (match e.st with | .serving => 0 | .spare => 1 | .fenced => 2 | .busy => 3) + (if e.prob then 65536 else 0)

def State.fenceAnswer (s : State) : List Byte :=
  padTo 256 (s.rel.ln.toList.flatMap fun e => leBytes 4 e.word) ++ padTo 256 (s.rel.wk.toList.flatMap fun e => leBytes 4 e.word)

/-- A record written to DEST, or BAD_ADDRESS. -/
def State.answerRecord (s : State) (c : Taken) (io : IoFail) (l : List Byte) (r0 r1 : Nat) : State :=
  let a := fld c.entry 8 8
  if io.dest || !s.outerOk a l.length then s.finish c 0x11 0 0 io else (s.outerWrite a l).finish c 0 r0 r1 io

def execQuery (k : Fin 64) (io : IoFail) (s : State) : Host.Outcome State Fault Refusal :=
  .next (s.takeCommand k io (fun op => op == 8) [(8, 8)] fun s c => s.answerRecord c io s.queryRecord s.job.state.code s.job.snapSize)

def execFenceQuery (k : Fin 64) (io : IoFail) (s : State) : Host.Outcome State Fault Refusal :=
  .next (s.takeCommand k io (fun op => op == 9) [(8, 8)] fun s c =>
    s.answerRecord c io s.fenceAnswer (countEntries s.rel.ln .serving) (countEntries s.rel.wk .serving))

end Sys2Proof.Machine
end

