-- ==== Sys2Proof/Machine/Stamp.lean ====
section
/-! DEFINITION. The Stamp engine (spec/17 R474–R483; spec/13 R382–R384): leaf hashes, input trees, records, signatures and the ST 2110-40
packets that carry them. -/
namespace Sys2Proof.Machine

/-! ## Leaves (R474–R475) -/

/-- The ingress engine that released a stripe. -/
def State.engineOf (s : State) (slot : Nat) : Nat :=
  match s.job.image.bind fun im => im.stream slot with
  | some b => b.portA
  | none => 0

/-- The engine's lowest-numbered free lane. -/
def StampBlk.freeLane (b : StampBlk) (p : Nat) : Option (Fin 64) :=
  (List.finRange 64).find? fun l => l.1 / 16 == p && b.lanes[l].isNone

/-- LEAF_HASH_START (R475): the stripe must be the engine's oldest that waits. -/
def leafHashStartEffect (slot : Fin 32) (frame stripe : Nat) (s : State) : State :=
  let p := s.engineOf slot.1
  match s.stamp.waiting.find? fun w => s.engineOf w.slot == p, s.stamp.freeLane p with
  | some w, some l =>
    if w.slot = slot.1 ∧ w.frame = frame ∧ w.stripe = stripe then
      s.setStamp { s.stamp with
        waiting := s.stamp.waiting.erase w, lanes := s.stamp.lanes.set l.1 (some { w with done := s.time.ftb + w.done }) l.2 }
    else s
  | _, _ => s

def execLeafHashStart (slot : Fin 32) (frame stripe : Nat) (s : State) : Host.Outcome State Fault Refusal :=
  .next (leafHashStartEffect slot frame stripe s)

/-- LEAF_HASH_DONE (R475): the leaf is complete and the lane free. -/
def leafHashDoneEffect (l : Fin 64) (s : State) : State :=
  match s.stamp.lanes[l] with
  | some w =>
    let s := s.reach w.done
    s.setStamp { s.stamp with
      lanes := s.stamp.lanes.set l.1 none l.2, leaves := s.stamp.leaves ++ [⟨w.slot, w.frame, 0, w.stripe, w.digest, w.done⟩] }
  | none => s

def execLeafHashDone (l : Fin 64) (s : State) : Host.Outcome State Fault Refusal := .next (leafHashDoneEffect l s)

/-! ## Input trees (R474, R476) -/

/-- Input leaves of a video binding: stream slot and stripe, in order. -/
def JobImage.leavesOf (im : JobImage) (b : StreamBind) : List (Nat × Nat) :=
  (im.covers b).flatMap fun x => (List.range x.stripes).map fun k => (x.slot, k)

/-- Nodes of a level of a tree with n leaves. -/
def levelSize (n : Nat) : Nat → Nat
  | 0 => n
  | l + 1 => (levelSize n l + 1) / 2

/-- Digest and completion count of a node; a last unpaired node passes up unchanged. -/
def StampBlk.node (b : StampBlk) (leaves : List (Nat × Nat)) (slot frame : Nat) : (level idx : Nat) → Option (List Byte × Nat)
  | 0, i =>
    (leaves[i]?).bind fun x => (b.leaves.find? fun t => t.slot == x.1 && t.frame == frame && t.idx == x.2).map fun t => (t.digest, t.done)
  | l + 1, i =>
    if 2 * i + 1 < levelSize leaves.length l then
      (b.nodes.find? fun t => t.slot == slot && t.frame == frame && t.level == l + 1 && t.idx == i).map fun t => (t.digest, t.done)
    else b.node leaves slot frame l (2 * i)

/-- The root of a tree of at most 256 leaves. -/
def StampBlk.root (b : StampBlk) (leaves : List (Nat × Nat)) (slot frame : Nat) : Option (List Byte × Nat) := b.node leaves slot frame 8 0

/-- The video binding of a slot with its image (R474). -/
def State.videoAt (s : State) (slot : Nat) : Option (JobImage × StreamBind) :=
  s.job.image.bind fun im => ((im.stream slot).filter fun b => b.dir == 1).map fun b => (im, b)

/-- PARENT_HASH_DONE (R476): 200 ticks after the later of its children. -/
def parentHashEffect (slot : Fin 32) (frame level idx : Nat) (s : State) : State :=
  match s.videoAt slot.1, level with
  | some (im, b), l + 1 =>
    let leaves := im.leavesOf b
    if levelSize leaves.length l ≤ 2 * idx + 1 ∨ (s.stamp.node leaves slot.1 frame (l + 1) idx).isSome = true then s
    else
      match s.stamp.node leaves slot.1 frame l (2 * idx), s.stamp.node leaves slot.1 frame l (2 * idx + 1) with
      | some x, some y =>
        let e := max x.2 y.2 + 200
        let s := s.reach e
        s.setStamp { s.stamp with nodes := s.stamp.nodes ++ [⟨slot.1, frame, l + 1, idx, sha512 ([1] ++ x.1 ++ y.1), e⟩] }
      | _, _ => s
  | _, _ => s

def execParentHashDone (slot : Fin 32) (frame level idx : Nat) (s : State) : Host.Outcome State Fault Refusal :=
  .next (parentHashEffect slot frame level idx s)

/-! ## Records (R477–R481) -/

/-- Video slots of an image, ascending. -/
def JobImage.videoSlots (im : JobImage) : List Nat :=
  (List.range 32).filter fun k => match im.stream k with
    | some b => b.dir == 1
    | none => false

/-- The job frame and slot of the next record of the chain (R480). -/
def State.nextRecord (s : State) (im : JobImage) : Option (Nat × Nat) :=
  match s.stamp.lastKey with
  | none => im.videoSlots.head?.map fun v => (if s.job.base ≤ 4 then 0 else s.job.base, v)
  | some (m, v) =>
    match im.videoSlots.find? fun k => decide (v < k) with
    | some k => some (m, k)
    | none => im.videoSlots.head?.map fun k => (m + 1, k)

/-- ST 2110-40 bindings that carry a video slot's records and have a place in the timetable. -/
def JobImage.carriers (im : JobImage) (slot : Nat) : List StreamBind :=
  im.streams.filter fun b => b.dir == 2 && b.link == slot && im.entries.any fun e => e.kind == 0x11 && e.unit == b.slot

/-- T40 of a carrier and a frame, once its slot has come. -/
def StampBlk.t40Of (b : StampBlk) (slot frame : Nat) : Option Nat := (b.t40.find? fun t => t.1 == slot && t.2.1 == frame).map fun t => t.2.2

/-- The latest of a list of moments; none while one of them has not come. -/
def latest (l : List (Option Nat)) : Option Nat := l.foldl (fun a x => a.bind fun m => x.map fun n => max m n) (some 0)

/-- The moment at which a record is formed (R481); its predecessor has been formed. -/
def State.formTime (s : State) (im : JobImage) (b : StreamBind) (frame : Nat) : Option Nat :=
  latest ((im.carriers b.slot).map (fun c => s.stamp.t40Of c.slot frame) ++
    [((getOr s.net.slots b.slot Stream.reset).sentFrames.find? fun f => f.1 == frame).map fun f => f.2,
     (s.stamp.root (im.leavesOf b) b.slot frame).map fun r => r.2])

/-- How a covered stripe of a frame was released (R375). -/
def State.howReleased (s : State) (frame : Nat) (x : Nat × Nat) : Nat :=
  match (getOr s.net.slots x.1 Stream.reset).released.find? fun r => r.frame == frame && r.stripe == x.2 with
  | some r => r.how
  | none => 0

/-- The record that video slot `slot` forms in job frame m is signed (R482–R483). -/
def State.signs (s : State) (slot m : Nat) : Bool := m % 64 == 2 * slot % 64 && decide (2 * slot < 64) && s.sec.identity

/-- FLAGS (R478). -/
def State.stampFlags (s : State) (slot m : Nat) (hows : List Nat) : Nat :=
  let one (k : Nat) (b : Bool) : Nat := if b then 2 ^ k else 0
  one 0 (hows.contains 1) + one 1 (s.job.marks.contains m) + one 2 ((getOr s.net.slots slot Stream.reset).poisoned.any fun p => p.1 == m) +
  one 3 (hows.contains 2) + one 4 s.sec.jumperSeen + one 5 s.sec.sealBroken + one 6 (!s.sec.identity) + one 7 (s.signs slot m) +
  one 8 s.stamp.resumed + one 9 s.stamp.head.isNone

/-- PREV (R480). -/
def State.prevDigest (s : State) (im : JobImage) : List Byte :=
  prefix32 (match s.stamp.head with
    | some d => d
    | none => sha512 (ascii "RQ9STAMP" ++ im.digest ++ leBytes 8 s.job.launch))

/-- PARAMS of a frame (R479). -/
def StampBlk.paramsAt (b : StampBlk) (m : Nat) : List Byte := (b.params.lookup m).getD b.paramsNow

/-- The 192 bytes of a record (R477). -/
def State.recordBytes (s : State) (im : JobImage) (b : StreamBind) (m : Nat) : List Byte :=
  let leaves := im.leavesOf b
  let hows := leaves.map (s.howReleased m)
  let root := ((s.stamp.root leaves b.slot m).map (·.1)).getD []
  let subst := hows.foldr (fun h a => 2 * a + if h = 0 then 0 else 1) 0
  [1, BitVec.ofNat 8 b.slot] ++ leBytes 2 (s.stampFlags b.slot m hows) ++ leBytes 2 (hows.countP fun h => h != 0) ++ leBytes 2 leaves.length ++
  leBytes 8 m ++ leBytes 8 (s.job.frameF m) ++ padTo 32 (prefix32 im.digest) ++ padTo 32 (s.stamp.paramsAt m) ++ padTo 32 (prefix32 root) ++
  leBytes 32 subst ++ padTo 32 (s.prevDigest im) ++ List.replicate 8 0

/-- A Stamp signature takes the engine: at once, or from an attestation that it turns out, but not from another Stamp signature (R482, R486). -/
def StampBlk.sign (b : StampBlk) (slot m now : Nat) : StampBlk :=
  match b.engine with
  | some (false, _, _, _) => b
  | _ => { b with engine := some (false, slot, m, now + 250000) }

/-- STAMP_RECORD_FORM (R480–R481): the next record of the chain, at the latest of its moments. -/
def recordFormEffect (slot : Fin 32) (m : Nat) (s : State) : State :=
  match s.videoAt slot.1 with
  | none => s
  | some (im, b) =>
    match s.formTime im b m with
    | none => s
    | some e =>
      if s.job.state ≠ .armed ∨ s.nextRecord im ≠ some (m, slot.1) then s
      else
        let s := s.reach e
        let l := s.recordBytes im b m
        let signed := s.signs slot.1 m
        let t := { s.stamp with
          head := some (sha512 l), resumed := false, lastKey := some (m, slot.1)
          records := s.stamp.records ++ [⟨slot.1, m, l, s.time.ftb, signed, none, []⟩] }
        s.setStamp (if signed then t.sign slot.1 m s.time.ftb else t)

def execStampRecordForm (slot : Fin 32) (m : Nat) (s : State) : Host.Outcome State Fault Refusal := .next (recordFormEffect slot m s)

/-! ## Signatures (R482) -/

/-- The oldest signed record whose signature is still to come takes the free engine. -/
def StampBlk.nextSign (b : StampBlk) (now : Nat) : StampBlk :=
  match b.records.find? fun r => r.signed && r.sig.isNone with
  | some r => b.sign r.slot r.frame now
  | none => b

/-- SIGNATURE_DONE (R482): the signature of the record digest, a free value (log 9). -/
def signatureDoneEffect (s : State) : State :=
  match s.stamp.engine with
  | some (false, slot, m, e) =>
    let s := s.reach e
    let sig (r : StampRec) : List Byte := (List.range 512).map (Config.signature (sha512 r.bytes) s.misc.fresh)
    let t := { s.stamp with
      engine := none
      records := s.stamp.records.map fun (r : StampRec) => if r.slot = slot ∧ r.frame = m ∧ r.signed = true then { r with sig := some (sig r) } else r }
    (s.setStamp (t.nextSign e)).fresh 1
  | _ => s

def execSignatureDone (s : State) : Host.Outcome State Fault Refusal := .next (signatureDoneEffect s)

/-! ## ST 2110-40 carriage (R382–R384, R481) -/

/-- A 10-bit ANC word: b8 is even parity of b7 to b0, b9 its inverse (R382). -/
def ancWord (v : Nat) : Nat :=
  let p := ((List.range 8).countP fun i => bit v i) % 2
  v % 256 + 256 * p + 512 * (1 - p)

/-- Checksum word of ST 291-1 over DID to the last user data word (log 10): nine bits, b9 the inverse of b8. -/
def ancChecksum (l : List Nat) : Nat :=
  let c := l.foldl (fun a w => (a + w % 512) % 512) 0
  c + (if bit c 8 then 0 else 512)

/-- Bits of a number, most significant first. -/
def msbBits (n v : Nat) : List Bool := ((List.range n).map fun i => bit v i).reverse

/-- Bytes of a bit string, most significant first, padded with zeros to a whole number of 32-bit words. -/
def wordAligned (l : List Bool) : List Byte :=
  let n := (l.length + 31) / 32 * 4
  beBytes n (l.foldl (fun a b => 2 * a + if b then 1 else 0) 0 * 2 ^ (8 * n - l.length))

/-- One ANC data packet as RFC 8331 carries it: C 0, Line_Number 0x7FF, Horizontal_Offset 0xFFF, S and StreamNum 0 (log 10). -/
def ancPacket (did sdid : Nat) (data : List Byte) : List Byte :=
  let ws := [ancWord did, ancWord sdid, ancWord data.length] ++ data.map fun b => ancWord b.toNat
  beBytes 4 (0x7FF * 2 ^ 20 + 0xFFF * 2 ^ 8) ++ wordAligned ((ws ++ [ancChecksum ws]).flatMap (msbBits 10))

/-- ANC packets of a record, and of its signature behind it. -/
def StampRec.anc (r : StampRec) : List (List Byte) :=
  ancPacket 0x51 1 r.bytes :: (match r.sig with
    | some g => (List.range 4).map fun i => ancPacket 0x51 (2 + i) (slice g (128 * i) 128)
    | none => [])

/-- RTP payload of a record (RFC 8331; log 10): length, ANC_Count, F 0b00. -/
def StampRec.payload (r : StampRec) : List Byte :=
  let l := r.anc.flatMap id
  beBytes 2 l.length ++ [BitVec.ofNat 8 r.anc.length, 0, 0, 0] ++ l

/-- The oldest record that a carrier has still to send, complete with any signature. -/
def StampBlk.toSend (t : StampBlk) (b : StreamBind) : Option StampRec :=
  (t.records.find? fun r => r.slot == b.link && !r.sent.contains b.slot).filter fun r => !r.signed || r.sig.isSome

/-- STAMP_ANC_PACKET (R383, R481): the packet of the next record leaves on an ST 2110-40 stream. -/
def ancPacketEffect (k : Fin 32) (s : State) : State :=
  match (s.streamAt k).filter fun b => b.dir == 2 with
  | none => s
  | some b =>
    match s.stamp.toSend b with
    | none => s
    | some r =>
      let extra := if r.signed then 250000 else 0
      if s.rrscAhead k b (max (r.formed + extra) s.time.ftb) then s
      else
        let s := s.reach (r.formed + extra)
        let due := ((s.stamp.t40Of b.slot r.frame).map fun t => t + extra).getD s.time.ftb
        let bd := s.bindingAt k.1
        let seq := (s.net.slots[k]).rtpSeq.toNat
        let s := s.sendBoth k b s.time.ftb
          (rtpHead true ((bd.map (·.pt)).getD 0) seq (rtpStamp (s.job.frameF r.frame)) ((bd.map (·.ssrc)).getD 0) ++ r.payload)
        let s := s.setSlot k fun t => { t with rtpSeq := t.rtpSeq + 1 }
        let s := s.setStamp { s.stamp with records := s.stamp.records.map fun x => if x = r then { x with sent := x.sent ++ [b.slot] } else x }
        if due < s.time.ftb then s.logAt due 0x010B 5 b.portA [(1, k.1), (4, s.time.ftb - due), (8, r.frame)] else s

def execStampAncPacket (k : Fin 32) (s : State) : Host.Outcome State Fault Refusal := .next (ancPacketEffect k s)

end Sys2Proof.Machine
end

