-- ==== Sys2Proof/Machine/Vector.lean ====
section
/-! DEFINITION. The vector extension (spec/10 R293–R305): elements and groups, beats, vector memory accesses, gathers; and the issue of
vector and Taper instructions alone or as the second of a pair (R225–R226, R278). -/
namespace Sys2Proof.Machine

/-! ## Issue -/

/-- What a vector or Taper instruction does: its effects in `st`, an exception with its g31 (its effects before it stand: R303), stall
W-cycles and beats. -/
structure VRun where
  st    : State
  exc   : Option (Byte × W64)
  stall : Nat
  beats : Nat

def VRun.ok (s : State) : VRun := ⟨s, none, 0, 0⟩
def VRun.raise (s : State) (cause : Byte) (addr : W64) : VRun := ⟨s, some (cause, addr), 0, 0⟩

/-- How it issues: scalar registers read and written, memory access, whether it waits for beats under way (R298), whether it never
pairs, whether the Taper executes it, and the residue check of its arithmetic. -/
structure VHow where
  reads  : List G
  writes : List G
  mem    : Bool
  beat   : Bool
  alone  : Bool
  taper  : Bool
  part   : Option CheckedPart
deriving DecidableEq, Repr

/-- Beats of an arithmetic vector instruction on elements of at most w bits (R298). -/
def beatsOf (vl w : Nat) : Nat := (vl * w + 2047) / 2048

/-- Stall W-cycles for beats under way at an issue in W-cycle c (R298). -/
def Wick.beatWait (k : Wick) (h : VHow) (c : Nat) : Nat := if h.beat then k.vecBusy - c else 0

/-- A TREP of some thread still runs, so that Taper instructions wait (R245). -/
def Wick.trepRuns (k : Wick) : Bool := k.threads.toList.any fun th => decide (k.rho < th.trepEnd)

/-- A Taper instruction that cannot issue in its slot: TLOAD and TSYNC while the line loader is busy (R318). -/
def Wick.taperHeld (k : Wick) (i : Instr) : Bool :=
  match i with
  | .tload _ _ | .tsync _ => k.taper.loader.isSome
  | _ => false

/-- The second of a pair may issue with the first (R225). -/
def PairFirst.allows (p : PairFirst) (t : Fin 4) (h : VHow) (len : Nat) : Bool :=
  p.thread == t && !h.alone && decide (p.len + len ≤ 16) && !(p.mem && h.mem) &&
  !(h.reads.any fun g => p.writes.contains g) && !(h.writes.any fun g => p.writes.contains g)

/-- The W-cycle in which the instruction issues: the slot's own, or that of the pair of which it is the second (R225, R298). -/
def Wick.issueCycle (k : Wick) (x : VSite) : Nat := if x.pair then (k.pair.map (·.issued)).getD k.wcyc else k.wcyc

/-- The instruction executes in the slot at hand and its bytes are consumed; `u` is 1 alone and 0 as the second of a pair. -/
def State.runVec (s : State) (x : VSite) (h : VHow) (i : Instr) (len u : Nat) (at_ : BitVec 18) (branch : Bool) (run : State → Nat → VRun) :
    State :=
  let k := s.wick[x.w]
  let c := k.issueCycle x
  if h.taper && k.owner != some x.t then s.raise x.w x.t 0x06 0 at_ branch u
  else if h.taper && (k.trepRuns || k.taperHeld i) then (if u = 1 then s.setWick x.w Wick.loseSlot else s)
  else
    let wait := k.beatWait h c
    let s := s.setWick x.w fun k => k.stall wait
    let r := run s (k.rho + u - 1)
    match r.exc with
    | some (e, a) => (r.st.setWick x.w fun k => k.stall r.stall).raise x.w x.t e a at_ branch u
    | none =>
      let s1 := r.st.setWick x.w fun k =>
        { ((k.updT x.t fun th => if branch then th else { th.advance len with victim := .none }).pass u r.stall) with
          pair := none, vecBusy := if r.beats = 0 then k.vecBusy else c + wait + r.beats }
      match h.part with
      | some p => s1.residueWk x.w x.t p x.res
      | none => s1

/-- A vector or Taper instruction in the slot of its thread, or beside the first of a pair. -/
def State.issueVec (s : State) (x : VSite) (i : Instr) (h : VHow) (run : State → Nat → VRun) : State :=
  if x.pair then
    match s.wick[x.w].pair with
    | none => s
    | some p =>
      match decodeWick x.w x.t true x.res s.wick[x.w].testState p.rest with
      | .ok j len => if j == i && p.allows x.t h len then s.runVec x h i len 0 p.next p.branch run else s
      | _ => s
  else if s.wick[x.w].threads[x.t].run != .running then s
  else
    let s1 := s.setWick x.w fun k => k.toSlot x.t
    let th := s1.wick[x.w].threads[x.t]
    if th.victim == .none && (s1.wick[x.w].irqLine x.t).isSome then s
    else
      match decodeWick x.w x.t false x.res s1.wick[x.w].testState th.buf with
      | .short => if th.runsPast then s else s1.setWick x.w Wick.loseSlot
      | .illegal => s
      | .ok j len =>
        if j != i then s
        else if th.victim == .suppress then
          s1.setWick x.w fun k => (k.updT x.t fun th => { th.advance len with victim := .none }).pass 1 0
        else s1.runVec x h i len 1 th.pc false run

/-! ## Registers and elements (R295–R296) -/

def State.thr (s : State) (x : VSite) : Thread := s.wick[x.w].threads[x.t]
def State.updThr (s : State) (x : VSite) (f : Thread → Thread) : State := s.setWick x.w fun k => k.updT x.t f
def State.putG (s : State) (x : VSite) (l : List (G × W64)) : State := s.updThr x fun th => { th with g := regSets th.g l }

def Thread.sewBits (th : Thread) : Nat := 8 * 2 ^ th.sew.1
def Thread.group (th : Thread) : Nat := 2 ^ th.grp.1

/-- Element i, of w bits, of the group that starts at register n (R295). -/
def elemAt (v : Vector Row 32) (n w i : Nat) : Nat := (getOr v (n + i * w / 4096) 0).toNat / 2 ^ (i * w % 4096) % 2 ^ w

/-- A row whose element e, of w bits, is f e. -/
def packRow (w : Nat) (f : Nat → Nat) : Row := BitVec.ofNat 4096 ((List.range (4096 / w)).foldr (fun e acc => f e % 2 ^ w + 2 ^ w * acc) 0)

/-- A group of n registers in which the active elements take f; a register of which an element is written drops a load of it still in
flight (R234). -/
def Thread.putV (th : Thread) (vd w n : Nat) (act : Nat → Bool) (f : Nat → Nat) : Thread :=
  let old := th.v
  { th with
    v := (List.range n).foldl (fun v j => updNat v (vd + j) fun _ => packRow w fun e =>
      let i := j * (4096 / w) + e
      if act i then f i else elemAt old vd w i) th.v
    vloads := th.vloads.filter fun l => !(decide (vd ≤ l.reg.1 ∧ l.reg.1 < vd + n) &&
      (List.range (4096 / w)).any fun e => act ((l.reg.1 - vd) * (4096 / w) + e)) }

/-- An element is active (R296). -/
def Thread.active (th : Thread) (mk : VMask) (i : Nat) : Bool :=
  decide (i < th.vl) && (match mk with | some m => th.m[m].getLsbD i | none => true)

/-- Operand b as an element of the element width (R301). -/
def Thread.rhs (th : Thread) (b : VRhs) (i : Nat) : Nat :=
  match b with
  | .vec vb => elemAt th.v vb.1 th.sewBits i
  | .scalar g => (regGet th.g g).toNat % 2 ^ th.sewBits
  | .imm v => (v.signExtend 64).toNat % 2 ^ th.sewBits

/-- Registers named as groups of g have numbers that are multiples of g (R295). -/
def aligned (g : Nat) (l : List V) : Bool := l.all fun v => v.1 % g == 0

/-- Vector registers and scalar registers that operand b names. -/
def rhsRegs : VRhs → List V
  | .vec vb => [vb]
  | _ => []

def rhsScalars : VRhs → List G
  | .scalar g => [g]
  | _ => []

/-! ## Elementwise instructions (R301) -/

/-- Issue of an arithmetic vector instruction that names these scalar registers. -/
def vecHow (reads writes : List G) : VHow := ⟨reads, writes, false, true, false, false, some .vector⟩

/-- d = f (element width, a, b, old d) on each active element. -/
def runElems (x : VSite) (vd va : V) (b : VRhs) (mk : VMask) (f : (w a b d : Nat) → Nat) (s : State) (_ : Nat) : VRun :=
  let th := s.thr x
  if !aligned th.group ([vd, va] ++ rhsRegs b) then VRun.raise s 0x01 0
  else
    let w := th.sewBits
    { VRun.ok (s.updThr x fun t => t.putV vd.1 w t.group (t.active mk) fun i =>
        f w (elemAt t.v va.1 w i) (t.rhs b i) (elemAt t.v vd.1 w i)) with beats := beatsOf th.vl w }

/-- A vector instruction of the arithmetic group. -/
def vecOp (x : VSite) (i : Instr) (vd va : V) (b : VRhs) (mk : VMask) (f : (w a b d : Nat) → Nat) (s : State) : State :=
  s.issueVec x i (vecHow (rhsScalars b) []) (runElems x vd va b mk f)

/-- The signed value of a w-bit element, and a w-bit image of a value. -/
def sgn (w v : Nat) : Int := (BitVec.ofNat w v).toInt
def img (w : Nat) (v : Int) : Nat := (BitVec.ofInt w v).toNat

/-- R301: VADD, VSUB. -/
def execVaddVsub (x : VSite) (sub : Bool) (vd va : V) (b : VRhs) (mk : VMask) (s : State) : Host.Outcome State Fault Refusal :=
  .next (vecOp x (.vaddVsub x sub vd va b mk) vd va b mk (fun w a b _ => if sub then (a + 2 ^ w - b) % 2 ^ w else (a + b) % 2 ^ w) s)

/-- R301: VMUL, VMACC. -/
def execVmulVmacc (x : VSite) (acc : Bool) (vd va : V) (b : VRhs) (mk : VMask) (s : State) : Host.Outcome State Fault Refusal :=
  .next (vecOp x (.vmulVmacc x acc vd va b mk) vd va b mk (fun w a b d => (if acc then d + a * b else a * b) % 2 ^ w) s)

/-- R301: VMULH, VMULHU. -/
def execVmulhVmulhu (x : VSite) (uns : Bool) (vd va : V) (b : VRhs) (mk : VMask) (s : State) : Host.Outcome State Fault Refusal :=
  .next (vecOp x (.vmulhVmulhu x uns vd va b mk) vd va b mk (fun w a b _ =>
    (mulHigh uns (BitVec.ofNat w a) (BitVec.ofNat w b)).toNat) s)

/-- R301: VAND, VOR, VXOR. -/
def execVandVorVxor (x : VSite) (op : LogicOp) (vd va : V) (b : VRhs) (mk : VMask) (s : State) : Host.Outcome State Fault Refusal :=
  .next (vecOp x (.vandVorVxor x op vd va b mk) vd va b mk (fun w a b _ => (logicOp op (BitVec.ofNat w a) (BitVec.ofNat w b)).toNat) s)

/-- R301: VSHL, VSHR, VSAR by b mod SEW. -/
def execVshlVshrVsar (x : VSite) (op : ShiftOp) (vd va : V) (b : VRhs) (mk : VMask) (s : State) : Host.Outcome State Fault Refusal :=
  .next (vecOp x (.vshlVshrVsar x op vd va b mk) vd va b mk (fun w a b _ => (shiftOp op (BitVec.ofNat w a) (b % w)).toNat) s)

/-- R301: VRSR. -/
def execVrsr (x : VSite) (vd va : V) (b : VRhs) (mk : VMask) (s : State) : Host.Outcome State Fault Refusal :=
  .next (vecOp x (.vrsr x vd va b mk) vd va b mk (fun w a b _ => img w (roundShift (sgn w a) (b % w))) s)

/-- The minimum or maximum of two w-bit elements. -/
def minMax (op : VMinMax) (w a b : Nat) : Nat :=
  match op with
  | .min => if sgn w a ≤ sgn w b then a else b
  | .max => if sgn w a ≤ sgn w b then b else a
  | .minu => min a b
  | .maxu => max a b

/-- R301: VMIN, VMAX, VMINU, VMAXU. -/
def execVminVmax (x : VSite) (op : VMinMax) (vd va : V) (b : VRhs) (mk : VMask) (s : State) : Host.Outcome State Fault Refusal :=
  .next (vecOp x (.vminVmax x op vd va b mk) vd va b mk (fun w a b _ => minMax op w a b) s)

/-- R301: VSADD, VSSUB. -/
def execVsaddVssub (x : VSite) (sub : Bool) (vd va : V) (b : VRhs) (mk : VMask) (s : State) : Host.Outcome State Fault Refusal :=
  .next (vecOp x (.vsaddVssub x sub vd va b mk) vd va b mk (fun w a b _ =>
    img w (satS w (if sub then sgn w a - sgn w b else sgn w a + sgn w b))) s)

/-! ## Masks, selection and moves (R301, R304) -/

/-- A mask register in which bit i is f i for each i that `act` names. -/
def putMask (old : Row) (act f : Nat → Bool) : Row := packRow 1 fun i => if (if act i then f i else old.getLsbD i) then 1 else 0

/-- R301: VCMP.cc. -/
def execVcmp (x : VSite) (cc : Cond) (md : M) (va : V) (b : VRhs) (mk : VMask) (s : State) : Host.Outcome State Fault Refusal :=
  .next (s.issueVec x (.vcmp x cc md va b mk) (vecHow (rhsScalars b) []) fun s _ =>
    let th := s.thr x
    if !aligned th.group (va :: rhsRegs b) then VRun.raise s 0x01 0
    else
      let w := th.sewBits
      let f (i : Nat) : Bool := condHolds cc (BitVec.ofNat w (elemAt th.v va.1 w i)) (BitVec.ofNat w (th.rhs b i))
      { VRun.ok (s.updThr x fun t => { t with m := upd t.m md fun old => putMask old (t.active mk) f }) with beats := beatsOf th.vl w })

/-- R301: VSEL, for every i < vl. -/
def execVsel (x : VSite) (vd va vb : V) (mk : M) (s : State) : Host.Outcome State Fault Refusal :=
  .next (s.issueVec x (.vsel x vd va vb mk) (vecHow [] []) fun s _ =>
    let th := s.thr x
    if !aligned th.group [vd, va, vb] then VRun.raise s 0x01 0
    else
      let w := th.sewBits
      { VRun.ok (s.updThr x fun t => t.putV vd.1 w t.group (t.active none) fun i =>
          if t.m[mk].getLsbD i then elemAt t.v va.1 w i else elemAt t.v vb.1 w i) with beats := beatsOf th.vl w })

/-- R301: VMVS. -/
def execVmvs (x : VSite) (vd : V) (ga : G) (mk : VMask) (s : State) : Host.Outcome State Fault Refusal :=
  .next (s.issueVec x (.vmvs x vd ga mk) (vecHow [ga] []) fun s _ =>
    let th := s.thr x
    if !aligned th.group [vd] then VRun.raise s 0x01 0
    else
      let w := th.sewBits
      { VRun.ok (s.updThr x fun t => t.putV vd.1 w t.group (t.active mk) fun _ => (regGet t.g ga).toNat % 2 ^ w) with beats := beatsOf th.vl w })

/-- R301: VMVX, one beat. -/
def execVmvx (x : VSite) (gd : G) (va : V) (gb : G) (s : State) : Host.Outcome State Fault Refusal :=
  .next (s.issueVec x (.vmvx x gd va gb) (vecHow [gb] [gd]) fun s _ =>
    let th := s.thr x
    if !aligned th.group [va] then VRun.raise s 0x01 0
    else
      let w := th.sewBits
      let i := (regGet th.g gb).toNat
      { VRun.ok (s.putG x [(gd, if th.vl ≤ i then 0 else BitVec.ofInt 64 (sgn w (elemAt th.v va.1 w i)))]) with beats := 1 })

/-- R301: VSLUP, VSLDN. -/
def execVslupVsldn (x : VSite) (down : Bool) (vd va : V) (k : BitVec 32) (mk : VMask) (s : State) : Host.Outcome State Fault Refusal :=
  .next (s.issueVec x (.vslupVsldn x down vd va k mk) (vecHow [] []) fun s _ =>
    let th := s.thr x
    if !aligned th.group [vd, va] then VRun.raise s 0x01 0
    else
      let w := th.sewBits
      { VRun.ok (s.updThr x fun t => t.putV vd.1 w t.group (t.active mk) fun i =>
          if down then (if i + k.toNat < t.vl then elemAt t.v va.1 w (i + k.toNat) else 0)
          else if k.toNat ≤ i then elemAt t.v va.1 w (i - k.toNat) else 0) with beats := beatsOf th.vl w })

/-- The widening and narrowing instructions need SEW ≤ 32 and 2G ≤ 8 (R301). -/
def Thread.wideOk (th : Thread) : Bool := decide (th.sew.1 ≤ 2 ∧ th.grp.1 ≤ 2)

/-- R301: VWIDS, VWIDU. -/
def execVwidsVwidu (x : VSite) (uns : Bool) (vd va : V) (mk : VMask) (s : State) : Host.Outcome State Fault Refusal :=
  .next (s.issueVec x (.vwidsVwidu x uns vd va mk) (vecHow [] []) fun s _ =>
    let th := s.thr x
    let w := th.sewBits
    if !th.wideOk || !aligned (2 * th.group) [vd] || !aligned th.group [va] then VRun.raise s 0x01 0
    else
      { VRun.ok (s.updThr x fun t => t.putV vd.1 (2 * w) (2 * t.group) (t.active mk) fun i =>
          let a := elemAt t.v va.1 w i
          if uns then a else img (2 * w) (sgn w a)) with beats := beatsOf th.vl (2 * w) })

/-- R301: VNRS. For a shift above 2·SEW − 1 the spec states no result: free values (log 9). -/
def execVnrs (x : VSite) (vd va : V) (imm : BitVec 32) (mk : VMask) (s : State) : Host.Outcome State Fault Refusal :=
  .next (s.issueVec x (.vnrs x vd va imm mk) (vecHow [] []) fun s _ =>
    let th := s.thr x
    let w := th.sewBits
    if !th.wideOk || !aligned th.group [vd] || !aligned (2 * th.group) [va] then VRun.raise s 0x01 0
    else
      let out := decide (2 * w ≤ imm.toNat)
      let n := s.misc.fresh
      let s := if out then s.fresh 4096 else s
      { VRun.ok (s.updThr x fun t => t.putV vd.1 w t.group (t.active mk) fun i =>
          if out then (Config.freeWord (n + i)).toNat % 2 ^ w
          else img w (satS w (roundShift (sgn (2 * w) (elemAt t.v va.1 (2 * w) i)) imm.toNat))) with beats := beatsOf th.vl (2 * w) })

/-! ## Reductions, counts and CRC (R301) -/

/-- The reduction of the active elements, extended to 64 bits; 0 when none is active. -/
def reduce (op : VRed) (w : Nat) (l : List Nat) : W64 :=
  match op, l with
  | _, [] => 0
  | .sum, l => BitVec.ofInt 64 ((l.map (sgn w)).sum)
  | .min, a :: t => BitVec.ofInt 64 (sgn w (t.foldl (minMax .min w) a))
  | .max, a :: t => BitVec.ofInt 64 (sgn w (t.foldl (minMax .max w) a))
  | .minu, a :: t => BitVec.ofNat 64 (t.foldl min a)
  | .maxu, a :: t => BitVec.ofNat 64 (t.foldl max a)

/-- R301: the reductions, 8 + b stall W-cycles. -/
def execVreduction (x : VSite) (op : VRed) (gd : G) (va : V) (mk : VMask) (s : State) : Host.Outcome State Fault Refusal :=
  .next (s.issueVec x (.vreduction x op gd va mk) (vecHow [] [gd]) fun s _ =>
    let th := s.thr x
    if !aligned th.group [va] then VRun.raise s 0x01 0
    else
      let w := th.sewBits
      let l := ((List.range th.vl).filter (th.active mk)).map fun i => elemAt th.v va.1 w i
      { VRun.ok (s.putG x [(gd, reduce op w l)]) with stall := 8 + beatsOf th.vl w })

/-- R301: VMPOP, one beat. -/
def execVmpop (x : VSite) (gd : G) (mk : M) (s : State) : Host.Outcome State Fault Refusal :=
  .next (s.issueVec x (.vmpop x gd mk) (vecHow [] [gd]) fun s _ =>
    let th := s.thr x
    { VRun.ok (s.putG x [(gd, BitVec.ofNat 64 ((List.range th.vl).filter fun i => th.m[mk].getLsbD i).length)]) with beats := 1 })

/-- R294: VSETL; cfg[7:4] must be 0. -/
def execVsetl (x : VSite) (gd ga : G) (cfg : Byte) (s : State) : Host.Outcome State Fault Refusal :=
  .next (s.issueVec x (.vsetl x gd ga cfg) ⟨[ga], [gd], false, true, false, false, none⟩ fun s _ =>
    if 16 ≤ cfg.toNat then VRun.raise s 0x01 0
    else
      let sew : Fin 4 := ⟨cfg.toNat % 4, Nat.mod_lt _ (by decide)⟩
      let grp : Fin 4 := ⟨cfg.toNat / 4 % 4, Nat.mod_lt _ (by decide)⟩
      let vl := min (regGet (s.thr x).g ga).toNat (4096 * 2 ^ grp.1 / (8 * 2 ^ sew.1))
      VRun.ok ((s.updThr x fun t => { t with sew := sew, grp := grp, vl := vl }).putG x [(gd, BitVec.ofNat 64 vl)]))

/-! ## Vector memory (R299–R300) -/

/-- A vector instruction uses the scratchpad engine port for n W-cycles, which a line load from it waits for (R320). -/
def Wick.delayLoader (k : Wick) (n : Nat) : Wick :=
  { k with taper := { k.taper with loader := k.taper.loader.map fun l => if l.fromX then l else { l with endAt := l.endAt + n } } }

/-- A row of the vector scratchpad read by an instruction; poison sets the thread's flag (R247). -/
def State.vecRead (s : State) (x : VSite) (r : Nat) : State × Row :=
  let (t, d) := s.readVecRow x.w r
  (if d.poison then t.poisonThread x.w x.t 0 r else t, d.data)

/-- The rows of a VLD or VST; none where the address raises VECTOR (R300). -/
def vecRows (ea : W64) (r : Nat) : Option Nat :=
  if r = 0 then some 0
  else if ea.toNat % 512 = 0 ∧ ea.toNat + 512 * r ≤ 0x200000 then some (ea.toNat / 512) else none

def Thread.rows (th : Thread) : Nat := (th.vl * th.sewBits + 4095) / 4096

/-- R299–R300: VLD; the group is written at the end of the 6th unstalled W-cycle after issue (R234). -/
def execVld (x : VSite) (vd : V) (m : AMode) (gb : G) (s : State) : Host.Outcome State Fault Refusal :=
  .next (s.issueVec x (.vld x vd m gb) ⟨modeReads m gb, if modeUpdates m then [gb] else [], true, true, false, false, none⟩ fun s slot =>
    let th := s.thr x
    let r := th.rows
    let (ea, nb) := eaOf m th.g gb
    if !aligned th.group [vd] then VRun.raise s 0x01 0
    else
      match vecRows ea r with
      | none => VRun.raise s 0x03 ea
      | some r0 =>
        let s1 := (List.range r).foldl (fun (s : State) i =>
          let (u, d) := s.vecRead x (r0 + i)
          u.updThr x fun t => { t with vloads := t.vloads ++
            ((toFin? 32 (vd.1 + i)).map fun v => (⟨v, d, slot + 6⟩ : VLoad)).toList }) s
        { VRun.ok ((s1.putG x ((nb.map fun b => (gb, b)).toList)).setWick x.w fun k => k.delayLoader r) with stall := r - 1 })

/-- R299–R300: VST, whole rows with the tag gt[7:0], poisoned under R247. -/
def execVst (x : VSite) (vs : V) (m : AMode) (gb gt : G) (s : State) : Host.Outcome State Fault Refusal :=
  .next (s.issueVec x (.vst x vs m gb gt) ⟨gt :: modeReads m gb, if modeUpdates m then [gb] else [], true, true, false, false, none⟩ fun s _ =>
    let th := s.thr x
    let r := th.rows
    let (ea, nb) := eaOf m th.g gb
    if !aligned th.group [vs] then VRun.raise s 0x01 0
    else
      match vecRows ea r with
      | none => VRun.raise s 0x03 ea
      | some r0 =>
        let s1 := (List.range r).foldl (fun (s : State) i =>
          s.writeVecRow x.w (r0 + i) 0xFFFF (getOr th.v (vs.1 + i) 0) ((regGet th.g gt).setWidth 8) th.poison) s
        { VRun.ok ((s1.putG x ((nb.map fun b => (gb, b)).toList)).setWick x.w fun k => k.delayLoader r) with stall := r - 1 })

/-- R267, R301: VCRC over the 512 bytes of the row at ga; VECTOR when ga is no row of the scratchpad. With vl = 0 it makes no access
(R296), and the spec states no result: a free value (log 81). -/
def execVcrc (x : VSite) (gd ga gb : G) (s : State) : Host.Outcome State Fault Refusal :=
  .next (s.issueVec x (.vcrc x gd ga gb) ⟨[ga, gb, gd], [gd], true, true, false, false, some .vector⟩ fun s _ =>
    let th := s.thr x
    let a := regGet th.g ga
    if th.vl = 0 then
      { VRun.ok ((s.fresh 1).putG x [(gd, ((Config.freeWord s.misc.fresh).setWidth 32).setWidth 64)]) with stall := 72 }
    else
    match vecRows a 1 with
    | none => VRun.raise s 0x03 a
    | some r =>
      let (u, d) := s.vecRead x r
      let c := (rowBytes d).foldl (crcByte (crcPoly (regGet th.g gb))) ((regGet th.g gd).setWidth 32)
      { VRun.ok ((u.putG x [(gd, c.setWidth 64)]).setWick x.w fun k => k.delayLoader 1) with stall := 72 })

/-! ## Gathers (R302–R303) -/

/-- What a gather has come to: the state, the register, and the address of the element that faults. -/
structure Gather where
  st    : State
  reg   : Row
  fault : Option (Nat × W64)

/-- One element of a gather: e bytes at ga + index · e. -/
def gatherStep (x : VSite) (ga : W64) (idx : Row) (e : Nat) (g : Gather) (k : Nat) : Gather :=
  match g.fault with
  | some _ => g
  | none =>
    let a : W64 := ga + BitVec.ofNat 64 (idx.toNat / 2 ^ (8 * e * k) % 2 ^ (8 * e) * e)
    if a.toNat % e ≠ 0 ∨ 0x200000 < a.toNat + e then { g with fault := some (k, a) }
    else
      let (u, d) := g.st.vecRead x (a.toNat / 512)
      let v := d.toNat / 2 ^ (8 * (a.toNat % 512)) % 2 ^ (8 * e)
      { g with st := u, reg := packRow (8 * e) fun i => if i = k then v else g.reg.toNat / 2 ^ (8 * e * i) % 2 ^ (8 * e) }

/-- R302–R303: VGTH, 16 stall W-cycles; it resumes at VFIDX. It names single registers (DEDUCED, log 31). -/
def execVgth (x : VSite) (vd : V) (ga : G) (vi : V) (s : State) : Host.Outcome State Fault Refusal :=
  .next (s.issueVec x (.vgth x vd ga vi) ⟨[ga], [], true, true, false, false, none⟩ fun s _ =>
    let th := s.thr x
    let e := th.sewBits / 8
    let g := ((List.range 16).filter fun k => th.vfidx ≤ k).foldl (gatherStep x (regGet th.g ga) th.v[vi] e) ⟨s, th.v[vd], none⟩
    let st := (g.st.updThr x fun t => { t with
      v := upd t.v vd fun _ => g.reg
      vloads := if g.fault.any fun f => decide (f.1 ≤ th.vfidx) then t.vloads else t.vloads.filter fun l => l.reg != vd
      vfidx := match g.fault with | some (k, _) => k | none => 0 }).setWick x.w fun k => k.delayLoader 16
    ⟨st, g.fault.map fun f => (0x03, f.2), 16, 0⟩)

end Sys2Proof.Machine
end

