-- ==== Sys2Proof/Machine/Taper.lean ====
section
/-! DEFINITION. The Taper coprocessor (spec/10 R306–R324): multiply–accumulate, repeats, scaling, the line loader and the test-state
forms. -/
namespace Sys2Proof.Machine

def State.tap (s : State) (x : VSite) : Taper := s.wick[x.w].taper
def State.updTap (s : State) (x : VSite) (f : Taper → Taper) : State := s.setWick x.w fun k => { k with taper := f k.taper }

/-- Issue of a Taper instruction; `beat` for TOUT, TEXP and TNORM (R298). -/
def taperHow (reads writes : List G) (beat : Bool) (part : Option CheckedPart) : VHow := ⟨reads, writes, false, beat, false, true, part⟩

/-- Accumulator a_j of lane l stands at 4l + j. -/
def accIx (l j : Nat) : Nat := 4 * l + j

/-! ## Pointers (R309) -/

/-- One pointer of a TMAC: circular through a buffer (TCB, TCL) or linear, and its increment. -/
structure Pointer where
  buf : Option (Nat × Nat)
  inc : Int
deriving DecidableEq, Repr

/-- The pointer may fetch n elements. -/
def Pointer.ok (q : Pointer) (p : Int) (n : Nat) : Bool :=
  match q.buf with
  | some (b, l) => decide (b ≤ p ∧ p < b + l)
  | none => decide (0 ≤ p ∧ p + n ≤ 65536)

/-- Element i of a fetch. -/
def Pointer.elem (q : Pointer) (p : Int) (i : Nat) : Nat :=
  match q.buf with
  | some (b, l) => b + ((p - b + i) % l).toNat
  | none => (p + i).toNat

/-- The pointer after a step. -/
def Pointer.step (q : Pointer) (p : Int) : Int :=
  match q.buf with
  | some (b, l) => b + (p - b + q.inc) % l
  | none => p + q.inc

/-- The first pointer value of n + 1 iterations that breaks R309: a circular one can fail only at its start, a linear one at its first
or last fetch (R313). -/
def Pointer.fails (q : Pointer) (p : Int) (n cnt : Nat) : Option Int :=
  if !q.ok p cnt then some p
  else if q.buf.isNone && !q.ok (p + n * q.inc) cnt then some (p + n * q.inc)
  else none

/-- The X and Y pointers that the operand bytes name (R310). -/
def pointers (t : Taper) (a : TmacArgs) : Pointer × Pointer :=
  let c (on : Bool) (i : Nat) : Option (Nat × Nat) := if on then some (getOr t.tcb i 0, getOr t.tcl i 0) else none
  let cb := a.cb.toNat
  (⟨c (bit cb 7) (bits cb 6 4), a.ix.toInt⟩, ⟨c (bit cb 3) (bits cb 2 0), a.iy.toInt⟩)

/-! ## Multiply and accumulate (R310–R311, R324) -/

/-- Elements of X or Y from the pointer on, through the correction (R321): an uncorrectable element sets the thread's POISON flag. -/
def State.fetchElems (s : State) (x : VSite) (y : Bool) (q : Pointer) (p : Int) (n : Nat) : State × List Nat :=
  (List.range n).foldl (fun (a : State × List Nat) i =>
    let e := q.elem p i
    let (u, bad) := a.1.checkElem x.w y e 0
    let u := if bad then u.poisonThread x.w x.t 1 e else u
    (u, a.2 ++ [leNat (u.mem.bytes (wickBase x.w.1 + (if y then 0x00060000 else 0x00040000) + 2 * e) 2)])) (s, [])

/-- An accumulator takes a result; one outside 56 bits is saturated, sets OVF, and is logged once in an instance (R311). -/
def State.putAcc (s : State) (x : VSite) (l j : Nat) (v : Int) : State :=
  let r := acc56 v
  let s1 := s.updTap x fun t => { t with acc := updNat t.acc (accIx l j) fun _ => r.1, ovf := t.ovf || r.2 }
  if r.2 && !(s.thr x).ovfLog then
    (s1.updThr x fun th => { th with ovfLog := true }).logEv 0x0507 2 x.w.1 [(1, x.t.1), (1, j), (1, l)]
  else s1

/-- One iteration: the products of 32 X elements with Y, added to the accumulators, or in place of them with CLR; TMACS also folds the
low 32 bits of each product into TSIG (R324). -/
def State.tmacOnce (s : State) (x : VSite) (a : TmacArgs) (test clr : Bool) (px py : Pointer) (gx gy : Int) : State :=
  let xs := bit a.fl.toNat 0
  let (s, ex) := s.fetchElems x false px gx 32
  let (s, ey) := s.fetchElems x true py gy (if test then 32 else 4)
  let lanes := (List.range 32).flatMap fun l => (List.range 4).map fun j => (l, j)
  lanes.foldl (fun (s : State) lj =>
    let l := lj.1
    let j := lj.2
    let vx : Int := if xs then sgn 16 (ex.getD l 0) else ex.getD l 0
    let vy : Int := sgn 16 (ey.getD (if test then (l + 8 * j) % 32 else j) 0)
    let old : Int := if clr then 0 else (getOr (s.tap x).acc (accIx l j) 0).toInt
    let s := s.putAcc x l j (old + vx * vy)
    if test then s.updTap x fun t => { t with tsig := crcSteps 0x82F63B78 32 (img 32 (vx * vy)) t.tsig } else s) s

/-- n + 1 iterations from the pointers gx and gy; CLR acts in the first only (R312). -/
def State.tmacRun (x : VSite) (a : TmacArgs) (test : Bool) (px py : Pointer) : (n : Nat) → (clr : Bool) → (gx gy : Int) → State → State × Int × Int
  | 0, clr, gx, gy, s => (s.tmacOnce x a test clr px py gx gy, px.step gx, py.step gy)
  | n + 1, clr, gx, gy, s => State.tmacRun x a test px py n false (px.step gx) (py.step gy) (s.tmacOnce x a test clr px py gx gy)

/-- TMAC, TMACS and TREP of n + 1 iterations: the pointer check before the first (R310, R313), then the iterations and the stepped
pointers. fl[7:2] must be 0. -/
def runTmac (x : VSite) (a : TmacArgs) (test : Bool) (n : Nat) (s : State) : VRun :=
  let g := (s.thr x).g
  let gx : Int := (regGet g a.gx).toNat
  let gy : Int := (regGet g a.gy).toNat
  let (px, py) := pointers (s.tap x) a
  if 4 ≤ a.fl.toNat then VRun.raise s 0x01 0
  else
    match px.fails gx n 32, py.fails gy n (if test then 32 else 4) with
    | some p, _ => VRun.raise s 0x03 (BitVec.ofInt 64 p)
    | none, some p => VRun.raise s 0x03 (BitVec.ofInt 64 p)
    | none, none =>
      let (u, ex, ey) := State.tmacRun x a test px py n (bit a.fl.toNat 1) gx gy s
      VRun.ok (u.putG x [(a.gx, BitVec.ofInt 64 ex), (a.gy, BitVec.ofInt 64 ey)])

/-- R310: TMAC. -/
def execTmac (x : VSite) (a : TmacArgs) (s : State) : Host.Outcome State Fault Refusal :=
  .next (s.issueVec x (.tmac x a) (taperHow [a.gx, a.gy] [a.gx, a.gy] false (some .taper)) fun s _ => runTmac x a false 0 s)

/-- R324: TMACS, in test or recovery state. -/
def execTmacs (x : VSite) (a : TmacArgs) (s : State) : Host.Outcome State Fault Refusal :=
  .next (s.issueVec x (.tmacs x a) (taperHow [a.gx, a.gy] [a.gx, a.gy] false (some .taper)) fun s _ => runTmac x a true 0 s)

/-- R312–R314: TREP with the TMAC or TMACS that follows it; the owner issues again from the W-cycle after the last iteration. -/
def execTrep (x : VSite) (gn : G) (test : Bool) (a : TmacArgs) (s : State) : Host.Outcome State Fault Refusal :=
  .next (s.issueVec x (.trep x gn test a) { taperHow [gn, a.gx, a.gy] [a.gx, a.gy] false (some .taper) with alone := true } fun s slot =>
    let n := (regGet (s.thr x).g gn).toNat % 65536
    let r := runTmac x a test n s
    if r.exc.isSome then r else { r with st := r.st.updThr x fun th => { th with trepEnd := slot + n + 2 } })

/-! ## Reading and scaling (R315–R317) -/

/-- The result of TOUT for one accumulator and whether it was saturated: FMT 0 S16, 1 U16, 2 S32. -/
def toutValue (fmt sh : Nat) (a : BitVec 56) : Int × Bool :=
  let r := roundShift a.toInt sh
  let v := match fmt with | 0 => satS 16 r | 1 => satU 16 r | _ => satS 32 r
  (v, v != r)

/-- Element 32j + l of a result over the accumulators. -/
def accElem (acc : Vector (BitVec 56) 128) (e : Nat) : BitVec 56 := getOr acc (accIx (e % 32) (e / 32)) 0

/-- A register in which elements base to base + 127, of w bits, are f. -/
def putAccElems (old : Row) (w base : Nat) (f : Nat → Nat) : Row :=
  packRow w fun e => if base ≤ e ∧ e < base + 128 then f (e - base) else old.toNat / 2 ^ (w * e) % 2 ^ w

def Thread.putReg (th : Thread) (vd : V) (f : Row → Row) : Thread :=
  { th with v := upd th.v vd f, vloads := th.vloads.filter fun l => l.reg != vd }

/-- R315: TOUT. -/
def execTout (x : VSite) (vd : V) (sh cfg : Byte) (s : State) : Host.Outcome State Fault Refusal :=
  .next (s.issueVec x (.tout x vd sh cfg) (taperHow [] [] true (some .taper)) fun s _ =>
    let fmt := cfg.toNat % 4
    let h := bit cfg.toNat 2
    if fmt = 3 ∨ (fmt = 2 ∧ h = true) ∨ 55 < sh.toNat ∨ 16 ≤ cfg.toNat then VRun.raise s 0x01 0
    else
      let acc := (s.tap x).acc
      let w := if fmt = 2 then 32 else 16
      let val (e : Nat) : Int × Bool := toutValue fmt sh.toNat (accElem acc e)
      VRun.ok ((s.updThr x fun th => th.putReg vd fun old => putAccElems old w (if h then 128 else 0) fun e => img w (val e).1).updTap x fun t =>
        { t with sat := t.sat || (List.range 128).any fun e => (val e).2, acc := if bit cfg.toNat 3 then Vector.replicate 128 0 else t.acc }))

/-- Bits below bit 55 that equal it, before the first that differs (R316). -/
def signRun (a : BitVec 56) : Nat :=
  ((List.range 55).takeWhile fun i => a.getLsbD (54 - i) == a.getLsbD 55).length

/-- R316: TEXP. -/
def execTexp (x : VSite) (vd : V) (s : State) : Host.Outcome State Fault Refusal :=
  .next (s.issueVec x (.texp x vd) (taperHow [] [] true (some .taper)) fun s _ =>
    let acc := (s.tap x).acc
    VRun.ok (s.updThr x fun th => th.putReg vd fun old => putAccElems old 16 0 fun e => signRun (accElem acc e)))

/-- R316: TNORM. -/
def execTnorm (x : VSite) (vs : V) (s : State) : Host.Outcome State Fault Refusal :=
  .next (s.issueVec x (.tnorm x vs) (taperHow [] [] true (some .taper)) fun s _ =>
    let v := (s.thr x).v
    VRun.ok ((List.range 128).foldl (fun (s : State) e =>
      let a := (accElem (s.tap x).acc e).toInt
      let n := clampInt (-55) 55 (sgn 16 (elemAt v vs.1 16 e))
      if n = 0 then s
      else s.putAcc x (e % 32) (e / 32) (if 0 < n then a * 2 ^ n.toNat else roundShift a (-n).toNat)) s))

/-- R317: TCLR. -/
def execTclr (x : VSite) (s : State) : Host.Outcome State Fault Refusal :=
  .next (s.issueVec x (.tclr x) (taperHow [] [] false none) fun s _ => VRun.ok (s.updTap x fun t => { t with acc := Vector.replicate 128 0 }))

/-- R317: TSTAT; OVF and SAT are cleared after the read. -/
def execTstat (x : VSite) (gd : G) (s : State) : Host.Outcome State Fault Refusal :=
  .next (s.issueVec x (.tstat x gd) (taperHow [] [gd] false none) fun s _ =>
    let t := s.tap x
    let v := (if t.ovf then 1 else 0) + (if t.sat then 2 else 0) + (if t.loader.isSome then 4 else 0)
    VRun.ok ((s.putG x [(gd, BitVec.ofNat 64 v)]).updTap x fun t => { t with ovf := false, sat := false }))

/-- R308: TSETC. -/
def execTsetc (x : VSite) (c : Fin 8) (gb gl : G) (s : State) : Host.Outcome State Fault Refusal :=
  .next (s.issueVec x (.tsetc x c gb gl) (taperHow [gb, gl] [] false none) fun s _ =>
    let g := (s.thr x).g
    let b := (regGet g gb).toNat
    let l := (regGet g gl).toNat
    if 1 ≤ l ∧ l ≤ 65536 ∧ b + l ≤ 65536 then
      VRun.ok (s.updTap x fun t => { t with tcb := upd t.tcb c fun _ => b, tcl := upd t.tcl c fun _ => l })
    else VRun.raise s 0x03 (regGet g gb))

/-- R324: TSIGR. -/
def execTsigr (x : VSite) (gd : G) (s : State) : Host.Outcome State Fault Refusal :=
  .next (s.issueVec x (.tsigr x gd) (taperHow [] [gd] false none) fun s _ =>
    VRun.ok ((s.putG x [(gd, (s.tap x).tsig.setWidth 64)]).updTap x fun t => { t with tsig := 0xFFFFFFFF }))

/-! ## The line loader (R318–R320) -/

/-- The fields of a descriptor (R318). -/
def loaderOf (t : Fin 4) (l : List Byte) (endAt : Nat) : Loader where
  thread := t
  src := fld l 0 4 % 2 ^ 31
  fromX := bit (fld l 0 4) 31
  srcStride := fld l 4 4
  dst := fld l 8 2
  dstStride := fld l 0xA 2
  w := fld l 0xC 2
  h := fld l 0xE 2
  top := fld l 0x10 1
  bottom := fld l 0x11 1
  left := fld l 0x12 1
  right := fld l 0x13 1
  modes := l.getD 0x14 0
  elem := fld l 0x15 1
  zp := BitVec.ofNat 16 (fld l 0x16 2)
  const := BitVec.ofNat 16 (fld l 0x18 2)
  endAt := endAt

/-- Mode of a side: 0 top, 1 bottom, 2 left, 3 right. -/
def Loader.mode (d : Loader) (side : Nat) : Nat := d.modes.toNat / 4 ^ side % 4

def Loader.rows (d : Loader) : Nat := d.top + d.h + d.bottom
def Loader.cols (d : Loader) : Nat := d.left + d.w + d.right

/-- Bytes of a source element in the vector scratchpad. -/
def Loader.size (d : Loader) : Nat := if d.elem = 0 then 2 else 1

/-- Two runs of X elements meet. -/
def meets (a n b m : Nat) : Bool := decide (a < b + m ∧ b < a + n)

/-- A descriptor that keeps the rules of R318; `l` holds its reserved bytes. -/
def Loader.ok (d : Loader) (l : List Byte) : Bool :=
  decide (1 ≤ d.w ∧ d.w ≤ 4096 ∧ 1 ≤ d.h ∧ d.h ≤ 1024 ∧ d.top ≤ 63 ∧ d.bottom ≤ 63 ∧ d.left ≤ 63 ∧ d.right ≤ 63) &&
  decide (d.cols ≤ d.dstStride ∧ d.elem ≤ 2 ∧ (d.fromX = true → d.elem = 0)) &&
  (List.range 4).all (fun i => d.mode i != 3) && allZero (slice l 0x1A 6) &&
  decide (d.src < if d.fromX then 0x10000 else 0x200000) &&
  (d.mode 0 != 2 || decide (d.top < d.h)) && (d.mode 1 != 2 || decide (d.bottom < d.h)) &&
  (d.mode 2 != 2 || decide (d.left < d.w)) && (d.mode 3 != 2 || decide (d.right < d.w)) &&
  decide (d.dst + (d.rows - 1) * d.dstStride + d.cols ≤ 65536) &&
  (if d.fromX then decide (d.src + (d.h - 1) * d.srcStride + d.w ≤ 65536)
   else decide (d.src + ((d.h - 1) * d.srcStride + d.w) * d.size ≤ 0x200000)) &&
  !(d.fromX && (List.range d.h).any fun y => (List.range d.rows).any fun j =>
      meets (d.src + y * d.srcStride) d.w (d.dst + j * d.dstStride) d.cols)

/-- W-cycles of a load (R320). -/
def Loader.cycles (d : Loader) : Nat := 8 + (if d.fromX then 2 else 1) * d.rows * ((d.cols + 31) / 32)

/-- The source index of a padded index: none for constant padding (R319). `lo` and `hi` are the modes below and above. -/
def padIndex (i n lo hi : Nat) (pad : Nat) : Option Nat :=
  if i < pad then (match lo with | 0 => none | 1 => some 0 | _ => some (pad - i))
  else if i < pad + n then some (i - pad)
  else match hi with
    | 0 => none
    | 1 => some (n - 1)
    | _ => some (2 * (n - 1) - (i - pad))

/-- R318: TLOAD. The descriptor is read from local memory through the correction. -/
def execTload (x : VSite) (ga : G) (s : State) : Host.Outcome State Fault Refusal :=
  .next (s.issueVec x (.tload x ga) { taperHow [ga] [] false none with mem := true } fun s _ =>
    let a := regGet (s.thr x).g ga
    if a.toNat % 32 ≠ 0 ∨ 0x40000 ≤ a.toNat then VRun.raise s 0x02 a
    else
      let s1 := [0, 16].foldl (fun (s : State) o =>
        let (u, bad) := s.checkLine x.w (a.toNat + o) 0
        if bad then u.poisonThread x.w x.t 1 (a.toNat + o) else u) s
      let s1 := s1.setWick x.w fun k => k.portTake 2
      let l := s1.localBytes x.w a.toNat 32
      let d := loaderOf x.t l 0
      if d.ok l then
        { VRun.ok (s1.setWick x.w fun k => { k with taper := { k.taper with loader := some { d with endAt := k.issueCycle x + 2 + d.cycles } } }) with stall := 1 }
      else { VRun.raise s1 0x03 a with stall := 1 })

/-- R318: TSYNC; it issues once the loader is idle. -/
def execTsync (x : VSite) (s : State) : Host.Outcome State Fault Refusal :=
  .next (s.issueVec x (.tsync x) (taperHow [] [] false none) fun s _ => VRun.ok s)

/-- A source element, extended by ELEM, minus ZP, kept to 16 bits (R319); read through the correction. -/
def State.loadElem (s : State) (w : WkId) (d : Loader) (y i : Nat) : State × BitVec 16 :=
  if d.fromX then
    let e := d.src + y * d.srcStride + i
    let (u, bad) := s.checkElem w false e 1
    let u := if bad then u.poisonThread w d.thread 1 e else u
    (u, BitVec.ofNat 16 (leNat (u.mem.bytes (wickBase w.1 + 0x00040000 + 2 * e) 2)) - d.zp)
  else
    let o := d.src + (y * d.srcStride + i) * d.size
    let b := (List.range d.size).map fun j => s.mem.byte (s.vecAddr w (o + j))
    let v : BitVec 16 := match d.elem with
      | 2 => BitVec.ofInt 16 (sgn 8 (leNat b))
      | _ => BitVec.ofNat 16 (leNat b)
    (s, v - d.zp)

/-- The vector-scratchpad rows that a load reads pass through the correction, poison included (R320). -/
def State.loadRows (s : State) (w : WkId) (d : Loader) : State :=
  if d.fromX then s
  else
    let rows := ((List.range d.h).flatMap fun y =>
      let a := d.src + y * d.srcStride * d.size
      (List.range ((a % 512 + d.w * d.size + 511) / 512)).map fun j => a / 512 + j).dedup
    rows.foldl (fun (s : State) r =>
      let (u, b) := s.readVecRow w r
      if b.poison then u.poisonThread w d.thread 0 r else u) s

/-- Destination line j formed and written (R319). -/
def State.loadLine (s : State) (w : WkId) (d : Loader) (j : Nat) : State :=
  let y := padIndex j d.h (d.mode 0) (d.mode 1) d.top
  (List.range d.cols).foldl (fun (s : State) i =>
    let (u, v) := match y, padIndex i d.w (d.mode 2) (d.mode 3) d.left with
      | some y, some x => s.loadElem w d y x
      | _, _ => (s, d.const)
    let a := wickBase w.1 + 0x00040000 + 2 * (d.dst + j * d.dstStride + i)
    u.setMem ((u.mem.write a (leBytes 2 v.toNat)).setEcc a 0)) s

/-- R319–R320: LINE_LOAD_DONE: the W-cycles up to the end of the load pass, and every line stands in X. -/
def lineLoadDoneEffect (w : WkId) (s : State) : State :=
  match s.wick[w].taper.loader with
  | none => s
  | some d =>
    let s := s.setWick w fun k => k.pass (d.endAt - k.wcyc) 0
    ((List.range d.rows).foldl (fun (s : State) j => s.loadLine w d j) (s.loadRows w d)).setWick w fun k =>
      { k with taper := { k.taper with loader := none } }

def execLineLoadDone (w : WkId) (s : State) : Host.Outcome State Fault Refusal := .next (lineLoadDoneEffect w s)

end Sys2Proof.Machine
end

