-- ==== Sys2Proof/Machine/Urlan.lean ====
section
/-! DEFINITION. Urlan links (spec/14 R395–R416): training and peers, flits, replay, credits, time flits, spares and late blocks. -/
namespace Sys2Proof.Machine

def State.updLink (s : State) (u : Fin 6) (f : UrLink → UrLink) : State := s.setUr { s.ur with links := upd s.ur.links u f }

def UrLink.enabled (l : UrLink) : Bool := bit l.cfg.toNat 8
/-- ROLE: 0 unused, 1 MESH, 2 EXPRESS, 3 SPARE. -/
def UrLink.role (l : UrLink) : Nat := bits l.cfg.toNat 7 6
def UrLink.spareFor (l : UrLink) : Nat := bits l.cfg.toNat 5 3

def UrBlk.modl (g : UrBlk) : Nat := bits g.gcfg.toNat 4 0

/-! ## Topology (R403–R404) -/

/-- The module that the topology puts at the other end of link u. -/
def UrBlk.neighbour (g : UrBlk) (u : Nat) : Option Nat :=
  let c := g.gcfg.toNat
  let m := g.modl
  match bits c 15 14 with
  | 1 =>
    let n := bits c 12 8 + 1
    match u with
    | 0 => some ((m + 1) % n)
    | 1 => some ((m + n - 1) % n)
    | _ => none
  | 2 =>
    let x := bits c 21 20 + 1
    let y := bits c 19 17 + 1
    let at_ (i j : Nat) : Nat := j % y * x + i % x
    match u with
    | 0 => some (at_ (m % x + 1) (m / x))
    | 1 => some (at_ (m % x + x - 1) (m / x))
    | 2 => some (at_ (m % x) (m / x + 1))
    | 3 => some (at_ (m % x) (m / x + y - 1))
    | _ => none
  | _ => none

/-- The peer that a link's role requires; none where any module may be the peer. -/
def UrBlk.required (g : UrBlk) (u : Fin 6) : Option Nat :=
  let l := g.links[u]
  match l.role with
  | 1 => g.neighbour u.1
  | 3 => g.neighbour l.spareFor
  | _ => none

/-! ## Spares (R414) -/

/-- The link whose traffic link v carries: the one that it replaces, or its own. -/
def UrBlk.traffic (g : UrBlk) (v : Fin 6) : Fin 6 :=
  let l := g.links[v]
  match toFin? 6 l.spareFor with
  | some u => if l.role = 3 ∧ (g.links[u]).state = .replaced then u else v
  | none => v

/-- The spare of a MESH link, when it is up. -/
def UrBlk.spareOf (g : UrBlk) (u : Fin 6) : Option (Fin 6) :=
  if (g.links[u]).role = 1 then
    (List.finRange 6).find? fun v => (g.links[v]).role == 3 && (g.links[v]).spareFor == u.1 && (g.links[v]).state == .up
  else none

/-- A MESH link that has gone DOWN: its traffic moves to its spare, unacknowledged blocks first. -/
def State.spareSwitch (s : State) (u : Fin 6) : State :=
  match s.ur.spareOf u with
  | none => s
  | some v =>
    (s.updLink u fun l => { l with state := .replaced, txQueue := (l.replay.map (·.2)) ++ l.txQueue, replay := [] }).logEv 0x0903 6 u.1
      [(1, u.1), (1, v.1)]

/-! ## Flits (R397) -/

/-- Fields of a flit. -/
structure Flit where
  kind   : Nat
  flags  : Nat
  seq    : Nat
  ack    : Nat
  credit : Nat
  src    : Nat
  frame  : Nat
  index  : Nat
  body   : List Byte
deriving DecidableEq, Repr

def Flit.bytes (f : Flit) : List Byte :=
  let l := [BitVec.ofNat 8 f.kind, BitVec.ofNat 8 f.flags] ++ beBytes 2 f.seq ++ beBytes 2 f.ack ++ beBytes 2 f.credit ++
    [BitVec.ofNat 8 f.src, 0] ++ beBytes 2 f.frame ++ beBytes 4 f.index ++ f.body
  l ++ beBytes 4 (crc32c l).toNat

/-- A received flit of a kind; none where its CRC fails or its fixed fields break the table. -/
def flitOf (kind : Nat) (b : List Byte) : Option Flit :=
  let f : Flit := ⟨fld b 0 1, fld b 1 1, befld b 2 2, befld b 4 2, befld b 6 2, fld b 8 1, befld b 10 2, befld b 12 4, slice b 16 (b.length - 20)⟩
  let shape : Bool := match kind with
    | 1 => b.length == 532 && decide (f.flags < 2)
    | 2 => b.length == 32 && (f.flags == 0 || f.flags == 2) && f.seq == 0 && f.frame == 0 && f.index == 0 && allZero f.body
    | _ => b.length == 32 && f.flags == 0 && f.seq == 0 && f.frame == 0 && f.index == 0 && allZero (f.body.drop 8)
  if f.kind = kind ∧ shape = true ∧ f.seq < 4096 ∧ f.ack < 4096 ∧ f.credit ≤ 2048 ∧ f.src < 32 ∧ fld b 9 1 = 0 ∧
      befld b (b.length - 4) 4 = (crc32c (b.take (b.length - 4))).toNat then some f
  else none

/-- ACK of the next flit: the last SEQ received in order; one below the first before any (DEDUCED). -/
def UrLink.ackNow (l : UrLink) : Nat := l.lastRx.getD 4095

/-- A flit leaves, with ACK and the credits owed by the link and by the link whose traffic it carries (R397, R401). -/
def State.sendFlit (s : State) (u : Fin 6) (kind flags seq frame index : Nat) (body : List Byte) : State :=
  let l := s.ur.links[u]
  let o := s.ur.traffic u
  let owed := min 2048 (if o = u then l.owed else l.owed + (s.ur.links[o]).owed)
  let f : Flit := ⟨kind, flags, seq, l.ackNow, owed, s.ur.modl, frame, index, body⟩
  let s := s.updLink o fun k => { k with owed := 0 }
  (s.updLink u fun k => { k with owed := 0, accepted := 0, lastAck := s.time.ftb }).emit (.flit u.1 s.time.ftb f.bytes)

def State.sendCtrl (s : State) (u : Fin 6) (nak : Bool) : State := s.sendFlit u 2 (if nak then 2 else 0) 0 0 0 (List.replicate 12 0)

/-- A DATA flit of a block. -/
def State.sendData (s : State) (u : Fin 6) (seq : Nat) (b : UrBlock) : State :=
  s.sendFlit u 1 (if b.poison then 1 else 0) seq (b.frame % 65536) b.index (rowBytes b.data)

/-- Every unacknowledged flit is sent again, in order (R400). -/
def State.resend (s : State) (u : Fin 6) : State := (s.ur.links[u]).replay.foldl (fun (s : State) p => s.sendData u p.1 p.2) s

/-- An ACK covers the flits up to its SEQ; credits come back (R398, R401). -/
def UrLink.header (l : UrLink) (f : Flit) : UrLink :=
  let covered := l.replay.any fun p => p.1 == f.ack
  let rest := (l.replay.dropWhile fun p => p.1 != f.ack).drop 1
  { l with
    replay := if covered then rest else l.replay, credits := min 2048 (l.credits + f.credit), replays := if covered then [] else l.replays }

def State.badFlit (s : State) (u : Fin 6) : State := s.updLink u fun l => { l with crcCount := satInc l.crcCount }

/-! ## Training (R396, R402) -/

/-- What a training comes to: up, no peer or a latency outside 60 to 1,000 ticks, or a peer that the role does not allow. -/
inductive TrainEnd where
  | up | fails
  | mismatch (want : Nat)
deriving DecidableEq, Repr

def UrBlk.trains (g : UrBlk) (u : Fin 6) : Option LinkPeer → TrainEnd
  | none => .fails
  | some p =>
    if p.lat < 60 ∨ 1000 < p.lat then .fails
    else
      match g.required u with
      | some m => if m = p.modl then .up else .mismatch m
      | none => .up

/-- A link comes up: 2,048 credits, SEQ from 0, and the flits still unacknowledged numbered anew (R401, R402). -/
def UrLink.comeUp (l : UrLink) (p : LinkPeer) : UrLink :=
  { l with
    state := .up, peerMod := p.modl % 32, peerLink := p.link % 8, lat := p.lat, credits := 2048 - l.replay.length, nextSeq := l.replay.length
    lastRx := none, nakSent := false, accepted := 0, replays := []
    replay := (List.zip (List.range l.replay.length) l.replay).map fun q => (q.1, q.2.2) }

/-- URLAN_LINK: state, peer module, peer link, LAT. -/
def State.logLink (s : State) (u : Fin 6) : State :=
  let l := s.ur.links[u]
  s.logEv 0x0901 6 u.1 [(1, match l.state with | .down => 0 | .training => 1 | .up => 2 | .replaced => 3), (1, l.peerMod), (1, l.peerLink), (2, l.lat)]

/-- One training of a link. -/
def State.train (s : State) (u : Fin 6) (peer : Option LinkPeer) : State :=
  match s.ur.trains u peer, peer with
  | .up, some p =>
    let t := s.updLink u fun l => { l.comeUp p with lastAck := s.time.ftb }
    t.resend u
  | .mismatch want, some p =>
    (s.updLink u fun l => { l with state := .down, downAt := s.time.ftb }).logEv 0x0904 6 u.1 [(1, want), (1, p.modl)]
  | _, _ => s.updLink u fun l => { l with state := .down, downAt := s.time.ftb }

/-- R414 after a training of link u: a MESH link that is DOWN gives its traffic to its spare, as does one whose spare has come up. -/
def State.settleSpare (s : State) (u : Fin 6) : State :=
  let l := s.ur.links[u]
  match l.state, toFin? 6 l.spareFor with
  | .down, _ => s.spareSwitch u
  | .up, some m => if l.role = 3 ∧ (s.ur.links[m]).state = .down ∧ (s.ur.links[m]).enabled = true then s.spareSwitch m else s
  | _, _ => s

/-- LINK_TRAINING (R396): after supplies are valid, and whenever ENABLE rises. -/
def linkTrainingEffect (u : Fin 6) (peer : Option LinkPeer) (s : State) : State :=
  let l := s.ur.links[u]
  if l.enabled && l.state == .training then (s.train u peer).settleSpare u else s

def execLinkTraining (u : Fin 6) (peer : Option LinkPeer) (s : State) : Host.Outcome State Fault Refusal := .next (linkTrainingEffect u peer s)

/-- 16 replays within 1 ms that accepted no new flit (R402). -/
def UrLink.stuck (l : UrLink) (ftb : Nat) : Bool := decide (16 ≤ (l.replays.filter fun t => decide (ftb < t + 1000000)).length)

/-- LINK_RETRAIN (R402): a retrain that fails leaves the link DOWN, and its spare takes the traffic (R414). -/
def linkRetrainEffect (u : Fin 6) (fecLost : Bool) (peer : Option LinkPeer) (s : State) : State :=
  let l := s.ur.links[u]
  if l.state != .up || !(fecLost || l.stuck s.time.ftb) then s
  else
    let t := s.train u peer
    (if (t.ur.links[u]).state = .down then t.logLink u else t).settleSpare u

def execLinkRetrain (u : Fin 6) (fecLost : Bool) (peer : Option LinkPeer) (s : State) : Host.Outcome State Fault Refusal :=
  .next (linkRetrainEffect u fecLost peer s)

/-- LINK_RETRY_TIMER (R402): a DOWN link tries again 100 ms later while ENABLE is set. -/
def linkRetryEffect (u : Fin 6) (peer : Option LinkPeer) (s : State) : State :=
  let l := s.ur.links[u]
  if l.enabled && l.state == .down then
    let t := (s.reach (l.downAt + 100000000)).train u peer
    (if (t.ur.links[u]).state = .up then t.logLink u else t).settleSpare u
  else s

def execLinkRetryTimer (u : Fin 6) (peer : Option LinkPeer) (s : State) : Host.Outcome State Fault Refusal := .next (linkRetryEffect u peer s)

/-! ## Sending (R398, R406, R410) -/

/-- URLAN_DATA_SEND: a queued block leaves while a credit and replay room exist. -/
def dataSendEffect (u : Fin 6) (s : State) : State :=
  let l := s.ur.links[u]
  let o := s.ur.traffic u
  match (s.ur.links[o]).txQueue with
  | [] => s
  | b :: rest =>
    if l.state != .up || l.credits == 0 || decide (1024 ≤ l.replay.length) then s
    else
      let s := s.updLink o fun k => { k with txQueue := rest }
      let s := s.updLink u fun k => { k with replay := k.replay ++ [(k.nextSeq, b)], credits := k.credits - 1, nextSeq := (k.nextSeq + 1) % 4096 }
      s.sendData u l.nextSeq b

def execUrlanDataSend (u : Fin 6) (s : State) : Host.Outcome State Fault Refusal := .next (dataSendEffect u s)

/-- URLAN_ACK_TIMER (R399): an ACK at least every 200 ticks. -/
def ackTimerEffect (u : Fin 6) (s : State) : State :=
  let l := s.ur.links[u]
  if l.state = .up then (s.reach (l.lastAck + 200)).sendCtrl u false else s

def execUrlanAckTimer (u : Fin 6) (s : State) : Host.Outcome State Fault Refusal := .next (ackTimerEffect u s)

/-- URLAN_TIME_SEND (R406): a TIME flit to a module whose uplink this link is, at each multiple of 1,000 ticks. -/
def timeSendEffect (u : Fin 6) (s : State) : State :=
  if (s.ur.links[u]).state = .up ∧ bits s.ur.gcfg.toNat 7 5 ≠ u.1 then
    let s := s.reach ((s.time.ftb / 1000 + 1) * 1000)
    s.sendFlit u 3 0 0 0 0 (beBytes 8 s.time.ftb ++ List.replicate 4 0)
  else s

def execUrlanTimeSend (u : Fin 6) (s : State) : Host.Outcome State Fault Refusal := .next (timeSendEffect u s)

/-! ## Receiving (R399–R401, R406, R411) -/

/-- A NAK, once per gap. -/
def State.nak (s : State) (u : Fin 6) : State :=
  if (s.ur.links[u]).nakSent then s else (s.updLink u fun l => { l with nakSent := true }).sendCtrl u true

/-- The job frame that FRAME of a flit names: the latest that lies no more than half its range beyond the present frame (R397, R411). -/
def JobBlk.nearFrame (j : JobBlk) (f : Nat) : Nat :=
  let top := j.current.getD j.base + 32767
  if top < f then f else top - (top - f) % 65536

/-- A DATA flit accepted in order: its block is held under its key, or is a duplicate whose credit goes back (R411); an ACK follows every 64
(R399). -/
def State.takeData (s : State) (u : Fin 6) (f : Flit) : State :=
  let s := s.updLink u fun l => { l with lastRx := some f.seq, nakSent := false, accepted := l.accepted + 1 }
  let key := (s.job.nearFrame f.frame, f.index)
  let s := s.updLink (s.ur.traffic u) fun l =>
    if l.rxSeen.contains key then { l with owed := l.owed + 1 }
    else { l with rx := l.rx ++ [⟨key.1, f.index, rowOf f.body, bit f.flags 0, s.time.ftb⟩], rxSeen := key :: l.rxSeen }
  if 64 ≤ (s.ur.links[u]).accepted then s.sendCtrl u false else s

/-- URLAN_DATA_FLIT (R399). -/
def dataFlitEffect (u : Fin 6) (b : List Byte) (s : State) : State :=
  if (s.ur.links[u]).state != .up then s
  else
    match flitOf 1 b with
    | none => (s.badFlit u).nak u
    | some f =>
      let s := s.updLink u fun l => l.header f
      if f.seq = ((s.ur.links[u]).ackNow + 1) % 4096 then s.takeData u f else s.nak u

def execUrlanDataFlit (u : Fin 6) (b : List Byte) (s : State) : Host.Outcome State Fault Refusal := .next (dataFlitEffect u b s)

/-- A replay is counted (R400, R402). -/
def UrLink.replayed (l : UrLink) (ftb : Nat) : UrLink :=
  { l with replayCnt := satInc l.replayCnt, replays := ftb :: l.replays.filter fun t => decide (ftb < t + 1000000) }

/-- URLAN_CTRL_FLIT (R400), and a TIME flit on a link that is not the uplink: ACK and credits; a NAK replays the unacknowledged flits. -/
def ctrlFlitEffect (u : Fin 6) (b : List Byte) (s : State) : State :=
  if (s.ur.links[u]).state != .up then s
  else
    match (flitOf 2 b).or (flitOf 3 b) with
    | none => s.badFlit u
    | some f =>
      let s := s.updLink u fun l => l.header f
      if bit f.flags 1 then (s.updLink u fun l => l.replayed s.time.ftb).resend u else s

def execUrlanCtrlFlit (u : Fin 6) (b : List Byte) (s : State) : Host.Outcome State Fault Refusal := .next (ctrlFlitEffect u b s)

/-- UPLINK_TIME_FLIT (R406): a TIME flit on the uplink measures the offset. -/
def uplinkTimeEffect (b : List Byte) (s : State) : State :=
  match toFin? 6 (bits s.ur.gcfg.toNat 7 5) with
  | none => s
  | some u =>
    if (s.ur.links[u]).state != .up then s
    else
      match flitOf 3 b with
      | none => s.badFlit u
      | some f =>
        let offset : Int := (s.time.ftb : Int) - (beNat (f.body.take 8) + (s.ur.links[u]).lat : Nat)
        let s := s.updLink u fun l => l.header f
        (s.setTime { s.time with urOffset := offset }).measured offset

def execUplinkTimeFlit (b : List Byte) (s : State) : Host.Outcome State Fault Refusal := .next (uplinkTimeEffect b s)

/-! ## Late blocks (R413) -/

/-- The WRITE record of a link in a stack's slot list, with the list's period. -/
def State.linkRec (s : State) (u : Fin 6) (st : Fin 4) (rec : Nat) : Option (Nat × HbmRec) :=
  (s.job.image.bind fun im => (im.hbm[st]).recs[rec]?.map fun r => ((im.hbm[st]).period, r)).filter fun p =>
    p.2.kind == 1 && p.2.req == 102 + u.1

/-- INDEX of the block that a record's slot writes. -/
def State.recIndex (s : State) (u : Fin 6) (st : Fin 4) (r : HbmRec) (blk : Nat) : Nat :=
  (hbmAddr st.1 r.pc (r.block + blk) - (s.ur.links[u]).rxBase.toNat) / 512

/-- The block of a key arrived 8 ticks before its slot, or has been written (R413). -/
def UrLink.inTime (l : UrLink) (frame ix slot : Nat) : Bool :=
  l.rxSeen.contains (frame, ix) && !l.rx.any fun b => b.frame == frame && b.index == ix && decide (slot < b.since + 8)

/-- URLAN_LATE_RELEASE: a block absent 8 ticks before its slot holds the sequencers; once per record it is logged and counted. -/
def lateReleaseEffect (u : Fin 6) (st : Fin 4) (m rep rec blk : Nat) (s : State) : State :=
  match s.linkRec u st rec with
  | none => s
  | some (period, r) =>
    let ix := s.recIndex u st r blk
    let t := slotTime (s.job.anchor m) period rep r blk
    if s.job.state != .armed || decide (r.count ≤ blk) || !s.job.repRuns period m rep || !(s.ur.links[u]).rxOn ||
        (s.ur.links[u]).inTime m ix t || s.job.lateKeys.contains (u, m, ix) then s
    else
      let first := !s.job.lateRecs.contains (st, m, rep, rec)
      let s := s.reach (t - 8)
      let s := s.setJob { s.job with
        holdFrom := some (match s.job.holdFrom with | some h => min h t | none => t), lateKeys := s.job.lateKeys ++ [(u, m, ix)]
        lateRecs := if first then (st, m, rep, rec) :: s.job.lateRecs else s.job.lateRecs }
      if first then (s.updLink u fun l => { l with lateCount := satInc l.lateCount }).logEv 0x0902 6 u.1 [(8, m), (4, ix), (4, rec)] else s

def execUrlanLateRelease (u : Fin 6) (st : Fin 4) (m rep rec blk : Nat) (s : State) : Host.Outcome State Fault Refusal :=
  .next (lateReleaseEffect u st m rep rec blk s)

/-- The first slot of a block of record r at or after an FTB count, in the frames m and m + 1 (R356). -/
def State.blockSlot (s : State) (period m now : Nat) (r : HbmRec) (blk : Nat) : Option Nat :=
  [m, m + 1].findSome? fun n =>
    let first := slotTime (s.job.anchor n) period 0 r blk
    let rep := (now - first + 10 * period - 1) / (10 * period)
    if s.job.repRuns period n rep then some (first + 10 * period * rep) else none

/-- A pending request uses the slots of a record's block: one at the controller, a block that waits for its link's record, or the reads of an
egress engine, a mailbox or the sequencers (R356, R359, R411). -/
def State.slotUsed (s : State) (st : Fin 4) (r : HbmRec) (blk : Nat) : Bool :=
  if r.kind = 0 ∧ 96 ≤ r.req then true
  else if r.kind = 1 ∧ 102 ≤ r.req then
    match toFin? 6 (r.req - 102) with
    | some u => (s.ur.links[u]).rx.any fun b => b.index == s.recIndex u st r blk && !s.job.lateKeys.contains (u, b.frame, b.index)
    | none => false
  else (s.hbm[st]).reqs.any fun q => q.fits r.req r.pc (r.block + blk) (r.kind == 1)

/-- The first slot of a pseudo-channel, 8 ticks ahead or more, that no pending request uses (R358, R413). -/
def State.freeSlot (s : State) (st : Fin 4) (pc : Nat) : Option Nat :=
  match s.job.image with
  | none => none
  | some im =>
    ((im.hbm[st]).recs.filter fun r => r.pc == pc && r.kind != 2).foldl (fun best r =>
      (List.range r.count).foldl (fun best blk =>
        if s.slotUsed st r blk then best
        else
          match best, s.blockSlot (im.hbm[st]).period (s.job.current.getD s.job.base) (s.time.ftb + 8) r blk with
          | some a, some b => some (min a b)
          | none, x => x
          | x, none => x) best) none

/-- Stack and pseudo-channel of a device address in HBM. -/
def hbmPlace (a : Nat) : Option (Fin 4 × Nat) :=
  match place a with
  | .hbm st off => (toFin? 4 st).map fun k => (k, hbmPc off)
  | _ => none

/-- URLAN_LATE_BLOCK_WRITE (R413): a late block that has arrived is written in the first slot that no pending request uses; the sequencers
resume after the last. -/
def lateWriteEffect (u : Fin 6) (m ix : Nat) (s : State) : State :=
  let l := s.ur.links[u]
  let a := l.rxBase.toNat + 512 * ix
  match l.rx.find? (fun b => b.frame == m && b.index == ix), (hbmPlace a).bind fun p => s.freeSlot p.1 p.2 with
  | some b, some t =>
    if s.job.lateKeys.contains (u, m, ix) then
      let s := s.reach t
      let left := s.job.lateKeys.erase (u, m, ix)
      let s := s.setMem (s.mem.writeBlock a b.data b.poison)
      let s := s.updLink u fun l => { l with rx := l.rx.erase b, owed := l.owed + 1 }
      s.setJob { s.job with lateKeys := left, holdFrom := if left.isEmpty then none else s.job.holdFrom }
    else s
  | _, _ => s

def execUrlanLateBlockWrite (u : Fin 6) (m ix : Nat) (s : State) : Host.Outcome State Fault Refusal := .next (lateWriteEffect u m ix s)

end Sys2Proof.Machine
end

