-- ==== Sys2Proof/Machine/Dispatch.lean ====
section
/-! DEFINITION. One arm per command: the direct call of its meaning, or a rejection by name. -/
namespace Sys2Proof.Machine

def exec (i : Instr) (s : State) : Host.Outcome State Fault Refusal :=
  match i with
  | .powerOnReset sc => Sys2Proof.Machine.execPowerOnReset sc s
  | .fundamentalReset sc => Sys2Proof.Machine.execFundamentalReset sc s
  | .warmReset p value micros => Sys2Proof.Machine.execWarmReset p value micros s
  | .railOutOfRegulation reading => Sys2Proof.Machine.execRailOutOfRegulation reading s
  | .inputUndervoltage mv => Sys2Proof.Machine.execInputUndervoltage mv s
  | .inputOvervoltage mv => Sys2Proof.Machine.execInputOvervoltage mv s
  | .thermalTrip cause reading => Sys2Proof.Machine.execThermalTrip cause reading s
  | .saveSettings p value => Sys2Proof.Machine.execSaveSettings p value s
  | .configRecordWrite => Sys2Proof.Machine.execConfigRecordWrite s
  | .configWriteDone firstOk secondOk leftOver => Sys2Proof.Machine.execConfigWriteDone firstOk secondOk leftOver s
  | .serviceButtonPress ms => Sys2Proof.Machine.execServiceButtonPress ms s
  | .buttonWindowExpiry => Sys2Proof.Machine.execButtonWindowExpiry s
  | .debugJumper fitted => Sys2Proof.Machine.execDebugJumper fitted s
  | .sealBroken openReading => Sys2Proof.Machine.execSealBroken openReading s
  | .fwWrite flashOk srcOk => Sys2Proof.Machine.execFwWrite flashOk srcOk s
  | .libWrite flashOk srcOk => Sys2Proof.Machine.execLibWrite flashOk srcOk s
  | .rollbackCommit => Sys2Proof.Machine.execRollbackCommit s
  | .configDefault flashOk => Sys2Proof.Machine.execConfigDefault flashOk s
  | .fenceClear flashOk => Sys2Proof.Machine.execFenceClear flashOk s
  | .certWrite flashOk srcOk => Sys2Proof.Machine.execCertWrite flashOk srcOk s
  | .identityZeroise flashOk => Sys2Proof.Machine.execIdentityZeroise flashOk s
  | .secBadOp op => Sys2Proof.Machine.execSecBadOp op s
  | .attestGo value => Sys2Proof.Machine.execAttestGo value s
  | .attestDone => Sys2Proof.Machine.execAttestDone s
  | .throttleWindow pin pdie => Sys2Proof.Machine.execThrottleWindow pin pdie s
  | .throttleRequest r active reading => Sys2Proof.Machine.execThrottleRequest r active reading s
  | .externalThrottle asserted => Sys2Proof.Machine.execExternalThrottle asserted s
  | .throttleStepBegin q => Sys2Proof.Machine.execThrottleStepBegin q s
  | .throttleStep q => Sys2Proof.Machine.execThrottleStep q s
  | .smbusRegRead off pec => Sys2Proof.Machine.execSmbusRegRead off pec s
  | .smbusRegWrite off value pec => Sys2Proof.Machine.execSmbusRegWrite off value pec s
  | .smbusEventRead pec => Sys2Proof.Machine.execSmbusEventRead pec s
  | .smbusWarmReset data pec micros => Sys2Proof.Machine.execSmbusWarmReset data pec micros s
  | .flr => Sys2Proof.Machine.execFlr s
  | .hotReset => Sys2Proof.Machine.execHotReset s
  | .configRequest off write => Sys2Proof.Machine.execConfigRequest off write s
  | .bar2Access off n write => Sys2Proof.Machine.execBar2Access off n write s
  | .appCoreAccess hart addr n write => Sys2Proof.Machine.execAppCoreAccess hart addr n write s
  | .bar2BaseWrite p h value => Sys2Proof.Machine.execBar2BaseWrite p h value s
  | .registerWrite p off size value => Sys2Proof.Machine.execRegisterWrite p off size value s
  | .registerLowerHalfRead p r => Sys2Proof.Machine.execRegisterLowerHalfRead p r s
  | .ftbCountLowRead p => Sys2Proof.Machine.execFtbCountLowRead p s
  | .counterClear p off value => Sys2Proof.Machine.execCounterClear p off value s
  | .steeringWrite p n col value => Sys2Proof.Machine.execSteeringWrite p n col value s
  | .dbSqWrite p k value => Sys2Proof.Machine.execDbSqWrite p k value s
  | .ringEnable p r value => Sys2Proof.Machine.execRingEnable p r value s
  | .ringDisable p r value => Sys2Proof.Machine.execRingDisable p r value s
  | .loadImage k io placeError => Sys2Proof.Machine.execLoadImage k io placeError s
  | .bindStream k io => Sys2Proof.Machine.execBindStream k io s
  | .arm k io => Sys2Proof.Machine.execArm k io s
  | .updateParams k io => Sys2Proof.Machine.execUpdateParams k io s
  | .snapshot k io => Sys2Proof.Machine.execSnapshot k io s
  | .resume k io => Sys2Proof.Machine.execResume k io s
  | .stop k io => Sys2Proof.Machine.execStop k io s
  | .query k io => Sys2Proof.Machine.execQuery k io s
  | .fenceQuery k io => Sys2Proof.Machine.execFenceQuery k io s
  | .unknownCommand k io => Sys2Proof.Machine.execUnknownCommand k io s
  | .stopAtAnchor => Sys2Proof.Machine.execStopAtAnchor s
  | .mailboxOut i1 => Sys2Proof.Machine.execMailboxOut i1 s
  | .mailboxRecordWrite => Sys2Proof.Machine.execMailboxRecordWrite s
  | .ibSend i1 value => Sys2Proof.Machine.execIbSend i1 value s
  | .ibSendCredited i1 => Sys2Proof.Machine.execIbSendCredited i1 s
  | .saddlerInterrupt p => Sys2Proof.Machine.execSaddlerInterrupt p s
  | .saddlerTimerTick => Sys2Proof.Machine.execSaddlerTimerTick s
  | .saddlerException p cause addr => Sys2Proof.Machine.execSaddlerException p cause addr s
  | .saddlerDivergence p => Sys2Proof.Machine.execSaddlerDivergence p s
  | .watchdog p => Sys2Proof.Machine.execWatchdog p s
  | .cpIrqSwiWrite tgt value => Sys2Proof.Machine.execCpIrqSwiWrite tgt value s
  | .crossingRelease src dst resolved => Sys2Proof.Machine.execCrossingRelease src dst resolved s
  | .ptpMessage port m => Sys2Proof.Machine.execPtpMessage port m s
  | .ptpLocked => Sys2Proof.Machine.execPtpLocked s
  | .ptpHoldover => Sys2Proof.Machine.execPtpHoldover s
  | .ptpOffsetExcess => Sys2Proof.Machine.execPtpOffsetExcess s
  | .uplinkTimeFlit flit => Sys2Proof.Machine.execUplinkTimeFlit flit s
  | .urlanFtbOffset => Sys2Proof.Machine.execUrlanFtbOffset s
  | .commitPoint n => Sys2Proof.Machine.execCommitPoint n s
  | .anchorSwitch n => Sys2Proof.Machine.execAnchorSwitch n s
  | .epochStageCopy block => Sys2Proof.Machine.execEpochStageCopy block s
  | .epochPayloadComplete block => Sys2Proof.Machine.execEpochPayloadComplete block s
  | .chain i1 start flt => Sys2Proof.Machine.execChain i1 start flt s
  | .requant i1 start flt => Sys2Proof.Machine.execRequant i1 start flt s
  | .gavg i1 start flt => Sys2Proof.Machine.execGavg i1 start flt s
  | .haltedOccupancyEnd n => Sys2Proof.Machine.execHaltedOccupancyEnd n s
  | .lanternHang i1 start pass => Sys2Proof.Machine.execLanternHang i1 start pass s
  | .failedChainHandling n replay1 replay2 => Sys2Proof.Machine.execFailedChainHandling n replay1 replay2 s
  | .wickStart i1 => Sys2Proof.Machine.execWickStart i1 s
  | .dmaStart i1 => Sys2Proof.Machine.execDmaStart i1 s
  | .release i1 => Sys2Proof.Machine.execRelease i1 s
  | .testWindow i1 runs => Sys2Proof.Machine.execTestWindow i1 runs s
  | .testWindowPostponed i1 => Sys2Proof.Machine.execTestWindowPostponed i1 s
  | .unitMove u => Sys2Proof.Machine.execUnitMove u s
  | .moveEnd u => Sys2Proof.Machine.execMoveEnd u s
  | .fullSweep u runs => Sys2Proof.Machine.execFullSweep u runs s
  | .sequencerDivergence cu => Sys2Proof.Machine.execSequencerDivergence cu s
  | .snapshotPoint i1 => Sys2Proof.Machine.execSnapshotPoint i1 s
  | .instanceComplete i1 => Sys2Proof.Machine.execInstanceComplete i1 s
  | .fabricRowWrite wr eng => Sys2Proof.Machine.execFabricRowWrite wr eng s
  | .fabricRowRead port addr => Sys2Proof.Machine.execFabricRowRead port addr s
  | .heldWriteRetry addr engineRead => Sys2Proof.Machine.execHeldWriteRetry addr engineRead s
  | .mapStoreBankGrant bank => Sys2Proof.Machine.execMapStoreBankGrant bank s
  | .creditWaitEnd c => Sys2Proof.Machine.execCreditWaitEnd c s
  | .creditStall region => Sys2Proof.Machine.execCreditStall region s
  | .wickInterruptEntry w t => Sys2Proof.Machine.execWickInterruptEntry w t s
  | .wickException w t => Sys2Proof.Machine.execWickException w t s
  | .wickHang w t => Sys2Proof.Machine.execWickHang w t s
  | .storeBufferDrain w => Sys2Proof.Machine.execStoreBufferDrain w s
  | .instructionRefill w => Sys2Proof.Machine.execInstructionRefill w s
  | .localFabricAccess w port off n write => Sys2Proof.Machine.execLocalFabricAccess w port off n write s
  | .cpRcwWrite x gs m gb => Sys2Proof.Machine.execCpRcwWrite x gs m gb s
  | .rcwWaitEnd w t => Sys2Proof.Machine.execRcwWaitEnd w t s
  | .rcwStall w t => Sys2Proof.Machine.execRcwStall w t s
  | .cpTaperOwnerWrite x gs m gb => Sys2Proof.Machine.execCpTaperOwnerWrite x gs m gb s
  | .cpRetWrite x gs m gb => Sys2Proof.Machine.execCpRetWrite x gs m gb s
  | .addSub x sub gd ga gb => Sys2Proof.Machine.execAddSub x sub gd ga gb s
  | .andOrXor x op gd ga gb => Sys2Proof.Machine.execAndOrXor x op gd ga gb s
  | .shlShrSar x op gd ga gb => Sys2Proof.Machine.execShlShrSar x op gd ga gb s
  | .mul x gd ga gb => Sys2Proof.Machine.execMul x gd ga gb s
  | .mulhMulhu x uns gd ga gb => Sys2Proof.Machine.execMulhMulhu x uns gd ga gb s
  | .divDivu x uns gd ga gb => Sys2Proof.Machine.execDivDivu x uns gd ga gb s
  | .remRemu x uns gd ga gb => Sys2Proof.Machine.execRemRemu x uns gd ga gb s
  | .immediateAlu x op gd ga imm => Sys2Proof.Machine.execImmediateAlu x op gd ga imm s
  | .shiftImmediate x op gd ga imm => Sys2Proof.Machine.execShiftImmediate x op gd ga imm s
  | .li x gd imm => Sys2Proof.Machine.execLi x gd imm s
  | .lis x gd imm => Sys2Proof.Machine.execLis x gd imm s
  | .crcs x sz gd ga gb => Sys2Proof.Machine.execCrcs x sz gd ga gb s
  | .par x gd ga => Sys2Proof.Machine.execPar x gd ga s
  | .brev x dbl gd ga => Sys2Proof.Machine.execBrev x dbl gd ga s
  | .clz x gd ga => Sys2Proof.Machine.execClz x gd ga s
  | .load x sz uns gd m gb => Sys2Proof.Machine.execLoad x sz uns gd m gb s
  | .store x sz gs m gb => Sys2Proof.Machine.execStore x sz gs m gb s
  | .skip x cc ga rhs => Sys2Proof.Machine.execSkip x cc ga rhs s
  | .jmp x tgt => Sys2Proof.Machine.execJmp x tgt s
  | .call x tgt => Sys2Proof.Machine.execCall x tgt s
  | .ret x => Sys2Proof.Machine.execRet x s
  | .reti x => Sys2Proof.Machine.execReti x s
  | .featr x gd n => Sys2Proof.Machine.execFeatr x gd n s
  | .drain x => Sys2Proof.Machine.execDrain x s
  | .halt x => Sys2Proof.Machine.execHalt x s
  | .nop x => Sys2Proof.Machine.execNop x s
  | .vsetl x gd ga cfg => Sys2Proof.Machine.execVsetl x gd ga cfg s
  | .vld x vd m gb => Sys2Proof.Machine.execVld x vd m gb s
  | .vst x vs m gb gt => Sys2Proof.Machine.execVst x vs m gb gt s
  | .vaddVsub x sub vd va b mk => Sys2Proof.Machine.execVaddVsub x sub vd va b mk s
  | .vmulVmacc x acc vd va b mk => Sys2Proof.Machine.execVmulVmacc x acc vd va b mk s
  | .vmulhVmulhu x uns vd va b mk => Sys2Proof.Machine.execVmulhVmulhu x uns vd va b mk s
  | .vandVorVxor x op vd va b mk => Sys2Proof.Machine.execVandVorVxor x op vd va b mk s
  | .vshlVshrVsar x op vd va b mk => Sys2Proof.Machine.execVshlVshrVsar x op vd va b mk s
  | .vrsr x vd va b mk => Sys2Proof.Machine.execVrsr x vd va b mk s
  | .vminVmax x op vd va b mk => Sys2Proof.Machine.execVminVmax x op vd va b mk s
  | .vsaddVssub x sub vd va b mk => Sys2Proof.Machine.execVsaddVssub x sub vd va b mk s
  | .vcmp x cc md va b mk => Sys2Proof.Machine.execVcmp x cc md va b mk s
  | .vsel x vd va vb mk => Sys2Proof.Machine.execVsel x vd va vb mk s
  | .vmvs x vd ga mk => Sys2Proof.Machine.execVmvs x vd ga mk s
  | .vmvx x gd va gb => Sys2Proof.Machine.execVmvx x gd va gb s
  | .vslupVsldn x down vd va k mk => Sys2Proof.Machine.execVslupVsldn x down vd va k mk s
  | .vwidsVwidu x uns vd va mk => Sys2Proof.Machine.execVwidsVwidu x uns vd va mk s
  | .vnrs x vd va imm mk => Sys2Proof.Machine.execVnrs x vd va imm mk s
  | .vreduction x op gd va mk => Sys2Proof.Machine.execVreduction x op gd va mk s
  | .vmpop x gd mk => Sys2Proof.Machine.execVmpop x gd mk s
  | .vcrc x gd ga gb => Sys2Proof.Machine.execVcrc x gd ga gb s
  | .vgth x vd ga vi => Sys2Proof.Machine.execVgth x vd ga vi s
  | .tclr x => Sys2Proof.Machine.execTclr x s
  | .tsync x => Sys2Proof.Machine.execTsync x s
  | .tstat x gd => Sys2Proof.Machine.execTstat x gd s
  | .tload x ga => Sys2Proof.Machine.execTload x ga s
  | .lineLoadDone w => Sys2Proof.Machine.execLineLoadDone w s
  | .trep x gn test a => Sys2Proof.Machine.execTrep x gn test a s
  | .tsetc x c gb gl => Sys2Proof.Machine.execTsetc x c gb gl s
  | .tmac x a => Sys2Proof.Machine.execTmac x a s
  | .tout x vd sh cfg => Sys2Proof.Machine.execTout x vd sh cfg s
  | .texp x vd => Sys2Proof.Machine.execTexp x vd s
  | .tnorm x vs => Sys2Proof.Machine.execTnorm x vs s
  | .tmacs x a => Sys2Proof.Machine.execTmacs x a s
  | .tsigr x gd => Sys2Proof.Machine.execTsigr x gd s
  | .dmaStep e eng => Sys2Proof.Machine.execDmaStep e eng s
  | .dmaBlockReturned e c => Sys2Proof.Machine.execDmaBlockReturned e c s
  | .dmaDescriptorComplete e c => Sys2Proof.Machine.execDmaDescriptorComplete e c s
  | .dmaBusError e c write addr => Sys2Proof.Machine.execDmaBusError e c write addr s
  | .haltedChannelCompletion e c => Sys2Proof.Machine.execHaltedChannelCompletion e c s
  | .dmaRowWaitEnd e c => Sys2Proof.Machine.execDmaRowWaitEnd e c s
  | .dmaWaitStall e c => Sys2Proof.Machine.execDmaWaitStall e c s
  | .hbmSlot st frame rep rec blk => Sys2Proof.Machine.execHbmSlot st frame rep rec blk s
  | .hbmReadData st => Sys2Proof.Machine.execHbmReadData st s
  | .hbmOpenAccess port addr n write => Sys2Proof.Machine.execHbmOpenAccess port addr n write s
  | .hbmTempHigh st temp => Sys2Proof.Machine.execHbmTempHigh st temp s
  | .ethFrameReceived p sub bytes => Sys2Proof.Machine.execEthFrameReceived p sub bytes s
  | .rrsPacket slot pathB payload => Sys2Proof.Machine.execRrsPacket slot pathB payload s
  | .networkControlPacket p sub bytes => Sys2Proof.Machine.execNetworkControlPacket p sub bytes s
  | .portLink p sub up => Sys2Proof.Machine.execPortLink p sub up s
  | .ethPortCfgWrite pa p value => Sys2Proof.Machine.execEthPortCfgWrite pa p value s
  | .ingressRelease i1 => Sys2Proof.Machine.execIngressRelease i1 s
  | .ingressPathSilent slot pathB frame => Sys2Proof.Machine.execIngressPathSilent slot pathB frame s
  | .egressSlot i1 => Sys2Proof.Machine.execEgressSlot i1 s
  | .egressPacket slot delay => Sys2Proof.Machine.execEgressPacket slot delay s
  | .egressLateSend slot => Sys2Proof.Machine.execEgressLateSend slot s
  | .stampAncPacket slot => Sys2Proof.Machine.execStampAncPacket slot s
  | .rrscCommitGo pa slot value => Sys2Proof.Machine.execRrscCommitGo pa slot value s
  | .rrscLatch i1 => Sys2Proof.Machine.execRrscLatch i1 s
  | .rrscSlot i1 delay => Sys2Proof.Machine.execRrscSlot i1 delay s
  | .rrscMissed i1 => Sys2Proof.Machine.execRrscMissed i1 s
  | .linkTraining u peer => Sys2Proof.Machine.execLinkTraining u peer s
  | .linkRetrain u fecLost peer => Sys2Proof.Machine.execLinkRetrain u fecLost peer s
  | .linkRetryTimer u peer => Sys2Proof.Machine.execLinkRetryTimer u peer s
  | .urlanDataSend u => Sys2Proof.Machine.execUrlanDataSend u s
  | .urlanDataFlit u flit => Sys2Proof.Machine.execUrlanDataFlit u flit s
  | .urlanCtrlFlit u flit => Sys2Proof.Machine.execUrlanCtrlFlit u flit s
  | .urlanAckTimer u => Sys2Proof.Machine.execUrlanAckTimer u s
  | .urlanTimeSend u => Sys2Proof.Machine.execUrlanTimeSend u s
  | .urlanLateRelease u st frame rep rec blk => Sys2Proof.Machine.execUrlanLateRelease u st frame rep rec blk s
  | .urlanLateBlockWrite u frame index => Sys2Proof.Machine.execUrlanLateBlockWrite u frame index s
  | .urWindowWrite pa off h value => Sys2Proof.Machine.execUrWindowWrite pa off h value s
  | .leafHashStart slot frame stripe => Sys2Proof.Machine.execLeafHashStart slot frame stripe s
  | .leafHashDone lane => Sys2Proof.Machine.execLeafHashDone lane s
  | .parentHashDone slot frame level idx => Sys2Proof.Machine.execParentHashDone slot frame level idx s
  | .stampRecordForm slot frame => Sys2Proof.Machine.execStampRecordForm slot frame s
  | .signatureDone => Sys2Proof.Machine.execSignatureDone s
  | .telemetrySample t => Sys2Proof.Machine.execTelemetrySample t s
  | .managementSupply mv => Sys2Proof.Machine.execManagementSupply mv s
  | .spareRotation u run => Sys2Proof.Machine.execSpareRotation u run s
  | .vacatedUnitTest u runs => Sys2Proof.Machine.execVacatedUnitTest u runs s
  | .ppsOut => Sys2Proof.Machine.execPpsOut s

end Sys2Proof.Machine
end

