-- ==== Sys2Proof/Safety.lean ====
section
/-! DEFINITION. The terms in which claims are stated. -/
namespace Sys2Proof.Machine

/-- Command c answers a next state at s, and P holds of it. -/
def Completes (c : Instr) (s : State) (P : State → Prop) : Prop := ∃ t, exec c s = .next t ∧ P t

/-! ## What a command leaves unchanged -/

/-- The groups of the state. -/
inductive Grp where
  | pending | time | log | mem | lan | wick | dma | hbm | fab | job | net | ur | host | app | sad | rel | stamp | sec | cfg | mgmt | misc
deriving DecidableEq, Repr

/-- A group has the same value in two states. -/
def Grp.same (g : Grp) (s t : State) : Prop :=
  match g with
  | .pending => t.pending = s.pending
  | .time => t.time = s.time
  | .log => t.log = s.log
  | .mem => t.mem = s.mem
  | .lan => t.lan = s.lan
  | .wick => t.wick = s.wick
  | .dma => t.dma = s.dma
  | .hbm => t.hbm = s.hbm
  | .fab => t.fab = s.fab
  | .job => t.job = s.job
  | .net => t.net = s.net
  | .ur => t.ur = s.ur
  | .host => t.host = s.host
  | .app => t.app = s.app
  | .sad => t.sad = s.sad
  | .rel => t.rel = s.rel
  | .stamp => t.stamp = s.stamp
  | .sec => t.sec = s.sec
  | .cfg => t.cfg = s.cfg
  | .mgmt => t.mgmt = s.mgmt
  | .misc => t.misc = s.misc

/-- Every group outside `gs` is as before. -/
def Only (gs : List Grp) (s t : State) : Prop := ∀ g, g ∉ gs → g.same s t

/-- The event logged last. -/
def State.newest (s : State) : Option Event := s.log.all.head?

/-! ## Ring commands -/

/-- It is ring k's turn, its entry can be read, holds opcode `op` with its reserved bytes 0, and no one-at-a-time command waits or stands in
its way (R426). -/
def Turn (s : State) (k : Fin 64) (io : IoFail) (op : Nat) (used : List (Nat × Nat)) : Prop :=
  s.host.serial = [] ∧
  s.nextRing = some k ∧ io.sqRead = false ∧ s.outerOk ((s.host.rings[k]).sqBase.toNat + 64 * (s.host.rings[k]).head) 64 = true ∧
  fld (s.sqEntry k) 0 1 = op ∧ (serialOp op && s.serialBusy) = false ∧ reservedOk (s.sqEntry k) used = true

/-- The command at the head of ring k. -/
def State.headCmd (s : State) (k : Fin 64) : Taken := ⟨k, (s.host.rings[k]).epochNo, BitVec.ofNat 32 (fld (s.sqEntry k) 4 4), s.sqEntry k⟩

/-- The state once the command at the head of ring k is read, through the correction where the ring lies in HBM, and taken (R360, R423,
R426). -/
def State.afterTake (s : State) (k : Fin 64) : State :=
  ((s.seeHbm 0x82 ((s.host.rings[k]).sqBase.toNat + 64 * (s.host.rings[k]).head) 64).updRing k fun r =>
    { r with head := (r.head + 1) % sqSize r.cfg, taken := r.taken + 1 }).setJob { s.job with lastRing := k.1 }

/-! ## Timetable instances -/

/-- Entry e of instance i has kind k, and the instance may start (R41, R186, R214, R413, R436). -/
def Starts (s : State) (i : Inst) (k : Nat) (e : TtEntry) : Prop := s.entryOf i = some e ∧ e.kind = k ∧ s.canStart e i = true

/-- The state once instance i of entry e has started, at the later of its placed time and the present (R41). -/
def State.startOf (s : State) (e : TtEntry) (i : Inst) : State := let t := s.reach (s.startTick e i); t.setJob (t.job.start i)

/-! ## Instructions of the Wick and Saddler cores -/

/-- The slot of thread t of Wick w has come (R221). -/
def State.slot (s : State) (w : WkId) (t : Fin 4) : State := s.setWick w fun k => k.toSlot t

/-- What thread t of Wick w issues in its next slot is instruction i, of len bytes: the thread runs, it enters no interrupt there, and i is
no suppressed victim (R221, R240, R270). -/
def Issues (s : State) (w : WkId) (t : Fin 4) (i : Instr) (len : Nat) : Prop :=
  s.wick[w].threads[t].run = .running ∧ s.wick[w].threads[t].victim ≠ .suppress ∧
  (s.wick[w].threads[t].victim = .none → (s.wick[w].toSlot t).irqLine t = none) ∧
  decodeWick w t false .clean s.wick[w].testState (s.slot w t).wick[w].threads[t].buf = .ok i len

/-- Instruction i, of len bytes, is the next that executes at a site, and the residue check of its arithmetic finds nothing. -/
def SiteReady (s : State) (x : Site) (i : Instr) (len : Nat) : Prop :=
  match x with
  | .wick w t _ res => res = .clean ∧ Issues s w t i len
  | .sad p _ => s.sad[p].fenced = false ∧ s.sad[p].asleep = false ∧ s.sad[p].victim ≠ .suppress ∧
      (s.sad[p].victim = .none → s.sad[p].irqLine = none) ∧ decodeCompact p (s.mem.bytes s.sad[p].pc.toNat 4) = some (i, len)

/-- The state in which the instruction of a site executes. -/
def State.atSite (s : State) (x : Site) : State :=
  match x with
  | .wick w t _ _ => s.slot w t
  | .sad _ _ => s

/-- Address of the instruction at a site, and the address after it. -/
def State.sitePc (s : State) (x : Site) : Nat :=
  match x with
  | .wick w t _ _ => s.wick[w].threads[t].pc.toNat
  | .sad p _ => s.sad[p].pc.toNat
def State.siteNext (s : State) (x : Site) (len : Nat) : Nat :=
  match x with
  | .wick w t _ _ => (s.wick[w].threads[t].pc + BitVec.ofNat 18 len).toNat
  | .sad p _ => (s.sad[p].pc + BitVec.ofNat 48 len).toNat

/-- The return stack of a site, top first. -/
def State.siteStack (s : State) (x : Site) : List Nat :=
  match x with
  | .wick w t _ _ => s.wick[w].threads[t].stack.map (·.toNat)
  | .sad p _ => s.sad[p].stack.map (·.toNat)

/-- The shadow bank of a site is active. -/
def State.siteAlt (s : State) (x : Site) : Bool :=
  match x with
  | .wick w t _ _ => s.wick[w].threads[t].alt
  | .sad p _ => s.sad[p].alt

/-- What the site's instruction reads. -/
def State.coreAt (s : State) (x : Site) (len : Nat) : Core := ⟨s.siteRegs x, s.sitePc x, s.siteNext x len, s.siteStack x, s.siteAlt x⟩

/-- What the site's last instruction made of the next one (R270). -/
def State.siteVictim (s : State) (x : Site) : Victim :=
  match x with
  | .wick w t _ _ => s.wick[w].threads[t].victim
  | .sad p _ => s.sad[p].victim

/-- The parts of a thread that only its own instructions and entries change: all but what passing W-cycles bring. -/
def Thread.same (a b : Thread) : Prop :=
  b.run = a.run ∧ b.pc = a.pc ∧ b.g = a.g ∧ b.shadowG = a.shadowG ∧ b.stack = a.stack ∧ b.alt = a.alt ∧ b.ie = a.ie ∧
  b.poison = a.poison ∧ b.m = a.m ∧ b.vl = a.vl ∧ b.sew = a.sew ∧ b.grp = a.grp ∧ b.vfidx = a.vfidx ∧ b.accSh = a.accSh

/-- Beside thread t of Wick w nothing of a thread, a store buffer, the pending lines or the Taper differs, and nothing outside the Wick. -/
def OtherThreads (s u : State) (w : WkId) (t : Fin 4) : Prop :=
  (∀ r : Fin 4, r ≠ t → Thread.same s.wick[w].threads[r] u.wick[w].threads[r]) ∧ u.wick[w].sb = s.wick[w].sb ∧
  u.wick[w].irqPend = s.wick[w].irqPend ∧ u.wick[w].taper = s.wick[w].taper ∧ (∀ v : WkId, v ≠ w → u.wick[v] = s.wick[v])

/-- The instruction has executed at its site: the registers, the address of the next instruction and the return stack are as given, and
nothing else of the site has changed. -/
def Retires (s u : State) (x : Site) (g : Vector W64 32) (pc : Nat) (stk : List Nat) : Prop :=
  match x with
  | .wick w t _ _ =>
    Thread.same { s.wick[w].threads[t] with g := g, pc := BitVec.ofNat 18 pc, stack := stk.map (BitVec.ofNat 18 ·) } u.wick[w].threads[t] ∧
    OtherThreads s u w t ∧ Only [.wick] s u
  | .sad p _ =>
    u.sad[p].g = g ∧ u.sad[p].pc = pairPc (BitVec.ofNat 48 pc) ∧ u.sad[p].stack = stk.map (BitVec.ofNat 48 ·) ∧ u.sad[p].shadowG = s.sad[p].shadowG ∧
    u.sad[p].alt = s.sad[p].alt ∧ u.sad[p].ie = s.sad[p].ie ∧ u.sad[p].pend = s.sad[p].pend ∧ u.sad[p].asleep = false ∧
    (∀ q : Fin 4, q ≠ p → u.sad[q] = s.sad[q]) ∧ Only [.sad] s u

/-- An exception of the site's instruction: the handler is entered with g30 and g31 of the new bank set, or the thread is FAULTED, or the
pair restarts (R242, R243, R444, R445). -/
def Traps (s u : State) (x : Site) (cause : Byte) (addr : W64) : Prop :=
  match x with
  | .wick w t _ _ =>
    let th := s.wick[w].threads[t]
    (th.alt = false → th.stack.length < 32 →
      u.wick[w].threads[t].pc = 0 ∧ u.wick[w].threads[t].alt = true ∧ u.wick[w].threads[t].stack = th.pc :: th.stack ∧
      u.wick[w].threads[t].g = regSet (regSet (bankSwap th.g th.shadowG).1 30 (cause.setWidth 64)) 31 addr ∧ Only [.wick] s u) ∧
    (th.alt = true ∨ 32 ≤ th.stack.length →
      u.wick[w].threads[t].run = .faulted ∧ u.wick[w].threads[t].g = th.g ∧
      u.newest = some ⟨s.time.ftb, 0x0501, 2, w.1, detail [(1, t.1), (1, cause.toNat), (4, th.pc.toNat)]⟩ ∧ Only [.wick, .log, .sad] s u)
  | .sad p _ =>
    (s.sad[p].alt = false → s.sad[p].stack.length < 64 →
      u.sad[p] = s.sad[p].enter s.sad[p].pc (cause.setWidth 64) addr 0 ∧ Only [.sad] s u) ∧
    (s.sad[p].alt = true ∨ 64 ≤ s.sad[p].stack.length →
      u = (s.restartPair p).logEv 0x0A03 7 p.1 [(1, cause.toNat), (8, addr.toNat)])

/-! ## Vector and Taper instructions -/

/-- Vector or Taper instruction i, of len bytes, is what its thread issues alone in its next slot, and its residue check finds nothing. -/
def VReady (s : State) (x : VSite) (i : Instr) (len : Nat) : Prop := x.pair = false ∧ x.res = .clean ∧ Issues s x.w x.t i len

/-- The thread as its slot finds it. -/
def State.thrAt (s : State) (x : VSite) : Thread := (s.slot x.w x.t).wick[x.w].threads[x.t]

/-- The instruction has executed: beside the vector registers its thread is `f` of what it was, at the next instruction; other threads, and
what stands outside the Wick, are as before. -/
def VRetires (s u : State) (x : VSite) (len : Nat) (f : Thread → Thread) : Prop :=
  Thread.same { f (s.thr x) with pc := (s.thr x).pc + BitVec.ofNat 18 len } (u.thr x) ∧
  (∀ r : Fin 4, r ≠ x.t → Thread.same s.wick[x.w].threads[r] u.wick[x.w].threads[r]) ∧ u.wick[x.w].sb = s.wick[x.w].sb ∧
  (∀ v : WkId, v ≠ x.w → u.wick[v] = s.wick[v])

/-- A vector load in flight lands in register number r in the very slot of the instruction (R234). -/
def LandsIn (s : State) (x : VSite) (r : Nat) : Prop :=
  ∃ l ∈ (s.thrAt x).vloads, l.due = (s.slot x.w x.t).wick[x.w].rho ∧ l.reg.1 = r

/-- The group of n registers that starts at vd holds f on its active elements of w bits, and elsewhere what it held, unless a load lands
there. -/
def Holds (s u : State) (x : VSite) (vd : V) (w n : Nat) (act : Nat → Bool) (f : Nat → Nat) : Prop :=
  ∀ i, i < n * (4096 / w) →
    (act i = true → elemAt (u.thr x).v vd.1 w i = f i % 2 ^ w) ∧
    (act i = false → ¬ LandsIn s x (vd.1 + i * w / 4096) → elemAt (u.thr x).v vd.1 w i = elemAt (s.thrAt x).v vd.1 w i)

/-- A row of the vector scratchpad as the Wick reaches it. -/
def State.vecRowData (s : State) (w : WkId) (r : Nat) : Row :=
  rowOf ((allSectors.map fun i => s.vecAddr w (512 * r + 32 * i)).flatMap fun a => s.mem.bytes a 32)

/-- The thread owns the Taper, no TREP runs, and the line loader does not hold the instruction up (R245, R313, R318). -/
def TReady (s : State) (x : VSite) (i : Instr) (len : Nat) : Prop :=
  VReady s x i len ∧ (s.slot x.w x.t).wick[x.w].owner = some x.t ∧ (s.slot x.w x.t).wick[x.w].trepRuns = false ∧ s.wick[x.w].taperHeld i = false

/-- Element e of Taper X, or of Y. -/
def State.taperElem (s : State) (w : WkId) (y : Bool) (e : Nat) : Nat :=
  leNat (s.mem.bytes (wickBase w.1 + (if y then 0x00060000 else 0x00040000) + 2 * e) 2)

/-! ## DMA and HBM -/

/-- M-cycle of a channel's next step where no pace holds it back: the one after the engine's last step, or the present one, and none before
the first of its descriptor (R185, R332). -/
def State.dmaNext (s : State) (e : Fin 4) (c : Fin 32) : Nat :=
  max (max (s.dma[e].mcyc + 1) (mCycle s.time.ftb)) (s.dma[e].ch[c]).from_

/-- The channel as its step finds it: blocks whose run is done are freed (R338). -/
def State.dmaChan (s : State) (e : Fin 4) (c : Fin 32) : Chan := { (s.dma[e].ch[c]).free with wait := .none }

/-- Channel c, of low priority and not paced, alone is eligible, no channel owns the engine, and c leaves no credit wait (R333–R335). -/
def DmaReady (s : State) (e : Fin 4) (c : Fin 32) : Prop :=
  (∀ k : Fin 32, s.couldStep s.dma[e].ch[k] = (k == c)) ∧ s.dma[e].prio c = false ∧ (s.dma[e].ch[c]).paced = false ∧
  s.dma[e].owner = none ∧ s.dma[e].preempted = none ∧ (s.dma[e].ch[c]).wait ≠ .credit

/-- The slot of block blk of record rec, in repetition rep of frame m, comes at FTB count `slot` (R356). -/
def SlotRuns (s : State) (st : Fin 4) (m rep rec blk slot : Nat) (r : HbmRec) : Prop :=
  ∃ im, s.job.image = some im ∧ (im.hbm[st]).recs[rec]? = some r ∧ s.job.state = .armed ∧ s.job.base ≤ m ∧ blk < r.count ∧
    s.job.anchor m + 10 * (im.hbm[st]).period * (rep + 1) < s.job.anchor (m + 1) ∧
    slot = s.job.anchor m + 10 * (im.hbm[st]).period * rep + 10 * r.tick + r.sub + 16 * blk

/-! ## Winograd -/

/-- Row u of 2G (R147). -/
def twoG (u : Nat) : List Int :=
  match u with
  | 0 => [2, 0, 0]
  | 1 => [1, 1, 1]
  | 2 => [1, -1, 1]
  | _ => [0, 0, 2]

/-! ## Network -/

/-- A frame that a port's filters take up: the sub-port is there and up, and length and FCS are right (R366). -/
def FrameIn (s : State) (p sub : Fin 4) (b : List Byte) : Prop :=
  (s.net.ports[p]).enabled = true ∧ sub.1 < (s.net.ports[p]).subs ∧ (s.net.ports[p]).link.getLsbD sub.1 = true ∧ frameOk b = true

/-- A slot takes RRS packets on a path of its ingress stream b while a job is armed. -/
def RrsIn (s : State) (k : Fin 32) (path : Bool) (b : StreamBind) : Prop :=
  s.streamAt k = some b ∧ b.dir = 0 ∧ s.job.state = .armed ∧ (path = true → b.portB ≠ 0xFF)

/-! ## Throttling -/

/-- R525: every quadrant's target is the highest index demanded of it, or the largest such of all quadrants minus 1 where that is more. -/
def FollowsDemand (m : MgmtBlk) : Prop :=
  ∀ q : Fin 4, m.target[q] = max (m.demand q) (max (max (m.demand 0) (m.demand 1)) (max (m.demand 2) (m.demand 3)) - 1)

/-! ## Invariants -/

/-- R523: at every moment two quadrants lie within one step of each other, and so do their ends of the changes under way (R524). -/
def State.quadrantsNear (s : State) : Prop :=
  ∀ q r : Fin 4, near s.mgmt.step[q] s.mgmt.step[r] = true ∧ near (s.mgmt.ending q) s.mgmt.step[r] = true ∧
    near (s.mgmt.ending q) (s.mgmt.ending r) = true

/-- The stores of a fixed depth hold no more than it: return stacks (R246, R444), the start log (R496), the management circuit's events
(R535) and the replay buffers (R398). -/
def State.withinDepths (s : State) : Prop :=
  (∀ (w : WkId) (t : Fin 4), s.wick[w].threads[t].stack.length ≤ 32) ∧ (∀ p : Fin 4, s.sad[p].stack.length ≤ 64) ∧
  s.log.startLog.length ≤ 256 ∧ s.log.smbus.length ≤ 64 ∧ (∀ u : Fin 6, (s.ur.links[u]).replay.length ≤ 1024)

end Sys2Proof.Machine
end

