-- ==== Sys2Proof/Certificates/Slice0/Obligations.lean ====
section
/-! DEFINITION. The statements for the provers. -/
open Sys2Proof Sys2Proof.Machine

/-- For every command c and state s whose queue is c followed by rest, step of s is exec of c on s with the queue rest. With an empty queue
the step answers a next state whose FTB is one higher and whose other parts but time, memory, log, rings and trace are as before (the
model's choice, log 1). Rests on spec/95_what_each_step_holds.md. -/
def Obligations.StepRunsTheFrontCommand : Prop :=
  (∀ (c : Instr) (rest : List Instr) (s : State), s.pending = c :: rest → step s = exec c { s with pending := rest }) ∧
  (∀ s : State, s.pending = [] → ∃ t, step s = .next t ∧ t.time.ftb = s.time.ftb + 1 ∧ t.pending = [] ∧ Only [.time, .mem, .log, .host, .misc] s t)

/-- At State.reset the FTB is 0 and the servo FREE, no image is loaded, every ring pair and the event ring are disabled, and the
identification words, the scratch word, the low half of FTB_COUNT, the slip counter, HBM_ID to HBM_SLOT_MISS_COUNT of each stack and
LN_ERR and the mismatch counter of each Lantern read their Reset values. The empty queue is the model's. Rests on spec/12_hbm_timetable.md
R363, spec/18_startup_reset_configuration.md R504, spec/20_register_map.md R544, spec/20_register_map.md R545. -/
def Obligations.ResetLeavesTheTabledValues : Prop :=
  State.reset.time.ftb = 0 ∧ State.reset.time.servo = .free ∧ State.reset.job.state = .none ∧ State.reset.job.image = none ∧
  State.reset.pending = [] ∧
  (∀ p : Path,
    State.reset.regWord p 0 = 0x0B19B101 ∧ State.reset.regWord p 4 = 0x24342030 ∧ State.reset.regWord p 8 = 0x44642044 ∧
    State.reset.regWord p 0x18 = 0 ∧ State.reset.regWord p 0x00100000 = 0 ∧ State.reset.regWord p 0x00100020 = 0) ∧
  (∀ (p : Path) (st : Fin 4),
    State.reset.regWord p (0x04000000 + 0x100000 * st.1) = BitVec.ofNat 32 (65536 * st.1 + 0x4000) ∧
    State.reset.regWord p (0x04000004 + 0x100000 * st.1) = 0 ∧ State.reset.regWord p (0x04000008 + 0x100000 * st.1) = 0 ∧
    State.reset.regWord p (0x0400000C + 0x100000 * st.1) = 0 ∧ State.reset.regWord p (0x04000010 + 0x100000 * st.1) = 0) ∧
  (∀ (p : Path) (n : LnId), State.reset.regWord p (0x01000020 + 0x10000 * n.1) = 0 ∧ State.reset.regWord p (0x01000030 + 0x10000 * n.1) = 0) ∧
  (∀ k : Fin 64, ringOn (State.reset.host.rings[k]).cfg = false) ∧ ringOn State.reset.log.evCfg = false

/-- At State.reset memory is in its canonical form (the model's own, log 3), the quadrants lie within one throttle step of each other, and the
stores of fixed depth hold no more than it. Rests on spec/08_wick_core.md R246, spec/15_host_interface_cores.md R444,
spec/14_urlan_links.md R398, spec/18_startup_reset_configuration.md R496, spec/19_module_power_cooling.md R523. -/
def Obligations.ResetMeetsTheInvariants : Prop := State.reset.mem.wf ∧ State.reset.quadrantsNear ∧ State.reset.withinDepths

/-- From every state whose memory lists (bytes, tags, poison, stored errors, sideband errors, flash) rise in their keys and hold no default
value (the model's own form, log 3), a step to a next state leaves them so, and the queue is what followed its front. Rests on
spec/06_scratchpads_map_store.md R166, spec/20_register_map.md R540. -/
def Obligations.StepsKeepMemoryCanonical : Prop :=
  ∀ s t : State, s.mem.wf → step s = .next t → t.mem.wf ∧ t.pending = s.pending.tail

/-- From every state in which any two quadrants lie within one step index of each other, as do the indices that the changes under way end at,
among themselves and with the present ones, a step to a next state leaves them so. The rails of R523 are outside the model. Rests on
spec/19_module_power_cooling.md R523, spec/19_module_power_cooling.md R524. -/
def Obligations.StepsKeepQuadrantsNear : Prop := ∀ s t : State, s.quadrantsNear → step s = .next t → t.quadrantsNear

/-- From every state in which each Wick thread's return stack holds at most 32 addresses, each Saddler pair's at most 64, the start log at
most 256 records, the management circuit at most 64 events and each link's replay buffer at most 1,024 flits, a step to a next state
leaves them so. Rests on spec/08_wick_core.md R246, spec/14_urlan_links.md R398, spec/15_host_interface_cores.md R444,
spec/18_startup_reset_configuration.md R496, spec/19_module_power_cooling.md R535. -/
def Obligations.StepsStayWithinDepths : Prop := ∀ s t : State, s.withinDepths → step s = .next t → t.withinDepths

/-- The start count of absolute frame m at num/den frames per second is the least FTB count n with m x 10^9 x den at most n x num, that is,
the ceiling of the quotient; frame 0 starts at 0, the PTP epoch. Of every job frame the start count is that of its absolute frame at the
job's rate, and its anchor is the smallest multiple of 10 at or above it. States R34. -/
def Obligations.FramesStartAtTheirCounts : Prop :=
  (∀ num den m : Nat, 0 < num →
    m * 10 ^ 9 * den ≤ frameStart num den m * num ∧ (∀ n, m * 10 ^ 9 * den ≤ n * num → frameStart num den m ≤ n) ∧ frameStart num den 0 = 0) ∧
  (∀ (j : JobBlk) (n : Nat), j.frameF n = frameStart j.num j.den (j.frame0 + n - j.base) ∧ j.anchor n % 10 = 0 ∧ j.frameF n ≤ j.anchor n ∧
    ∀ a, a % 10 = 0 → j.frameF n ≤ a → j.anchor n ≤ a)

/-- Issued by the Taper's owner, TCLR completes with all 128 accumulators 0 and nothing else of the Taper changed. TSTAT completes with OVF in
bit 0, SAT in bit 1, line-loader busy in bit 2 and 0 elsewhere in gd, and OVF and SAT cleared. In both the thread moves to its next
instruction, and other threads, other Wicks and everything outside the Wick are as before. States R317. -/
def Obligations.TaperAccumulatorsClearAndStatusReads : Prop :=
  (∀ (x : VSite) (len : Nat) (s : State), TReady s x (.tclr x) len →
    Completes (.tclr x) s fun t => VRetires s t x len id ∧
      t.wick[x.w].taper = { s.wick[x.w].taper with acc := Vector.replicate 128 0 } ∧ Only [.wick] s t) ∧
  (∀ (x : VSite) (len : Nat) (gd : G) (s : State), TReady s x (.tstat x gd) len →
    Completes (.tstat x gd) s fun t =>
      VRetires s t x len (fun a => { a with g := regSet a.g gd (BitVec.ofNat 64 ((if s.wick[x.w].taper.ovf then 1 else 0) +
        (if s.wick[x.w].taper.sat then 2 else 0) + (if s.wick[x.w].taper.loader.isSome then 4 else 0))) }) ∧
      t.wick[x.w].taper = { s.wick[x.w].taper with ovf := false, sat := false } ∧ Only [.wick] s t)

/-- On memory in canonical form, a row write changes exactly the bytes of the selected 32-byte sectors, stores the tag it carries, stores the
poison bit it carries when it selects all 16 sectors, and with fewer sectors sets the stored poison when it carries poison and otherwise
leaves it; the stored error of each selected sector is gone, and every other byte, tag, poison bit, stored error and the flash are as
before. States R168. -/
def Obligations.RowWritesReachTheirSectors : Prop :=
  ∀ (m : MemBlk) (row : Nat) (mask : BitVec 16) (data : Row) (tag : Byte) (p : Bool), m.wf →
    (∀ a, (m.writeRow row mask data tag p).byte a =
      if row ≤ a ∧ a < row + 512 ∧ mask.getLsbD ((a - row) / 32) = true then (rowBytes data).getD (a - row) 0 else m.byte a) ∧
    (∀ r, (m.writeRow row mask data tag p).tag r = if r = row then tag else m.tag r) ∧
    (∀ r, (m.writeRow row mask data tag p).poisoned r =
      if r = row then p || (decide (mask ≠ 0xFFFF) && m.poisoned r) else m.poisoned r) ∧
    (∀ a, (m.writeRow row mask data tag p).eccAt a =
      if row ≤ a ∧ a < row + 512 ∧ (a - row) % 32 = 0 ∧ mask.getLsbD ((a - row) / 32) = true then 0 else m.eccAt a) ∧
    (m.writeRow row mask data tag p).flash = m.flash

/-- A power-on reset, a fundamental reset and a warm reset by register complete READY, with the kind (and, for the latter two, the cause)
recorded and the host interface up. A rail out of regulation and a thermal trip drop the supplies, assert the trip pin, keep cause and
reading and end the job; an input below 38 V or above 63 V drops the supplies, ends the job and logs it. Rests on
spec/18_startup_reset_configuration.md R494, spec/18_startup_reset_configuration.md R502, spec/18_startup_reset_configuration.md R504,
spec/19_module_power_cooling.md R519, spec/19_module_power_cooling.md R521, spec/19_module_power_cooling.md R527. -/
def Obligations.ResetsAndSupplyEventsActAsTabled : Prop :=
  ((∀ (sc : StartCond) (s : State), s.mgmt.supplies = false → s.mgmt.tripPin = false →
    Completes (.powerOnReset sc) s fun t =>
      t.cfg.startSt = 2 ∧ t.cfg.lastKind = 0 ∧ t.host.cfgUp = true ∧
      ∀ n : LnId, t.lan[n].mode = (if t.rel.ln[n].st = .fenced then LnMode.off else LnMode.idle)) ∧
  (∀ (sc : StartCond) (s : State), s.mgmt.supplies = true →
    Completes (.fundamentalReset sc) s fun t =>
      t.cfg.startSt = 2 ∧ t.cfg.lastKind = 1 ∧ t.cfg.lastCause = 1 ∧ t.host.cfgUp = true) ∧
  (∀ (p : Path) (v : W32) (micros : Nat) (s : State), v.toNat / 65536 = 0x5752 → bit v.toNat 0 = true → s.mgmt.supplies = true →
    s.cfg.current = none →
    Completes (.warmReset p v micros) s fun t =>
      t.cfg.startSt = 2 ∧ t.cfg.lastKind = 2 ∧ t.cfg.lastCause = 2 ∧ t.cfg.startTime = BitVec.ofNat 32 micros)) ∧
  ((∀ (reading : Nat) (s : State), s.mgmt.supplies = true →
    Completes (.railOutOfRegulation reading) s fun t =>
      t.mgmt.supplies = false ∧ t.mgmt.tripPin = true ∧ t.mgmt.tripNv = some (4, reading) ∧ t.cfg.lastCause = 4 ∧ t.job = JobBlk.reset) ∧
  (∀ (cause : Fin 4) (reading : Nat) (s : State), s.mgmt.supplies = true →
    Completes (.thermalTrip cause reading) s fun t =>
      t.mgmt.supplies = false ∧ t.mgmt.tripPin = true ∧ t.mgmt.tripNv = some (cause.1, reading) ∧ t.job = JobBlk.reset) ∧
  (∀ (mv : Nat) (s : State), mv < 38000 →
    Completes (.inputUndervoltage mv) s fun t =>
      t.mgmt.supplies = false ∧ t.mgmt.mvIn = mv ∧ t.job = JobBlk.reset ∧ t.newest = some ⟨0, 0x0D03, 0x0B, 0, detail [(2, mv)]⟩) ∧
  (∀ (mv : Nat) (s : State), 63000 < mv →
    Completes (.inputOvervoltage mv) s fun t =>
      t.mgmt.supplies = false ∧ t.mgmt.cutOff = true ∧ t.mgmt.mvIn = mv ∧ t.job = JobBlk.reset ∧
      t.newest = some ⟨0, 0x0D03, 0x0B, 0, detail [(2, mv)]⟩))

/-- SAVE queues the settings fields; the oldest waiting write starts with the next sequence number of its record; its end programs the record
and logs success, or logs failure. A button press of a second opens the window for 60 s and its expiry closes it; fitting the jumper is
latched, removes the identity key and is logged, as is its removal; a broken seal is latched and logged. Rests on
spec/18_startup_reset_configuration.md R510, spec/18_startup_reset_configuration.md R512, spec/17_provenance_security.md R489. -/
def Obligations.ConfigurationAndPresenceControlsAct : Prop :=
  ((∀ (p : Path) (v : W32) (s : State), bit v.toNat 0 = true →
    Completes (.saveSettings p v) s fun t =>
      t = { s with cfg := { s.cfg with waiting := s.cfg.waiting ++ [⟨false, 0, s.settingsFields⟩] } }) ∧
  (∀ (w : CfgWrite) (rest : List CfgWrite) (s : State), s.cfg.current = none → s.cfg.waiting = w :: rest →
    Completes .configRecordWrite s fun t =>
      t.cfg.current = some (s.recordImage w) ∧ t.cfg.waiting = rest ∧
      (s.recordImage w).seq = (s.flashSeq w.fence + 1) % 2 ^ 32 ∧ t = { s with cfg := t.cfg, mem := t.mem }) ∧
  (∀ (r : CfgWrite) (a b : Bool) (l : List Byte) (s : State), s.cfg.current = some r → s.cfg.warmDue = none → (a || b) = true →
    Completes (.configWriteDone a b l) s fun t =>
      t.cfg.current = none ∧ t.cfg.lastFail = false ∧ t.mem = s.mem.program (recordAt r.fence) r.image ∧
      t.newest = some ⟨s.time.ftb, 0x0E03, 0, 0, detail [(1, if r.fence then 1 else 0), (4, r.seq)]⟩) ∧
  (∀ (r : CfgWrite) (l : List Byte) (s : State), s.cfg.current = some r → s.cfg.warmDue = none →
    Completes (.configWriteDone false false l) s fun t =>
      t.cfg.current = none ∧ t.cfg.lastFail = true ∧
      t.newest = some ⟨s.time.ftb, 0x0E04, 0, 0, detail [(1, if r.fence then 1 else 0), (1, 2)]⟩)) ∧
  ((∀ (ms : Nat) (s : State), 1000 ≤ ms →
    Completes (.serviceButtonPress ms) s fun t =>
      t.sec = { s.sec with window := some (s.time.ftb + 60000000000) } ∧
      t.newest = some ⟨s.time.ftb, 0x0C04, 0x0A, 0, detail [(8, s.time.ftb + 60000000000)]⟩ ∧
      t = { s with sec := t.sec, log := t.log, sad := t.sad }) ∧
  (∀ (e : Nat) (s : State), s.sec.window = some e →
    Completes .buttonWindowExpiry s fun t => t.sec.window = none ∧ t = { s.reach e with sec := t.sec }) ∧
  (∀ (s : State), s.sec.jumper = false →
    Completes (.debugJumper true) s fun t =>
      t.sec.jumper = true ∧ t.sec.jumperSeen = true ∧ t.sec.identity = false ∧
      t.newest = some (if s.sec.identity then ⟨s.time.ftb, 0x0C01, 0x0A, 0, detail [(1, 2)]⟩
        else ⟨s.time.ftb, 0x0C05, 0x0A, 0, detail [(1, 1)]⟩) ∧
      t = { s with sec := t.sec, log := t.log, sad := t.sad }) ∧
  (∀ (s : State), s.sec.jumper = true →
    Completes (.debugJumper false) s fun t =>
      t.sec = { s.sec with jumper := false } ∧ t.newest = some ⟨s.time.ftb, 0x0C05, 0x0A, 0, detail [(1, 0)]⟩) ∧
  (∀ (s : State), s.mgmt.supplies = true → s.sec.sealOpen = true → s.sec.sealBroken = false →
    Completes (.sealBroken true) s fun t =>
      t.sec = { s.sec with sealBroken := true, sealOpen := true } ∧ t.newest = some ⟨s.time.ftb, 0x0C06, 0x0A, 0, detail [(1, 1)]⟩ ∧
      t = { s with sec := t.sec, log := t.log, sad := t.sad }))

/-- With the button window open, and jumper or seal as needed, each privileged operation has its effect, closes the window, records status 0
and logs it; without the window each changes nothing but window, last operation and status 2, and logs that. A bad operation code records
status 6. ATTEST takes the quote and the free engine; its end writes the signature, a free value, behind the quote. Rests on
spec/17_provenance_security.md R486, spec/17_provenance_security.md R490, spec/17_provenance_security.md R491. -/
def Obligations.PrivilegedOperationsNeedPresence : Prop :=
  (∀ (s : State), s.job.state ≠ .armed → s.sec.busy = false →
    (∀ a b : Bool, s.windowOpen = true → s.copyStatus 0x01000000 b a (fwHeaderOk s.secSource && signatureOk s.secSource) = 0 →
      Completes (.fwWrite a b) s fun t =>
        t.mem = { s.mem with fwSlot := s.secSource } ∧ t.sec = { s.sec with window := none, lastOp := 1, status := 0 } ∧
        t.newest = some ⟨s.time.ftb, 0x0C07, 0x0A, 0, detail [(1, 1), (1, 0)]⟩) ∧
    (∀ a b : Bool, s.windowOpen = true → s.copyStatus 0x02000000 b a (libReject s.secSource).isNone = 0 →
      Completes (.libWrite a b) s fun t =>
        t.mem = { s.mem with libSlot := s.secSource } ∧ t.sec = { s.sec with window := none, lastOp := 2, status := 0 } ∧
        t.newest = some ⟨s.time.ftb, 0x0C07, 0x0A, 0, detail [(1, 2), (1, 0)]⟩) ∧
    (s.windowOpen = true → s.sec.sealBroken = false →
      Completes .rollbackCommit s fun t =>
        t.sec = { s.sec with window := none, lastOp := 3, status := 0, minVer := max s.sec.minVer s.sec.secVer } ∧
        t.newest = some ⟨s.time.ftb, 0x0C07, 0x0A, 0, detail [(1, 3), (1, 0)]⟩) ∧
    (s.windowOpen = true →
      Completes (.configDefault true) s fun t =>
        t.mem = s.mem.program setOffset [] ∧ t.sec = { s.sec with window := none, lastOp := 4, status := 0 } ∧
        t.newest = some ⟨s.time.ftb, 0x0C07, 0x0A, 0, detail [(1, 4), (1, 0)]⟩) ∧
    (s.windowOpen = true →
      Completes (.fenceClear true) s fun t =>
        t.mem = s.mem.program fenceOffset [] ∧ t.sec = { s.sec with window := none, lastOp := 5, status := 0 } ∧
        t.newest = some ⟨s.time.ftb, 0x0C07, 0x0A, 0, detail [(1, 5), (1, 0)]⟩) ∧
    (∀ a b : Bool, s.windowOpen = true → s.sec.jumper = true → s.copyStatus 4096 b a (Config.certKeyMatches s.secSource) = 0 →
      Completes (.certWrite a b) s fun t =>
        t.sec = { s.sec with window := none, lastOp := 6, status := 0, cert := s.secSource } ∧
        t.newest = some ⟨s.time.ftb, 0x0C07, 0x0A, 0, detail [(1, 6), (1, 0)]⟩) ∧
    (s.windowOpen = true → s.sec.jumper = true →
      Completes (.identityZeroise true) s fun t =>
        t.sec = { s.sec with window := none, lastOp := 7, status := 0, zeroised := true } ∧
        t.newest = some ⟨s.time.ftb, 0x0C07, 0x0A, 0, detail [(1, 7), (1, 0)]⟩)) ∧
  (∀ (s : State) (a b : Bool), s.job.state ≠ .armed → s.sec.busy = false → s.windowOpen = false →
    ∀ p ∈ [(1, Instr.fwWrite a b), (2, .libWrite a b), (3, .rollbackCommit), (4, .configDefault a), (5, .fenceClear a), (6, .certWrite a b),
        (7, .identityZeroise a)],
      Completes p.2 s fun t =>
        t = { s with sec := { s.sec with window := none, lastOp := BitVec.ofNat 8 p.1, status := 2 }, log := t.log, sad := t.sad } ∧
        t.newest = some ⟨s.time.ftb, 0x0C07, 0x0A, 0, detail [(1, p.1), (1, 2)]⟩) ∧
  ((∀ (op : Byte) (s : State), ¬ (1 ≤ op.toNat ∧ op.toNat ≤ 7) →
    Completes (.secBadOp op) s fun t => t = { s with sec := { s.sec with lastOp := op, status := 6 } }) ∧
  (∀ (v : W32) (s : State), bit v.toNat 2 = true → s.sec.attBusy = false →
    Completes (.attestGo v) s fun t =>
      t.sec = { s.sec with attBusy := true, attDone := false, quote := s.quoteBytes ++ padTo 512 (s.sec.quote.drop 256) } ∧
      (s.stamp.engine = none → t.stamp = { s.stamp with engine := some (true, 0, 0, s.time.ftb + 250000) }) ∧
      (s.stamp.engine ≠ none → t.stamp = s.stamp) ∧ t = { s with sec := t.sec, stamp := t.stamp }) ∧
  (∀ (e a b : Nat) (s : State), s.sec.attBusy = true → s.stamp.engine = some (true, a, b, e) →
    Completes .attestDone s fun t =>
      t.sec.attBusy = false ∧ t.sec.attDone = true ∧ t.stamp.engine = none ∧ t.misc.fresh = (s.reach e).misc.fresh + 1 ∧
      t.sec.quote = (s.reach e).sec.quote.take 256 ++ (s.reach e).signatureOf ((s.reach e).sec.quote.take 256)))

/-- THROTTLE_WINDOW, with the supplies valid, completes: the powers are held, the power and die requests are active exactly above LIMIT_W and
820 W, and then each quadrant is demanded one index above its own. THROTTLE_REQUEST completes for every reading that makes its request
active or ends it, and EXTERNAL_THROTTLE for every change of the pin, which while asserted demands index 4 of every quadrant. After each
of the three every quadrant's target is the highest index demanded of it, or the largest demand of all less 1. THROTTLE_STEP_BEGIN
completes where R523 allows the change, with its end 20 microseconds later at an epoch tick where the table says so; THROTTLE_STEP at that
end sets the index of its quadrant alone, counts it, sets the targets anew and logs it. Rests on spec/19_module_power_cooling.md R523,
spec/19_module_power_cooling.md R524, spec/19_module_power_cooling.md R525, spec/19_module_power_cooling.md R526. -/
def Obligations.ThrottlingMovesOneIndexAtATime : Prop :=
  ((∀ (pin pdie : Nat) (s : State), s.mgmt.supplies = true →
    Completes (.throttleWindow pin pdie) s fun t =>
      t.mgmt.pin = pin ∧ t.mgmt.pdie = pdie ∧ t.mgmt.reqPower = decide (s.mgmt.limit < pin) ∧ t.mgmt.reqDie = decide (820 < pdie) ∧
      (s.mgmt.limit < pin ∨ 820 < pdie → bit t.mgmt.status.toNat 2 = true ∧
        ∀ q : Fin 4, t.mgmt.powDem[q] = some (min 4 (s.mgmt.step[q] + 1))) ∧
      FollowsDemand t.mgmt ∧ t = { s with mgmt := t.mgmt }) ∧
  (∀ (r : ThrottleReq) (a : Bool) (n : Nat) (s : State), s.mgmt.supplies = true → requestHolds r a n = true →
    Completes (.throttleRequest r a n) s fun t =>
      (match r with
        | .hotspot q => t.mgmt.reqHot = upd s.mgmt.reqHot q fun _ => a
        | .flow => t.mgmt.reqFlow = a
        | .inlet => t.mgmt.reqInlet = a) ∧
      FollowsDemand t.mgmt ∧ t = { s with mgmt := t.mgmt, log := t.log, sad := t.sad }) ∧
  (∀ (a : Bool) (s : State), s.mgmt.pinThrot = !a →
    Completes (.externalThrottle a) s fun t =>
      t.mgmt.pinThrot = a ∧ FollowsDemand t.mgmt ∧ (a = true → ∀ q : Fin 4, t.mgmt.demand q ≥ 4) ∧
      t.newest = some ⟨s.time.ftb, 0x0D06, 0x0B, 0, detail [(1, if a then 1 else 0)]⟩ ∧ t = { s with mgmt := t.mgmt, log := t.log, sad := t.sad })) ∧
  ((∀ (q : Fin 4) (s : State), s.mgmt.supplies = true → s.mgmt.mayMove q (s.mgmt.nextStep q) = true →
    Completes (.throttleStepBegin q) s fun t =>
      t.mgmt.moving[q] = some (s.mgmt.nextStep q) ∧ t.mgmt.step = s.mgmt.step ∧
      (s.mgmt.step[q] < s.mgmt.nextStep q → t.time.ftb % 10 = 0 ∧ s.time.ftb ≤ t.time.ftb ∧ t.mgmt.moveEnd[q] = t.time.ftb + 20000) ∧
      (s.mgmt.nextStep q < s.mgmt.step[q] → t.mgmt.moveEnd[q] % 10 = 0 ∧ s.time.ftb + 20000 ≤ t.mgmt.moveEnd[q] ∧
        t.mgmt.moveEnd[q] < s.time.ftb + 20010)) ∧
  (∀ (q : Fin 4) (n : Nat) (s : State), s.mgmt.moving[q] = some n →
    Completes (.throttleStep q) s fun t =>
      t.mgmt.step = (upd s.mgmt.step q fun _ => n) ∧ t.mgmt.moving = (upd s.mgmt.moving q fun _ => none) ∧
      t.mgmt.count = satInc s.mgmt.count ∧ FollowsDemand t.mgmt ∧ t.time.ftb = max s.time.ftb s.mgmt.moveEnd[q] ∧
      t.newest = some ⟨t.time.ftb, 0x0D01, 0x0B, 0, detail [(1, q.1), (1, s.mgmt.step[q]), (1, n), (1, s.mgmt.cause)]⟩))

/-- TELEMETRY_SAMPLE is held; the management supply runs from 36 V on and takes all else with it below; PPS_OUT rises at the next FTB count
that is a multiple of 10^9. While the management supply runs, a register read answers its word, a register write writes it, an event read
takes the oldest event and a warm-reset command ends READY with cause 3; a transaction with a wrong PEC is refused and changes nothing
else. Rests on spec/19_module_power_cooling.md R519, spec/19_module_power_cooling.md R529, spec/19_module_power_cooling.md R532,
spec/19_module_power_cooling.md R533, spec/19_module_power_cooling.md R534, spec/19_module_power_cooling.md R535. -/
def Obligations.ReadingsSupplyAndSmbusAnswer : Prop :=
  ((∀ (x : Telemetry) (s : State), s.mgmt.mgmtOn = true →
    Completes (.telemetrySample x) s fun t =>
      t.mgmt.mvIn = x.mvIn ∧ t.mgmt.iIn = x.iIn ∧ t.mgmt.pin = x.pin ∧ t.mgmt.inlet = x.inlet ∧ t.mgmt.outlet = x.outlet ∧
      t.mgmt.flow = x.flow ∧ t.mgmt.pdie = (if s.mgmt.supplies then x.pdie else 0) ∧
      (∀ i : Fin 4, t.hbm[i].temp = if s.mgmt.supplies then x.hbmTemp[i] else 0)) ∧
  (∀ (mv : Nat) (s : State), 36000 ≤ mv →
    Completes (.managementSupply mv) s fun t => t = { s with mgmt := { s.mgmt with mgmtOn := true, mvIn := mv } }) ∧
  (∀ (mv : Nat) (s : State), mv < 36000 →
    Completes (.managementSupply mv) s fun t => t.mgmt.mgmtOn = false ∧ t.mgmt.supplies = false ∧ t.mgmt.tripPin = false ∧ t.mgmt.mvIn = mv) ∧
  (∀ (s : State), s.mgmt.supplies = true →
    Completes .ppsOut s fun t => t.time.pps = true ∧ t.time.ftb % 1000000000 = 0 ∧ s.time.ftb ≤ t.time.ftb ∧ t.time.ftb < s.time.ftb + 1000000000)) ∧
  ((∀ (off : BitVec 16) (s : State), s.mgmt.mgmtOn = true →
    Completes (.smbusRegRead off true) s fun t =>
      t.misc.out.head? = some (.smbus (some (leBytes 4 (s.drain.mgmt.read off.toNat).toNat))) ∧ t = { s.drain with misc := t.misc }) ∧
  (∀ (off : BitVec 16) (v : W32) (s : State), s.mgmt.mgmtOn = true →
    Completes (.smbusRegWrite off v true) s fun t =>
      t.mgmt = s.drain.mgmt.write off.toNat v ∧ t.misc.out.head? = some (.smbus (some [])) ∧ t = { s.drain with mgmt := t.mgmt, misc := t.misc }) ∧
  (∀ (e : Event) (rest : List Event) (s : State), s.mgmt.mgmtOn = true → s.drain.log.smbus = e :: rest →
    Completes (.smbusEventRead true) s fun t =>
      t.log.smbus = rest ∧ ∃ b, t.misc.out.head? = some (.smbus (some (e.bytes b)))) ∧
  (∀ (micros : Nat) (s : State), s.mgmt.mgmtOn = true → s.drain.mgmt.supplies = true → s.drain.cfg.current = none →
    Completes (.smbusWarmReset 0x57 true micros) s fun t => t.cfg.startSt = 2 ∧ t.cfg.lastKind = 2 ∧ t.cfg.lastCause = 3) ∧
  (∀ (off : BitVec 16) (v : W32) (d : Byte) (m : Nat) (s : State), s.mgmt.mgmtOn = true →
    ∀ c ∈ [Instr.smbusRegRead off false, .smbusRegWrite off v false, .smbusEventRead false, .smbusWarmReset d false m],
      Completes c s fun t => t = s.emit (.smbus none)))

/-- Through an open path: a 4-byte lower-half read answers the word and latches the upper half; an aligned 8-byte read answers both halves at
once; an access that is not aligned to its size reads as 0 and writes nothing; FTB_COUNT latches the triple; BAR2_BASE and the Urlan
window bases are written whole or, for BAR2_BASE, by halves, with their reserved bits kept 0; the scratch word, the W1C bits of LN_ERR,
the stream counters, steering while idle and not armed, port configuration while not armed, RRSC_COMMIT and a Saddler software line act as
their field tables say. Everything else is as before where the clause says so. Rests on spec/00_scope.md R14, spec/00_scope.md R15,
spec/20_register_map.md R546, spec/15_host_interface_cores.md R419, spec/03_lantern_array.md R81, spec/13_streams_network_ptp.md R365,
spec/13_streams_network_ptp.md R387, spec/14_urlan_links.md R409. -/
def Obligations.RegistersAreReadAndWritten : Prop :=
  ((∀ (p : Path) (off : Nat) (s : State), s.pathOpen p off = true → off % 4 = 0 → off ≠ 0x00100000 → isLow64 off = true →
    s.tripleHalf p off = none →
    Completes (.registerLowerHalfRead p ⟨off, 4⟩) s fun t =>
      t.misc.out.head? = some (.read p off ((s.regWord p off).setWidth 64)) ∧
      latchFind t.misc.latches p off = some (s.regWord p (off + 4)) ∧ t = { s with misc := t.misc }) ∧
  (∀ (p : Path) (off : Nat) (s : State), s.pathOpen p off = true → off % 8 = 0 → isLow64 off = true →
    Completes (.registerLowerHalfRead p ⟨off, 8⟩) s fun t =>
      t = s.emit (.read p off (BitVec.ofNat 64 ((s.regWord p off).toNat + 2 ^ 32 * (s.regWord p (off + 4)).toNat)))) ∧
  (∀ (p : Path) (off n : Nat) (v : W64) (s : State), s.pathOpen p off = true → n = 4 ∨ n = 8 → off % n ≠ 0 →
    Completes (.registerLowerHalfRead p ⟨off, n⟩) s (fun t => t = s.emit (.read p off 0)) ∧
    Completes (.registerWrite p off n v) s fun t => t = s) ∧
  (∀ (p : Path) (s : State), s.pathOpen p 0x00100000 = true →
    Completes (.ftbCountLowRead p) s fun t =>
      t.misc.triples.head? = some (p, BitVec.ofNat 64 s.time.ftb, BitVec.ofNat 64 s.jobFrameReg, BitVec.ofNat 64 s.nextAnchorReg) ∧
      t.misc.out.head? = some (.read p 0x00100000 ((s.regWord p 0x00100000).setWidth 64)) ∧ t = { s with misc := t.misc }) ∧
  (∀ (p : Path) (v : W64) (s : State), s.pathOpen p 0x07003000 = true →
    Completes (.bar2BaseWrite p .full v) s fun t => t = { s with host := { s.host with bar2 := v &&& 0x0000FFFFE0000000 } }) ∧
  (∀ (p : Path) (v : W64) (s : State), s.pathOpen p 0x07003000 = true →
    Completes (.bar2BaseWrite p .low v) s fun t =>
      latchFind t.misc.pendLow p 0x07003000 = some (v.setWidth 32) ∧ t = { s with misc := t.misc }) ∧
  (∀ (p : Path) (v : W64) (low : W32) (s : State), s.pathOpen p 0x07003000 = true →
    latchFind s.misc.pendLow p 0x07003000 = some low →
    Completes (.bar2BaseWrite p .high v) s fun t =>
      t.host.bar2 = BitVec.ofNat 64 (low.toNat + 2 ^ 32 * (v.setWidth 32).toNat) &&& 0x0000FFFFE0000000 ∧
      t = { s with host := t.host, misc := t.misc }) ∧
  (∀ (p : Path) (u : Fin 6) (v : W64) (s : State), s.pathOpen p (0x06000108 + 0x100 * u.1) = true → s.job.state ≠ .armed →
    Completes (.urWindowWrite p (0x06000108 + 0x100 * u.1) .full v) s fun t =>
      t.ur.links[u].txBase = v &&& 0x0000FFFFFFFFFE00 ∧ t = { s with ur := t.ur })) ∧
  ((∀ (p : Path) (v : W64) (s : State), s.pathOpen p 0x18 = true →
    Completes (.registerWrite p 0x18 4 v) s fun t => t = { s with misc := { s.misc with scratch := v.setWidth 32 } }) ∧
  (∀ (p : Path) (n : LnId) (v : W64) (s : State), s.pathOpen p (0x01000020 + 0x10000 * n.1) = true →
    Completes (.registerWrite p (0x01000020 + 0x10000 * n.1) 4 v) s fun t =>
      t.lan[n].err = s.lan[n].err &&& ~~~(v.setWidth 32 &&& 0x3FF) ∧ t = { s with lan := t.lan }) ∧
  (∀ (p : Path) (k : Fin 32) (v : W32) (s : State), s.pathOpen p (0x05001020 + 0x40 * k.1) = true → bit v.toNat 0 = true →
    Completes (.counterClear p (0x05001020 + 0x40 * k.1) v) s fun t =>
      t.net.slots[k].ctr = StCounters.reset ∧ t = { s with net := t.net }) ∧
  (∀ (p : Path) (n : LnId) (col : Bool) (v : W32) (s : State), s.pathOpen p 0x01000010 = true → s.job.state ≠ .armed →
    (s.lan[n].mode = .off ∨ s.lan[n].mode = .idle) →
    Completes (.steeringWrite p n col v) s fun t =>
      t.lan[n] = (if col then { s.lan[n] with colSteer := v &&& 0x3FFFFFFF } else { s.lan[n] with rowSteer := v &&& 0x3FFFFFFF }) ∧
      t = { s with lan := t.lan }) ∧
  (∀ (p : Path) (q : Fin 4) (v : W32) (s : State), s.pathOpen p 0x05000000 = true → s.job.state ≠ .armed →
    Completes (.ethPortCfgWrite p q v) s fun t =>
      t.net.ports[q].cfg = v &&& 0x103 ∧
      (v &&& 3 ≠ s.net.ports[q].cfg &&& 3 → t.net.ports[q].link = 0) ∧ t = { s with net := t.net }) ∧
  (∀ (p : Path) (q : Fin 4) (v : W32) (s : State), s.job.state = .armed →
    Completes (.ethPortCfgWrite p q v) s fun t => t = s) ∧
  (∀ (p : Path) (k : Fin 32) (v : W32) (s : State), s.pathOpen p 0x05008000 = true → bit v.toNat 0 = true →
    Completes (.rrscCommitGo p k v) s fun t =>
      t.net.slots[k].pending = some (stagedCommand s.net.slots[k] s.time.ftb) ∧ t = { s with net := t.net }) ∧
  (∀ (p q : Fin 4) (v : W32) (s : State), bit v.toNat 3 = true → s.mgmt.supplies = true →
    Completes (.cpIrqSwiWrite (.saddler p) v) s fun t => t.sad[p].pend = s.sad[p].pend ||| 8))

/-- Enabling a ring pair empties it; enabling the event ring opens the log; disabling ends a pair's epoch; a doorbell within the ring's size
moves the tail and signals the pairs, one beyond it is a ring error. FLR and HOT_RESET each complete while the supplies are valid and
configuration is up: the host side is reset, BAR2_BASE is 0, the latches of register accesses are gone, the host's rings are disabled, the
job is as before, and the event is logged. Configuration requests answer, or are retried before configuration is up; BAR2 and
application-core accesses answer with the data of the device address they reach, or fault where nothing is. Rests on
spec/15_host_interface_cores.md R417, spec/15_host_interface_cores.md R419, spec/15_host_interface_cores.md R420,
spec/15_host_interface_cores.md R421, spec/15_host_interface_cores.md R422, spec/15_host_interface_cores.md R424,
spec/15_host_interface_cores.md R439, spec/18_startup_reset_configuration.md R495, spec/18_startup_reset_configuration.md R496. -/
def Obligations.RingsAndAccessesAnswer : Prop :=
  ((∀ (p : Path) (k : Fin 64) (v : W32) (s : State), ringOn v = true → ringOn s.host.rings[k].cfg = false →
    Completes (.ringEnable p (.pair k) v) s fun t =>
      ringOn t.host.rings[k].cfg = true ∧ t.host.rings[k].head = 0 ∧ t.host.rings[k].tail = 0 ∧ t.host.rings[k].cqTail = 0 ∧
      t.host.rings[k].phase = true ∧ t.host.rings[k].error = false ∧ t = { s with host := t.host }) ∧
  (∀ (p : Path) (v : W32) (s : State), ringOn v = true → ringOn s.log.evCfg = false → s.drain.log.opened = false →
    Completes (.ringEnable p .event v) s fun t => t.log.opened = true ∧ t.log.startLog = []) ∧
  (∀ (p : Path) (k : Fin 64) (v : W32) (s : State), ringOn v = false → ringOn s.host.rings[k].cfg = true →
    Completes (.ringDisable p (.pair k) v) s fun t =>
      ringOn t.host.rings[k].cfg = false ∧ t.host.rings[k].epochNo = s.host.rings[k].epochNo + 1 ∧ t = { s with host := t.host }) ∧
  (∀ (p : Path) (v : W32) (s : State), ringOn v = false → ringOn s.log.evCfg = true →
    Completes (.ringDisable p .event v) s fun t => t = { s with log := { s.log with evCfg := s.log.evCfg &&& 0x7FFFFFFF } }) ∧
  (∀ (p : Path) (k : Fin 64) (v : W32) (s : State), ringOn s.host.rings[k].cfg = true →
    bits v.toNat 15 0 < sqSize s.host.rings[k].cfg →
    Completes (.dbSqWrite p k v) s fun t =>
      t.host.rings[k] = { s.host.rings[k] with tail := bits v.toNat 15 0 } ∧ t = { s with host := t.host, sad := t.sad } ∧
      ∀ q : Fin 4, t.sad[q].pend = s.sad[q].pend ||| 1) ∧
  (∀ (p : Path) (k : Fin 64) (v : W32) (s : State), ringOn s.host.rings[k].cfg = true →
    sqSize s.host.rings[k].cfg ≤ bits v.toNat 15 0 →
    Completes (.dbSqWrite p k v) s fun t =>
      ringOn t.host.rings[k].cfg = false ∧ t.host.rings[k].error = true ∧
      t.newest = some ⟨s.time.ftb, 0x0A01, 0x0C, 0, detail [(1, k.1), (1, 0)]⟩)) ∧
  ((∀ (s : State), s.mgmt.supplies = true → s.host.cfgUp = true →
    Completes .flr s fun t =>
      t.host = s.drain.host.hostReset ∧ t.host.bar2 = 0 ∧ t.misc.latches = [] ∧ t.misc.pendLow = [] ∧ t.job = s.job ∧
      (∀ k : Fin 64, ringOwner t.host.rings[k].cfg = 0 → ringOn t.host.rings[k].cfg = false) ∧
      t.newest = some ⟨s.drain.time.ftb, 0x0A04, 0x0C, 0, detail [(1, 0)]⟩) ∧
  (∀ (s : State), s.mgmt.supplies = true → s.host.cfgUp = true →
    Completes .hotReset s fun t =>
      t.host = s.drain.host.hostReset ∧ t.host.bar2 = 0 ∧ t.misc.latches = [] ∧ t.misc.pendLow = [] ∧ t.job = s.job ∧
      (∀ k : Fin 64, ringOwner t.host.rings[k].cfg = 0 → ringOn t.host.rings[k].cfg = false) ∧
      t.newest = some ⟨s.drain.time.ftb, 0x0A04, 0x0C, 0, detail [(1, 1)]⟩) ∧
  (∀ (off : BitVec 12) (s : State), s.mgmt.supplies = true → s.host.cfgUp = true →
    Completes (.configRequest off none) s fun t =>
      t.misc.out.head? = some (.config off.toNat (some (s.pciRead off.toNat))) ∧ t = { s with misc := t.misc }) ∧
  (∀ (off : BitVec 12) (w : Option W32) (s : State), s.mgmt.supplies = true → s.host.cfgUp = false →
    Completes (.configRequest off w) s fun t => t = s.emit (.config off.toNat none)) ∧
  (∀ (off n : Nat) (s : State), s.mgmt.supplies = true → s.host.cfgUp = true → n ≤ 512 → off + n ≤ 2 ^ 34 →
    Completes (.bar2Access off n none) s fun t =>
      t.misc.out.head? = some (.bytes (s.host.bar2.toNat + off) (s.devRead .bar2 (s.host.bar2.toNat + off) n).2.data
        (s.devRead .bar2 (s.host.bar2.toNat + off) n).2.poison)) ∧
  (∀ (off n : Nat) (l : List Byte) (s : State), s.mgmt.supplies = true → s.host.cfgUp = true → l.length ≤ 512 → off + l.length ≤ 2 ^ 34 →
    Completes (.bar2Access off n (some l)) s fun t => t = (s.devWrite .bar2 (s.host.bar2.toNat + off) l).1) ∧
  (∀ (hart : Fin 16) (a n : Nat) (s : State), s.mgmt.supplies = true → 1 ≤ n → n ≤ 64 → hostBase ≤ a → a + n ≤ 2 ^ 48 →
    Completes (.appCoreAccess hart a n none) s fun t =>
      t.misc.out.head? = some (.bytes a (s.mem.bytes a n) false) ∧ t = { s with misc := t.misc }) ∧
  (∀ (hart : Fin 16) (a n : Nat) (s : State), s.mgmt.supplies = true → 1 ≤ n → n ≤ 64 → 0x020000000000 ≤ a → a + n ≤ hostBase →
    Completes (.appCoreAccess hart a n none) s fun t => t = s.emit (.accessFault hart.1 a)))

/-- Taken in its turn while no job is armed, LOAD_IMAGE of an image that passes the checks ends LOADED with that image, no bindings and
nothing started; one that fails is rejected with the status of the failing check, its reads of HBM counted, and the job unchanged.
BIND_STREAM with a readable and acceptable record replaces the slot's binding. Rests on spec/07_job_images_timetable.md R203,
spec/07_job_images_timetable.md R204, spec/15_host_interface_cores.md R432. -/
def Obligations.LoadAndBindPrepareAJob : Prop :=
  (∀ (k : Fin 64) (io : IoFail) (p : Parsed) (s : State), Turn s k io 1 [(8, 16)] → s.job.state ≠ .armed →
    (s.afterTake k).checkImage (fld (s.sqEntry k) 8 8) (fld (s.sqEntry k) 0x10 8) io = .ok p →
    Completes (.loadImage k io false) s fun t => t.job.state = .loaded ∧ t.job.image = some p.im ∧ t.job.bindings = [] ∧ t.job.started = []) ∧
  (∀ (k : Fin 64) (io : IoFail) (b : Bool) (r : Rej) (s : State), Turn s k io 1 [(8, 16)] → s.job.state ≠ .armed →
    (s.afterTake k).checkImage (fld (s.sqEntry k) 8 8) (fld (s.sqEntry k) 0x10 8) io = .error r →
    Completes (.loadImage k io b) s fun t =>
      t = ((s.afterTake k).seeHbm 0x82 (fld (s.sqEntry k) 8 8) (fld (s.sqEntry k) 0x10 8)).rejectImage (s.headCmd k) r io ∧
      t.job = (s.afterTake k).job) ∧
  (∀ (k : Fin 64) (io : IoFail) (b : Binding) (s : State), Turn s k io 2 [(8, 8)] → (s.job.state = .loaded ∨ s.job.state = .stopped) →
    io.source = false → (s.afterTake k).outerOk (fld (s.sqEntry k) 8 8) 256 = true → b = bindingOf (s.mem.bytes (fld (s.sqEntry k) 8 8) 256) →
    (s.afterTake k).bindingOk b = true →
    Completes (.bindStream k io) s fun t =>
      t.job = { s.job with lastRing := k.1, bindings := (s.job.bindings.filter fun x => x.slot != b.slot) ++ [b] })

/-- ARM of a loaded and fully bound image with an acceptable launch count arms it at that count and the first absolute frame at or after it;
with another count it answers LAUNCH_LATE and the state stays LOADED. STOP of an armed job is held until the anchor after the next commit
point; of another it completes at once. At that anchor no write waits for a credit any more and the job is stopping or stopped. Rests on
spec/02_time_determinism.md R35, spec/02_time_determinism.md R36, spec/07_job_images_timetable.md R203, spec/15_host_interface_cores.md
R436. -/
def Obligations.ArmAndStopFollowTheImageStates : Prop :=
  (∀ (k : Fin 64) (io : IoFail) (im : JobImage) (s : State), Turn s k io 3 [(8, 8)] → s.job.state = .loaded → s.job.image = some im →
    s.job.allBound im = true → s.launchOk (fld (s.sqEntry k) 8 8) = true →
    Completes (.arm k io) s fun t =>
      t.job.state = .armed ∧ t.job.launch = fld (s.sqEntry k) 8 8 ∧ t.job.frame0 = firstFrame s.job.num s.job.den (fld (s.sqEntry k) 8 8) ∧
      t.job.base = 0 ∧ t.job.current = none ∧ t.job.started = [] ∧ t.job.image = some im) ∧
  (∀ (k : Fin 64) (io : IoFail) (im : JobImage) (s : State), Turn s k io 3 [(8, 8)] → s.job.state = .loaded → s.job.image = some im →
    s.job.allBound im = true → s.launchOk (fld (s.sqEntry k) 8 8) = false →
    Completes (.arm k io) s fun t =>
      t = ((s.afterTake k).launchLate (fld (s.sqEntry k) 8 8)).finish (s.headCmd k) 0x0B (fld (s.sqEntry k) 8 8) 0 io ∧ t.job.state = .loaded) ∧
  (∀ (k : Fin 64) (io : IoFail) (s : State), Turn s k io 7 [] → s.job.state = .armed →
    Completes (.stop k io) s fun t =>
      t.job = { s.job with lastRing := k.1, stopAt := some (s.job.nextCommit s.time.ftb) } ∧ t.mem = s.mem) ∧
  (∀ (k : Fin 64) (io : IoFail) (s : State), Turn s k io 7 [] → s.job.state ≠ .armed →
    Completes (.stop k io) s fun t => t = (s.afterTake k).finish (s.headCmd k) 0 0 0 io) ∧
  (∀ (n : Nat) (s : State), s.job.stopAt = some n → s.job.state = .armed → s.job.stopping = false →
    Completes .stopAtAnchor s fun t => s.job.anchor n ≤ t.time.ftb ∧ t.fab.waits = [] ∧
      (t.job.stopping = true ∨ t.job.state = .stopped))

/-- SNAPSHOT of an armed job with a snapshot point and enough space is queued for the later of its frame and the next that can still be
caught; with less space it answers NO_SPACE and the size needed. RESUME with a record that passes its checks arms at the new launch count
with the record's frame and Stamp chain; one that fails is answered with the failing status and logged, a wrong magic or version before
its SIZE is looked at. A snapshot point whose earlier instances are done, with no line loader running, starts and completes. Rests on
spec/02_time_determinism.md R56, spec/02_time_determinism.md R57, spec/07_job_images_timetable.md R214, spec/07_job_images_timetable.md
R215, spec/07_job_images_timetable.md R219. -/
def Obligations.SnapshotAndResume : Prop :=
  (∀ (k : Fin 64) (io : IoFail) (im : JobImage) (s : State), Turn s k io 5 [(8, 24)] → s.job.state = .armed → s.job.image = some im →
    im.hasPoint = true → im.snapSize ≤ fld (s.sqEntry k) 0x18 8 → io.dest = false →
    (s.afterTake k).outerOk (fld (s.sqEntry k) 0x10 8) im.snapSize = true →
    Completes (.snapshot k io) s fun t =>
      t.job.snap = some ⟨k, (s.headCmd k).tag, max (fld (s.sqEntry k) 8 8) (s.job.nextCommit s.time.ftb), fld (s.sqEntry k) 0x10 8⟩ ∧
      t.job.state = .armed ∧ t.mem = s.mem) ∧
  (∀ (k : Fin 64) (io : IoFail) (im : JobImage) (s : State), Turn s k io 5 [(8, 24)] → s.job.state = .armed → s.job.image = some im →
    im.hasPoint = true → fld (s.sqEntry k) 0x18 8 < im.snapSize →
    Completes (.snapshot k io) s fun t => t = (s.afterTake k).finish (s.headCmd k) 0x0F 0 im.snapSize io ∧ t.job = (s.afterTake k).job) ∧
  (∀ (k : Fin 64) (io : IoFail) (im : JobImage) (b : List Byte) (s : State), Turn s k io 6 [(8, 16)] →
    (s.job.state = .loaded ∨ s.job.state = .stopped) → s.job.image = some im → io.source = false →
    (s.afterTake k).outerOk (fld (s.sqEntry k) 8 8) 256 = true →
    (s.afterTake k).outerOk (fld (s.sqEntry k) 8 8) (fld (s.mem.bytes (fld (s.sqEntry k) 8 8) 256) 0x10 8) = true →
    b = s.mem.bytes (fld (s.sqEntry k) 8 8) (fld (s.mem.bytes (fld (s.sqEntry k) 8 8) 256) 0x10 8) →
    resumeCheck (s.afterTake k) im b = none → s.job.allBound im = true → s.launchOk (fld (s.sqEntry k) 0x10 8) = true →
    Completes (.resume k io) s fun t =>
      t.stamp.resumed = true ∧ t.stamp.head = some (slice b 0x68 64) ∧ t.job.state = .armed ∧
      t.job.base = fld b 0x18 8 ∧ t.job.launch = fld (s.sqEntry k) 0x10 8) ∧
  (∀ (k : Fin 64) (io : IoFail) (im : JobImage) (b : List Byte) (st n : Nat) (u s : State), Turn s k io 6 [(8, 16)] →
    (s.job.state = .loaded ∨ s.job.state = .stopped) → s.job.image = some im → io.source = false →
    (s.afterTake k).outerOk (fld (s.sqEntry k) 8 8) 256 = true →
    (s.mem.bytes (fld (s.sqEntry k) 8 8) 256).take 8 = ascii "RQ9SNAPS" → fld (s.mem.bytes (fld (s.sqEntry k) 8 8) 256) 8 2 = 1 →
    (s.afterTake k).outerOk (fld (s.sqEntry k) 8 8) (fld (s.mem.bytes (fld (s.sqEntry k) 8 8) 256) 0x10 8) = true →
    (u, b) = (s.afterTake k).outerRead (fld (s.sqEntry k) 8 8) (fld (s.mem.bytes (fld (s.sqEntry k) 8 8) 256) 0x10 8) →
    resumeCheck u im b = some (st, n) →
    Completes (.resume k io) s fun t =>
      t = (u.logEv 0x0E23 7 u.firmwarePair [(1, st), (4, n)]).finish (s.headCmd k) st (fld (s.sqEntry k) 0x10 8) n io ∧ t.job = u.job) ∧
  (∀ (k : Fin 64) (io : IoFail) (im : JobImage) (s : State), Turn s k io 6 [(8, 16)] →
    (s.job.state = .loaded ∨ s.job.state = .stopped) → s.job.image = some im → io.source = false →
    (s.afterTake k).outerOk (fld (s.sqEntry k) 8 8) 256 = true →
    ((s.mem.bytes (fld (s.sqEntry k) 8 8) 256).take 8 ≠ ascii "RQ9SNAPS" ∨ fld (s.mem.bytes (fld (s.sqEntry k) 8 8) 256) 8 2 ≠ 1) →
    Completes (.resume k io) s fun t =>
      t = ((s.afterTake k).logEv 0x0E23 7 (s.afterTake k).firmwarePair [(1, 0x0C), (4, 0)]).finish (s.headCmd k) 0x0C
        (fld (s.sqEntry k) 0x10 8) 0 io ∧ t.job = (s.afterTake k).job) ∧
  (∀ (i : Inst) (e : TtEntry) (im : JobImage) (s : State), s.entryOf i = some e → s.job.image = some im → e.kind = 9 → s.canStart e i = true →
    ((s.upTo (i.frame + 4)).all (fun p => !s.job.before p.1 p.2 e i || s.done p.2) && !s.job.moves.any fun m => m.endM != 0) = true →
    (∀ w : WkId, s.wick[w].taper.loader = none) →
    Completes (.snapshotPoint i) s fun t => s.job.placed e i ≤ t.time.ftb ∧ i ∈ t.job.started ∧ i ∈ t.job.completed)

/-- QUERY and FENCE_QUERY write their records at the named address and complete OK with the state code and snapshot size, or the numbers of
serving units; an opcode that the table does not hold completes BAD_COMMAND; the job is unchanged but for the ring served last. Rests on
spec/15_host_interface_cores.md R427, spec/15_host_interface_cores.md R430, spec/15_host_interface_cores.md R437. -/
def Obligations.QueriesAndUnknownCommandsAnswer : Prop :=
  (∀ (k : Fin 64) (io : IoFail) (s : State), Turn s k io 8 [(8, 8)] → io.dest = false →
    (s.afterTake k).outerOk (fld (s.sqEntry k) 8 8) (s.afterTake k).queryRecord.length = true →
    Completes (.query k io) s fun t =>
      t = ((s.afterTake k).outerWrite (fld (s.sqEntry k) 8 8) (s.afterTake k).queryRecord).finish (s.headCmd k) 0 s.job.state.code
        s.job.snapSize io ∧ t.job = (s.afterTake k).job) ∧
  (∀ (k : Fin 64) (io : IoFail) (s : State), Turn s k io 9 [(8, 8)] → io.dest = false →
    (s.afterTake k).outerOk (fld (s.sqEntry k) 8 8) s.fenceAnswer.length = true →
    Completes (.fenceQuery k io) s fun t =>
      t = ((s.afterTake k).outerWrite (fld (s.sqEntry k) 8 8) s.fenceAnswer).finish (s.headCmd k) 0 (countEntries s.rel.ln .serving)
        (countEntries s.rel.wk .serving) io ∧ t.job = (s.afterTake k).job) ∧
  (∀ (k : Fin 64) (io : IoFail) (op : Nat) (s : State), Turn s k io op [(8, 56)] → (op = 0 ∨ 9 < op) →
    Completes (.unknownCommand k io) s fun t =>
      t = (s.afterTake k).finish (s.headCmd k) 0x10 0 0 io ∧ t.job = (s.afterTake k).job)

/-- UPDATE_PARAMS with no image, an unknown block, a wrong length or a full queue completes with its status; otherwise its epoch is queued and
the command held. At a commit point with one due epoch: a complete one is committed, an incomplete one is carried once with EPOCH_LATE
logged, and one carried before is discarded with EPOCH_INVALID; with none due only time passes, as at the commit point of a job's first
frame after RESUME, which came before the snapshot. Rests on spec/02_time_determinism.md R44, spec/02_time_determinism.md R45,
spec/02_time_determinism.md R46, spec/15_host_interface_cores.md R433, spec/15_host_interface_cores.md R434,
spec/15_host_interface_cores.md R435. -/
def Obligations.EpochsAreQueuedAndDecided : Prop :=
  (∀ (k : Fin 64) (io : IoFail) (s : State), Turn s k io 4 [(8, 0x16), (0x20, 8)] →
    (s.job.state = .none →
      Completes (.updateParams k io) s fun t =>
        t = (s.afterTake k).finish (s.headCmd k) 9 (fld (s.sqEntry k) 0x10 8) (fld (s.sqEntry k) 0x18 4) io ∧
        Only [.job, .mem, .log, .host, .sad, .misc, .hbm] s t) ∧
    (s.job.state ≠ .none → s.job.blockOf (fld (s.sqEntry k) 0x1C 2) = none →
      Completes (.updateParams k io) s fun t =>
        t = (s.afterTake k).finish (s.headCmd k) 0x14 (fld (s.sqEntry k) 0x10 8) (fld (s.sqEntry k) 0x18 4) io) ∧
    (∀ b : EpochBlk, s.job.state ≠ .none → s.job.blockOf (fld (s.sqEntry k) 0x1C 2) = some b → fld (s.sqEntry k) 0x20 4 ≠ b.size →
      Completes (.updateParams k io) s fun t =>
        t = (s.afterTake k).finish (s.headCmd k) 0x14 (fld (s.sqEntry k) 0x10 8) (fld (s.sqEntry k) 0x18 4) io) ∧
    (∀ b : EpochBlk, s.job.state ≠ .none → s.job.blockOf (fld (s.sqEntry k) 0x1C 2) = some b → fld (s.sqEntry k) 0x20 4 = b.size →
      256 ≤ s.job.epochs.length →
      Completes (.updateParams k io) s fun t =>
        t = (s.afterTake k).finish (s.headCmd k) 0x15 (fld (s.sqEntry k) 0x10 8) (fld (s.sqEntry k) 0x18 4) io) ∧
    (∀ b : EpochBlk, s.job.state ≠ .none → s.job.blockOf (fld (s.sqEntry k) 0x1C 2) = some b → fld (s.sqEntry k) 0x20 4 = b.size →
      s.job.epochs.length < 256 →
      (∀ x v, s.job.shadowOf (fld (s.sqEntry k) 0x1C 2) = some (x, v) →
        ¬ (x.verified = true ∧ v.due = fld (s.sqEntry k) 0x10 8 ∧ fld (s.sqEntry k) 0x18 4 < v.seq)) →
      Completes (.updateParams k io) s fun t =>
        t.job = { s.job with lastRing := k.1, epochs := s.job.epochs ++ [epochOf (s.headCmd k) s.job.nextOrder], nextOrder := s.job.nextOrder + 1 } ∧
        t.host.held = s.host.held ++ [⟨4, k, (s.headCmd k).tag, (s.headCmd k).ep, s.job.nextOrder⟩] ∧ Only [.job, .host, .hbm, .log, .sad] s t)) ∧
  ((∀ (n : Nat) (s : State), s.job.state = .armed → n = s.job.next → s.job.resumed = true → n = s.job.base →
    Completes (.commitPoint n) s fun t => t = s.reach (s.job.commitPoint n)) ∧
  ∀ (n : Nat) (due : List Epoch) (s : State), s.job.state = .armed → n = s.job.next → s.job.stopAt = none →
    (s.job.resumed = true → n ≠ s.job.base) →
    due = (s.job.epochs.filter fun e => decide (e.due ≤ n) && !s.job.commits.any fun x => x.2 == e.order) →
    (due = [] → Completes (.commitPoint n) s fun t => t = s.reach (s.job.commitPoint n) ∧ s.job.commitPoint n ≤ t.time.ftb) ∧
    (∀ e : Epoch, due = [e] → s.job.complete? n e = true →
      Completes (.commitPoint n) s fun t =>
        t.job = { s.job with commits := s.job.commits ++ [(e.block, e.order)] } ∧ Only [.job, .time, .mem, .log, .host, .misc] s t) ∧
    (∀ e : Epoch, due = [e] → s.job.complete? n e = false → e.carried = false →
      Completes (.commitPoint n) s fun t =>
        t.job = { s.job with
          marks := s.job.marks ++ [e.target]
          epochs := s.job.epochs.map fun x => if x.order = e.order then { x with due := n + 1, carried := true } else x } ∧
        t.newest = some ⟨s.job.commitPoint n, 0x0107, 0, 0, detail [(2, e.block), (4, e.seq), (8, e.target)]⟩ ∧
        Only [.job, .time, .mem, .log, .host, .misc, .sad] s t) ∧
    (∀ e : Epoch, due = [e] → s.job.complete? n e = false → e.carried = true →
      Completes (.commitPoint n) s fun t =>
        t = (s.reach (s.job.commitPoint n)).discard (s.job.commitPoint n) 0x0108 0x12 e ∧
        Only [.job, .time, .mem, .log, .host, .misc, .sad] s t))

/-- A staged epoch's payload is copied to the shadow of its block, or ends where its source cannot be read; a payload whose check word and
values are right is verified, another is discarded. At an anchor the frame becomes current, with no commit the parameters stay, and with
one the block's foreground, its digest and the units that hold it are switched. Rests on spec/02_time_determinism.md R44,
spec/02_time_determinism.md R46, spec/02_time_determinism.md R48, spec/04_number_formats_quantisation.md R110,
spec/15_host_interface_cores.md R434, spec/17_provenance_security.md R479. -/
def Obligations.EpochsAreCopiedCheckedAndSwitched : Prop :=
  (∀ (n : Nat) (s : State), s.job.state = .armed → n = s.job.next →
    (s.job.commits = [] →
      Completes (.anchorSwitch n) s fun t =>
        t.job = { s.job with current := some n } ∧ s.job.anchor n ≤ t.time.ftb ∧
        t.stamp = { s.stamp with params := (n, s.stamp.paramsNow) :: s.stamp.params } ∧
        Only [.job, .stamp, .time, .mem, .log, .host, .misc] s t) ∧
    (∀ (b : EpochBlk) (x : ShadowSt) (e v : Epoch), s.job.commits = [(b.id, e.order)] → s.job.blockOf b.id = some b →
      s.job.shadowOf b.id = some (x, v) → (s.job.epochs.find? fun y => y.order == e.order) = some e →
      Completes (.anchorSwitch n) s fun t =>
        t.job.current = some n ∧ t.job.commits = [] ∧
        t.job.front = (s.job.front.filter fun p => p.1 != b.id) ++ [(b.id, x.payload)] ∧
        t.stamp.digests = putDigest s.stamp.digests b.id (sha512 x.payload) ∧
        t.lan = (s.switchBlock b).lan ∧ t.wick = (s.switchBlock b).wick ∧
        Only [.job, .stamp, .lan, .wick, .time, .mem, .log, .host, .misc, .sad] s t)) ∧
  ((∀ (block : Nat) (e : Epoch) (b : EpochBlk) (s : State), s.job.headOf block = some e → s.job.blockOf block = some b →
    (s.job.commits.any fun c => c.1 == block) = false → s.job.shadowOf block = none → s.outerOk e.source e.length = true → b.kind = 2 →
    Completes (.epochStageCopy block) s fun t =>
      t.job = { s.job with shadows := (s.job.shadows.filter fun x => x.block != block) ++ [⟨block, e.order, s.mem.bytes e.source e.length, false⟩] } ∧
      (∀ n : LnId, t.lan[n].params = s.lan[n].params ∧
        t.lan[n].paramsSh = s.lan[n].paramsSh.map fun p =>
          if b.fg ≤ p.1 ∧ p.1 < b.fg + b.size / 16 then (p.1, payloadChan (s.mem.bytes e.source e.length) (p.1 - b.fg)) else p) ∧
      Only [.job, .lan, .hbm, .log, .sad] s t) ∧
  (∀ (block : Nat) (e : Epoch) (b : EpochBlk) (s : State), s.job.headOf block = some e → s.job.blockOf block = some b →
    (s.job.commits.any fun c => c.1 == block) = false → mayCopy (s.job.shadowOf block) e = true → s.outerOk e.source e.length = false →
    Completes (.epochStageCopy block) s fun t => t = s.endEpoch e 0x11 e.target) ∧
  (∀ (block : Nat) (x : ShadowSt) (e : Epoch) (b : EpochBlk) (s : State), s.job.shadowOf block = some (x, e) → s.job.blockOf block = some b →
    x.verified = false → crc32c x.payload = e.crc → payloadOk b x.payload = true →
    Completes (.epochPayloadComplete block) s fun t =>
      t = { s with
        job := { s.job with shadows := s.job.shadows.map fun y => if y.order = x.order then { y with verified := true } else y }
        sad := (s.sadLine 1).sad }) ∧
  (∀ (block : Nat) (x : ShadowSt) (e : Epoch) (b : EpochBlk) (s : State), s.job.shadowOf block = some (x, e) → s.job.blockOf block = some b →
    x.verified = false → ¬ (crc32c x.payload = e.crc ∧ payloadOk b x.payload = true) →
    Completes (.epochPayloadComplete block) s fun t => t = (s.sadLine 1).discard s.time.ftb 0x0108 0x12 e))

/-- A pair takes its lowest enabled line, a timer tick raises line 2 of every pair at the next millisecond, a reported divergence of its
stored state or hang restarts the pair, bytes at its pc that are no instruction enter the handler with cause ILLEGAL, restart the pair
where it cannot be entered, or are passed over where the instruction is suppressed (their length there is the model's choice, log 80); a
divergence restarts the pair and the third within a minute fences it and moves its work, and a missed line-2 interrupt restarts it; each
is logged as tabled. Rests on spec/15_host_interface_cores.md R443, spec/15_host_interface_cores.md R444, spec/15_host_interface_cores.md
R445, spec/16_faults_test_fencing.md R469, spec/16_faults_test_fencing.md R471, spec/09_base_isa.md R270, spec/09_base_isa.md R288. -/
def Obligations.SaddlerPairsTakeTheirLinesAndRestart : Prop :=
  (∀ (p : Fin 4) (n : Nat) (s : State), s.sad[p].fenced = false → s.sad[p].victim = .none → s.sad[p].irqLine = some n →
    Completes (.saddlerInterrupt p) s fun t =>
      t.sad[p].pend = s.sad[p].pend &&& ~~~(BitVec.ofNat 16 (2 ^ n)) ∧ t.sad[p].asleep = false ∧ Only [.sad] s t) ∧
  (∀ (s : State),
    Completes .saddlerTimerTick s fun t =>
      t.time.ftb = (s.time.ftb / 1000000 + 1) * 1000000 ∧ (∀ q : Fin 4, t.sad[q].pend = s.sad[q].pend ||| 4 ∧ t.sad[q].line2.isSome = true) ∧
      Only [.sad, .time, .mem, .log, .host, .misc] s t) ∧
  (∀ (p : Fin 4) (c : Byte) (a : W64) (s : State), s.sad[p].fenced = false → (c = 0x08 ∨ c = 0x09) →
    Completes (.saddlerException p c a) s fun t =>
      t = (s.restartPair p).logEv 0x0A03 7 p.1 [(1, c.toNat), (8, a.toNat)]) ∧
  (∀ (p : Fin 4) (a : W64) (s : State), s.sad[p].fenced = false → s.sad[p].asleep = false → s.sad[p].victim ≠ .suppress →
    (s.sad[p].victim = .none → s.sad[p].irqLine = none) → decodeCompact p (s.mem.bytes s.sad[p].pc.toNat 4) = none →
    (s.sad[p].alt = false → s.sad[p].stack.length < 64 →
      Completes (.saddlerException p 0x01 a) s fun t => t.sad[p] = s.sad[p].enter s.sad[p].pc 0x01 0 0 ∧ Only [.sad] s t) ∧
    (s.sad[p].alt = true ∨ 64 ≤ s.sad[p].stack.length →
      Completes (.saddlerException p 0x01 a) s fun t => t = (s.restartPair p).logEv 0x0A03 7 p.1 [(1, 0x01), (8, 0)])) ∧
  (∀ (p : Fin 4) (a : W64) (s : State), s.sad[p].fenced = false → s.sad[p].asleep = false → s.sad[p].victim = .suppress →
    decodeCompact p (s.mem.bytes s.sad[p].pc.toNat 4) = none →
    Completes (.saddlerException p 0x01 a) s fun t =>
      t.sad[p] = { s.sad[p] with
        pc := pairPc (s.sad[p].pc + (if fld (s.mem.bytes s.sad[p].pc.toNat 2) 0 2 < 0x8000 then 2 else 4)), victim := .none } ∧
      Only [.sad] s t) ∧
  (∀ (p : Fin 4) (l : List Nat) (s : State), s.sad[p].fenced = false →
    l = s.time.ftb :: s.sad[p].divTimes.filter (fun t => decide (s.time.ftb < t + 60000000000)) →
    Completes (.saddlerDivergence p) s fun t =>
      t.sad[p].divTimes = l ∧ t.sad[p].fenced = (decide (3 ≤ l.length) && !s.sad[p].tookWork) ∧
      (t.sad[p].fenced = true → t.sad[partner p].tookWork = true) ∧
      t.newest = some ⟨t.time.ftb, 0x0B0B, 7, p.1, detail [(1, p.1), (4, l.length)]⟩) ∧
  (∀ (p : Fin 4) (a : Nat) (s : State), s.sad[p].line2 = some a → s.sad[p].fenced = false →
    Completes (.watchdog p) s fun t =>
      a + 10000000 ≤ t.time.ftb ∧ t.sad[p].line2 = none ∧ t.newest = some ⟨t.time.ftb, 0x0B0C, 7, p.1, detail [(1, p.1), (8, a)]⟩)

/-- A MAILBOX_OUT with no released slot is discarded and logged; with one, its record is queued and its map-store rows are requested from
their banks; once they are in, the record's write advances the counter and reaches memory header and payload where the address can be
reached. IB_SEND of a wrong length or with no armed job sets the error bit; otherwise it takes a credit and writes, or waits, behind any
that wait already, and the oldest is written when a credit comes or the job stops. Rests on spec/01_frame_journey.md R26,
spec/01_frame_journey.md R27, spec/15_host_interface_cores.md R441, spec/15_host_interface_cores.md R442, spec/06_scratchpads_map_store.md
R165. -/
def Obligations.MailboxesCarryRecords : Prop :=
  (∀ (i : Inst) (e : TtEntry) (m : Fin 16) (s : State), Starts s i 7 e → e.unit = m.1 → s.job.stopAt = none → s.slotFree m = false →
    Completes (.mailboxOut i) s fun t =>
      t.newest = some ⟨s.job.placed e i, 0x0A11, 0, 0, detail [(1, m.1), (8, i.frame)]⟩ ∧ i ∈ t.job.started ∧ i ∈ t.job.completed ∧
      s.job.placed e i ≤ t.time.ftb ∧ Only [.job, .time, .mem, .log, .host, .misc, .sad] s t) ∧
  (∀ (i : Inst) (e : TtEntry) (m : Fin 16) (rows : List (Nat × Nat)) (s : State), Starts s i 7 e → e.unit = m.1 → s.slotFree m = true →
    rows = ((List.range ((e.arg1 + 511) / 512)).map fun j => (mapRow (e.arg i.inst + j), 512 * j)) →
    e.arg i.inst + (e.arg1 + 511) / 512 ≤ 524288 →
    Completes (.mailboxOut i) s fun t =>
      t.app = { s.app with path := s.app.path ++ [⟨m, s.nextSlot m, i, s.job.placed e i, List.replicate e.arg1 0, rows⟩] } ∧
      (∀ k : Fin 64, t.fab.banks[k] = s.fab.banks[k] ++ (rows.filter fun r => (r.1 - mapBase) / 512 % 64 == k.1).map fun r =>
        ⟨100, none, r.1, none, mCycle t.time.ftb⟩) ∧ s.job.placed e i ≤ t.time.ftb ∧
      i ∈ t.job.started ∧ Only [.job, .time, .mem, .log, .host, .misc, .fab, .app] s t) ∧
  (∀ (r : ObRec) (rest : List ObRec) (a : Nat) (s : State), s.app.path = r :: rest → r.rows = [] →
    a = (s.app.ob[r.box]).base.toNat + 4160 * r.slot →
    Completes .mailboxRecordWrite s fun t =>
      t.app.path = rest ∧ (t.app.ob[r.box]).written = (s.app.ob[r.box]).written + 1 ∧
      t.mem = (if s.outerOk a 4160 = true then (s.mem.storeOuter (a + 64) r.payload).storeOuter a (r.header ((s.app.ob[r.box]).written + 1).toNat)
        else s.mem) ∧ Only [.app, .mem, .misc] s t) ∧
  (∀ (i : Fin 16) (v : W32) (j : Nat) (g : Region) (s : State), s.ibRegion i.1 = some j → s.regionList[j]? = some g →
    (s.job.state ≠ .armed ∨ bits v.toNat 12 0 = 0 ∨ 4096 < bits v.toNat 12 0 ∨ 512 * g.granule < bits v.toNat 12 0) →
    Completes (.ibSend i v) s fun t => t.app = { s.app with ib := upd s.app.ib i fun b => { b with error := true } } ∧ Only [.app] s t) ∧
  (∀ (i : Fin 16) (v : W32) (j : Nat) (g : Region) (s : State), s.ibRegion i.1 = some j → s.regionList[j]? = some g →
    s.job.state = .armed → 0 < bits v.toNat 12 0 → bits v.toNat 12 0 ≤ 4096 → bits v.toNat 12 0 ≤ 512 * g.granule →
    Completes (.ibSend i v) s fun t =>
      (0 < s.ibCredits i.1 → (s.app.ib[i]).waiting = [] → t = s.ibWrite i (bits v.toNat 12 0)) ∧
      (s.ibCredits i.1 = 0 ∨ (s.app.ib[i]).waiting ≠ [] →
        t.app = { s.app with ib := upd s.app.ib i fun b => { b with waiting := b.waiting ++ [⟨bits v.toNat 12 0, s.time.ftb, false, s.time.ftb⟩] } } ∧
        Only [.app] s t)) ∧
  (∀ (i : Fin 16) (w : IbWait) (rest : List IbWait) (s : State), (s.app.ib[i]).waiting = w :: rest →
    (0 < s.ibCredits i.1 ∨ s.job.state ≠ .armed ∨ s.job.stopping = true) →
    Completes (.ibSendCredited i) s fun t =>
      t = ((s.countWait mapBase w.counted).updIb i fun b => { b with waiting := rest }).ibWrite i w.bytes)

/-- Items of a crossing are released in order at the epoch tick after the one they entered in; outside the limits of R39 one may slip by one
tick, once, counted and logged. Of an armed job, a write outside its writer's regions is refused, logged and answered by an error; one
that needs more granules than there are credits takes those and waits; one that has them is written, an ingress engine's with tag 0. Of
the writes that wait, the oldest that no earlier one of its writer precedes ends its wait with its credits, unless its unit is under a
move, and is written, or held where an engine uses the memory; a wait of 1,000,000 ticks is logged once, an IB_SEND's among them. Rests on
spec/02_time_determinism.md R38, spec/02_time_determinism.md R40, spec/06_scratchpads_map_store.md R170, spec/06_scratchpads_map_store.md
R171, spec/06_scratchpads_map_store.md R173, spec/06_scratchpads_map_store.md R174, spec/02_time_determinism.md R39,
spec/04_number_formats_quantisation.md R124, spec/06_scratchpads_map_store.md R163, spec/07_job_images_timetable.md R212. -/
def Obligations.CrossingsReleaseAndCreditsGuard : Prop :=
  ((∀ (src dst : Byte) (r : Bool) (c : Crossing) (it : XItem) (rest : List XItem) (s : State),
    (s.fab.cross.find? fun c => c.src == src.toNat && c.dst == dst.toNat) = some c → c.items = it :: rest →
    (r = true ∨ it.slipped = true ∨ s.outsideLimits src.toNat dst.toNat = false) →
    Completes (.crossingRelease src dst r) s fun t =>
      10 * (it.tick + 1) ≤ t.time.ftb ∧ t.time.slipCount = s.time.slipCount ∧
      t.fab = { s.fab with cross := s.fab.cross.map fun d =>
        if d.src == src.toNat && d.dst == dst.toNat then
          { d with items := d.items.drop (c.items.takeWhile fun x => decide (x.tick ≤ it.tick)).length
                   taken := d.taken ++ c.items.takeWhile fun x => decide (x.tick ≤ it.tick) } else d } ∧
      Only [.fab, .time, .mem, .log, .host, .misc] s t) ∧
  (∀ (src dst : Byte) (c : Crossing) (it : XItem) (rest : List XItem) (s : State),
    (s.fab.cross.find? fun c => c.src == src.toNat && c.dst == dst.toNat) = some c → c.items = it :: rest →
    it.slipped = false → s.outsideLimits src.toNat dst.toNat = true →
    Completes (.crossingRelease src dst false) s fun t =>
      10 * (it.tick + 1) ≤ t.time.ftb ∧ t.time.slipCount = satInc s.time.slipCount ∧
      t.newest = some ⟨t.time.ftb, 0x0105, 0, 0, detail [(2, src.toNat + 256 * dst.toNat)]⟩ ∧
      t.fab = { s.fab with cross := s.fab.cross.map fun d =>
        if d.src == src.toNat && d.dst == dst.toNat then
          { d with items := d.items.map fun x => if x.tick = it.tick then { x with tick := x.tick + 1, slipped := true } else x } else d } ∧
      Only [.fab, .time, .mem, .log, .host, .misc, .sad] s t)) ∧
  ((∀ (wr : RowWrite) (m : Nat) (eng : EngineUse) (s : State), memNo wr.addr = some m → s.moving wr.addr = false →
    s.portWaits wr.addr 512 true = false → s.job.state = .armed → firmwareWrite wr = false → s.mayWrite wr = false →
    Completes (.fabricRowWrite wr eng) s fun t =>
      t.newest = some ⟨s.time.ftb, 0x0404, (memUnit wr.addr).1, (memUnit wr.addr).2, detail [(1, m), (8, wr.addr), (1, wr.port)]⟩ ∧
      t.misc = (s.emit (.fabricError wr.port wr.addr)).misc ∧ Only [.log, .sad, .misc] s t) ∧
  (∀ (wr : RowWrite) (n o i : Nat) (eng : EngineUse) (g : Region) (r : RegionSt) (s : State), place wr.addr = .lan n o →
    s.moving wr.addr = false → s.job.state = .armed → s.job.stopping = false → firmwareWrite wr = false → s.mayWrite wr = true →
    s.regionAt wr.addr = some i → s.writerWaits wr = false → s.regionList[i]? = some g → s.fab.regions[i]? = some r →
    r.credits < r.need g.granules (s.granuleOf i wr.addr) →
    Completes (.fabricRowWrite wr eng) s fun t =>
      t.fab.waits = s.fab.waits ++
        [⟨i, { wr with tag := if 92 ≤ wr.port ∧ wr.port < 96 then 0 else wr.tag }, s.time.ftb, false, s.time.ftb⟩] ∧
      t.fab.regions[i]? = some { r with credits := 0, len := r.len + r.credits } ∧ Only [.fab] s t) ∧
  (∀ (wr : RowWrite) (n o i : Nat) (g : Region) (r : RegionSt) (s : State), place wr.addr = .lan n o →
    s.moving wr.addr = false → s.job.state = .armed → s.job.stopping = false → firmwareWrite wr = false → s.mayWrite wr = true →
    s.regionAt wr.addr = some i → s.writerWaits wr = false → s.regionList[i]? = some g → s.fab.regions[i]? = some r →
    r.need g.granules (s.granuleOf i wr.addr) ≤ r.credits →
    Completes (.fabricRowWrite wr .none) s fun t =>
      t.mem = s.mem.writeRow wr.addr wr.mask wr.data (if 92 ≤ wr.port ∧ wr.port < 96 then 0 else wr.tag) wr.poison ∧
      t.fab.waits = s.fab.waits ∧
      t.fab.regions[i]? = some { r with
        credits := r.credits - r.need g.granules (s.granuleOf i wr.addr), len := r.len + r.need g.granules (s.granuleOf i wr.addr) } ∧
      Only [.mem, .fab] s t) ∧
  (∀ (region n o : Nat) (c : CreditWait) (u : State) (s : State), s.fab.nextWait region = some c → s.freely = false →
    s.moving c.write.addr = false → s.takeCredits region c.write = (u, true) → place c.write.addr = .lan n o →
    Completes (.creditWaitEnd ⟨region, .none⟩) s fun t =>
      t.mem = s.mem.writeRow c.write.addr c.write.mask c.write.data c.write.tag c.write.poison ∧ t.fab.waits = s.fab.waits.erase c ∧
      t.fab.regions = u.fab.regions ∧ Only [.mem, .fab, .dma] s t) ∧
  (∀ (region n o : Nat) (c : CreditWait) (eng : EngineUse) (u : State) (s : State), s.fab.nextWait region = some c → s.freely = false →
    s.moving c.write.addr = false → s.takeCredits region c.write = (u, true) → place c.write.addr = .lan n o → eng ≠ .none →
    Completes (.creditWaitEnd ⟨region, eng⟩) s fun t =>
      t.fab.held = s.fab.held ++ [c.write] ∧ t.fab.waits = s.fab.waits.erase c ∧ t.fab.regions = u.fab.regions ∧ Only [.fab, .dma] s t) ∧
  (∀ (region n o : Nat) (c : CreditWait) (eng : EngineUse) (u : State) (s : State), s.fab.nextWait region = some c → s.freely = false →
    place c.write.addr = .lan n o →
    (s.moving c.write.addr = true → Completes (.creditWaitEnd ⟨region, eng⟩) s fun t => t = s) ∧
    (s.moving c.write.addr = false → s.takeCredits region c.write = (u, false) →
      Completes (.creditWaitEnd ⟨region, eng⟩) s fun t => t = u ∧ Only [.fab] s t)) ∧
  (∀ (region : Nat) (c : CreditWait) (s : State), (s.fab.waits.find? fun c => c.region == region && !c.logged) = some c →
    Completes (.creditStall region) s fun t =>
      c.since + 1000000 ≤ t.time.ftb ∧ t.fab.waits = s.fab.waits.map (fun d => if d == c then { d with logged := true } else d) ∧
      t.newest = some ⟨t.time.ftb, 0x0403, (memUnit c.write.addr).1, (memUnit c.write.addr).2,
        detail [(1, (memNo c.write.addr).getD 0), (4, region), (1, c.write.port)]⟩ ∧
      Only [.fab, .time, .mem, .log, .host, .misc, .sad] s t) ∧
  (∀ (region : Nat) (i : Fin 16) (w : IbWait) (s : State), (s.fab.waits.find? fun c => c.region == region && !c.logged) = none →
    s.waitingChan region = none → s.waitingIb region = some (i, w) →
    Completes (.creditStall region) s fun t =>
      w.since + 1000000 ≤ t.time.ftb ∧
      (t.app.ib[i]).waiting = (s.app.ib[i]).waiting.map (fun v => if v == w then { v with logged := true } else v) ∧
      t.newest = some ⟨t.time.ftb, 0x0403, 9, 0, detail [(1, 160), (4, region), (1, 100)]⟩ ∧
      Only [.app, .time, .mem, .log, .host, .misc, .sad] s t))

/-- A PTP message on another port or domain, or one that is no message of the table, changes nothing. On a PTP port an Announce lists its
sender; a Sync of the best master notes its reception, less the free latency of the port's PHY, and, one-step, its origin; a Follow_Up
adds it; DELAY_REQ sends a Delay_Req to the master and notes its time; an Announce timeout drops the best master. A Delay_Resp that
answers it makes an exchange: on a port not followed only that is noted; on the port followed the offset of R391 is held and the servo
follows it without a step, within 50,000 ppb, or within 100 ppb of the present pull while armed; beyond 1,000 ns and neither locked nor
armed, the FTB steps and that is logged. The servo locks after its time in band and goes to holdover 3 s after the last valid exchange; a
TIME flit of the uplink measures the offset. Excess offsets of an armed job are logged at most once a second. The exact pull is a free
value within its bound. Rests on spec/02_time_determinism.md R29, spec/02_time_determinism.md R30, spec/02_time_determinism.md R31,
spec/02_time_determinism.md R32, spec/02_time_determinism.md R33, spec/13_streams_network_ptp.md R390, spec/13_streams_network_ptp.md
R391, spec/14_urlan_links.md R406, spec/14_urlan_links.md R407, spec/13_streams_network_ptp.md R392. -/
def Obligations.StudioTimeIsFollowed : Prop :=
  ((∀ (p : Fin 4) (m : PtpMsg) (s : State), s.ptpPort p.1 = false → Completes (.ptpMessage p m) s fun t => t = s) ∧
  (∀ (p : Fin 4) (sfd : Nat) (mac ip b : List Byte) (s : State), s.ptpPort p.1 = true → ptpIn s.ptpDomain mac ip b = none →
    Completes (.ptpMessage p (.received sfd mac ip b)) s fun t => t = s) ∧
  (∀ (p : Fin 4) (sfd : Nat) (mac ip b : List Byte) (m : PtpMaster) (s : State), s.ptpPort p.1 = true →
    ptpIn s.ptpDomain mac ip b = some (.announce m) →
    Completes (.ptpMessage p (.received sfd mac ip b)) s fun t =>
      t.time.ptp = upd s.time.ptp p (fun x => { x with masters := x.masters.filter (fun y => y.sender != m.sender) ++ [m] }) ∧
      t.time.pull = s.time.pull ∧ t.time.ftb = s.time.ftb ∧ Only [.time, .log, .sad] s t) ∧
  (∀ (p : Fin 4) (sfd seq t1 : Nat) (two : Bool) (corr : Int) (mac ip b : List Byte) (m : PtpMaster) (s : State), s.ptpPort p.1 = true →
    (s.time.ptp[p]).best = some m → ptpIn s.ptpDomain mac ip b = some (.sync m.sender seq two t1 corr) →
    Completes (.ptpMessage p (.received sfd mac ip b)) s fun t =>
      t.time = { s.time with ptp := upd s.time.ptp p fun x => { x with
        sync := some ⟨seq, if two then none else some t1, (min sfd s.time.ftb : Nat) - (Config.ptpRxLatency (s.portMode p) : Nat), corr⟩ } } ∧
      Only [.time] s t) ∧
  (∀ (p : Fin 4) (sfd seq t1 : Nat) (t2 c2 corr : Int) (mac ip b : List Byte) (m : PtpMaster) (s : State), s.ptpPort p.1 = true →
    (s.time.ptp[p]).best = some m → (s.time.ptp[p]).sync = some ⟨seq, none, t2, c2⟩ →
    ptpIn s.ptpDomain mac ip b = some (.followUp m.sender seq t1 corr) →
    Completes (.ptpMessage p (.received sfd mac ip b)) s fun t =>
      t.time.ptp[p].sync = some ⟨seq, some t1, t2, c2 + corr⟩ ∧ t.time.ftb = s.time.ftb ∧ Only [.time] s t) ∧
  (∀ (p : Fin 4) (m : PtpMaster) (s : State), s.ptpPort p.1 = true → (s.time.ptp[p]).best = some m →
    Completes (.ptpMessage p .delayReq) s fun t =>
      t.time = { s.time with ptp := upd s.time.ptp p fun x => { x with
        dreq := some (x.nextSeq.toNat, (s.time.ftb : Nat) + (Config.ptpTxLatency (s.portMode p) : Nat)), nextSeq := x.nextSeq + 1 } } ∧
      t.misc = (s.emit (.packet p.1 0 s.time.ftb (s.delayReqFrame p m))).misc ∧ Only [.time, .misc] s t) ∧
  (∀ (p : Fin 4) (s : State), s.ptpPort p.1 = true →
    Completes (.ptpMessage p .announceTimeout) s fun t =>
      t.time.ptp = upd s.time.ptp p (fun x =>
        { x with masters := x.masters.filter (fun y => some y.sender != x.best.map (·.sender)), sync := none, dreq := none }) ∧
      t.time.ftb = s.time.ftb ∧ Only [.time, .log, .sad] s t) ∧
  (∀ (p : Fin 4) (sfd seq t1 t4 : Nat) (t2 t3 c2 c4 o : Int) (q : Nat) (mac ip b : List Byte) (m : PtpMaster) (s : State), s.ptpPort p.1 = true →
    (s.time.ptp[p]).best = some m → (s.time.ptp[p]).sync = some ⟨q, some t1, t2, c2⟩ → (s.time.ptp[p]).dreq = some (seq, t3) →
    ptpIn s.ptpDomain mac ip b = some (.delayResp m.sender seq (Config.ptpIdentity p.1).toNat t4 c4) → o = ptpOffsetOf t1 t2 c2 t3 t4 c4 →
    (s.isRoot = false ∨ p.1 ≠ s.followed →
      Completes (.ptpMessage p (.received sfd mac ip b)) s fun t =>
        t.time = { s.time with ptp := upd s.time.ptp p fun x => { x with dreq := none } } ∧ Only [.time] s t) ∧
    (s.isRoot = true → p.1 = s.followed → s.job.state ≠ .armed → (s.time.servo = .locked ∨ (-1000 ≤ o ∧ o ≤ 1000)) →
      Completes (.ptpMessage p (.received sfd mac ip b)) s fun t =>
        t.time.ptpOffset = o ∧ t.time.ftb = s.time.ftb ∧ t.time.lastValid = s.time.ftb ∧ -50000 ≤ t.time.pull ∧ t.time.pull ≤ 50000 ∧
        t.time.servo = (if s.time.servo = .free ∨ s.time.servo = .holdover then .acquiring else s.time.servo) ∧
        (t.time.inBand.isSome = true ↔ -100 ≤ o ∧ o ≤ 100) ∧ Only [.time] s t) ∧
    (s.isRoot = true → p.1 = s.followed → s.job.state = .armed →
      Completes (.ptpMessage p (.received sfd mac ip b)) s fun t =>
        t.time.ptpOffset = o ∧ t.time.ftb = s.time.ftb ∧ t.time.lastValid = s.time.ftb ∧ s.time.pull - 100 ≤ t.time.pull ∧
        t.time.pull ≤ s.time.pull + 100 ∧ Only [.time] s t) ∧
    (s.isRoot = true → p.1 = s.followed → s.job.state ≠ .armed → s.time.servo ≠ .locked → (o < -1000 ∨ 1000 < o) →
      Completes (.ptpMessage p (.received sfd mac ip b)) s fun t =>
        t.time.ptpOffset = o ∧ t.time.servo = .acquiring ∧ t.time.ftb = shifted (-o) s.time.ftb ∧
        t.newest = some ⟨t.time.ftb, 0x0101, 0, 0, detail [(8, sdet 8 (-o))]⟩ ∧ Only [.time, .mem, .log, .host, .misc, .sad] s t)) ∧
  (∀ (n : Nat) (s : State), s.time.servo = .acquiring → s.time.inBand = some n → n + 7 * second < s.time.lastValid →
    Completes .ptpLocked s fun t =>
      t.time.servo = .locked ∧ n + 10 * second ≤ t.time.ftb ∧ t.newest.map (·.code) = some 0x0102 ∧
      Only [.time, .mem, .log, .host, .misc, .sad] s t) ∧
  (∀ (s : State), (s.time.servo = .acquiring ∨ s.time.servo = .locked) →
    Completes .ptpHoldover s fun t =>
      t.time.servo = .holdover ∧ s.time.lastValid + 3 * second ≤ t.time.ftb ∧
      t.newest = some ⟨t.time.ftb, 0x0103, 0, 0, detail [(4, sdet 4 t.time.pull)]⟩ ∧ Only [.time, .mem, .log, .host, .misc, .sad] s t) ∧
  (∀ (u : Fin 6) (f : Flit) (b : List Byte) (s : State), bits s.ur.gcfg.toNat 7 5 = u.1 → (s.ur.links[u]).state = .up → flitOf 3 b = some f →
    Completes (.uplinkTimeFlit b) s fun t =>
      t.time.urOffset = (s.time.ftb : Int) - (beNat (f.body.take 8) + (s.ur.links[u]).lat : Nat) ∧
      t.ur = (s.updLink u fun l => l.header f).ur ∧ Only [.time, .ur, .mem, .log, .host, .misc, .sad] s t)) ∧
  ((∀ (s : State), s.slewing = true → s.isRoot = true → (s.time.ptpOffset < -1000000 ∨ 1000000 < s.time.ptpOffset) →
    Completes .ptpOffsetExcess s fun t =>
      t.newest = some ⟨t.time.ftb, 0x0104, 0, 0, detail [(8, sdet 8 s.time.ptpOffset)]⟩ ∧ t.time.lastExcess = some t.time.ftb ∧
      (∀ n, s.time.lastExcess = some n → n + second ≤ t.time.ftb) ∧ Only [.time, .mem, .log, .host, .misc, .sad] s t) ∧
  (∀ (s : State), s.slewing = true → s.isRoot = false → (s.time.urOffset < -16 ∨ 16 < s.time.urOffset) →
    Completes .urlanFtbOffset s fun t =>
      t.newest = some ⟨t.time.ftb, 0x0906, 6, bits s.ur.gcfg.toNat 7 5, detail [(8, sdet 8 s.time.urOffset)]⟩ ∧
      t.time.lastExcess = some t.time.ftb ∧ (∀ n, s.time.lastExcess = some n → n + second ≤ t.time.ftb) ∧
      Only [.time, .mem, .log, .host, .misc, .sad] s t))

/-- An instance that may start does so at the later of its placed time and the present, and its unit at its CYCLE from there: a thread runs
from its address with an empty return stack, its Wick's cycles having come to that cycle; a channel runs with descriptor 0 of its list and
steps from that M-cycle on; a release returns its granules in order and completes. An instance whose unit has ended is complete, once the
end of the array's, requantiser's, window's or thread's cycles has come. Rests on spec/06_scratchpads_map_store.md R172,
spec/07_job_images_timetable.md R185, spec/07_job_images_timetable.md R186, spec/08_wick_core.md R224, spec/11_dma.md R332,
spec/02_time_determinism.md R41. -/
def Obligations.InstancesStartTheirUnits : Prop :=
  (∀ (i : Inst) (e : TtEntry) (w : WkId) (q : Fin 4) (n : Nat) (s : State), Starts s i 4 e → s.rel.wkPhys e.unit = some w → e.thread = q.1 →
    s.threadFree w q = true →
    n = max ((s.startOf e i).lFrom (w.1 / 13) (s.job.placed e i) + e.cycle) ((s.startOf e i).lNow (w.1 / 13)) →
    Completes (.wickStart i) s fun t =>
      t.wick = upd s.wick w (fun k => (k.catchUp n).startThread q (e.arg i.inst) e.arg1 (s.startOf e i).time.ftb i) ∧
      ((∀ r : Fin 4, s.wick[w].reachedHalt r = true) → n ≤ t.wick[w].wcyc) ∧
      (t.wick[w].threads[q]).run = .running ∧ (t.wick[w].threads[q]).pc = BitVec.ofNat 18 (e.arg i.inst) ∧
      (t.wick[w].threads[q]).stack = [] ∧ (t.wick[w].threads[q]).ie = false ∧ t = { s.startOf e i with wick := t.wick }) ∧
  (∀ (i : Inst) (e : TtEntry) (g : Fin 4) (c : Fin 32) (d : DmaDesc) (s : State), Starts s i 5 e → e.unit = 32 * g.1 + c.1 →
    s.dma[g].ch[c].state = .idle → s.descAt (e.arg i.inst) 0 = some d →
    Completes (.dmaStart i) s fun t =>
      t.dma[g].ch[c].state = .running ∧ t.dma[g].ch[c].cur = d ∧ t.dma[g].ch[c].descIx = 0 ∧ t.dma[g].ch[c].list = e.arg i.inst ∧
      t.dma[g].ch[c].inst = some i ∧ t.dma[g].ch[c].srcDone = 0 ∧ t.dma[g].ch[c].dstDone = 0 ∧
      t.dma[g].ch[c].from_ = 13 * (s.job.placed e i / 10) + e.cycle ∧
      (∀ g' : Fin 4, g' ≠ g → t.dma[g'] = s.dma[g']) ∧ t = { s.startOf e i with dma := t.dma }) ∧
  (∀ (i : Inst) (e : TtEntry) (im : JobImage) (g : Region) (r : RegionSt) (s : State), Starts s i 6 e → s.job.image = some im →
    im.regions[e.arg i.inst]? = some g → s.readersDone im g e i = true → s.releasesDone e i = true → s.job.stopAt = none →
    s.job.released i = 0 → s.fab.regions[e.arg i.inst]? = some r → e.arg1 ≤ r.len →
    Completes (.release i) s fun t =>
      t.fab.regions[e.arg i.inst]? = some ((List.range e.arg1).foldl (fun r _ => r.release g.granules) r) ∧
      (∀ j, j ≠ e.arg i.inst → t.fab.regions[j]? = s.fab.regions[j]?) ∧ i ∈ t.job.completed ∧ s.job.placed e i ≤ t.time.ftb ∧
      Only [.job, .fab, .time, .mem, .log, .host, .misc] s t) ∧
  (∀ (i : Inst) (e : TtEntry) (s : State), s.entryOf i = some e → s.job.started.contains i = true → s.done i = false → s.ended e i = true →
    s.job.stopAt = none →
    Completes (.instanceComplete i) s fun t =>
      t.job = { s.job with completed := i :: s.job.completed } ∧
      (e.kind = 5 ∨ e.kind = 0x11 → t = { s with job := t.job }) ∧
      (e.kind = 1 ∨ e.kind = 2 ∨ e.kind = 3 ∨ e.kind = 8 →
        (∀ n : LnId, (s.lan[n].arrInst = some i → s.lFtb (n.1 / 9) s.lan[n].drainEnd ≤ t.time.ftb) ∧
          (s.lan[n].rqInst = some i → s.lFtb (n.1 / 9) s.lan[n].rqEnd ≤ t.time.ftb)) ∧
        ∀ w : WkId, s.wick[w].winInst = some i → s.lFtb (w.1 / 13) s.wick[w].winEnd ≤ t.time.ftb ∧ t.wick[w].winInst = none ∧
          t.wick[w].mode ≠ .test) ∧
      (∀ w, e.kind = 4 → s.rel.wkPhys e.unit = some w → s.lFtb (w.1 / 13) s.wick[w].wcyc ≤ t.time.ftb ∧ t.wick = s.wick) ∧
      Only [.job, .net, .time, .wick, .mem, .log, .host, .misc] s t)

/-- With no job armed a row write to a Lantern is written at once, an ingress engine's with tag 0, and, while an engine uses the memory, held;
a write to a unit under a move, or to a vector scratchpad whose port is in use, waits; a row read enters the requester's crossing in the
tick that its latency brings it to, or for the map store its bank's queue; a held write is written when it is retried, or counted as a
further collision; a bank grants one request in an M-cycle, writes it, or sends its row, usable 14 M-cycles later, to its requester or
into its mailbox record. Rests on spec/06_scratchpads_map_store.md R157, spec/06_scratchpads_map_store.md R160,
spec/06_scratchpads_map_store.md R163, spec/06_scratchpads_map_store.md R165, spec/06_scratchpads_map_store.md R166,
spec/02_time_determinism.md R38, spec/04_number_formats_quantisation.md R124, spec/07_job_images_timetable.md R212, spec/08_wick_core.md
R228. -/
def Obligations.FabricRowAccessesAct : Prop :=
  (∀ (wr : RowWrite) (n o : Nat) (s : State), place wr.addr = .lan n o → s.moving wr.addr = false → s.job.state ≠ .armed →
    Completes (.fabricRowWrite wr .none) s fun t =>
      t = { s with mem := s.mem.writeRow wr.addr wr.mask wr.data (if 92 ≤ wr.port ∧ wr.port < 96 then 0 else wr.tag) wr.poison }) ∧
  (∀ (wr : RowWrite) (m : Nat) (eng : EngineUse) (s : State), memNo wr.addr = some m → s.moving wr.addr = false →
    s.portWaits wr.addr 512 true = false → s.job.state ≠ .armed → eng ≠ .none →
    Completes (.fabricRowWrite wr eng) s fun t =>
      t.fab.held = s.fab.held ++ [{ wr with tag := if 92 ≤ wr.port ∧ wr.port < 96 then 0 else wr.tag }] ∧ t.fab.waits = s.fab.waits ∧
      t.fab.regions = s.fab.regions ∧ Only [.fab] s t) ∧
  (∀ (wr : RowWrite) (eng : EngineUse) (s : State), s.moving wr.addr = true ∨ s.portWaits wr.addr 512 true = true →
    Completes (.fabricRowWrite wr eng) s fun t => t = s) ∧
  (∀ (a n o port : Nat) (s : State), s.moving a = false → place (rowBase a) = .lan n o →
    Completes (.fabricRowRead port a) s fun t =>
      t = ((s.readRow (rowBase a)).1).cross (islandOf (rowBase a)) port (s.readTick a) none (rowBase a) (s.readRow (rowBase a)).2 ∧
      (s.readRow (rowBase a)).2.data = rowOf ((s.checkRow (rowBase a) allSectors).mem.bytes (rowBase a) 512) ∧
      (∀ x, t.mem.byte x = s.mem.byte x)) ∧
  (∀ (a o port : Nat) (s : State), s.moving a = false → place (rowBase a) = .map o →
    Completes (.fabricRowRead port a) s fun t =>
      t = { s with fab := { s.fab with banks := updNat s.fab.banks (o / 512 % 64) fun q => q ++ [⟨port, none, rowBase a, none, s.askCycle port⟩] } }) ∧
  (∀ (a n o : Nat) (w : RowWrite) (s : State), (s.fab.held.find? fun x => x.addr == a && !s.moving x.addr) = some w →
    place w.addr = .lan n o →
    Completes (.heldWriteRetry a false) s fun t =>
      t.mem = s.mem.writeRow w.addr w.mask w.data w.tag w.poison ∧ t.fab = { s.fab with held := s.fab.held.erase w } ∧ Only [.mem, .fab, .dma] s t) ∧
  (∀ (a : Nat) (w : RowWrite) (s : State), (s.fab.held.find? fun x => x.addr == a && !s.moving x.addr) = some w →
    Completes (.heldWriteRetry a true) s fun t =>
      t = s.updCtr ((memNo w.addr).getD 0) fun c => { c with collision := satInc c.collision }) ∧
  (∀ (b : Fin 64) (r : BankReq) (w : RowWrite) (u : State) (s : State),
    bankPick s.fab.banks[b] (s.fab.grantAt b) = some r → r.write = some w → u = s.reach (s.fab.grantAt b * 10 / 13) →
    Completes (.mapStoreBankGrant b) s fun t =>
      t.mem = u.mem.writeRow w.addr w.mask w.data w.tag w.poison ∧ t.fab.banks[b] = s.fab.banks[b].erase r ∧
      t.fab.bankNext[b] = s.fab.grantAt b + 1 ∧ s.fab.grantAt b * 10 / 13 ≤ t.time.ftb ∧ Only [.mem, .fab, .dma] u t) ∧
  (∀ (b : Fin 64) (r : BankReq) (u : State) (s : State), bankPick s.fab.banks[b] (s.fab.grantAt b) = some r → r.write = none →
    u = (s.setFab { s.fab with
      banks := upd s.fab.banks b fun q => q.erase r, bankNext := upd s.fab.bankNext b fun _ => s.fab.grantAt b + 1 }).reach
      (s.fab.grantAt b * 10 / 13) →
    (r.port ≠ 100 → Completes (.mapStoreBankGrant b) s fun t =>
      t = (u.readRow r.addr).1.setFab ((u.readRow r.addr).1.fab.put 0x7F r.port
        ⟨(s.fab.grantAt b + 14) / 13, r.chan, r.addr, (u.readRow r.addr).2.data, (u.readRow r.addr).2.tag, (u.readRow r.addr).2.poison,
          s.fab.grantAt b + 14, false⟩)) ∧
    (∀ (m : ObRec) (o : Nat), r.port = 100 → s.job.stopAt = none →
      (s.app.path.findSome? fun m => (m.rows.find? fun x => x.1 == r.addr).map fun x => (m, x.2)) = some (m, o) →
      Completes (.mapStoreBankGrant b) s fun t =>
        t.app.path = s.app.path.map (fun x => if x == m then
          { m with rows := m.rows.erase (r.addr, o)
                   payload := (m.payload.take o ++ rowBytes (u.readRow r.addr).2.data ++ m.payload.drop (o + 512)).take m.payload.length } else x) ∧
        (m.rows.erase (r.addr, o) = [] → m.inst ∈ t.job.completed) ∧ t.fab.banks[b] = s.fab.banks[b].erase r))

/-- A chain starts no earlier than its placed time and CYCLE. One whose passes run without a mismatch leaves the Lantern IDLE; one that aborts
leaves it HALTED with the error bit, empty weight banks and the event of the abort, at the end of the L-cycle of the abort; its occupancy
then ends IDLE. A hang halts the Lantern at the end of its allowance, poisons every destination row and logs LANTERN_HANG. Other Lanterns
are as before. Rests on spec/03_lantern_array.md R66, spec/03_lantern_array.md R69, spec/03_lantern_array.md R77, spec/03_lantern_array.md
R78, spec/04_number_formats_quantisation.md R126, spec/16_faults_test_fencing.md R456, spec/03_lantern_array.md R550,
spec/02_time_determinism.md R30, spec/02_time_determinism.md R41. -/
def Obligations.ChainsDrainOrHalt : Prop :=
  (∀ (i : Inst) (start c : Nat) (flt : List LnFault) (e : TtEntry) (n : LnId) (im : JobImage) (u : State) (s : State), Starts s i 1 e →
    s.rel.lnPhys e.unit = some n → s.job.image = some im → c = (s.startOf e i).startCycle n e i start →
    (s.startOf e i).runChain n i im (im.chainPasses (e.arg i.inst) e.arg1) (s.lan[n].loadStart c)
      (max (s.lan[n].loadStart c + 256) s.lan[n].drainEnd) (s.lan[n].preload c) flt = (u, none) →
    Completes (.chain i start flt) s fun t =>
      t = u ∧ t.lan[n].mode = .idle ∧ t.lan[n].isolated = false ∧ t.lan[n].arrInst = some i ∧
      (s.startOf e i).lFrom (n.1 / 9) (s.job.placed e i) + e.cycle ≤ c ∧ start ≤ c ∧
      Only [.lan, .wick, .mem, .fab, .job, .time, .log, .host, .misc, .sad, .rel] s t) ∧
  (∀ (i : Inst) (start c : Nat) (flt : List LnFault) (e : TtEntry) (n : LnId) (im : JobImage) (u : State) (a : Abort) (s : State), Starts s i 1 e →
    s.rel.lnPhys e.unit = some n → s.job.image = some im → c = (s.startOf e i).startCycle n e i start →
    (s.startOf e i).runChain n i im (im.chainPasses (e.arg i.inst) e.arg1) (s.lan[n].loadStart c)
      (max (s.lan[n].loadStart c + 256) s.lan[n].drainEnd) (s.lan[n].preload c) flt = (u, some a) →
    Completes (.chain i start flt) s fun t =>
      t = u ∧ t.lan[n].mode = .halted ∧ t.lan[n].err.getLsbD 0 = true ∧ t.lan[n].active = [] ∧ t.lan[n].shadow = [] ∧
      (a.again = true → t.lan[n].failed.isSome = true) ∧
      t.newest = some ⟨max t.time.ftb (t.lFtb (n.1 / 9) a.at_), a.code, 1, n.1, detail a.items⟩) ∧
  (∀ (n : LnId) (x : Nat) (s : State), s.lan[n].mode = .halted → s.lan[n].occEnd = some x →
    Completes (.haltedOccupancyEnd n) s fun t =>
      t.lan = upd s.lan n (fun l => { l with mode := .idle, occEnd := none }) ∧ s.lFtb (n.1 / 9) x ≤ t.time.ftb ∧
      Only [.lan, .time, .mem, .log, .host, .misc] s t) ∧
  (∀ (i : Inst) (start pass c x : Nat) (e : TtEntry) (n : LnId) (im : JobImage) (s : State), Starts s i 1 e → s.rel.lnPhys e.unit = some n →
    s.job.image = some im → (s.startOf e i).mem.wf → c = (s.startOf e i).startCycle n e i start →
    x = max (s.lan[n].loadStart c + 256) s.lan[n].drainEnd + streamLen ((im.chainPasses (e.arg i.inst) e.arg1).map (·.2)) + 256 + 4096 →
    Completes (.lanternHang i start pass) s fun t =>
      t.lan[n].mode = .halted ∧ t.lan[n].failed.isSome = true ∧ t.lan[n].occEnd = none ∧ t.lan[n].drainEnd = x ∧
      (∀ r ∈ destRows n ((im.chainPasses (e.arg i.inst) e.arg1).map (·.2)), t.mem.poisoned r = true) ∧
      t.newest = some ⟨max t.time.ftb (t.lFtb (n.1 / 9) x), 0x0B0D, 1, n.1,
        detail [(4, (((im.chainPasses (e.arg i.inst) e.arg1)[pass]?.map (·.1)).getD (e.arg i.inst))), (4, 4096)]⟩ ∧
      (∀ n' : LnId, n' ≠ n → t.lan[n'] = s.lan[n']))

/-- A requantiser operation is the run of its descriptor on its Lantern, from its placed L-cycle on, and takes its source rows and 12
L-cycles; a global-average operation takes the array, isolated, from the later of its start and the drain, for C times the larger of its
rows and 24, and 34 L-cycles. Rests on spec/03_lantern_array.md R86, spec/03_lantern_array.md R88, spec/03_lantern_array.md R89,
spec/02_time_determinism.md R41. -/
def Obligations.RequantiserAndAverageUnitRun : Prop :=
  (∀ (i : Inst) (start c : Nat) (e : TtEntry) (n : LnId) (im : JobImage) (op : RqOp) (s : State), Starts s i 2 e →
    s.rel.lnPhys e.unit = some n → s.job.image = some im → im.rqops[e.arg i.inst]? = some op →
    c = (s.startOf e i).startCycle n e i start →
    Completes (.requant i start []) s fun t =>
      t = (s.startOf e i).runRequant n i im (e.arg i.inst) c op [] ∧ t.lan[n].occupancy = (sourceRows op).length + 12 ∧
      t.lan[n].rqInst = some i ∧ t.lan[n].rqEnd = c + (sourceRows op).length + 12 ∧
      t.lan[n].mode = s.lan[n].mode ∧ t.lan[n].params = s.lan[n].params) ∧
  (∀ (i : Inst) (start c : Nat) (e : TtEntry) (n : LnId) (im : JobImage) (o : GavgOp) (s : State), Starts s i 3 e →
    s.rel.lnPhys e.unit = some n → s.job.image = some im → im.gavgs[e.arg i.inst]? = some o →
    c = max ((s.startOf e i).startCycle n e i start) s.lan[n].drainEnd →
    Completes (.gavg i start []) s fun t =>
      t = (s.startOf e i).runGavg n i im (e.arg i.inst) c o [] ∧
      (t.lan[n].mode = .idle ∨ t.lan[n].mode = .halted) ∧ t.lan[n].isolated = true ∧ t.lan[n].arrInst = some i ∧
      t.lan[n].drainEnd = c + o.c * max o.rows 24 + 34)

/-- With the capture disabled: of a unit in probation the failure is permanent; of another a replay that passes makes it transient, counted
and logged, a replay that aborts by itself ends it logged and unresolved, and a replay that fails again makes it permanent. Rests on
spec/16_faults_test_fencing.md R452, spec/16_faults_test_fencing.md R453, spec/16_faults_test_fencing.md R454,
spec/16_faults_test_fencing.md R455. -/
def Obligations.FailedChainsAreClassified : Prop :=
  ∀ (n : LnId) (r1 r2 : List LnFault) (f : FailedChain) (im : JobImage) (e : TtEntry) (ps : List (Nat × PassDesc)) (s : State),
    s.lan[n].failed = some f → s.job.image = some im → s.entryOf f.inst = some e → bit s.lan[n].ctrl.toNat 2 = false →
    ps = im.chainPasses (e.arg f.inst.inst) e.arg1 →
    (s.rel.ln[n].prob = true → Completes (.failedChainHandling n r1 r2) s fun t => t = s.permanentChain n im f ps r2 4) ∧
    (∀ u, s.rel.ln[n].prob = false → s.replay n im f ps r1 = (u, none) →
      Completes (.failedChainHandling n r1 r2) s fun t =>
        t.newest = some ⟨u.time.ftb, 0x0B01, 1, n.1, detail [(1, 0), (2, f.code), (2, f.line)]⟩ ∧
        t.rel.transient = satInc u.rel.transient ∧ Only [.rel, .log, .sad, .lan] u t) ∧
    (∀ u a, s.rel.ln[n].prob = false → s.replay n im f ps r1 = (u, some a) → a.again = false →
      Completes (.failedChainHandling n r1 r2) s fun t =>
        t.newest = some ⟨u.time.ftb, 0x0B01, 1, n.1, detail [(1, 2), (2, f.code), (2, f.line)]⟩ ∧ t.lan[n].failed = none ∧
        t.lan[n].mode = u.lan[n].mode ∧ Only [.log, .sad, .lan] u t) ∧
    (∀ u a, s.rel.ln[n].prob = false → s.replay n im f ps r1 = (u, some a) → a.again = true →
      Completes (.failedChainHandling n r1 r2) s fun t => t = u.permanentChain n im f ps r2 0)

/-- The code-domain value lies within half a unit of the scaled sum, ties going away from zero; a plain code is the value inside the format's
range and its limit outside, with the counter of that side; a captured code lies in the range and is the escape code exactly when the
value escapes to the side list; the block shift is the least at which every mantissa fits; the rounding divider rounds to nearest, ties
away from zero. Rests on spec/04_number_formats_quantisation.md R112, spec/04_number_formats_quantisation.md R113,
spec/04_number_formats_quantisation.md R117, spec/04_number_formats_quantisation.md R118, spec/04_number_formats_quantisation.md R128. -/
def Obligations.RequantiserRoundsAndSaturates : Prop :=
  (∀ (r : ChanRec) (zp acc : Int), 2 * ((acc + r.bias) * r.m - 2 ^ r.sh * (requantValue r zp acc - zp)).natAbs ≤ 2 ^ r.sh) ∧
  (∀ (v : Int) (sh : Nat), 0 < sh → 2 * (v - 2 ^ sh * roundShift v sh).natAbs = 2 ^ sh → v.natAbs < (2 ^ sh * roundShift v sh).natAbs) ∧
  (∀ (lo hi v : Int), lo ≤ hi →
    lo ≤ (plainCode lo hi v).1 ∧ (plainCode lo hi v).1 ≤ hi ∧ (lo ≤ v → v ≤ hi → plainCode lo hi v = (v, .none)) ∧
    (hi < v → plainCode lo hi v = (hi, .hi)) ∧ (v < lo → plainCode lo hi v = (lo, .lo))) ∧
  (∀ (lo hi v : Int) (held cap : Nat), lo < hi →
    lo ≤ (captureCode lo hi v held cap).1 ∧ (captureCode lo hi v held cap).1 ≤ hi ∧
    ((captureCode lo hi v held cap).1 = lo ↔ (captureCode lo hi v held cap).2 = .escape) ∧
    ((captureCode lo hi v held cap).2 = .escape → held < cap ∧ -(2 ^ 31) + 1 ≤ v ∧ v ≤ 2 ^ 31 - 1)) ∧
  (∀ (l : List (Int × Nat)) (k : Nat), k < 32 → (∀ x ∈ l, -128 ≤ roundShift x.1 (x.2 + k) ∧ roundShift x.1 (x.2 + k) ≤ 127) →
    blockShift l ≤ k ∧ ∀ x ∈ l, -128 ≤ roundShift x.1 (x.2 + blockShift l) ∧ roundShift x.1 (x.2 + blockShift l) ≤ 127) ∧
  (∀ (v : Int) (d : Nat), 0 < d → 2 * (v - d * roundDiv v d).natAbs ≤ d ∧
    (2 * (v - d * roundDiv v d).natAbs = d → v.natAbs < (d * roundDiv v d).natAbs))

/-- For all integer input tiles d and kernels g, the output transform of the sixteen products of the transformed kernel (2G)g(2G)^T and the
transformed tile B^T d B is, at each of its four output positions, four times the direct sum of products. Rests on
spec/05_convolution_mapping.md R146, spec/05_convolution_mapping.md R147, spec/05_convolution_mapping.md R149,
spec/05_convolution_mapping.md R150. -/
def Obligations.WinogradIsTheDirectConvolution : Prop :=
  ∀ (d g : Nat → Nat → Int) (i j : Nat), i < 2 → j < 2 →
    winoOut (fun x =>
      (∑ a ∈ Finset.range 3, ∑ b ∈ Finset.range 3, (twoG (x / 4)).getD a 0 * (twoG (x % 4)).getD b 0 * g a b) *
      (∑ p ∈ Finset.range 4, ∑ q ∈ Finset.range 4, (btRow (x / 4)).getD p 0 * (btRow (x % 4)).getD q 0 * d p q)) i j =
    4 * ∑ a ∈ Finset.range 3, ∑ b ∈ Finset.range 3, g a b * d (i + a) (j + b)

/-- A test window that may start in time runs its items on the idle unit, from its placed cycle on, and occupies it for ARG0 cycles, a Wick in
the test state; with testing off it only occupies it. An item that fails is logged, counted and due again, one that passes advances the
rotation and, on a Lantern, counts its pass; a window that cannot start in 50,000,000 ticks with a spare free is postponed by a move; a
vacated unit that passes its test is a spare. Rests on spec/07_job_images_timetable.md R209, spec/07_job_images_timetable.md R210,
spec/07_job_images_timetable.md R211, spec/16_faults_test_fencing.md R458, spec/16_faults_test_fencing.md R461. -/
def Obligations.TestItemsRunAndAreCounted : Prop :=
  (∀ (i : Inst) (runs : List TestRun) (e : TtEntry) (u : UnitId) (q x : Nat) (v s : State), s.entryOf i = some e → s.windowPhys e = some u →
    e.kind = 8 → s.canStart e i = true → s.unitIdle u = true → s.time.ftb ≤ s.job.placed e i + 50000000 → v = s.startOf e i →
    q = (match u with | .lantern n => n.1 / 9 | .wick w => w.1 / 13) → x = max (v.freeCycle u) (v.lFrom q (s.job.placed e i) + e.cycle) →
    Completes (.testWindow i runs) s fun t =>
      t = (v.runWindow u (e.arg i.inst) e.arg1 runs).inTest u (some i) x (e.arg i.inst) e.arg1 (bit s.rel.ctrl.toNat 1) ∧
      (∀ n : LnId, u = .lantern n → t.lan[n].drainEnd = x + e.arg i.inst ∧ t.lan[n].active = [] ∧ t.lan[n].isolated = true ∧
        t.lan[n].arrInst = some i) ∧
      (∀ w : WkId, u = .wick w → t.wick[w].winEnd = x + e.arg i.inst ∧ t.wick[w].winInst = some i ∧
        (bit s.rel.ctrl.toNat 1 = true → t.wick[w].mode = .test)) ∧
      (bit s.rel.ctrl.toNat 1 = false → t.job = s.job.start i ∧ t.rel = s.rel ∧ s.job.placed e i ≤ t.time.ftb)) ∧
  (∀ (u : UnitId) (run : TestRun) (idx : Nat) (it : LibItem) (s : State), bit s.rel.ctrl.toNat 1 = true → s.inUse u = false →
    (s.entry u).st ≠ .busy → s.fenceDue u = none → (s.tst u).next s.rel (unitWick u) = some (.rotation, idx, false) →
    s.rel.items[idx]? = some it → it.length ≤ 65536 → itemFails it (unitWick u) run = true →
    Completes (.spareRotation u run) s fun t =>
      t.newest = some ⟨s.time.ftb, 0x0B04, unitKind u, unitNum u, detail [(2, idx), (4, it.expect.toNat), (4, run.sig.toNat)]⟩ ∧
      t.rel.testFail = satInc s.rel.testFail ∧ (t.tst u).repeatDue = some idx ∧ (t.tst u).clean = 0 ∧ Only [.rel, .lan, .wick, .log, .sad] s t) ∧
  (∀ (u : UnitId) (run : TestRun) (idx : Nat) (it : LibItem) (s : State), bit s.rel.ctrl.toNat 1 = true → s.inUse u = false →
    (s.entry u).st ≠ .busy → s.fenceDue u = none → (s.tst u).next s.rel (unitWick u) = some (.rotation, idx, false) →
    s.rel.items[idx]? = some it → it.length ≤ 65536 → itemFails it (unitWick u) run = false → (s.entry u).prob = false →
    Completes (.spareRotation u run) s fun t =>
      (t.tst u).clean = (s.tst u).clean + 1 ∧ (t.tst u).pos = ((s.tst u).pos + 1) % max 1 (s.rel.rotation (unitWick u)).length ∧
      (∀ n : LnId, u = .lantern n → t.lan[n].passCount = s.lan[n].passCount + 1) ∧ t.rel = s.rel ∧ Only [.lan, .wick] s t) ∧
  (∀ (i : Inst) (e : TtEntry) (u : UnitId) (s : State), s.entryOf i = some e → s.windowPhys e = some u → e.kind = 8 → s.job.state = .armed →
    s.job.started.contains i = false → s.job.cancelled e i = false → (s.job.moves.any fun m => m.left == u) = false →
    (s.freeSpareOf (unitWick u)).isSome = true →
    Completes (.testWindowPostponed i) s fun t =>
      t.job = { s.job with moves := s.job.moves ++ [⟨u, u, some i, 0⟩] } ∧ s.job.placed e i + 50000000 ≤ t.time.ftb ∧
      Only [.job, .time, .mem, .log, .host, .misc] s t) ∧
  (∀ (u : UnitId) (runs : List TestRun) (i : Inst) (e : TtEntry) (w : State) (s : State),
    (s.rel.vacated.find? fun v => v.1 == u) = some (u, some i) → s.entryOf i = some e →
    w = (s.runWindow u (e.arg i.inst) e.arg1 runs).inTest u none (s.freeCycle u) (e.arg i.inst) e.arg1 (bit s.rel.ctrl.toNat 1) →
    (w.tst u).repeatDue = none → w.fenceDue u = none →
    Completes (.vacatedUnitTest u runs) s fun t => (t.entry u).st = .spare ∧ t.rel.vacated = w.rel.vacated.erase (u, some i) ∧ t = { w with rel := t.rel })

/-- An idle serving unit due for fencing is fenced and serves no logical unit; one that a postponed window moves gives its logical unit to the
first free spare, logged, and the move's end puts the spare in service; a sweep of a fenced Lantern whose faulty lines can all be steered
makes it a spare in probation, logged; a sweep of a fenced Wick brings it into recovery; a sequencer divergence is logged and stops an
armed job. Rests on spec/16_faults_test_fencing.md R454, spec/16_faults_test_fencing.md R457, spec/16_faults_test_fencing.md R468,
spec/16_faults_test_fencing.md R470, spec/07_job_images_timetable.md R551. -/
def Obligations.UnitsAreFencedMovedAndRepaired : Prop :=
  (∀ (u : UnitId) (r : Nat) (s : State), s.unitIdle u = true → s.fenceDue u = some r → (s.entry u).st = .serving →
    Completes (.unitMove u) s fun t => (t.entry u).st = .fenced ∧ (t.entry u).logic = none ∧ t.fenceDue u = none) ∧
  (∀ (u sp : UnitId) (m : Move) (s : State), s.unitIdle u = true → s.fenceDue u = none → (s.entry u).st = .serving →
    (s.job.moves.find? fun m => m.left == u && m.endM == 0) = some m → s.freeSpareOf (unitWick u) = some sp →
    Completes (.unitMove u) s fun t =>
      (t.entry sp).logic = (s.entry u).logic ∧ (t.entry sp).st = .busy ∧ (t.entry u).logic = none ∧ (t.entry u).st = .busy ∧
      t.newest = some ⟨t.time.ftb, 0x0B03, unitKind u, unitNum u, detail [(1, (s.entry u).logNo), (1, unitNum u), (1, unitNum sp)]⟩) ∧
  (∀ (u : UnitId) (m : Move) (s : State), (s.job.moves.find? fun m => m.left == u && m.endM != 0) = some m → m.window = none →
    s.job.stopAt = none →
    Completes (.moveEnd u) s fun t =>
      (t.entry m.spare).st = .serving ∧ t.job.moves = s.job.moves.erase m ∧ (m.endM * 10 + 12) / 13 ≤ t.time.ftb ∧
      Only [.rel, .job, .time, .mem, .log, .host, .misc] s t) ∧
  (∀ (w : WkId) (runs : List TestRun) (s : State), Completes (.fullSweep (.wick w) runs) s fun t =>
    (s.rel.wk[w].st = .fenced → t.wick = upd s.wick w (fun k => { k with recovery := true }) ∧ Only [.wick] s t) ∧
    (s.rel.wk[w].st ≠ .fenced → t = s)) ∧
  (∀ (n : LnId) (runs : List TestRun) (rows cols : List Nat) (l1 : Lantern) (ur uc : List (Nat × Nat)) (s : State), s.rel.ln[n].st = .fenced →
    s.job.state ≠ .armed → s.lan[n].unlocated = false → s.lan[n].lines ≠ [] →
    rows = ((s.lan[n].lines.filterMap fun x => if x.1 then some x.2 else none).dedup.filter fun k => !steered s.lan[n].rowSteer k) →
    cols = ((s.lan[n].lines.filterMap fun x => if x.1 then none else some x.2).dedup.filter fun k => !steered s.lan[n].colSteer k) →
    steerBoth s.lan[n] rows cols = some (l1, ur, uc) → s.sweepPasses false runs = true →
    Completes (.fullSweep (.lantern n) runs) s fun t =>
      t.rel.ln[n].st = .spare ∧ t.rel.ln[n].prob = true ∧ t.lan[n].mode = .idle ∧ t.lan[n].rowSteer = l1.rowSteer ∧
      t.lan[n].colSteer = l1.colSteer ∧
      t.newest = some ⟨s.time.ftb, 0x0B0E, 1, n.1, detail [(1, ur.length), (1, uc.length)]⟩) ∧
  (∀ (cu : Fin 14) (s : State), s.job.state ≠ .armed →
    Completes (.sequencerDivergence cu) s fun t =>
      t.newest = some ⟨s.time.ftb, 0x0B11, 0, 0, detail [(1, cu.1), (8, (s.job.frameAt s.time.ftb).getD 0)]⟩ ∧ Only [.log, .sad] s t) ∧
  (∀ (cu : Fin 14) (s : State), s.job.state = .armed →
    Completes (.sequencerDivergence cu) s fun t => t.job.state = .stopped ∧ t.job.snap = none ∧ t.job.stopAt = none)

/-- Issued at a site, ADD, SUB, AND, OR, XOR, the shifts, MUL, MULH, MULHU, the immediate forms, LI and LIS complete with the stated 64-bit
result in gd and the site at its next instruction; g0 discards writes and reads 0; no other register, stack, thread or pair changes. Rests
on spec/09_base_isa.md R253, spec/09_base_isa.md R255, spec/09_base_isa.md R264, spec/09_base_isa.md R284. -/
def Obligations.IntegerInstructionsWriteTheirResult : Prop :=
  ∀ (x : Site) (len : Nat) (gd ga gb : G) (s : State),
    let g := s.siteRegs x
    let a := regGet g ga
    let b := regGet g gb
    let writes (i : Instr) (v : W64) : Prop :=
      SiteReady s x i len → Completes i s fun t => Retires s t x (regSet g gd v) (s.siteNext x len) (s.siteStack x)
    (∀ sub, writes (.addSub x sub gd ga gb) (if sub then a - b else a + b)) ∧
    (∀ op, writes (.andOrXor x op gd ga gb) (match op with | .and => a &&& b | .or => a ||| b | .xor => a ^^^ b)) ∧
    (∀ op, writes (.shlShrSar x op gd ga gb)
      (match op with | .shl => a <<< (b.toNat % 64) | .shr => a >>> (b.toNat % 64) | .sar => a.sshiftRight (b.toNat % 64))) ∧
    writes (.mul x gd ga gb) (a * b) ∧
    (∀ uns, writes (.mulhMulhu x uns gd ga gb)
      (if uns then BitVec.ofNat 64 (a.toNat * b.toNat / 2 ^ 64) else BitVec.ofInt 64 (a.toInt * b.toInt / 2 ^ 64))) ∧
    (∀ op (imm : BitVec 32), writes (.immediateAlu x op gd ga imm)
      (match op with
        | .add => a + imm.signExtend 64
        | .and => a &&& imm.signExtend 64
        | .or => a ||| imm.signExtend 64
        | .xor => a ^^^ imm.signExtend 64
        | .mul => a * imm.signExtend 64)) ∧
    (∀ op (n : Fin 64), writes (.shiftImmediate x op gd ga n)
      (match op with | .shl => a <<< n.1 | .shr => a >>> n.1 | .sar => a.sshiftRight n.1)) ∧
    (∀ imm : W64, writes (.li x gd imm) imm) ∧
    (∀ imm : BitVec 32, writes (.lis x gd imm) ((regGet g gd <<< lisWidth x) ||| imm.setWidth 64)) ∧
    regSet g 0 a = g ∧ regGet (regSet g gd a) 0 = 0 ∧ (gd ≠ 0 → regGet (regSet g gd a) gd = a)

/-- With a divisor other than 0, DIV, DIVU, REM and REMU complete with quotient and remainder in gd; with 0 they take exception 0x07. Quotient
times divisor plus remainder is the dividend, modulo 2^64; the remainder is smaller than the divisor and, signed, has the dividend's sign
or is 0. Rests on spec/09_base_isa.md R264, spec/09_base_isa.md R266. -/
def Obligations.DivisionsAnswerOrTrap : Prop :=
  (∀ (x : Site) (len : Nat) (uns : Bool) (gd ga gb : G) (s : State), regGet (s.siteRegs x) gb ≠ 0 →
    (SiteReady s x (.divDivu x uns gd ga gb) len →
      Completes (.divDivu x uns gd ga gb) s fun t =>
        Retires s t x (regSet (s.siteRegs x) gd (quotient uns (regGet (s.siteRegs x) ga) (regGet (s.siteRegs x) gb)))
          (s.siteNext x len) (s.siteStack x)) ∧
    (SiteReady s x (.remRemu x uns gd ga gb) len →
      Completes (.remRemu x uns gd ga gb) s fun t =>
        Retires s t x (regSet (s.siteRegs x) gd (remainder uns (regGet (s.siteRegs x) ga) (regGet (s.siteRegs x) gb)))
          (s.siteNext x len) (s.siteStack x))) ∧
  (∀ (x : Site) (len : Nat) (uns : Bool) (gd ga gb : G) (s : State), regGet (s.siteRegs x) gb = 0 →
    (SiteReady s x (.divDivu x uns gd ga gb) len → Completes (.divDivu x uns gd ga gb) s fun t => Traps s t x 0x07 0) ∧
    (SiteReady s x (.remRemu x uns gd ga gb) len → Completes (.remRemu x uns gd ga gb) s fun t => Traps s t x 0x07 0)) ∧
  (∀ (uns : Bool) (a b : W64), b ≠ 0 → quotient uns a b * b + remainder uns a b = a ∧
    (uns = true → (remainder uns a b).toNat < b.toNat) ∧ (uns = false → (remainder uns a b).toInt.natAbs < b.toInt.natAbs) ∧
    (uns = false → 0 ≤ a.toInt → 0 ≤ (remainder uns a b).toInt) ∧ (uns = false → a.toInt ≤ 0 → (remainder uns a b).toInt ≤ 0))

/-- CRCS, PAR, BREV.D, BREV.W, CLZ and FEATR complete with the stated result in gd; NOP changes nothing but the address; DRAIN on a pair
likewise, and on a Wick it completes with the store buffer empty. Rests on spec/09_base_isa.md R264, spec/09_base_isa.md R267,
spec/09_base_isa.md R268, spec/09_base_isa.md R277, spec/09_base_isa.md R279. -/
def Obligations.BitInstructionsWriteTheirResult : Prop :=
  ∀ (x : Site) (len : Nat) (gd ga gb : G) (s : State),
    let g := s.siteRegs x
    let a := regGet g ga
    let writes (i : Instr) (ok : W64 → Prop) : Prop :=
      SiteReady s x i len → ∃ v, ok v ∧ Completes i s fun t => Retires s t x (regSet g gd v) (s.siteNext x len) (s.siteStack x)
    (∀ sz, writes (.crcs x sz gd ga gb) fun v =>
      v = (crcSteps (crcPoly (regGet g gb)) (8 * sizeBytes sz) a.toNat ((regGet g gd).setWidth 32)).setWidth 64) ∧
    writes (.par x gd ga) (fun v => v = BitVec.ofNat 64 (((List.range 64).filter fun i => a.getLsbD i).length % 2)) ∧
    writes (.brev x true gd ga) (fun v => ∀ i, i < 64 → v.getLsbD i = a.getLsbD (63 - i)) ∧
    writes (.brev x false gd ga) (fun v => ∀ i, i < 64 → v.getLsbD i = (decide (i < 32) && a.getLsbD (31 - i))) ∧
    writes (.clz x gd ga) (fun v => v.toNat ≤ 64 ∧ a.toNat < 2 ^ (64 - v.toNat) ∧ (a ≠ 0 → 2 ^ (63 - v.toNat) ≤ a.toNat ∧ v.toNat < 64)) ∧
    (∀ n, writes (.featr x gd n) fun v => v = featValue (s.atSite x) x n) ∧
    (SiteReady s x (.nop x) len → Completes (.nop x) s fun t => Retires s t x g (s.siteNext x len) (s.siteStack x)) ∧
    (∀ p b, x = .sad p b → SiteReady s x (.drain x) len →
      Completes (.drain x) s fun t => Retires s t x g (s.siteNext x len) (s.siteStack x)) ∧
    (∀ w q wide, x = .wick w q wide .clean → SiteReady s x (.drain x) len →
      Completes (.drain x) s fun t =>
        t.wick[w].sb = [] ∧ t.wick[w].threads[q].pc.toNat = s.siteNext x len ∧ t.wick[w].threads[q].g = g ∧ t.job = s.job)

/-- JMP and CALL go to their target, CALL pushing the next address, or take ADDRESS, or for CALL the full-stack exception; RET pops, or takes
the empty-stack exception; RETI outside a handler is ILLEGAL and inside one exchanges the banks and pops; a pair's pc keeps bit 0 at 0;
SKIP suppresses the next instruction exactly when its condition holds; HALT stops the thread or puts the pair to sleep. Rests on
spec/09_base_isa.md R269, spec/09_base_isa.md R271, spec/09_base_isa.md R272, spec/09_base_isa.md R273, spec/09_base_isa.md R274,
spec/09_base_isa.md R276, spec/08_wick_core.md R241, spec/08_wick_core.md R246, spec/09_base_isa.md R291. -/
def Obligations.ControlTransfersActAsTabled : Prop :=
  (∀ (x : Site) (len : Nat) (tgt : Target) (s : State), SiteReady s x (.jmp x tgt) len →
    (∀ a v, branchTarget x tgt (s.coreAt x len) = (some a, v) →
      Completes (.jmp x tgt) s fun t => Retires s t x (s.siteRegs x) a (s.siteStack x)) ∧
    (∀ v, branchTarget x tgt (s.coreAt x len) = (none, v) → Completes (.jmp x tgt) s fun t => Traps s t x 0x02 v)) ∧
  (∀ (x : Site) (len : Nat) (tgt : Target) (s : State), SiteReady s x (.call x tgt) len →
    (∀ a v, branchTarget x tgt (s.coreAt x len) = (some a, v) → (s.siteStack x).length < stackDepth x →
      Completes (.call x tgt) s fun t => Retires s t x (s.siteRegs x) a (s.siteNext x len :: s.siteStack x)) ∧
    (∀ a v, branchTarget x tgt (s.coreAt x len) = (some a, v) → stackDepth x ≤ (s.siteStack x).length →
      Completes (.call x tgt) s fun t => Traps s t x 0x04 0) ∧
    (∀ v, branchTarget x tgt (s.coreAt x len) = (none, v) → Completes (.call x tgt) s fun t => Traps s t x 0x02 v)) ∧
  (∀ (x : Site) (len : Nat) (s : State), SiteReady s x (.ret x) len →
    (∀ a r, s.siteStack x = a :: r → Completes (.ret x) s fun t => Retires s t x (s.siteRegs x) a r) ∧
    (s.siteStack x = [] → Completes (.ret x) s fun t => Traps s t x 0x05 0)) ∧
  (∀ (x : Site) (len : Nat) (s : State), SiteReady s x (.reti x) len → s.siteAlt x = false →
    Completes (.reti x) s fun t => Traps s t x 0x01 0) ∧
  (∀ (x : Site) (len a : Nat) (r : List Nat) (s : State), SiteReady s x (.reti x) len → s.siteAlt x = true → s.siteStack x = a :: r →
    Completes (.reti x) s fun t => t.siteAlt x = false ∧
      t.sitePc x = (match x with | .wick _ _ _ _ => a | .sad _ _ => a / 2 * 2) ∧ t.siteStack x = r ∧
      t.siteRegs x = (bankSwap (s.siteRegs x) (match x with | .wick w q _ _ => s.wick[w].threads[q].shadowG | .sad p _ => s.sad[p].shadowG)).1 ∧
      Only [.wick, .sad] s t) ∧
  (∀ (x : Site) (len : Nat) (cc : Cond) (ga : G) (rhs : SkipRhs) (s : State), SiteReady s x (.skip x cc ga rhs) len →
    Completes (.skip x cc ga rhs) s fun t =>
      Retires s t x (s.siteRegs x) (s.siteNext x len) (s.siteStack x) ∧
      t.siteVictim x = (if condHolds cc (regGet (s.siteRegs x) ga)
        (match rhs with | .reg gb => regGet (s.siteRegs x) gb | .imm v => v.signExtend 64) then .suppress else .execute)) ∧
  (∀ (x : Site) (len : Nat) (s : State), SiteReady s x (.halt x) len →
    Completes (.halt x) s fun t => t.siteRegs x = s.siteRegs x ∧
      t.sitePc x = (match x with | .wick _ _ _ _ => s.siteNext x len | .sad _ _ => s.siteNext x len / 2 * 2) ∧ t.siteStack x = s.siteStack x ∧
      (match x with | .wick w q _ _ => t.wick[w].threads[q].run = .halted | .sad p _ => t.sad[p].asleep = true) ∧ Only [.wick, .sad] s t)

/-- On a Wick a load of local memory inside one line answers its bytes, or those of the one buffered store that it matches; a store enters the
buffer; an address outside the ranges takes ADDRESS, and a load that updates its own base is ILLEGAL. On a pair an address that breaks
R291 takes ADDRESS, a load answers the device access and a store makes it. Base updates are written. Rests on spec/08_wick_core.md R235,
spec/09_base_isa.md R256, spec/09_base_isa.md R257, spec/09_base_isa.md R258, spec/09_base_isa.md R259, spec/09_base_isa.md R291. -/
def Obligations.LoadsAndStoresReachTheirBytes : Prop :=
  (∀ (x : Site) (len : Nat) (sz : Size) (uns : Bool) (gd gb : G) (m : AMode) (s : State), SiteReady s x (.load x sz uns gd m gb) len →
    modeUpdates m = true → gd = gb → Completes (.load x sz uns gd m gb) s fun t => Traps s t x 0x01 0) ∧
  (∀ (w : WkId) (q : Fin 4) (wide : Bool) (len a : Nat) (sz : Size) (uns : Bool) (gd gb : G) (m : AMode) (s : State),
    let x := Site.wick w q wide .clean
    SiteReady s x (.load x sz uns gd m gb) len → (modeUpdates m && gd == gb) = false →
    scalarAt (eaOf m (s.siteRegs x) gb).1 (sizeBytes sz) = .local_ a → a % 16 + sizeBytes sz ≤ 16 → s.wick[w].sb = [] →
    s.mem.eccAt (s.localAddr w (a / 16 * 16)) = 0 →
    Completes (.load x sz uns gd m gb) s fun t =>
      Retires s t x (regSets (s.siteRegs x) ((gd, extend uns (s.localBytes w a (sizeBytes sz))) ::
        ((eaOf m (s.siteRegs x) gb).2.map fun b => (gb, b)).toList)) (s.siteNext x len) (s.siteStack x)) ∧
  (∀ (w : WkId) (q : Fin 4) (wide : Bool) (len a : Nat) (sz : Size) (uns : Bool) (gd gb : G) (m : AMode) (e : SbEntry) (s : State),
    let x := Site.wick w q wide .clean
    SiteReady s x (.load x sz uns gd m gb) len → (modeUpdates m && gd == gb) = false →
    scalarAt (eaOf m (s.siteRegs x) gb).1 (sizeBytes sz) = .local_ a → a % 16 + sizeBytes sz ≤ 16 → s.wick[w].sb = [e] →
    e.addr = a → e.bytes.length = sizeBytes sz →
    Completes (.load x sz uns gd m gb) s fun t =>
      Retires s t x (regSets (s.siteRegs x) ((gd, extend uns e.bytes) :: ((eaOf m (s.siteRegs x) gb).2.map fun b => (gb, b)).toList))
        (s.siteNext x len) (s.siteStack x)) ∧
  (∀ (w : WkId) (q : Fin 4) (wide : Bool) (len : Nat) (v : W64) (sz : Size) (uns : Bool) (gd gb : G) (m : AMode) (s : State),
    let x := Site.wick w q wide .clean
    scalarAt (eaOf m (s.siteRegs x) gb).1 (sizeBytes sz) = .bad v →
    (SiteReady s x (.load x sz uns gd m gb) len → (modeUpdates m && gd == gb) = false →
      Completes (.load x sz uns gd m gb) s fun t => Traps s t x 0x02 v) ∧
    (SiteReady s x (.store x sz gd m gb) len → Completes (.store x sz gd m gb) s fun t => Traps s t x 0x02 v)) ∧
  (∀ (w : WkId) (q : Fin 4) (wide : Bool) (len a : Nat) (sz : Size) (gs gb : G) (m : AMode) (s : State),
    let x := Site.wick w q wide .clean
    SiteReady s x (.store x sz gs m gb) len → scalarAt (eaOf m (s.siteRegs x) gb).1 (sizeBytes sz) = .local_ a →
    a % 16 + sizeBytes sz ≤ 16 → s.wick[w].sb.length < 4 →
    Completes (.store x sz gs m gb) s fun t =>
      t.wick[w].sb = s.wick[w].sb ++ [⟨a, leBytes (sizeBytes sz) (regGet (s.siteRegs x) gs).toNat, q⟩] ∧
      t.siteRegs x = regSets (s.siteRegs x) ((eaOf m (s.siteRegs x) gb).2.map fun b => (gb, b)).toList ∧ t.sitePc x = s.siteNext x len ∧
      Only [.wick] s t) ∧
  (∀ (p : Fin 4) (b : Bool) (len : Nat) (sz : Size) (uns : Bool) (gd gb : G) (m : AMode) (s : State),
    let x := Site.sad p b
    sadAddr (eaOf m (s.siteRegs x) gb).1 (sizeBytes sz) = none →
    (SiteReady s x (.load x sz uns gd m gb) len → (modeUpdates m && gd == gb) = false →
      Completes (.load x sz uns gd m gb) s fun t => Traps s t x 0x02 (eaOf m (s.siteRegs x) gb).1) ∧
    (SiteReady s x (.store x sz gd m gb) len →
      Completes (.store x sz gd m gb) s fun t => Traps s t x 0x02 (eaOf m (s.siteRegs x) gb).1)) ∧
  (∀ (p : Fin 4) (b : Bool) (len a : Nat) (sz : Size) (uns : Bool) (gd gb : G) (m : AMode) (u : State) (r : Answer) (s : State),
    let x := Site.sad p b
    SiteReady s x (.load x sz uns gd m gb) len → (modeUpdates m && gd == gb) = false →
    sadAddr (eaOf m (s.siteRegs x) gb).1 (sizeBytes sz) = some a → s.coreAccess (.sad p) (.saddler p) a (sizeBytes sz) none = (u, r) →
    Completes (.load x sz uns gd m gb) s fun t =>
      t.siteRegs x = regSets u.sad[p].g ((gd, extend uns r.data) :: ((eaOf m (s.siteRegs x) gb).2.map fun b => (gb, b)).toList) ∧
      Only [.sad] u t) ∧
  (∀ (p : Fin 4) (b : Bool) (len a : Nat) (sz : Size) (gs gb : G) (m : AMode) (u : State) (r : Answer) (s : State),
    let x := Site.sad p b
    SiteReady s x (.store x sz gs m gb) len → sadAddr (eaOf m (s.siteRegs x) gb).1 (sizeBytes sz) = some a →
    s.coreAccess (.sad p) (.saddler p) a (sizeBytes sz) (some (leBytes (sizeBytes sz) (regGet (s.siteRegs x) gs).toNat)) = (u, r) →
    u.cfg.warmDue = s.cfg.warmDue →
    Completes (.store x sz gs m gb) s fun t =>
      t.siteRegs x = regSets u.sad[p].g ((eaOf m (s.siteRegs x) gb).2.map fun b => (gb, b)).toList ∧ Only [.sad] u t)

/-- A thread that runs takes its lowest enabled interrupt line in its slot; bytes that are no instruction, alone or as the second of a pair,
or that run past local memory, take their exception, or are passed over where the instruction is suppressed (their length there is the
model's choice, log 80); a thread past its time limit is FAULTED and logged; a row-completion wait ends once the counter is above the row,
stays while it is not, and one of 1,000,000 ticks is logged once. Rests on spec/08_wick_core.md R240, spec/08_wick_core.md R242,
spec/08_wick_core.md R243, spec/08_wick_core.md R244, spec/08_wick_core.md R248, spec/05_convolution_mapping.md R155, spec/09_base_isa.md
R270, spec/09_base_isa.md R278. -/
def Obligations.WickEventsEnterOrEndThreads : Prop :=
  (∀ (w : WkId) (q : Fin 4) (n : Fin 16) (s : State), s.wick[w].threads[q].run = .running → s.wick[w].threads[q].victim = .none →
    (s.wick[w].toSlot q).irqLine q = some n →
    Completes (.wickInterruptEntry w q) s fun t =>
      t.wick[w].threads[q].pc = 0x40 ∧ t.wick[w].threads[q].alt = !s.wick[w].threads[q].alt ∧
      t.wick[w].threads[q].stack = s.wick[w].threads[q].pc :: s.wick[w].threads[q].stack ∧
      t.wick[w].threads[q].g = regSet (regSet (bankSwap s.wick[w].threads[q].g s.wick[w].threads[q].shadowG).1 30 (BitVec.ofNat 64 (0x80 + n.1))) 31 0 ∧
      t.wick[w].irqPend = s.wick[w].irqPend &&& ~~~(BitVec.ofNat 16 (2 ^ n.1)) ∧ (∀ v : WkId, v ≠ w → t.wick[v] = s.wick[v]) ∧ Only [.wick] s t) ∧
  (∀ (w : WkId) (q : Fin 4) (s : State), s.wick[w].threads[q].run = .running → s.wick[w].threads[q].victim ≠ .suppress →
    s.wick[w].illegalSecond q = none → (s.wick[w].threads[q].victim = .none → (s.wick[w].toSlot q).irqLine q = none) →
    (decodeWick w q false .clean s.wick[w].testState (s.slot w q).wick[w].threads[q].buf = .illegal →
      Completes (.wickException w q) s fun t => Traps s t (.wick w q false .clean) 0x01 0) ∧
    (decodeWick w q false .clean s.wick[w].testState (s.slot w q).wick[w].threads[q].buf = .short →
      (s.slot w q).wick[w].threads[q].runsPast = true →
      Completes (.wickException w q) s fun t => Traps s t (.wick w q false .clean) 0x02 0x40000)) ∧
  (∀ (w : WkId) (q : Fin 4) (p : PairFirst) (s : State), s.wick[w].threads[q].run = .running → s.wick[w].illegalSecond q = some p →
    (p.branch = false → s.wick[w].threads[q].alt = false → s.wick[w].threads[q].stack.length < 32 →
      Completes (.wickException w q) s fun t =>
        t.wick[w].threads[q].pc = 0 ∧ t.wick[w].threads[q].alt = true ∧ t.wick[w].threads[q].stack = p.next :: s.wick[w].threads[q].stack ∧
        t.wick[w].threads[q].g = regSet (regSet (bankSwap s.wick[w].threads[q].g s.wick[w].threads[q].shadowG).1 30 1) 31 0 ∧ Only [.wick] s t) ∧
    (p.branch = true → Completes (.wickException w q) s fun t =>
      t.wick[w].threads[q].run = .faulted ∧ t.wick[w].threads[q].g = s.wick[w].threads[q].g ∧ t.wick[w].faultPc = p.next ∧
      t.newest = some ⟨s.time.ftb, 0x0501, 2, w.1, detail [(1, q.1), (1, 1), (4, p.next.toNat)]⟩ ∧ Only [.wick, .log, .sad] s t)) ∧
  (∀ (w : WkId) (q : Fin 4) (s : State), s.wick[w].threads[q].run = .running → s.wick[w].threads[q].victim = .suppress →
    s.wick[w].illegalSecond q = none → decodeWick w q false .clean s.wick[w].testState (s.slot w q).wick[w].threads[q].buf = .illegal →
    Completes (.wickException w q) s fun t =>
      Thread.same { s.wick[w].threads[q] with pc := t.wick[w].threads[q].pc } t.wick[w].threads[q] ∧ t.wick[w].threads[q].victim = .none ∧
      t.wick[w].threads[q].pc = s.wick[w].threads[q].pc +
        BitVec.ofNat 18 (min (encodedLen (s.slot w q).wick[w].threads[q].buf) (s.slot w q).wick[w].threads[q].buf.length) ∧ Only [.wick] s t) ∧
  (∀ (w : WkId) (q : Fin 4) (a : Nat) (s : State), s.wick[w].threads[q].started = some a → s.job.state = .armed → s.wick[w].reachedHalt q = false →
    Completes (.wickHang w q) s fun t =>
      t.wick[w].threads[q].run = .faulted ∧ a + 2 * s.job.period + 50000000 ≤ t.time.ftb ∧ t.wick[w].faultC = 0x09 ∧
      t.newest = some ⟨t.time.ftb, 0x0501, 2, w.1, detail [(1, q.1), (1, 9), (4, s.wick[w].threads[q].pc.toNat)]⟩) ∧
  (∀ (w : WkId) (q : Fin 4) (r : RcwWait) (s : State), s.wick[w].threads[q].rcw = some r → s.wick[w].threads[q].run = .waiting →
    (r.row < s.fab.rowCount r.region r.buf →
      Completes (.rcwWaitEnd w q) s fun t =>
        t.wick[w].threads[q].run = .running ∧ t.wick[w].threads[q].rcw = none ∧ t.wick[w].threads[q].pc = s.wick[w].threads[q].pc ∧
        t.wick[w].threads[q].g = s.wick[w].threads[q].g ∧ Only [.wick] s t) ∧
    (s.fab.rowCount r.region r.buf ≤ r.row → Completes (.rcwWaitEnd w q) s fun t => t = s)) ∧
  (∀ (w : WkId) (q : Fin 4) (r : RcwWait) (s : State), s.wick[w].threads[q].rcw = some r → r.logged = false →
    Completes (.rcwStall w q) s fun t =>
      t.wick[w].threads[q].rcw = some { r with logged := true } ∧ t.wick[w].threads[q].run = s.wick[w].threads[q].run ∧
      r.since + 1000000 ≤ t.time.ftb ∧
      t.newest = some ⟨t.time.ftb, 0x0505, 2, w.1, detail [(1, q.1), (2, r.region), (1, r.buf), (4, r.row)]⟩ ∧
      Only [.wick, .time, .mem, .log, .host, .misc, .sad] s t)

/-- The oldest buffered store is written; a refill brings the rest of its line, or on an uncorrectable line faults the thread; a fabric access
waits for the port, reads or writes local memory, or of an armed job outside a shadow is refused, logged and answered by an error.
Control-page stores to CP_RCW, CP_TAPER_OWNER (which waits for a TREP under way) and CP_RET act on their thread, and CP_IRQ_SWI pends
exactly the enabled software lines it names. Rests on spec/08_wick_core.md R229, spec/08_wick_core.md R230, spec/08_wick_core.md R232,
spec/08_wick_core.md R245, spec/08_wick_core.md R246, spec/08_wick_core.md R248, spec/08_wick_core.md R250, spec/08_wick_core.md R228. -/
def Obligations.WickMemoriesAndControlPageAct : Prop :=
  ((∀ (w : WkId) (e : SbEntry) (rest : List SbEntry) (s : State), s.wick[w].sb = e :: rest → s.mem.eccAt (s.localAddr w (e.addr / 16 * 16)) = 0 →
    Completes (.storeBufferDrain w) s fun t =>
      t.wick[w].sb = rest ∧ t.wick[w].port = max s.wick[w].port s.wick[w].wcyc + 2 ∧ t.mem = (s.localWrite w e.addr e.bytes).mem.setEcc (s.localAddr w (e.addr / 16 * 16)) 0 ∧
      (∀ q : Fin 4, t.wick[w].threads[q] = s.wick[w].threads[q]) ∧ Only [.wick, .mem] s t) ∧
  (∀ (w : WkId) (q : Fin 4) (s : State), s.wick[w].sb = [] → s.wick[w].refillThread = some q →
    s.mem.eccAt (s.localAddr w (s.wick[w].threads[q].fetchAt / 16 * 16)) = 0 →
    Completes (.instructionRefill w) s fun t =>
      t.wick[w].threads[q] = { s.wick[w].threads[q] with
        coming := s.wick[w].threads[q].coming ++ [(max s.wick[w].port s.wick[w].wcyc + 2,
          s.localBytes w s.wick[w].threads[q].fetchAt (16 - s.wick[w].threads[q].fetchAt % 16))] } ∧
      (∀ r : Fin 4, r ≠ q → t.wick[w].threads[r] = s.wick[w].threads[r]) ∧
      t.wick[w].port = max s.wick[w].port s.wick[w].wcyc + 1 ∧ Only [.wick] s t) ∧
  (∀ (w : WkId) (q : Fin 4) (s : State), s.wick[w].sb = [] → s.wick[w].refillThread = some q →
    s.mem.eccAt (s.localAddr w (s.wick[w].threads[q].fetchAt / 16 * 16)) = 2 →
    Completes (.instructionRefill w) s fun t =>
      t.wick[w].threads[q].run = .faulted ∧ t.wick[w].faultC = 0x08 ∧ t.wick[w].faultPc = s.wick[w].threads[q].pc ∧
      t.newest = some ⟨s.time.ftb, 0x0501, 2, w.1, detail [(1, q.1), (1, 8), (4, s.wick[w].threads[q].pc.toNat)]⟩) ∧
  (∀ (w : WkId) (port off n : Nat) (s : State), off + n ≤ 0x00080000 → s.moving (wickBase w.1) = false →
    s.portWaits (wickBase w.1 + off) n false = false →
    Completes (.localFabricAccess w port off n none) s fun t =>
      t = (((s.usePort w off n).localRead w off n).1).emit
        (.bytes (wickBase w.1 + off) ((s.usePort w off n).localRead w off n).2.1 ((s.usePort w off n).localRead w off n).2.2) ∧
      (off < 0x00040000 → t.wick[w].port = max s.wick[w].port s.wick[w].wcyc + (off % 16 + n + 15) / 16)) ∧
  (∀ (w : WkId) (port off n : Nat) (l : List Byte) (s : State), off + l.length ≤ 0x00080000 → s.moving (wickBase w.1) = false →
    s.portWaits (wickBase w.1 + off) l.length true = false →
    (s.job.state ≠ .armed ∨ 0x00040000 ≤ off ∨ s.inShadow w off l.length = true) →
    Completes (.localFabricAccess w port off n (some l)) s fun t => t = (s.usePort w off l.length).localPut w off l ∧ Only [.mem, .wick] s t) ∧
  (∀ (w : WkId) (port off n : Nat) (l : List Byte) (s : State), off < 0x00040000 → off + l.length ≤ 0x00080000 →
    s.moving (wickBase w.1) = false → s.portWaits (wickBase w.1 + off) l.length true = false → s.job.state = .armed →
    s.inShadow w off l.length = false →
    Completes (.localFabricAccess w port off n (some l)) s fun t =>
      t.newest = some ⟨s.time.ftb, 0x0504, 2, w.1, detail [(8, wickBase w.1 + off), (1, port)]⟩ ∧
      t.misc = (s.emit (.fabricError port (wickBase w.1 + off))).misc ∧ Only [.log, .sad, .misc] s t) ∧
  (∀ (w : WkId) (port off n : Nat) (wr : Option (List Byte)) (s : State),
    (s.moving (wickBase w.1) = true ∨ s.portWaits (wickBase w.1 + off) (match wr with | some l => l.length | none => n) wr.isSome = true) →
    Completes (.localFabricAccess w port off n wr) s fun t => t = s)) ∧
  (∀ (w : WkId) (q : Fin 4) (wide : Bool) (len : Nat) (gs gb : G) (m : AMode) (s : State),
    let x := Site.wick w q wide .clean
    SiteReady s x (.store x .w gs m gb) len →
    (∀ r : RcwWait, (eaOf m (s.siteRegs x) gb).1.toNat = cpBase + 0x14 →
      r = ⟨bits ((regGet (s.siteRegs x) gs).setWidth 32).toNat 31 20, bits ((regGet (s.siteRegs x) gs).setWidth 32).toNat 19 19,
        bits ((regGet (s.siteRegs x) gs).setWidth 32).toNat 18 0, s.time.ftb, false⟩ →
      Completes (.cpRcwWrite x gs m gb) s fun t =>
        (s.fab.rowCount r.region r.buf ≤ r.row → t.wick[w].threads[q].run = .waiting ∧ t.wick[w].threads[q].rcw = some r) ∧
        (r.row < s.fab.rowCount r.region r.buf → t.wick[w].threads[q].run = .running) ∧ t.sitePc x = s.siteNext x len ∧ Only [.wick] s t) ∧
    ((eaOf m (s.siteRegs x) gb).1.toNat = cpBase + 0x0C →
      (∀ r : Fin 4, (s.slot w q).wick[w].threads[r].trepEnd ≤ (s.slot w q).wick[w].rho) →
      Completes (.cpTaperOwnerWrite x gs m gb) s fun t =>
        t.wick[w].taperOwn = (regGet (s.siteRegs x) gs).setWidth 32 &&& 7 ∧ t.sitePc x = s.siteNext x len ∧ Only [.wick] s t) ∧
    (∀ r : Fin 4, (eaOf m (s.siteRegs x) gb).1.toNat = cpBase + 0x0C →
      (s.slot w q).wick[w].rho + 1 < (s.slot w q).wick[w].threads[r].trepEnd →
      Completes (.cpTaperOwnerWrite x gs m gb) s fun t =>
        t.wick[w].taperOwn = (s.slot w q).wick[w].taperOwn ∧ t.wick[w].ownDue.map (·.2) = some ((regGet (s.siteRegs x) gs).setWidth 32 &&& 7) ∧
        t.sitePc x = s.siteNext x len ∧ Only [.wick] s t) ∧
    (∀ a r, (eaOf m (s.siteRegs x) gb).1.toNat = cpBase + 0x10 → s.wick[w].threads[q].stack = a :: r →
      Completes (.cpRetWrite x gs m gb) s fun t =>
        t.wick[w].threads[q].stack = ((regGet (s.siteRegs x) gs).setWidth 32).setWidth 18 :: r ∧ t.sitePc x = s.siteNext x len ∧ Only [.wick] s t) ∧
    (∀ v : W32, Completes (.cpIrqSwiWrite (.wick w q) v) s fun t =>
      (∀ n : Fin 16, t.wick[w].irqPend.getLsbD n.1 =
        (s.wick[w].irqPend.getLsbD n.1 || (irqOn s.wick[w].irqSrc[n] && bit v.toNat n.1 && irqKind s.wick[w].irqSrc[n] == 2))) ∧
      Only [.wick] s t))

/-- Issued with legal registers, the element-wise vector instructions complete with the stated result, modulo the element width, in every
active element of the destination group, and every other element of the group as before. Rests on spec/10_vector_taper.md R294,
spec/10_vector_taper.md R296, spec/10_vector_taper.md R298. -/
def Obligations.VectorArithmeticWritesItsGroup : Prop :=
  ∀ (x : VSite) (len : Nat) (vd va : V) (b : VRhs) (mk : VMask) (s : State),
    let th := s.thrAt x
    let w := th.sewBits
    let A (i : Nat) : Nat := elemAt th.v va.1 w i
    let B (i : Nat) : Nat := th.rhs b i
    let D (i : Nat) : Nat := elemAt th.v vd.1 w i
    let gives (i : Instr) (f : Nat → Nat) : Prop :=
      VReady s x i len →
      (aligned th.group ([vd, va] ++ rhsRegs b) = true →
        Completes i s fun t => VRetires s t x len id ∧ Holds s t x vd w th.group (th.active mk) f ∧ Only [.wick] s t) ∧
      (aligned th.group ([vd, va] ++ rhsRegs b) = false → Completes i s fun t => Traps s t (.wick x.w x.t x.wide .clean) 0x01 0)
    (∀ sub, gives (.vaddVsub x sub vd va b mk) fun i => if sub then A i + 2 ^ w - B i else A i + B i) ∧
    (∀ acc, gives (.vmulVmacc x acc vd va b mk) fun i => if acc then D i + A i * B i else A i * B i) ∧
    (∀ uns, gives (.vmulhVmulhu x uns vd va b mk) fun i => (mulHigh uns (BitVec.ofNat w (A i)) (BitVec.ofNat w (B i))).toNat) ∧
    (∀ op, gives (.vandVorVxor x op vd va b mk) fun i => (logicOp op (BitVec.ofNat w (A i)) (BitVec.ofNat w (B i))).toNat) ∧
    (∀ op, gives (.vshlVshrVsar x op vd va b mk) fun i => (shiftOp op (BitVec.ofNat w (A i)) (B i % w)).toNat) ∧
    gives (.vrsr x vd va b mk) (fun i => img w (roundShift (sgn w (A i)) (B i % w))) ∧
    (∀ op, gives (.vminVmax x op vd va b mk) fun i => minMax op w (A i) (B i)) ∧
    (∀ sub, gives (.vsaddVssub x sub vd va b mk) fun i =>
      img w (satS w (if sub then sgn w (A i) - sgn w (B i) else sgn w (A i) + sgn w (B i))))

/-- VSETL, the mask instructions, moves between general and vector registers, permutations and reductions complete with the stated lengths,
masks, elements and sums. A vector load in flight still lands where no active element is written. Rests on spec/10_vector_taper.md R295,
spec/10_vector_taper.md R296, spec/10_vector_taper.md R298, spec/10_vector_taper.md R299. -/
def Obligations.VectorMovesMasksAndReductionsAnswer : Prop :=
  ∀ (x : VSite) (len : Nat) (vd va vb : V) (gd ga gb : G) (b : VRhs) (mk : VMask) (m : M) (s : State),
    let th := s.thrAt x
    let w := th.sewBits
    let A (i : Nat) : Nat := elemAt th.v va.1 w i
    let done (i : Instr) (f : Thread → Thread) (p : State → Prop) : Prop := Completes i s fun t => VRetires s t x len f ∧ p t ∧ Only [.wick] s t
    (∀ cc, VReady s x (.vcmp x cc m va b mk) len → aligned th.group (va :: rhsRegs b) = true →
      Completes (.vcmp x cc m va b mk) s fun t => VRetires s t x len (fun a => { a with m := (t.thr x).m }) ∧
        (∀ n : M, n ≠ m → (t.thr x).m[n] = (s.thr x).m[n]) ∧
        (∀ i, i < 4096 → (t.thr x).m[m].getLsbD i =
          if th.active mk i then condHolds cc (BitVec.ofNat w (A i)) (BitVec.ofNat w (th.rhs b i)) else (s.thr x).m[m].getLsbD i) ∧ Only [.wick] s t) ∧
    (VReady s x (.vsel x vd va vb m) len → aligned th.group [vd, va, vb] = true →
      done (.vsel x vd va vb m) id fun t => Holds s t x vd w th.group (th.active none) fun i =>
        if th.m[m].getLsbD i then A i else elemAt th.v vb.1 w i) ∧
    (VReady s x (.vmvs x vd ga mk) len → aligned th.group [vd] = true →
      done (.vmvs x vd ga mk) id fun t => Holds s t x vd w th.group (th.active mk) fun _ => (regGet th.g ga).toNat) ∧
    (VReady s x (.vmvx x gd va gb) len → aligned th.group [va] = true →
      done (.vmvx x gd va gb) (fun a => { a with g := regSet a.g gd (if th.vl ≤ (regGet a.g gb).toNat then 0
        else BitVec.ofInt 64 (sgn w (A (regGet a.g gb).toNat))) }) fun _ => True) ∧
    (∀ k : BitVec 32, VReady s x (.vslupVsldn x true vd va k mk) len → aligned th.group [vd, va] = true →
      done (.vslupVsldn x true vd va k mk) id fun t => Holds s t x vd w th.group (th.active mk) fun i =>
        if i + k.toNat < th.vl then A (i + k.toNat) else 0) ∧
    (∀ k : BitVec 32, VReady s x (.vslupVsldn x false vd va k mk) len → aligned th.group [vd, va] = true →
      done (.vslupVsldn x false vd va k mk) id fun t => Holds s t x vd w th.group (th.active mk) fun i =>
        if k.toNat ≤ i then A (i - k.toNat) else 0) ∧
    (∀ uns, VReady s x (.vwidsVwidu x uns vd va mk) len → th.wideOk = true → aligned (2 * th.group) [vd] = true → aligned th.group [va] = true →
      done (.vwidsVwidu x uns vd va mk) id fun t => Holds s t x vd (2 * w) (2 * th.group) (th.active mk) fun i =>
        if uns then A i else img (2 * w) (sgn w (A i))) ∧
    (∀ imm : BitVec 32, VReady s x (.vnrs x vd va imm mk) len → th.wideOk = true → aligned th.group [vd] = true →
      aligned (2 * th.group) [va] = true → imm.toNat < 2 * w →
      done (.vnrs x vd va imm mk) id fun t => Holds s t x vd w th.group (th.active mk) fun i =>
        img w (satS w (roundShift (sgn (2 * w) (elemAt th.v va.1 (2 * w) i)) imm.toNat))) ∧
    (∀ imm : BitVec 32, VReady s x (.vnrs x vd va imm mk) len → th.wideOk = true → aligned th.group [vd] = true →
      aligned (2 * th.group) [va] = true → 2 * w ≤ imm.toNat →
      Completes (.vnrs x vd va imm mk) s fun t =>
        VRetires s t x len id ∧ (∃ f, Holds s t x vd w th.group (th.active mk) f) ∧ Only [.wick, .misc] s t) ∧
    (∀ op, VReady s x (.vreduction x op gd va mk) len → aligned th.group [va] = true →
      done (.vreduction x op gd va mk)
        (fun a => { a with g := regSet a.g gd (reduce op w (((List.range th.vl).filter (th.active mk)).map A)) }) fun _ => True) ∧
    (VReady s x (.vmpop x gd m) len →
      done (.vmpop x gd m)
        (fun a => { a with g := regSet a.g gd (BitVec.ofNat 64 ((List.range th.vl).filter fun i => th.m[m].getLsbD i).length) }) fun _ => True) ∧
    (∀ cfg : Byte, cfg.toNat < 16 → VReady s x (.vsetl x gd ga cfg) len →
      Completes (.vsetl x gd ga cfg) s fun t =>
        (t.thr x).vl = min (regGet th.g ga).toNat (4096 * 2 ^ (cfg.toNat / 4 % 4) / (8 * 2 ^ (cfg.toNat % 4))) ∧
        (t.thr x).sew.1 = cfg.toNat % 4 ∧ (t.thr x).grp.1 = cfg.toNat / 4 % 4 ∧
        (t.thr x).g = regSet th.g gd (BitVec.ofNat 64 (t.thr x).vl) ∧ Only [.wick] s t) ∧
    (∀ cfg : Byte, 16 ≤ cfg.toNat → VReady s x (.vsetl x gd ga cfg) len →
      Completes (.vsetl x gd ga cfg) s fun t => Traps s t (.wick x.w x.t x.wide .clean) 0x01 0)

/-- VLD and VST move whole rows between a register group and the vector scratchpad, gathers bring the indexed elements, VCRC with vl above 0
reads its row and with vl 0 reads none (its result there is the model's choice, log 81), and an address outside the scratchpad or not on a
row takes VECTOR. Rests on spec/10_vector_taper.md R300, spec/10_vector_taper.md R301, spec/10_vector_taper.md R302. -/
def Obligations.VectorMemoryInstructionsReachTheirRows : Prop :=
  (∀ (x : VSite) (len : Nat) (vd : V) (m : AMode) (gb : G) (r0 : Nat) (s : State), VReady s x (.vld x vd m gb) len →
    aligned (s.thrAt x).group [vd] = true → vecRows (eaOf m (s.thr x).g gb).1 (s.thrAt x).rows = some r0 →
    Completes (.vld x vd m gb) s fun t =>
      (∀ (j : Nat) (v : V), j < (s.thrAt x).rows → v.1 = vd.1 + j →
        (⟨v, s.vecRowData x.w (r0 + j), (s.slot x.w x.t).wick[x.w].rho + 6⟩ : VLoad) ∈ (t.thr x).vloads) ∧
      (t.thr x).g = regSets (s.thr x).g ((eaOf m (s.thr x).g gb).2.map fun b => (gb, b)).toList ∧
      (t.thr x).pc = (s.thr x).pc + BitVec.ofNat 18 len ∧ (∀ a, t.mem.byte a = s.mem.byte a) ∧ Only [.wick, .mem, .fab, .lan, .log, .sad] s t) ∧
  (∀ (x : VSite) (len : Nat) (vs : V) (m : AMode) (gb gt : G) (r0 : Nat) (s : State), VReady s x (.vst x vs m gb gt) len →
    aligned (s.thrAt x).group [vs] = true → vecRows (eaOf m (s.thr x).g gb).1 (s.thrAt x).rows = some r0 →
    Completes (.vst x vs m gb gt) s fun t =>
      t.mem = ((List.range (s.thrAt x).rows).foldl (fun (u : State) i =>
        u.writeVecRow x.w (r0 + i) 0xFFFF (getOr (s.thrAt x).v (vs.1 + i) 0) ((regGet (s.thr x).g gt).setWidth 8) (s.thr x).poison) s).mem ∧
      VRetires s t x len (fun a => { a with g := regSets a.g ((eaOf m a.g gb).2.map fun b => (gb, b)).toList }) ∧ Only [.wick, .mem] s t) ∧
  (∀ (x : VSite) (len : Nat) (v : V) (m : AMode) (gb gt : G) (s : State), aligned (s.thrAt x).group [v] = true →
    vecRows (eaOf m (s.thr x).g gb).1 (s.thrAt x).rows = none →
    (VReady s x (.vld x v m gb) len →
      Completes (.vld x v m gb) s fun t => Traps s t (.wick x.w x.t x.wide .clean) 0x03 (eaOf m (s.thr x).g gb).1) ∧
    (VReady s x (.vst x v m gb gt) len →
      Completes (.vst x v m gb gt) s fun t => Traps s t (.wick x.w x.t x.wide .clean) 0x03 (eaOf m (s.thr x).g gb).1)) ∧
  (∀ (x : VSite) (len : Nat) (gd ga gb : G) (r : Nat) (s : State), VReady s x (.vcrc x gd ga gb) len →
    0 < (s.thr x).vl → vecRows (regGet (s.thr x).g ga) 1 = some r →
    Completes (.vcrc x gd ga gb) s fun t =>
      (t.thr x).g = regSet (s.thr x).g gd (((rowBytes (s.vecRowData x.w r)).foldl (crcByte (crcPoly (regGet (s.thr x).g gb)))
        ((regGet (s.thr x).g gd).setWidth 32)).setWidth 64) ∧ (t.thr x).pc = (s.thr x).pc + BitVec.ofNat 18 len ∧
      Only [.wick, .mem, .fab, .lan, .log, .sad] s t) ∧
  (∀ (x : VSite) (len : Nat) (gd ga gb : G) (s : State), VReady s x (.vcrc x gd ga gb) len → (s.thr x).vl = 0 →
    Completes (.vcrc x gd ga gb) s fun t =>
      (∃ v : W32, (t.thr x).g = regSet (s.thr x).g gd (v.setWidth 64)) ∧ (t.thr x).pc = (s.thr x).pc + BitVec.ofNat 18 len ∧
      (t.thr x).poison = (s.thr x).poison ∧ Only [.wick, .misc] s t) ∧
  (∀ (x : VSite) (len e : Nat) (vd vi : V) (ga : G) (a : Nat → W64) (s : State), VReady s x (.vgth x vd ga vi) len → (s.thr x).vfidx = 0 →
    e = (s.thrAt x).sewBits / 8 →
    (∀ k, a k = regGet (s.thr x).g ga + BitVec.ofNat 64 ((s.thrAt x).v[vi].toNat / 2 ^ (8 * e * k) % 2 ^ (8 * e) * e)) →
    ((∀ k, k < 16 → (a k).toNat % e = 0 ∧ (a k).toNat + e ≤ 0x200000) →
      Completes (.vgth x vd ga vi) s fun t =>
        (∀ k, k < 16 → (t.thr x).v[vd].toNat / 2 ^ (8 * e * k) % 2 ^ (8 * e) =
          (s.vecRowData x.w ((a k).toNat / 512)).toNat / 2 ^ (8 * ((a k).toNat % 512)) % 2 ^ (8 * e)) ∧
        (t.thr x).vfidx = 0 ∧ (t.thr x).g = (s.thr x).g ∧ (t.thr x).pc = (s.thr x).pc + BitVec.ofNat 18 len ∧
        Only [.wick, .mem, .fab, .lan, .log, .sad] s t) ∧
    ((a 0).toNat % e ≠ 0 ∨ 0x200000 < (a 0).toNat + e →
      Completes (.vgth x vd ga vi) s fun t => Traps s t (.wick x.w x.t x.wide .clean) 0x03 (a 0) ∧ (t.thr x).vfidx = 0))

/-- TSYNC, TSIGR, TSETC, TOUT of S16, TEXP and TNORM complete with the stated registers, buffers, elements and accumulators; TSETC out of
range takes VECTOR; an instruction of a thread that does not own the Taper takes TAPER_OWNER. Rests on spec/10_vector_taper.md R307,
spec/10_vector_taper.md R308, spec/10_vector_taper.md R315, spec/10_vector_taper.md R316, spec/10_vector_taper.md R317,
spec/10_vector_taper.md R318, spec/10_vector_taper.md R324. -/
def Obligations.TaperInstructionsAct : Prop :=
  ∀ (x : VSite) (len : Nat) (gd ga gb gl : G) (vd : V) (s : State),
    let th := s.thrAt x
    let tp := s.wick[x.w].taper
    let acts (i : Instr) (f : Thread → Thread) (p : Taper → Prop) : Prop :=
      TReady s x i len → Completes i s fun t => VRetires s t x len f ∧ p t.wick[x.w].taper ∧ Only [.wick, .log, .sad] s t
    acts (.tclr x) id (fun q => q = { tp with acc := Vector.replicate 128 0 }) ∧
    acts (.tsync x) id (fun q => q = tp) ∧
    acts (.tstat x gd) (fun a => { a with g := regSet a.g gd (BitVec.ofNat 64 ((if tp.ovf then 1 else 0) + (if tp.sat then 2 else 0) +
      (if tp.loader.isSome then 4 else 0))) }) (fun q => q = { tp with ovf := false, sat := false }) ∧
    acts (.tsigr x gd) (fun a => { a with g := regSet a.g gd (tp.tsig.setWidth 64) }) (fun q => q = { tp with tsig := 0xFFFFFFFF }) ∧
    (∀ c : Fin 8, 1 ≤ (regGet th.g gl).toNat → (regGet th.g gb).toNat + (regGet th.g gl).toNat ≤ 65536 →
      acts (.tsetc x c gb gl) id fun q => q = { tp with
        tcb := upd tp.tcb c fun _ => (regGet th.g gb).toNat, tcl := upd tp.tcl c fun _ => (regGet th.g gl).toNat }) ∧
    (∀ c : Fin 8, 65536 < (regGet th.g gb).toNat + (regGet th.g gl).toNat → TReady s x (.tsetc x c gb gl) len →
      Completes (.tsetc x c gb gl) s fun t => Traps s t (.wick x.w x.t x.wide .clean) 0x03 (regGet th.g gb)) ∧
    (∀ sh : Byte, sh.toNat ≤ 55 → TReady s x (.tout x vd sh 0) len →
      Completes (.tout x vd sh 0) s fun t => VRetires s t x len id ∧ t.wick[x.w].taper.acc = tp.acc ∧
        (∀ e, e < 128 → elemAt (t.thr x).v vd.1 16 e = img 16 (satS 16 (roundShift (accElem tp.acc e).toInt sh.toNat))) ∧
        (∀ e, 128 ≤ e → e < 256 → elemAt (t.thr x).v vd.1 16 e = elemAt th.v vd.1 16 e) ∧ Only [.wick] s t) ∧
    (TReady s x (.texp x vd) len →
      Completes (.texp x vd) s fun t => VRetires s t x len id ∧ t.wick[x.w].taper = tp ∧
        (∀ e, e < 128 → elemAt (t.thr x).v vd.1 16 e = signRun (accElem tp.acc e)) ∧ Only [.wick] s t) ∧
    (TReady s x (.tnorm x vd) len →
      Completes (.tnorm x vd) s fun t => (t.thr x).g = (s.thr x).g ∧ (t.thr x).pc = (s.thr x).pc + BitVec.ofNat 18 len ∧
        (∀ e n, e < 128 → n = clampInt (-55) 55 (sgn 16 (elemAt th.v vd.1 16 e)) →
          accElem t.wick[x.w].taper.acc e = if n = 0 then accElem tp.acc e
            else (acc56 (if 0 < n then (accElem tp.acc e).toInt * 2 ^ n.toNat else roundShift (accElem tp.acc e).toInt (-n).toNat)).1) ∧
        Only [.wick, .log, .sad] s t) ∧
    (∀ i ∈ [Instr.tclr x, .tsync x, .tstat x gd, .tsigr x gd, .texp x vd, .tnorm x vd], VReady s x i len →
      (s.slot x.w x.t).wick[x.w].owner ≠ some x.t →
      Completes i s fun t => Traps s t (.wick x.w x.t x.wide .clean) 0x06 0)

/-- TMAC and TMACS add the products of their 32 X elements and their Y elements to the accumulators, saturated to 56 bits, and step their
pointers; TREP steps them once per iteration and holds the owner until the last; a valid TLOAD starts the loader and a misplaced one takes
ADDRESS; the load's end writes each destination element from its source element or padding. Rests on spec/10_vector_taper.md R309,
spec/10_vector_taper.md R310, spec/10_vector_taper.md R311, spec/10_vector_taper.md R312, spec/10_vector_taper.md R313,
spec/10_vector_taper.md R318, spec/10_vector_taper.md R319, spec/10_vector_taper.md R320. -/
def Obligations.TaperMultipliesAndLoads : Prop :=
  (∀ (x : VSite) (len : Nat) (a : TmacArgs) (px py : Pointer) (s : State), TReady s x (.tmac x a) len → a.fl.toNat < 4 →
    pointers s.wick[x.w].taper a = (px, py) → px.fails (regGet (s.thr x).g a.gx).toNat 0 32 = none →
    py.fails (regGet (s.thr x).g a.gy).toNat 0 4 = none →
    Completes (.tmac x a) s fun t =>
      (∀ l j vx vy, l < 32 → j < 4 →
        vx = (if bit a.fl.toNat 0 then sgn 16 (s.taperElem x.w false (px.elem (regGet (s.thr x).g a.gx).toNat l))
          else (s.taperElem x.w false (px.elem (regGet (s.thr x).g a.gx).toNat l) : Int)) →
        vy = sgn 16 (s.taperElem x.w true (py.elem (regGet (s.thr x).g a.gy).toNat j)) →
        getOr t.wick[x.w].taper.acc (accIx l j) 0 =
          (acc56 ((if bit a.fl.toNat 1 then 0 else (getOr s.wick[x.w].taper.acc (accIx l j) 0).toInt) + vx * vy)).1) ∧
      (t.thr x).g = regSets (s.thr x).g [(a.gx, BitVec.ofInt 64 (px.step (regGet (s.thr x).g a.gx).toNat)),
        (a.gy, BitVec.ofInt 64 (py.step (regGet (s.thr x).g a.gy).toNat))] ∧
      (t.thr x).pc = (s.thr x).pc + BitVec.ofNat 18 len ∧ Only [.wick, .log, .sad] s t) ∧
  (∀ (x : VSite) (len : Nat) (a : TmacArgs) (px py : Pointer) (s : State), TReady s x (.tmacs x a) len → a.fl.toNat < 4 →
    pointers s.wick[x.w].taper a = (px, py) → px.fails (regGet (s.thr x).g a.gx).toNat 0 32 = none →
    py.fails (regGet (s.thr x).g a.gy).toNat 0 32 = none →
    Completes (.tmacs x a) s fun t =>
      (∀ l j vx vy, l < 32 → j < 4 →
        vx = (if bit a.fl.toNat 0 then sgn 16 (s.taperElem x.w false (px.elem (regGet (s.thr x).g a.gx).toNat l))
          else (s.taperElem x.w false (px.elem (regGet (s.thr x).g a.gx).toNat l) : Int)) →
        vy = sgn 16 (s.taperElem x.w true (py.elem (regGet (s.thr x).g a.gy).toNat ((l + 8 * j) % 32))) →
        getOr t.wick[x.w].taper.acc (accIx l j) 0 =
          (acc56 ((if bit a.fl.toNat 1 then 0 else (getOr s.wick[x.w].taper.acc (accIx l j) 0).toInt) + vx * vy)).1) ∧
      (t.thr x).pc = (s.thr x).pc + BitVec.ofNat 18 len ∧ Only [.wick, .log, .sad] s t) ∧
  (∀ (x : VSite) (len n : Nat) (gn : G) (test : Bool) (a : TmacArgs) (px py : Pointer) (s : State), TReady s x (.trep x gn test a) len →
    a.fl.toNat < 4 → a.cb = 0 → n = (regGet (s.thr x).g gn).toNat % 65536 → pointers s.wick[x.w].taper a = (px, py) →
    px.fails (regGet (s.thr x).g a.gx).toNat n 32 = none → py.fails (regGet (s.thr x).g a.gy).toNat n (if test then 32 else 4) = none →
    Completes (.trep x gn test a) s fun t =>
      (t.thr x).trepEnd = (s.slot x.w x.t).wick[x.w].rho + n + 2 ∧
      (t.thr x).g = regSets (s.thr x).g
        [(a.gx, BitVec.ofInt 64 ((regGet (s.thr x).g a.gx).toNat + (n + 1) * a.ix.toInt)),
         (a.gy, BitVec.ofInt 64 ((regGet (s.thr x).g a.gy).toNat + (n + 1) * a.iy.toInt))] ∧
      (t.thr x).pc = (s.thr x).pc + BitVec.ofNat 18 len ∧ Only [.wick, .log, .sad] s t) ∧
  (∀ (x : VSite) (len : Nat) (ga : G) (l : List Byte) (s : State), TReady s x (.tload x ga) len → (regGet (s.thr x).g ga).toNat % 32 = 0 →
    (regGet (s.thr x).g ga).toNat < 0x40000 → l = s.localBytes x.w (regGet (s.thr x).g ga).toNat 32 → (loaderOf x.t l 0).ok l = true →
    Completes (.tload x ga) s fun t =>
      ∃ n, t.wick[x.w].taper.loader = some (loaderOf x.t l n) ∧ s.wick[x.w].wcyc + 2 + (loaderOf x.t l 0).cycles ≤ n ∧
        (t.thr x).pc = (s.thr x).pc + BitVec.ofNat 18 len) ∧
  (∀ (x : VSite) (len : Nat) (ga : G) (s : State), TReady s x (.tload x ga) len →
    ((regGet (s.thr x).g ga).toNat % 32 ≠ 0 ∨ 0x40000 ≤ (regGet (s.thr x).g ga).toNat) →
    Completes (.tload x ga) s fun t => Traps s t (.wick x.w x.t x.wide .clean) 0x02 (regGet (s.thr x).g ga)) ∧
  (∀ (w : WkId) (d : Loader) (l : List Byte) (s : State), s.wick[w].taper.loader = some d → d.ok l = true → d.fromX = false →
    s.wick[w].swapped = [] → s.mem.wf →
    Completes (.lineLoadDone w) s fun t =>
      t.wick[w].taper.loader = none ∧ d.endAt ≤ t.wick[w].wcyc ∧
      (∀ j i, j < d.rows → i < d.cols →
        t.taperElem w false (d.dst + j * d.dstStride + i) =
          (match padIndex j d.h (d.mode 0) (d.mode 1) d.top, padIndex i d.w (d.mode 2) (d.mode 3) d.left with
           | some y, some k => (s.loadElem w d y k).2
           | _, _ => d.const).toNat))

/-- For every channel whose holding register holds at most 128 bytes, the beats of one step leave it so; what was held, followed by what the
source beats read, is what the destination beats write, in order, followed by what is held; there are at most 8 source and 8 destination
beats, each destination beat of its width and all in one 512-byte block. Rests on spec/11_dma.md R336, spec/11_dma.md R337. -/
def Obligations.DmaStepsKeepTheByteStream : Prop :=
  ∀ (x : Chan) (b : Beats), x.hold.length ≤ 128 → b = x.stepBeats true →
    (∃ l : List (Byte × Byte × Bool), x.hold ++ l = b.out.flatMap (·.2) ++ b.hold ∧ l.length ≤ b.src * x.cur.srcW) ∧
    b.src ≤ 8 ∧ b.dst ≤ 8 ∧ b.out.length = b.dst ∧ b.hold.length ≤ 128 ∧
    (∀ o ∈ b.out, ∀ p ∈ b.out, rowBase o.1 = rowBase p.1) ∧ (∀ o ∈ b.out, o.2.length = x.cur.dstW)

/-- Where one low-priority channel without pacing is alone eligible and none owns the engine, DMA_STEP completes: it makes the channel the
owner with one step of its slice taken, in the next M-cycle, and not before the first of its descriptor. With nothing to request and no
destination beat due, it performs its source beats; with destination beats to open HBM, their bytes are written to the block; with nothing
held and no block, it requests the block of its next run. Rests on spec/11_dma.md R333, spec/11_dma.md R334, spec/11_dma.md R335,
spec/11_dma.md R336, spec/11_dma.md R337, spec/11_dma.md R338, spec/07_job_images_timetable.md R185, spec/11_dma.md R332. -/
def Obligations.DmaStepsServeTheirOwner : Prop :=
  (∀ (e : Fin 4) (c : Fin 32) (eng : EngineUse) (s : State), DmaReady s e c → (s.dmaChan e c).canAsk = false →
    ((s.dmaChan e c).stepBeats true).out = [] →
    Completes (.dmaStep e eng) s fun t =>
      t.dma[e].ch[c] = (s.dmaChan e c).took ((s.dmaChan e c).stepBeats true) ∧ t.dma[e].owner = some c ∧ t.dma[e].slice = 1 ∧
      t.dma[e].lastLow = c.1 ∧ t.dma[e].mcyc = s.dmaNext e c ∧ s.dmaNext e c * 10 / 13 ≤ t.time.ftb ∧
      Only [.dma, .time, .mem, .log, .host, .misc] s t) ∧
  (∀ (e : Fin 4) (c : Fin 32) (eng : EngineUse) (o : Nat × List (Byte × Byte × Bool)) (rest : List (Nat × List (Byte × Byte × Bool)))
      (a blk st1 o1 st2 o2 : Nat) (s : State),
    DmaReady s e c → (s.dmaChan e c).canAsk = false → ((s.dmaChan e c).stepBeats true).out = o :: rest →
    s.imageAddr o.1 = some a → s.imageAddr (rowBase o.1) = some blk → place a = .hbm st1 o1 → place blk = .hbm st2 o2 → s.hbmDet a = false →
    s.hbmDet blk = false → ((o :: rest).any fun p => p.2.any fun y => y.2.2) = false → (s.fab.held.any fun w => Machine.dmaChan w == some (e, c)) = false →
    Completes (.dmaStep e eng) s fun t =>
      t.dma[e].ch[c] = { (s.dmaChan e c).took ((s.dmaChan e c).stepBeats true) with redo := 0, accAt := s.dmaNext e c } ∧
      t.mem = (s.reach (s.dmaNext e c * 10 / 13)).mem.writeSectors blk (sectorMask (o :: rest))
        (rowOf (overlay (List.replicate 512 0) (o :: rest))) false ∧
      Only [.dma, .time, .mem, .log, .host, .misc] s t) ∧
  (∀ (e : Fin 4) (c : Fin 32) (eng : EngineUse) (blk st off : Nat) (s : State), DmaReady s e c →
    (s.dmaChan e c).blocks = [] → (s.dmaChan e c).hold = [] → 0 < (s.dmaChan e c).cur.dstW → (s.dmaChan e c).canAsk = true →
    s.imageAddr (rowBase ((s.dmaChan e c).cur.srcAt (s.dmaChan e c).asked).toNat) = some blk → place blk = .hbm st off → s.hbmDet blk = false →
    Completes (.dmaStep e eng) s fun t =>
      let x := s.dmaChan e c
      let last := runEnd x.cur (rowBase (x.cur.srcAt x.asked).toNat) x.asked (x.cur.srcTotal - x.asked)
      t.dma[e].ch[c] = { x with blocks := [⟨blk, last, false, false, 0, 0, false⟩], asked := last } ∧
      (∃ d : RowData, t.fab = s.fab.put 0x7F (88 + e.1) ⟨t.time.ftb / 10, some c, blk, d.data, d.tag, d.poison, 0, false⟩ ∧
        d.data = rowOf ((s.reach (s.dmaNext e c * 10 / 13)).mem.bytes blk 512)))

/-- A returned block is usable from the M-cycle after its data enters the engine, and its return changes nothing while the engine can step
before that; a finished descriptor makes the next one current, to step from the M-cycle after its last write was accepted, or completes
the instance with its end of count; a row wait ends when the row's counter is above the row, stays while it is not, and is logged after
1,000,000 ticks; a bus error is retried up to RETRY times and then halts the channel with its address kept and logged; a halted transfer
that is flushed becomes IDLE and completes its instance once every write has been accepted, and not before. Rests on
spec/06_scratchpads_map_store.md R165, spec/11_dma.md R332, spec/11_dma.md R338, spec/11_dma.md R342, spec/11_dma.md R343, spec/11_dma.md
R344, spec/11_dma.md R345, spec/05_convolution_mapping.md R155. -/
def Obligations.DmaTransfersRunWaitRetryAndEnd : Prop :=
  (∀ (e : Fin 4) (c : Fin 32) (b : Block) (src : Nat) (x : XItem) (s : State),
    ((s.dma[e].ch[c]).blocks.findSome? fun b => if b.back || b.again then none else (s.fab.arrived (88 + e.1) c b.addr).map fun p => (b, p.1, p.2)) =
      some (b, src, x) →
    ((∀ n, s.nextCycle e = some n → x.usableAt ≤ n) → Completes (.dmaBlockReturned e c) s fun t =>
      t.dma[e].ch[c] = { s.dma[e].ch[c] with
        blocks := (s.dma[e].ch[c]).blocks.map fun k => if k.last = b.last then { k with back := true, data := x.data, tag := x.tag, poison := x.poison } else k
        pace := (t.dma[e].ch[c]).pace } ∧
      (t.dma[e]).mcyc = max s.dma[e].mcyc (x.usableAt - 1) ∧ x.usableAt * 10 / 13 ≤ t.time.ftb ∧
      t.fab = s.fab.takeItem src (88 + e.1) x ∧ Only [.dma, .fab, .time, .mem, .log, .host, .misc] s t) ∧
    (∀ n, s.nextCycle e = some n → n < x.usableAt → Completes (.dmaBlockReturned e c) s fun t => t = s)) ∧
  (∀ (e : Fin 4) (c : Fin 32) (d : DmaDesc) (s : State), (s.dma[e].ch[c]).state = .running → (s.dma[e].ch[c]).cur.dstTotal ≤ (s.dma[e].ch[c]).dstDone →
    s.writesAccepted e c = true → bit (s.dma[e].ch[c]).cur.ctrl 2 = false →
    s.descAt (s.dma[e].ch[c]).list ((s.dma[e].ch[c]).descIx + 1) = some d →
    Completes (.dmaDescriptorComplete e c) s fun t =>
      t.dma[e].ch[c] = { s.dma[e].ch[c] with
        descIx := (s.dma[e].ch[c]).descIx + 1, cur := d, srcDone := 0, dstDone := 0, hold := [], blocks := [], asked := 0, retries := 0, pace := 256
        redo := 0, from_ := (s.dma[e].ch[c]).accAt + 1, refused := none, wait := if s.rowHeld d = true then .rows else .none, waitSince := s.time.ftb, waitLog := false } ∧ Only [.dma] s t) ∧
  (∀ (e : Fin 4) (c : Fin 32) (i : Inst) (s : State), (s.dma[e].ch[c]).state = .running → (s.dma[e].ch[c]).cur.dstTotal ≤ (s.dma[e].ch[c]).dstDone →
    s.writesAccepted e c = true → s.descAt (s.dma[e].ch[c]).list ((s.dma[e].ch[c]).descIx + 1) = none → (s.dma[e].ch[c]).inst = some i →
    s.job.stopAt = none →
    Completes (.dmaDescriptorComplete e c) s fun t =>
      (t.dma[e].ch[c]).state = .idle ∧ i ∈ t.job.completed ∧
      (bit (s.dma[e].ch[c]).cur.ctrl 2 = true → t.dma[e].eocPend = s.dma[e].eocPend ||| BitVec.ofNat 32 (2 ^ c.1)) ∧
      (bit (s.dma[e].ch[c]).cur.ctrl 2 = false → Only [.dma, .job] s t) ∧ Only [.dma, .job, .wick] s t) ∧
  (∀ (e : Fin 4) (c : Fin 32) (r b y : Nat) (s : State), r = bits (s.dma[e].ch[c]).cur.wait 31 20 → b = bits (s.dma[e].ch[c]).cur.wait 19 19 →
    y = bits (s.dma[e].ch[c]).cur.wait 18 0 → (s.dma[e].ch[c]).wait = .rows →
    (y < s.fab.rowCount r b → Completes (.dmaRowWaitEnd e c) s fun t =>
      t.dma[e].ch[c] = { s.dma[e].ch[c] with wait := .none } ∧ Only [.dma] s t) ∧
    (s.fab.rowCount r b ≤ y → Completes (.dmaRowWaitEnd e c) s fun t => t = s) ∧
    ((s.dma[e].ch[c]).waitLog = false → Completes (.dmaWaitStall e c) s fun t =>
      t.dma[e].ch[c] = { s.dma[e].ch[c] with waitLog := true } ∧ (s.dma[e].ch[c]).waitSince + 1000000 ≤ t.time.ftb ∧
      t.newest = some ⟨t.time.ftb, 0x0603, 3, e.1, detail [(1, c.1), (2, r), (1, b), (4, y)]⟩ ∧
      Only [.dma, .time, .mem, .log, .host, .misc, .sad] s t)) ∧
  (∀ (e : Fin 4) (c : Fin 32) (w : Bool) (a : Nat) (s : State), (s.dma[e].ch[c]).state = .running → (s.dma[e].ch[c]).refused = some (w, a) →
    Completes (.dmaBusError e c w a) s fun t =>
      ((s.dma[e].ch[c]).retries < (s.dma[e].ch[c]).cur.retry →
        t.dma[e].retryCnt = satInc s.dma[e].retryCnt ∧ (t.dma[e].ch[c]).retries = (s.dma[e].ch[c]).retries + 1 ∧ (t.dma[e].ch[c]).wait = .none ∧
        (t.dma[e].ch[c]).state = .running ∧ (t.dma[e].ch[c]).hold = (s.dma[e].ch[c]).hold ∧ Only [.dma] s t) ∧
      ((s.dma[e].ch[c]).cur.retry ≤ (s.dma[e].ch[c]).retries →
        t.dma[e].ch[c] = { s.dma[e].ch[c] with state := .halted, wait := .none, refused := none, errAddr := a } ∧
        t.newest = some ⟨s.time.ftb, 0x0601, 3, e.1,
          detail [(1, c.1), (4, (s.dma[e].ch[c]).list), (2, (s.dma[e].ch[c]).descIx), (1, if w = true then 1 else 0), (8, a)]⟩ ∧
        Only [.dma, .log, .sad] s t)) ∧
  (∀ (e : Fin 4) (c : Fin 32) (i : Inst) (s : State), (s.dma[e].ch[c]).state = .halted → (s.dma[e].ch[c]).flushed = true →
    s.writesAccepted e c = true → (s.dma[e].ch[c]).inst = some i → s.job.stopAt = none →
    Completes (.haltedChannelCompletion e c) s fun t =>
      (t.dma[e].ch[c]).state = .idle ∧ (t.dma[e].ch[c]).hold = [] ∧ (t.dma[e].ch[c]).inst = none ∧ i ∈ t.job.completed ∧ Only [.dma, .job] s t) ∧
  (∀ (e : Fin 4) (c : Fin 32) (s : State), (s.dma[e].ch[c]).state = .halted → (s.dma[e].ch[c]).flushed = true → s.writesAccepted e c = false →
    Completes (.haltedChannelCompletion e c) s fun t => t = s)

/-- At its slot a READ in time sends its block on its way, due 80 ticks later, and that data enters the requester's crossing; an egress
engine's READ does so with no request, a mailbox's or sequencer's passes the correction; a WRITE whose data is 8 ticks early is written; a
slot with no request passes unused; a request that is late counts and logs one miss; a REFRESH refreshes its bank. Rests on
spec/12_hbm_timetable.md R356, spec/12_hbm_timetable.md R358, spec/12_hbm_timetable.md R359, spec/12_hbm_timetable.md R361,
spec/12_hbm_timetable.md R364. -/
def Obligations.HbmSlotsServeTheirRequests : Prop :=
  (∀ (st : Fin 4) (m rep rec blk slot : Nat) (r : HbmRec) (q : HbmReq) (s : State), SlotRuns s st m rep rec blk slot r →
    r.kind = 0 → r.req < 96 → ((s.hbm[st]).reqs.find? fun x => x.fits r.req r.pc (r.block + blk) false) = some q → q.since ≤ slot →
    Completes (.hbmSlot st m rep rec blk) s fun t =>
      ∃ d : RowData, d = ((s.reach slot).readBlock (hbmAddr st.1 r.pc (r.block + blk)) q.port).2 ∧
      (t.hbm[st]).flying = (s.hbm[st]).flying ++ [⟨slot + 80, q.port, q.chan, hbmAddr st.1 r.pc (r.block + blk), d.data, d.poison⟩] ∧
      (t.hbm[st]).reqs = (s.hbm[st]).reqs.erase q ∧ slot ≤ t.time.ftb ∧ Only [.hbm, .time, .mem, .log, .host, .misc, .sad] s t) ∧
  (∀ (st : Fin 4) (m rep rec blk slot : Nat) (r : HbmRec) (q : HbmReq) (w : BitVec 16 × Row × Bool) (s : State), SlotRuns s st m rep rec blk slot r →
    r.kind = 1 → r.req < 88 → ((s.hbm[st]).reqs.find? fun x => x.fits r.req r.pc (r.block + blk) true) = some q → q.write = some w →
    q.since + 8 ≤ slot →
    Completes (.hbmSlot st m rep rec blk) s fun t =>
      t.mem = (s.reach slot).mem.writeSectors (hbmAddr st.1 r.pc (r.block + blk)) w.1 w.2.1 w.2.2 ∧
      (t.hbm[st]).reqs = (s.hbm[st]).reqs.erase q ∧ slot ≤ t.time.ftb ∧ Only [.hbm, .time, .mem, .log, .host, .misc] s t) ∧
  (∀ (st : Fin 4) (m rep rec blk slot : Nat) (r : HbmRec) (s : State), SlotRuns s st m rep rec blk slot r → r.kind < 2 → r.req < 96 →
    ((s.hbm[st]).reqs.find? fun x => x.fits r.req r.pc (r.block + blk) (r.kind == 1)) = none →
    Completes (.hbmSlot st m rep rec blk) s fun t =>
      (t.hbm[st]).reqs = (s.hbm[st]).reqs ∧ (t.hbm[st]).missCount = (s.hbm[st]).missCount ∧
      (∃ l, (t.hbm[st]).past = l ++ [⟨m, r.req, r.pc, r.block + blk, r.kind == 1, rec⟩] ∧ ∀ p ∈ l, p.frame = m ∧ p ∈ (s.hbm[st]).past) ∧
      slot ≤ t.time.ftb ∧ Only [.hbm, .time, .mem, .log, .host, .misc] s t) ∧
  (∀ (st : Fin 4) (m rep rec blk slot : Nat) (r : HbmRec) (q : HbmReq) (s : State), SlotRuns s st m rep rec blk slot r →
    r.kind < 2 → r.req < 96 → ((s.hbm[st]).reqs.find? fun x => x.fits r.req r.pc (r.block + blk) (r.kind == 1)) = some q →
    (if r.kind = 1 then slot < q.since + 8 else slot < q.since) → q.missed = false →
    Completes (.hbmSlot st m rep rec blk) s fun t =>
      (t.hbm[st]).missCount = satInc (s.hbm[st]).missCount ∧
      t.newest = some ⟨t.time.ftb, 0x0702, 4, st.1, detail [(1, r.pc), (4, rec), (1, r.req)]⟩ ∧
      (t.hbm[st]).reqs = (s.hbm[st]).reqs.map (fun x => if x = q then { x with missed := true } else x) ∧
      Only [.hbm, .time, .mem, .log, .host, .misc, .sad] s t) ∧
  (∀ (st : Fin 4) (m rep rec blk slot : Nat) (r : HbmRec) (s : State), SlotRuns s st m rep rec blk slot r → r.kind = 0 → 96 ≤ r.req → r.req < 102 →
    Completes (.hbmSlot st m rep rec blk) s fun t =>
      ∃ d : RowData, d = ((s.reach slot).readBlock (hbmAddr st.1 r.pc (r.block + blk)) r.req).2 ∧
      (t.hbm[st]).flying = (s.hbm[st]).flying ++
        (if r.req < 100 then [⟨slot + 80, r.req, none, hbmAddr st.1 r.pc (r.block + blk), d.data, d.poison⟩] else []) ∧
      (t.hbm[st]).reqs = (s.hbm[st]).reqs ∧ slot ≤ t.time.ftb ∧ Only [.hbm, .time, .mem, .log, .host, .misc, .sad] s t) ∧
  (∀ (st : Fin 4) (m rep rec blk slot : Nat) (r : HbmRec) (s : State), SlotRuns s st m rep rec blk slot r → r.kind = 2 →
    Completes (.hbmSlot st m rep rec blk) s fun t =>
      (r.pc, r.block % 64, slot) ∈ (t.hbm[st]).refreshed ∧ slot ≤ t.time.ftb ∧ Only [.hbm, .time, .mem, .log, .host, .misc] s t) ∧
  (∀ (st : Fin 4) (d : HbmData) (rest : List HbmData) (s : State), (s.hbm[st]).flying = d :: rest →
    Completes (.hbmReadData st) s fun t =>
      (t.hbm[st]).flying = rest ∧ d.due ≤ t.time.ftb ∧ t.fab = s.fab.put 0x7F d.port ⟨t.time.ftb / 10, d.chan, d.addr, d.data, 0, d.poison, 0, false⟩ ∧
      Only [.hbm, .fab, .time, .mem, .log, .host, .misc] s t)

/-- An access to a deterministic pseudo-channel of an armed job is refused and logged, a read answering 0; one of a stack that is not trained,
or of a fabric port that has no refusal to log, changes nothing; an open one writes its bytes, or answers them with poison from a stored
marker or an uncorrectable codeword and leaves memory as it is. A temperature is held and logged when it rises above 95 degrees and not
again until it has fallen. Rests on spec/01_frame_journey.md R28, spec/12_hbm_timetable.md R354, spec/12_hbm_timetable.md R360,
spec/12_hbm_timetable.md R361, spec/12_hbm_timetable.md R362, spec/12_hbm_timetable.md R364. -/
def Obligations.OpenHbmAndTemperature : Prop :=
  (∀ (p : Byte) (who : Agent) (a n : Nat) (s : State), s.hbmUp a = true → s.hbmDet a = true → portAgent p.toNat = some who → 0 < n → a % 512 + n ≤ 512 →
    Completes (.hbmOpenAccess p a n none) s (fun t =>
      t.newest = some ⟨s.time.ftb, 0x0A10, who.unit.1, who.unit.2, detail [(8, a), (1, if who = .bar2 then 0 else 1)]⟩ ∧
      t.misc.out = .bytes a (List.replicate n 0) false :: s.misc.out ∧ Only [.misc, .log, .sad] s t) ∧
    (∀ l : List Byte, l.length = n → Completes (.hbmOpenAccess p a n (some l)) s fun t =>
      t.newest = some ⟨s.time.ftb, 0x0A10, who.unit.1, who.unit.2, detail [(8, a), (1, if who = .bar2 then 0 else 1)]⟩ ∧ Only [.log, .sad] s t)) ∧
  (∀ (p : Byte) (a n : Nat) (w : Option (List Byte)) (s : State), s.hbmUp a = false ∨ (s.hbmDet a = true ∧ portAgent p.toNat = none) →
    Completes (.hbmOpenAccess p a n w) s fun t => t = s) ∧
  (∀ (p : Byte) (a n st off : Nat) (l : List Byte) (s : State), place a = .hbm st off → s.hbmUp a = true → s.hbmDet a = false →
    0 < l.length → a % 512 + l.length ≤ 512 →
    Completes (.hbmOpenAccess p a n (some l)) s fun t => t.mem = s.mem.writePart a l false ∧ Only [.mem] s t) ∧
  (∀ (p : Byte) (a n st off : Nat) (s : State), place a = .hbm st off → s.hbmUp a = true → s.hbmDet a = false → 0 < n → a % 512 + n ≤ 512 →
    Completes (.hbmOpenAccess p a n none) s fun t =>
      t.misc.out = .bytes a (s.mem.bytes a n) (((parts a n 64).any fun i => s.mem.eccAt (rowBase a + 64 * i) == 2) || s.mem.poisoned (rowBase a)) ::
        s.misc.out ∧ t.mem = s.mem ∧ Only [.misc, .hbm, .log, .sad] s t) ∧
  (∀ (st : Fin 4) (v : Byte) (s : State), Completes (.hbmTempHigh st v) s fun t =>
      (t.hbm[st]).temp = v ∧ ((t.hbm[st]).hot = true ↔ 95 < v.toNat) ∧ Only [.hbm, .log, .sad] s t ∧
      ((s.hbm[st]).hot = false → 95 < v.toNat → t.newest = some ⟨s.time.ftb, 0x0703, 4, st.1, detail [(1, v.toNat)]⟩) ∧
      ((s.hbm[st]).hot = true ∨ v.toNat ≤ 95 → t.log = s.log))

/-- A frame on a sub-port that is absent or down, of a wrong length, or of PAUSE or priority flow control changes nothing; one with a wrong
FCS is counted as such; one that the filters drop, or a datagram that nothing matches, is counted as unmatched; one that matches an
ingress path is that path's RRS packet; a PTP datagram is a PTP message received at its start-of-frame delimiter. A packet of the
firmware's protocols raises Saddler line 4, and a request or solicitation for an own address, or a general group query, is answered,
others are not (the frames sent follow the protocols' standards, log 10). A link change is held and logged; a path silent for a frame is
logged once. Rests on spec/13_streams_network_ptp.md R365, spec/13_streams_network_ptp.md R366, spec/13_streams_network_ptp.md R367,
spec/13_streams_network_ptp.md R372, spec/13_streams_network_ptp.md R394, spec/13_streams_network_ptp.md R392,
spec/15_host_interface_cores.md R444. -/
def Obligations.PortsFilterTheirFrames : Prop :=
  (∀ (p sub : Fin 4) (b : List Byte) (s : State),
    ((s.net.ports[p]).enabled = false ∨ (s.net.ports[p]).subs ≤ sub.1 ∨ (s.net.ports[p]).link.getLsbD sub.1 = false) ∨
      (fld b (b.length - 4) 4 = (crc32 (b.take (b.length - 4))).toNat ∧ (b.length < 64 ∨ 9216 < b.length)) ∨ (FrameIn s p sub b ∧ frameOf b = none) →
    Completes (.ethFrameReceived p sub b) s fun t => t = s) ∧
  (∀ (p sub : Fin 4) (b : List Byte) (s : State), (s.net.ports[p]).enabled = true → sub.1 < (s.net.ports[p]).subs →
    (s.net.ports[p]).link.getLsbD sub.1 = true → fld b (b.length - 4) 4 ≠ (crc32 (b.take (b.length - 4))).toNat →
    Completes (.ethFrameReceived p sub b) s fun t =>
      (t.net.ports[p]).badFcs = (s.net.ports[p]).badFcs + 1 ∧ (t.net.ports[p]).unmatched = (s.net.ports[p]).unmatched ∧
      t.net.slots = s.net.slots ∧ Only [.net] s t) ∧
  (∀ (p sub : Fin 4) (b : List Byte) (s : State), FrameIn s p sub b → frameOf b = some .drop →
    Completes (.ethFrameReceived p sub b) s fun t =>
      (t.net.ports[p]).unmatched = (s.net.ports[p]).unmatched + 1 ∧ t.net.slots = s.net.slots ∧ Only [.net] s t) ∧
  (∀ (p sub : Fin 4) (b : List Byte) (v6 : Bool) (src dst l : List Byte) (sp dp : Nat) (k : Fin 32) (path : Bool) (s : State), FrameIn s p sub b →
    frameOf b = some (.udp v6 src dst sp dp l) → s.ingressOf p.1 sub.1 v6 src dst sp dp = some (k, path) →
    Completes (.ethFrameReceived p sub b) s fun t => exec (.rrsPacket k path l) s = .next t) ∧
  (∀ (p sub : Fin 4) (b : List Byte) (v6 : Bool) (src dst l : List Byte) (sp dp : Nat) (s : State), FrameIn s p sub b →
    frameOf b = some (.udp v6 src dst sp dp l) → s.ingressOf p.1 sub.1 v6 src dst sp dp = none → s.ptpDatagram p.1 v6 dst dp = false →
    Completes (.ethFrameReceived p sub b) s fun t =>
      (t.net.ports[p]).unmatched = (s.net.ports[p]).unmatched + 1 ∧ t.net.slots = s.net.slots ∧ Only [.net] s t) ∧
  (∀ (p sub : Fin 4) (b : List Byte) (v6 : Bool) (src dst l : List Byte) (sp dp : Nat) (s : State), FrameIn s p sub b →
    frameOf b = some (.udp v6 src dst sp dp l) → s.ingressOf p.1 sub.1 v6 src dst sp dp = none → s.ptpDatagram p.1 v6 dst dp = true →
    Completes (.ethFrameReceived p sub b) s fun t =>
      exec (.ptpMessage p (.received (s.time.ftb - (2 ^ s.portMode p * b.length + 49) / 50) (slice b 6 6) (src.take 4) l)) s = .next t) ∧
  (∀ (p sub : Fin 4) (up : Bool) (s : State), (s.net.ports[p]).enabled = true → sub.1 < (s.net.ports[p]).subs →
    (s.net.ports[p]).link.getLsbD sub.1 = !up →
    Completes (.portLink p sub up) s fun t =>
      (t.net.ports[p]).link.getLsbD sub.1 = up ∧ (∀ q : Fin 4, q ≠ sub → (t.net.ports[p]).link.getLsbD q.1 = (s.net.ports[p]).link.getLsbD q.1) ∧
      t.newest = some ⟨s.time.ftb, 0x0801, 5, p.1, detail [(1, sub.1), (1, if up = true then 1 else 0)]⟩ ∧ t.net.slots = s.net.slots ∧
      Only [.net, .log, .sad] s t) ∧
  (∀ (p sub : Fin 4) (b : List Byte) (c : Ctrl) (s : State), FrameIn s p sub b → frameOf b = some (.control c) →
    Completes (.networkControlPacket p sub b) s fun t =>
      exec (.ethFrameReceived p sub b) s = .next t ∧ (∀ q : Fin 4, (t.sad[q]).pend.getLsbD 4 = true) ∧ Only [.sad, .misc] s t ∧
      (∀ mac ip a, c = .arp mac ip a → padTo 16 a ∈ s.ownAddrs →
        t.misc.out = .packet p.1 sub.1 s.time.ftb (arpReply p.1 mac ip a) :: s.misc.out) ∧
      (∀ mac ip a, c = .nd mac ip a → a ∈ s.ownAddrs → t.misc.out = .packet p.1 sub.1 s.time.ftb (ndReply p.1 mac ip a) :: s.misc.out) ∧
      (∀ v6, c = .query v6 → t.misc.out =
        ((s.net.joined.filter fun g => g.port == p.1 && g.sub == sub.1 && (g.path.ipVer == 6) == v6).map fun g =>
          Out.packet p.1 sub.1 s.time.ftb (groupReport p.1 1 g.path)).reverse ++ s.misc.out) ∧
      ((c = .silent ∨ (∃ mac ip a, c = .arp mac ip a ∧ padTo 16 a ∉ s.ownAddrs) ∨ ∃ mac ip a, c = .nd mac ip a ∧ a ∉ s.ownAddrs) →
        t.misc = s.misc)) ∧
  (∀ (k : Fin 32) (b : StreamBind) (path : Bool) (n : Nat) (s : State), s.streamAt k = some b → b.dir = 0 → b.portB ≠ 0xFF → s.job.state = .armed →
    (if path = true then (s.net.slots[k]).silentB = false ∧ n ∉ (s.net.slots[k]).gotB ∧ n ∈ (s.net.slots[k]).gotA
     else (s.net.slots[k]).silentA = false ∧ n ∉ (s.net.slots[k]).gotA ∧ n ∈ (s.net.slots[k]).gotB) →
    Completes (.ingressPathSilent k path n) s fun t =>
      t.newest = some ⟨t.time.ftb, 0x0802, 5, if path = true then b.portB else b.portA, detail [(1, k.1), (1, if path = true then 1 else 0), (8, n)]⟩ ∧
      s.job.frameF (n + 1) ≤ t.time.ftb ∧ (if path = true then (t.net.slots[k]).silentB = true else (t.net.slots[k]).silentA = true) ∧
      Only [.net, .time, .mem, .log, .host, .misc, .sad] s t)

/-- A packet of a wrong shape, check word, geometry, frame, a released stripe, no new group, or a buffer that is not free changes the counter
of that check (and SEQ from the third on) and nothing else but, for the last, INGRESS_BACKLOG once for the stripe; one that passes all is
added to its stripe and counted on its path. Rests on spec/02_time_determinism.md R43, spec/02_time_determinism.md R50,
spec/13_streams_network_ptp.md R368, spec/13_streams_network_ptp.md R369, spec/13_streams_network_ptp.md R370,
spec/13_streams_network_ptp.md R373, spec/13_streams_network_ptp.md R374. -/
def Obligations.RrsPacketsPassTheirChecks : Prop :=
  (∀ (k : Fin 32) (path : Bool) (p : List Byte) (b : StreamBind) (s : State), RrsIn s k path b → rrsShape p = false →
    Completes (.rrsPacket k path p) s fun t => t = s.updCnt k fun c => { c with malformed := satInc c.malformed }) ∧
  (∀ (k : Fin 32) (path : Bool) (p : List Byte) (b : StreamBind) (s : State), RrsIn s k path b → rrsShape p = true → rrsCrc p = false →
    Completes (.rrsPacket k path p) s fun t => t = s.updCnt k fun c => { c with crc := satInc c.crc }) ∧
  (∀ (k : Fin 32) (path : Bool) (p : List Byte) (b : StreamBind) (u : State) (s : State), RrsIn s k path b → rrsShape p = true → rrsCrc p = true →
    u = s.countSeq k path (befld p 4 4) →
    (b.geometry p = false → Completes (.rrsPacket k path p) s fun t => t = u.updCnt k fun c => { c with malformed := satInc c.malformed }) ∧
    (b.geometry p = true → s.job.rrsFrame s.time.ftb b.d (befld p 8 4) = none →
      Completes (.rrsPacket k path p) s fun t => t = u.updCnt k fun c => { c with late := satInc c.late }) ∧
    (∀ n stripe, b.geometry p = true → s.job.rrsFrame s.time.ftb b.d (befld p 8 4) = some n → stripe = befld p 12 2 / b.stripeH →
      (u.isReleased k n stripe = true →
        Completes (.rrsPacket k path p) s fun t => t = u.updCnt k fun c => { c with late := satInc c.late }) ∧
      (u.isReleased k n stripe = false → (((u.net.slots[k]).assemblyOf n stripe).fresh p) = [] →
        Completes (.rrsPacket k path p) s fun t => t = u.updCnt k fun c => { c with dup := satInc c.dup }) ∧
      (u.isReleased k n stripe = false → (((u.net.slots[k]).assemblyOf n stripe).fresh p) ≠ [] → u.bufferFree b n stripe = false →
        Completes (.rrsPacket k path p) s fun t =>
          (t.net.slots[k]).ctr = { (u.net.slots[k]).ctr with late := satInc (u.net.slots[k]).ctr.late } ∧
          (t.net.slots[k]).assembly = (s.net.slots[k]).assembly ∧ (n, stripe) ∈ (t.net.slots[k]).backlog ∧ Only [.net, .log, .sad] s t ∧
          ((n, stripe) ∉ (s.net.slots[k]).backlog → t.newest = some ⟨s.time.ftb, 0x010C, 5, b.portA, detail [(1, k.1), (2, stripe), (8, n)]⟩) ∧
          ((n, stripe) ∈ (s.net.slots[k]).backlog → t.log = s.log)) ∧
      (u.isReleased k n stripe = false → (((u.net.slots[k]).assemblyOf n stripe).fresh p) ≠ [] → u.bufferFree b n stripe = true →
        u.storeUsed b.portA + b.stripeBytes stripe ≤ 16777216 →
        Completes (.rrsPacket k path p) s fun t =>
          ((s.net.slots[k]).assemblyOf n stripe).add b.width p ∈ (t.net.slots[k]).assembly ∧
          (t.net.slots[k]).ctr.pktA = (if path = true then (s.net.slots[k]).ctr.pktA else satInc (s.net.slots[k]).ctr.pktA) ∧
          (t.net.slots[k]).ctr.pktB = (if path = true then satInc (s.net.slots[k]).ctr.pktB else (s.net.slots[k]).ctr.pktB) ∧
          (∀ j : Fin 32, j ≠ k → t.net.slots[j] = s.net.slots[j]) ∧ Only [.net] s t)))

/-- A release fixes the stripe's contents, queues its leaf hash with its lane time, records how it was formed, logs a substitution, and
requests its writes where the buffer is free or keeps them where it is not; those writes follow once it is. The contents are the stripe
itself when complete, the fill code in frame 0 and the previous frame's stripe otherwise. Rests on spec/02_time_determinism.md R51,
spec/02_time_determinism.md R52, spec/13_streams_network_ptp.md R371, spec/13_streams_network_ptp.md R375, spec/13_streams_network_ptp.md
R376, spec/17_provenance_security.md R475. -/
def Obligations.ReleasedStripesAreFixedHashedAndWritten : Prop :=
  (∀ (i : Inst) (e : TtEntry) (k : Fin 32) (b : StreamBind) (u v : State) (a : Assembly) (l : List Byte) (how : Nat) (bad : Nat → Bool) (s : State),
    Starts s i 0x10 e → e.unit = k.1 → s.streamAt k = some b → b.dir = 0 → s.job.started.contains i = false → u = s.startOf e i →
    a = (s.net.slots[k]).assemblyOf i.frame (e.arg i.inst) → u.stripeContents b a = (l, how, bad) →
    v = (if how = 1 then u.seeHbm (92 + b.portA) (b.stripeAddr ((i.frame - 1) % b.d) (e.arg i.inst)) l.length else u) →
    Completes (.ingressRelease i) s fun t =>
      i ∈ t.job.started ∧ (t.net.slots[k]).released = (s.net.slots[k]).released ++ [⟨i.frame, e.arg i.inst, how⟩] ∧
      t.stamp.waiting = s.stamp.waiting ++
        [⟨k.1, i.frame, e.arg i.inst, sha512 ([0, BitVec.ofNat 8 k.1] ++ beBytes 2 (e.arg i.inst) ++ l), 80 * ((l.length + 21 + 127) / 128) + 40⟩] ∧
      (how ≠ 0 → (⟨s.job.placed e i, 0x0106, 5, b.portA, detail [(1, k.1), (2, e.arg i.inst), (8, i.frame)]⟩ : Event) ∈ t.log.all) ∧
      (u.bufferFree b i.frame (e.arg i.inst) = true →
        t.hbm = (v.sendWrites (u.stripeWrites b i.frame (e.arg i.inst) l bad)).hbm ∧ (t.net.slots[k]).unwritten = (s.net.slots[k]).unwritten) ∧
      (u.bufferFree b i.frame (e.arg i.inst) = false → t.hbm = v.hbm ∧ (t.net.slots[k]).unwritten = (s.net.slots[k]).unwritten ++
        [(i.frame, e.arg i.inst, u.stripeWrites b i.frame (e.arg i.inst) l bad)]) ∧
      Only [.job, .net, .stamp, .hbm, .time, .mem, .log, .host, .misc, .sad] s t) ∧
  (∀ (b : StreamBind) (a : Assembly) (s : State),
    (b.rowsOf a.stripe * (b.width / 8) ≤ a.groups.length → (s.stripeContents b a).1 = a.bytes b ∧ (s.stripeContents b a).2.1 = 0) ∧
    (a.groups.length < b.rowsOf a.stripe * (b.width / 8) → a.frame = 0 →
      (s.stripeContents b a).1 = (List.replicate (b.stripeBytes a.stripe / 2) (leBytes 2 (b.fill % 4096))).flatten ∧ (s.stripeContents b a).2.1 = 2) ∧
    (a.groups.length < b.rowsOf a.stripe * (b.width / 8) → a.frame ≠ 0 →
      (s.stripeContents b a).1 = s.mem.bytes (b.bufBase + (a.frame - 1) % b.d * b.bufStride + 2 * b.width * (a.stripe * b.stripeH))
        (b.stripeBytes a.stripe) ∧ (s.stripeContents b a).2.1 = 1)) ∧
  (∀ (i : Inst) (e : TtEntry) (k : Fin 32) (b : StreamBind) (x : Nat × Nat × List (Nat × HbmReq)) (s : State), s.entryOf i = some e →
    e.kind = 0x10 → e.unit = k.1 → s.streamAt k = some b → b.dir = 0 → s.job.started.contains i = true →
    ((s.net.slots[k]).unwritten.find? fun u => u.1 == i.frame && u.2.1 == e.arg i.inst) = some x → s.bufferFree b i.frame (e.arg i.inst) = true →
    Completes (.ingressRelease i) s fun t =>
      t.hbm = (s.sendWrites x.2.2).hbm ∧ x ∉ (t.net.slots[k]).unwritten ∧ Only [.net, .hbm, .log, .sad] s t)

/-- A slot of complete rows queues its packets at their counts; of rows not complete, or behind late ones, it is late, and its packets follow
with their order and spacing kept and the lateness logged; a slot of an ST 2110-40 stream gives its count. The next packet due leaves
within 1,000 ticks, unless an RRS-C message goes ahead, on the sub-port and in the frame that the binding sets for each path, at one
count, counted and with the next sequence number; the first poisoned row of a frame is logged. Rests on spec/02_time_determinism.md R42,
spec/13_streams_network_ptp.md R378, spec/13_streams_network_ptp.md R379, spec/13_streams_network_ptp.md R380,
spec/13_streams_network_ptp.md R381, spec/13_streams_network_ptp.md R384, spec/17_provenance_security.md R481,
spec/13_streams_network_ptp.md R365, spec/13_streams_network_ptp.md R366, spec/13_streams_network_ptp.md R389. -/
def Obligations.EgressRowsLeaveInOrder : Prop :=
  (∀ (i : Inst) (e : TtEntry) (k : Fin 32) (b : StreamBind) (s : State), s.entryOf i = some e → e.unit = k.1 → s.streamAt k = some b →
    s.slotComes e i = true →
    Completes (.egressSlot i) s fun t =>
      i ∈ t.job.started ∧ s.job.placed e i ≤ t.time.ftb ∧ Only [.job, .net, .stamp, .time, .mem, .log, .host, .misc] s t ∧
      (b.dir = 2 → t.stamp.t40 = s.stamp.t40 ++ [(k.1, i.frame, s.job.placed e i)] ∧ t.net = s.net) ∧
      (b.dir ≠ 2 → t.stamp = s.stamp ∧ (∀ j : Fin 32, j ≠ k → t.net.slots[j] = s.net.slots[j]) ∧
        ((s.predDone e i = true ∧ (s.net.slots[k]).lateRows = []) →
          (t.net.slots[k]).due = (s.net.slots[k]).due ++ s.slotPackets b e i (s.job.placed e i) (s.job.placed e i) ∧ (t.net.slots[k]).lateRows = []) ∧
        ((s.predDone e i = false ∨ (s.net.slots[k]).lateRows ≠ []) →
          (t.net.slots[k]).due = (s.net.slots[k]).due ∧ (t.net.slots[k]).lateRows = (s.net.slots[k]).lateRows ++ [i]))) ∧
  (∀ (k : Fin 32) (b : StreamBind) (i : Inst) (e : TtEntry) (rest : List Inst) (now : Nat) (s : State), (s.net.slots[k]).lateRows = i :: rest →
    s.streamAt k = some b → s.entryOf i = some e → s.predDone e i = true →
    now = max s.time.ftb ((((s.net.slots[k]).due.getLast?).map (·.due)).getD 0) →
    Completes (.egressLateSend k) s fun t =>
      (t.net.slots[k]).lateRows = rest ∧ (t.net.slots[k]).due = (s.net.slots[k]).due ++ s.slotPackets b e i (s.job.placed e i) now ∧
      t.newest = some ⟨s.job.placed e i, 0x010B, 5, b.portA, detail [(1, k.1), (4, now - s.job.placed e i), (8, i.frame)]⟩ ∧
      Only [.net, .log, .sad] s t) ∧
  (∀ (k : Fin 32) (b : StreamBind) (p : EgPkt) (rest : List EgPkt) (delay : Nat) (u : State) (s : State), (s.net.slots[k]).due = p :: rest →
    s.streamAt k = some b → delay ≤ 1000 → s.rrscAhead k b (max (p.due + delay) s.time.ftb) = false → u = s.reach (p.due + delay) →
    Completes (.egressPacket k delay) s fun t =>
      (t.net.slots[k]).due = rest ∧ (t.net.slots[k]).rtpSeq = (s.net.slots[k]).rtpSeq + 1 ∧ p.due + delay ≤ t.time.ftb ∧
      (t.net.slots[k]).ctr.pktA = satInc (s.net.slots[k]).ctr.pktA ∧
      (t.net.slots[k]).sentFrames = (s.net.slots[k]).sentFrames ++ (if p.last = true then [(p.frame, max (p.due + delay) s.time.ftb)] else []) ∧
      Only [.net, .hbm, .time, .mem, .log, .host, .misc, .sad] s t ∧
      (∀ (d : Binding) (l : List Byte), d = (s.bindingAt k.1).getD default →
        l = u.videoPayload b (s.bindingAt k.1) p (s.net.slots[k]).rtpSeq.toNat →
        t.misc.out = (if b.portB = 0xFF then [] else [Out.packet b.portB d.subB (max (p.due + delay) s.time.ftb) (d.b.frame b.portB l)]) ++
          .packet b.portA d.subA (max (p.due + delay) s.time.ftb) (d.a.frame b.portA l) :: u.misc.out) ∧
      (u.rowPoison (b.rowAddr p.frame p.row) (b.pixBytes b.width) = true → (∀ q ∈ (s.net.slots[k]).poisoned, q.1 ≠ p.frame) →
        t.newest = some ⟨t.time.ftb, 0x0803, 5, b.portA, detail [(1, k.1), (8, p.frame), (2, p.row)]⟩ ∧
        (t.net.slots[k]).poisoned = (s.net.slots[k]).poisoned ++ [(p.frame, p.row)])) ∧
  (∀ (k : Fin 32) (b : StreamBind) (p : EgPkt) (rest : List EgPkt) (delay : Nat) (s : State), (s.net.slots[k]).due = p :: rest →
    s.streamAt k = some b → s.rrscAhead k b (max (p.due + delay) s.time.ftb) = true → Completes (.egressPacket k delay) s fun t => t = s)

/-- At T - 5,000 a command committed earlier is latched for its instance and no longer pending, and otherwise a held message is chosen; the
message leaves within 1,000 ticks of T with its frame, number and items, and its instance completes; one that has not left by T + 2,000 is
logged and not sent. Rests on spec/13_streams_network_ptp.md R385, spec/13_streams_network_ptp.md R388, spec/13_streams_network_ptp.md
R389, spec/13_streams_network_ptp.md R365. -/
def Obligations.CameraMessagesLeaveAtTheirSlots : Prop :=
  (∀ (i : Inst) (e : TtEntry) (k : Fin 32) (b : StreamBind) (n : Nat) (s : State), s.rrscOf i = some (e, k, b, n) → s.job.state = .armed →
    s.job.cancelled e i = false → s.job.started.contains i = false → (s.net.slots[k]).latched.lookup i = none →
    Completes (.rrscLatch i) s fun t =>
      n - 5000 ≤ t.time.ftb ∧ Only [.net, .time, .mem, .log, .host, .misc] s t ∧
      (∀ c, (s.net.slots[k]).pending = some c → c.at_ + 5000 < n →
        (t.net.slots[k]).latched = (s.net.slots[k]).latched ++ [(i, some c)] ∧ (t.net.slots[k]).pending = none) ∧
      (∀ c, (s.net.slots[k]).pending = some c → n ≤ c.at_ + 5000 →
        (t.net.slots[k]).latched = (s.net.slots[k]).latched ++ [(i, none)] ∧ (t.net.slots[k]).pending = some c) ∧
      ((s.net.slots[k]).pending = none → (t.net.slots[k]).latched = (s.net.slots[k]).latched ++ [(i, none)])) ∧
  (∀ (i : Inst) (e : TtEntry) (k : Fin 32) (b : StreamBind) (n delay : Nat) (o : Option RrscCmd) (c : RrscCmd) (d : Binding) (u : State) (s : State),
    s.rrscOf i = some (e, k, b, n) → Starts s i 0x12 e → delay ≤ 1000 → s.time.ftb ≤ n + 2000 → s.job.stopAt = none →
    u = (s.startOf e i).reach (n + delay) → b.portB = 0xFF → d = (s.bindingAt k.1).getD default → (s.net.slots[k]).latched.lookup i = some o →
    (o = some c ∨ (o = none ∧ (s.net.slots[k]).last = some c ∧ (s.net.slots[k]).lastHeld = true)) →
    Completes (.rrscSlot i delay) s fun t =>
      t.misc.out = .packet b.portA d.subA (max (n + delay) s.time.ftb) (d.a.frame b.portA
        (rrscMessage b.camera o.isNone (s.net.slots[k]).msgSeq.toNat n
          ((n * s.job.num / (1000000000 * s.job.den) + 1 + c.offset) % 2 ^ 32) c.cmdSeq c.items)) :: u.misc.out ∧
      (t.net.slots[k]).msgSeq = (s.net.slots[k]).msgSeq + 1 ∧ (t.net.slots[k]).latched = (s.net.slots[k]).latched.filter (fun l => l.1 != i) ∧
      (t.net.slots[k]).last = some c ∧ n + delay ≤ t.time.ftb ∧ i ∈ t.job.completed ∧ Only [.net, .job, .time, .mem, .log, .host, .misc] s t) ∧
  (∀ (i : Inst) (e : TtEntry) (k : Fin 32) (b : StreamBind) (n delay : Nat) (o : Option RrscCmd) (s : State),
    s.rrscOf i = some (e, k, b, n) → (s.net.slots[k]).latched.lookup i = some o → delay ≤ 1000 → n + 2000 < s.time.ftb →
    Completes (.rrscSlot i delay) s fun t => exec (.rrscMissed i) s = .next t) ∧
  (∀ (i : Inst) (e : TtEntry) (k : Fin 32) (b : StreamBind) (n : Nat) (s : State), s.rrscOf i = some (e, k, b, n) → Starts s i 0x12 e →
    s.job.stopAt = none →
    Completes (.rrscMissed i) s fun t =>
      t.newest = some ⟨n, 0x0805, 5, b.portA, detail [(1, k.1), (8, n)]⟩ ∧ n + 2000 ≤ t.time.ftb ∧ i ∈ t.job.completed ∧
      (t.net.slots[k]).latched = (s.net.slots[k]).latched.filter (fun l => l.1 != i) ∧ (t.net.slots[k]).msgSeq = (s.net.slots[k]).msgSeq ∧
      Only [.net, .job, .time, .mem, .log, .host, .misc, .sad] s t)

/-- A training of a link that is no spare, with a peer in the latency range that the role allows, brings the link up with 2,048 credits and
SEQ 0; without a spare that is up, a wrong peer leaves it DOWN and is logged, and no peer or a latency out of range leaves it DOWN. A
failed training or retrain moves a MESH link's traffic to its spare that is up, logged, unacknowledged blocks first; 100 ms later a
training brings a DOWN link up and is logged. Rests on spec/14_urlan_links.md R396, spec/14_urlan_links.md R401, spec/14_urlan_links.md
R402, spec/14_urlan_links.md R404, spec/14_urlan_links.md R414. -/
def Obligations.LinksTrainAndFallBackToSpares : Prop :=
  (∀ (u : Fin 6) (p : LinkPeer) (s : State), (s.ur.links[u]).enabled = true → (s.ur.links[u]).state = .training → 60 ≤ p.lat → p.lat ≤ 1000 →
    (∀ m, s.ur.required u = some m → m = p.modl) → (s.ur.links[u]).replay = [] → (s.ur.links[u]).role ≠ 3 →
    Completes (.linkTraining u (some p)) s fun t =>
      (t.ur.links[u]).state = .up ∧ (t.ur.links[u]).lat = p.lat ∧ (t.ur.links[u]).credits = 2048 ∧ (t.ur.links[u]).nextSeq = 0 ∧
      (t.ur.links[u]).peerMod = p.modl % 32 ∧ (t.ur.links[u]).peerLink = p.link % 8 ∧ (∀ v : Fin 6, v ≠ u → t.ur.links[v] = s.ur.links[v]) ∧
      Only [.ur] s t) ∧
  (∀ (u : Fin 6) (p : LinkPeer) (m : Nat) (s : State), (s.ur.links[u]).enabled = true → (s.ur.links[u]).state = .training → 60 ≤ p.lat →
    p.lat ≤ 1000 → s.ur.required u = some m → m ≠ p.modl → s.ur.spareOf u = none →
    Completes (.linkTraining u (some p)) s fun t =>
      (t.ur.links[u]).state = .down ∧ t.newest = some ⟨s.time.ftb, 0x0904, 6, u.1, detail [(1, m), (1, p.modl)]⟩ ∧ Only [.ur, .log, .sad] s t) ∧
  (∀ (u : Fin 6) (o : Option LinkPeer) (s : State), (s.ur.links[u]).enabled = true → (s.ur.links[u]).state = .training →
    (∀ p, o = some p → p.lat < 60 ∨ 1000 < p.lat) → s.ur.spareOf u = none →
    Completes (.linkTraining u o) s fun t => (t.ur.links[u]).state = .down ∧ (t.ur.links[u]).downAt = s.time.ftb ∧ Only [.ur] s t) ∧
  (∀ (u v : Fin 6) (o : Option LinkPeer) (s : State), (s.ur.links[u]).enabled = true → (s.ur.links[u]).state = .training →
    (∀ p, o = some p → p.lat < 60 ∨ 1000 < p.lat) → s.ur.spareOf u = some v →
    Completes (.linkTraining u o) s fun t =>
      (t.ur.links[u]).state = .replaced ∧ t.ur.traffic v = u ∧ t.newest = some ⟨s.time.ftb, 0x0903, 6, u.1, detail [(1, u.1), (1, v.1)]⟩ ∧
      Only [.ur, .log, .sad] s t) ∧
  (∀ (u v : Fin 6) (s : State), (s.ur.links[u]).state = .up → (s.ur.links[u]).role = 1 → s.ur.spareOf u = some v →
    Completes (.linkRetrain u true none) s fun t =>
      (t.ur.links[u]).state = .replaced ∧ (t.ur.links[u]).txQueue = (s.ur.links[u]).replay.map (·.2) ++ (s.ur.links[u]).txQueue ∧
      t.ur.traffic v = u ∧ t.newest = some ⟨s.time.ftb, 0x0903, 6, u.1, detail [(1, u.1), (1, v.1)]⟩ ∧ Only [.ur, .log, .sad] s t) ∧
  (∀ (u : Fin 6) (s : State), (s.ur.links[u]).state = .up → s.ur.spareOf u = none →
    Completes (.linkRetrain u true none) s fun t =>
      (t.ur.links[u]).state = .down ∧ t.newest = some ⟨s.time.ftb, 0x0901, 6, u.1,
        detail [(1, 0), (1, (s.ur.links[u]).peerMod), (1, (s.ur.links[u]).peerLink), (2, (s.ur.links[u]).lat)]⟩ ∧ Only [.ur, .log, .sad] s t) ∧
  (∀ (u : Fin 6) (p : LinkPeer) (s : State), (s.ur.links[u]).enabled = true → (s.ur.links[u]).state = .down → 60 ≤ p.lat → p.lat ≤ 1000 →
    s.ur.required u = none → (s.ur.links[u]).replay = [] → (s.ur.links[u]).role ≠ 3 →
    Completes (.linkRetryTimer u (some p)) s fun t =>
      (t.ur.links[u]).state = .up ∧ (s.ur.links[u]).downAt + 100000000 ≤ t.time.ftb ∧
      t.newest = some ⟨t.time.ftb, 0x0901, 6, u.1, detail [(1, 2), (1, p.modl % 32), (1, p.link % 8), (2, p.lat)]⟩ ∧
      Only [.ur, .time, .mem, .log, .host, .misc, .sad] s t)

/-- A queued block leaves with a credit and is kept for replay; an expected flit is accepted once under the key of the job frame that it
names, an unexpected or bad one is answered by one NAK per gap; an ACK frees the replay buffer and returns credits, a NAK sends it again,
counted, and a bad control flit is counted; ACK and TIME flits leave on their timers. A block absent 8 ticks before its slot holds the
sequencers, counted and logged once for its record, until it has been written in the first slot of its pseudo-channel that no request
uses. Rests on spec/14_urlan_links.md R397, spec/14_urlan_links.md R398, spec/14_urlan_links.md R399, spec/14_urlan_links.md R400,
spec/14_urlan_links.md R401, spec/14_urlan_links.md R406, spec/14_urlan_links.md R410, spec/14_urlan_links.md R411, spec/14_urlan_links.md
R413. -/
def Obligations.FlitsCarryBlocksInOrder : Prop :=
  ((∀ (u : Fin 6) (b : UrBlock) (rest : List UrBlock) (s : State), (s.ur.links[u]).state = .up → s.ur.traffic u = u →
    (s.ur.links[u]).txQueue = b :: rest → 0 < (s.ur.links[u]).credits → (s.ur.links[u]).replay.length < 1024 →
    Completes (.urlanDataSend u) s fun t =>
      (t.ur.links[u]).txQueue = rest ∧ (t.ur.links[u]).replay = (s.ur.links[u]).replay ++ [((s.ur.links[u]).nextSeq, b)] ∧
      (t.ur.links[u]).credits = (s.ur.links[u]).credits - 1 ∧ (t.ur.links[u]).nextSeq = ((s.ur.links[u]).nextSeq + 1) % 4096 ∧
      t.misc.out = .flit u.1 s.time.ftb (Flit.bytes ⟨1, if b.poison = true then 1 else 0, (s.ur.links[u]).nextSeq, (s.ur.links[u]).ackNow,
        min 2048 (s.ur.links[u]).owed, s.ur.modl, b.frame % 65536, b.index, rowBytes b.data⟩) :: s.misc.out ∧ Only [.ur, .misc] s t) ∧
  (∀ (u : Fin 6) (b : List Byte) (f : Flit) (s : State), (s.ur.links[u]).state = .up → s.ur.traffic u = u → flitOf 1 b = some f →
    f.seq = ((s.ur.links[u]).ackNow + 1) % 4096 → (s.ur.links[u]).accepted < 63 →
    Completes (.urlanDataFlit u b) s fun t =>
      (t.ur.links[u]).lastRx = some f.seq ∧ (t.ur.links[u]).accepted = (s.ur.links[u]).accepted + 1 ∧ Only [.ur] s t ∧
      (t.ur.links[u]).credits = min 2048 ((s.ur.links[u]).credits + f.credit) ∧
      ((s.job.nearFrame f.frame, f.index) ∉ (s.ur.links[u]).rxSeen →
        (t.ur.links[u]).rx = (s.ur.links[u]).rx ++ [⟨s.job.nearFrame f.frame, f.index, rowOf f.body, bit f.flags 0, t.time.ftb⟩] ∧ (t.ur.links[u]).owed = (s.ur.links[u]).owed) ∧
      ((s.job.nearFrame f.frame, f.index) ∈ (s.ur.links[u]).rxSeen →
        (t.ur.links[u]).rx = (s.ur.links[u]).rx ∧ (t.ur.links[u]).owed = (s.ur.links[u]).owed + 1)) ∧
  (∀ (u : Fin 6) (b : List Byte) (f : Flit) (s : State), (s.ur.links[u]).state = .up → flitOf 1 b = some f →
    f.seq ≠ ((s.ur.links[u]).ackNow + 1) % 4096 →
    Completes (.urlanDataFlit u b) s fun t =>
      (t.ur.links[u]).lastRx = (s.ur.links[u]).lastRx ∧ (t.ur.links[u]).rx = (s.ur.links[u]).rx ∧ (t.ur.links[u]).nakSent = true ∧
      (t.misc.out.length = s.misc.out.length + if (s.ur.links[u]).nakSent = true then 0 else 1) ∧ Only [.ur, .misc] s t) ∧
  (∀ (u : Fin 6) (b : List Byte) (s : State), (s.ur.links[u]).state = .up → flitOf 1 b = none →
    Completes (.urlanDataFlit u b) s fun t =>
      (t.ur.links[u]).crcCount = satInc (s.ur.links[u]).crcCount ∧ (t.ur.links[u]).lastRx = (s.ur.links[u]).lastRx ∧
      (t.ur.links[u]).nakSent = true ∧ Only [.ur, .misc] s t) ∧
  (∀ (u : Fin 6) (b : List Byte) (s : State), (s.ur.links[u]).state = .up → flitOf 2 b = none → flitOf 3 b = none →
    Completes (.urlanCtrlFlit u b) s fun t =>
      (t.ur.links[u]).crcCount = satInc (s.ur.links[u]).crcCount ∧ (t.ur.links[u]).replay = (s.ur.links[u]).replay ∧ Only [.ur] s t) ∧
  (∀ (u : Fin 6) (b : List Byte) (f : Flit) (s : State), (s.ur.links[u]).state = .up → flitOf 2 b = some f →
    Completes (.urlanCtrlFlit u b) s fun t =>
      (t.ur.links[u]).replay = ((s.ur.links[u]).header f).replay ∧ (t.ur.links[u]).credits = min 2048 ((s.ur.links[u]).credits + f.credit) ∧
      (bit f.flags 1 = false → Only [.ur] s t ∧ (t.ur.links[u]).replayCnt = (s.ur.links[u]).replayCnt) ∧
      (bit f.flags 1 = true → (t.ur.links[u]).replayCnt = satInc (s.ur.links[u]).replayCnt ∧ Only [.ur, .misc] s t ∧
        t.misc.out.length = s.misc.out.length + ((s.ur.links[u]).header f).replay.length)) ∧
  (∀ (u : Fin 6) (s : State), (s.ur.links[u]).state = .up →
    Completes (.urlanAckTimer u) s fun t =>
      (s.ur.links[u]).lastAck + 200 ≤ t.time.ftb ∧ (t.ur.links[u]).lastAck = t.time.ftb ∧ (t.ur.links[u]).owed = 0 ∧
      (∃ f : Flit, f.kind = 2 ∧ f.flags = 0 ∧ f.ack = (s.ur.links[u]).ackNow ∧ t.misc.out.head? = some (.flit u.1 t.time.ftb f.bytes)) ∧
      Only [.ur, .time, .mem, .log, .host, .misc] s t) ∧
  (∀ (u : Fin 6) (s : State), (s.ur.links[u]).state = .up → bits s.ur.gcfg.toNat 7 5 ≠ u.1 →
    Completes (.urlanTimeSend u) s fun t =>
      t.time.ftb % 1000 = 0 ∧ s.time.ftb < t.time.ftb ∧
      (∃ f : Flit, f.kind = 3 ∧ f.body = beBytes 8 t.time.ftb ++ List.replicate 4 0 ∧ t.misc.out.head? = some (.flit u.1 t.time.ftb f.bytes)) ∧
      Only [.ur, .time, .mem, .log, .host, .misc] s t)) ∧
  ((∀ (u : Fin 6) (st : Fin 4) (m rep rec blk period slot ix : Nat) (r : HbmRec) (s : State), s.linkRec u st rec = some (period, r) →
    s.job.state = .armed → blk < r.count → s.job.repRuns period m rep = true → (s.ur.links[u]).rxOn = true → ix = s.recIndex u st r blk →
    slot = s.job.anchor m + 10 * period * rep + 10 * r.tick + r.sub + 16 * blk →
    (u, m, ix) ∉ s.job.lateKeys →
    ((s.ur.links[u]).inTime m ix slot = true → Completes (.urlanLateRelease u st m rep rec blk) s fun t => t = s) ∧
    ((s.ur.links[u]).inTime m ix slot = false → (st, m, rep, rec) ∉ s.job.lateRecs →
    Completes (.urlanLateRelease u st m rep rec blk) s fun t =>
      t.job.holdFrom = some (match s.job.holdFrom with | some h => min h slot | none => slot) ∧ (u, m, ix) ∈ t.job.lateKeys ∧
      slot - 8 ≤ t.time.ftb ∧ (t.ur.links[u]).lateCount = satInc (s.ur.links[u]).lateCount ∧
      t.newest = some ⟨t.time.ftb, 0x0902, 6, u.1, detail [(8, m), (4, ix), (4, rec)]⟩ ∧
      Only [.job, .ur, .time, .mem, .log, .host, .misc, .sad] s t)) ∧
  (∀ (u : Fin 6) (m ix slot : Nat) (x : Fin 4 × Nat) (b : UrBlock) (s : State),
    ((s.ur.links[u]).rx.find? fun b => b.frame == m && b.index == ix) = some b → hbmPlace ((s.ur.links[u]).rxBase.toNat + 512 * ix) = some x →
    s.freeSlot x.1 x.2 = some slot → (u, m, ix) ∈ s.job.lateKeys →
    Completes (.urlanLateBlockWrite u m ix) s fun t =>
      t.mem = (s.reach slot).mem.writeBlock ((s.ur.links[u]).rxBase.toNat + 512 * ix) b.data b.poison ∧ slot ≤ t.time.ftb ∧ (t.ur.links[u]).rx = (s.ur.links[u]).rx.erase b ∧
      (t.ur.links[u]).owed = (s.ur.links[u]).owed + 1 ∧ t.job.lateKeys = s.job.lateKeys.erase (u, m, ix) ∧
      (s.job.lateKeys = [(u, m, ix)] → t.job.holdFrom = none) ∧ Only [.mem, .ur, .job, .time, .log, .host, .misc] s t))

/-- The oldest waiting leaf of an engine takes its free lane and is complete at its count; a parent is the hash of its children, 200 ticks
after the later; the next record of the chain is formed at its moment, becomes the chain head and takes the engine where it is signed and
no other record's signature holds it; a signature of 512 bytes is written to its record; the record leaves as one packet on its ST 2110-40
stream, in the frame and on the sub-port of its binding, unless an RRS-C message goes ahead. Rests on spec/17_provenance_security.md R475,
spec/17_provenance_security.md R476, spec/17_provenance_security.md R480, spec/17_provenance_security.md R481,
spec/17_provenance_security.md R482, spec/17_provenance_security.md R486, spec/13_streams_network_ptp.md R383,
spec/13_streams_network_ptp.md R389. -/
def Obligations.StampsAreHashedFormedSignedAndSent : Prop :=
  (∀ (slot : Fin 32) (w : Lane) (l : Fin 64) (s : State), w.slot = slot.1 →
    (s.stamp.waiting.find? fun x => s.engineOf x.slot == s.engineOf slot.1) = some w → s.stamp.freeLane (s.engineOf slot.1) = some l →
    Completes (.leafHashStart slot w.frame w.stripe) s fun t =>
      t.stamp.waiting = s.stamp.waiting.erase w ∧ t.stamp.lanes[l] = some { w with done := s.time.ftb + w.done } ∧ Only [.stamp] s t) ∧
  (∀ (l : Fin 64) (w : Lane) (s : State), s.stamp.lanes[l] = some w →
    Completes (.leafHashDone l) s fun t =>
      t.stamp.lanes[l] = none ∧ t.stamp.leaves = s.stamp.leaves ++ [⟨w.slot, w.frame, 0, w.stripe, w.digest, w.done⟩] ∧ w.done ≤ t.time.ftb ∧
      Only [.stamp, .time, .mem, .log, .host, .misc] s t) ∧
  (∀ (slot : Fin 32) (frame l idx : Nat) (im : JobImage) (b : StreamBind) (x y : List Byte × Nat) (s : State), s.videoAt slot.1 = some (im, b) →
    2 * idx + 1 < levelSize (im.leavesOf b).length l → s.stamp.node (im.leavesOf b) slot.1 frame (l + 1) idx = none →
    s.stamp.node (im.leavesOf b) slot.1 frame l (2 * idx) = some x → s.stamp.node (im.leavesOf b) slot.1 frame l (2 * idx + 1) = some y →
    Completes (.parentHashDone slot frame (l + 1) idx) s fun t =>
      t.stamp.node (im.leavesOf b) slot.1 frame (l + 1) idx = some (sha512 ([1] ++ x.1 ++ y.1), max x.2 y.2 + 200) ∧
      max x.2 y.2 + 200 ≤ t.time.ftb ∧ Only [.stamp, .time, .mem, .log, .host, .misc] s t) ∧
  (∀ (slot : Fin 32) (m e : Nat) (im : JobImage) (b : StreamBind) (rec : List Byte) (s : State), s.videoAt slot.1 = some (im, b) →
    s.formTime im b m = some e → s.job.state = .armed → s.nextRecord im = some (m, slot.1) → rec = s.recordBytes im b m →
    Completes (.stampRecordForm slot m) s fun t =>
      t.stamp.head = some (sha512 rec) ∧ t.stamp.lastKey = some (m, slot.1) ∧ e ≤ t.time.ftb ∧
      t.stamp.records = s.stamp.records ++ [⟨slot.1, m, rec, t.time.ftb, s.signs slot.1 m, none, []⟩] ∧
      (s.signs slot.1 m = true → (∀ x y z, s.stamp.engine ≠ some (false, x, y, z)) → t.stamp.engine = some (false, slot.1, m, t.time.ftb + 250000)) ∧
      (s.signs slot.1 m = false → t.stamp.engine = s.stamp.engine) ∧ Only [.stamp, .time, .mem, .log, .host, .misc] s t) ∧
  (∀ (x m e : Nat) (s : State), s.stamp.engine = some (false, x, m, e) →
    Completes .signatureDone s fun t =>
      e ≤ t.time.ftb ∧ (∀ r ∈ t.stamp.records, r.slot = x → r.frame = m → r.signed = true → (r.sig.map List.length) = some 512) ∧
      t.stamp.records.length = s.stamp.records.length ∧ Only [.stamp, .time, .mem, .log, .host, .misc] s t) ∧
  (∀ (k : Fin 32) (b : StreamBind) (r : StampRec) (d : Binding) (u : State) (s : State), s.streamAt k = some b → b.dir = 2 → s.stamp.toSend b = some r →
    u = s.reach (r.formed + if r.signed = true then 250000 else 0) → s.stamp.t40Of b.slot r.frame = none → b.portB = 0xFF →
    s.rrscAhead k b (max (r.formed + if r.signed = true then 250000 else 0) s.time.ftb) = false → d = (s.bindingAt k.1).getD default →
    Completes (.stampAncPacket k) s fun t =>
      t.misc.out = .packet b.portA d.subA u.time.ftb (d.a.frame b.portA (rtpHead true (((s.bindingAt k.1).map (·.pt)).getD 0) (s.net.slots[k]).rtpSeq.toNat
        (rtpStamp (s.job.frameF r.frame)) (((s.bindingAt k.1).map (·.ssrc)).getD 0) ++ r.payload)) :: u.misc.out ∧
      (t.net.slots[k]).rtpSeq = (s.net.slots[k]).rtpSeq + 1 ∧ t.stamp.records = s.stamp.records.map (fun x => if x = r then { x with sent := x.sent ++ [b.slot] } else x) ∧
      Only [.stamp, .net, .time, .mem, .log, .host, .misc] s t)
end

