-- ==== Sys2Proof/Laws/Frame.lean ====
section
/-! SUPPORT. What each shared operation can change: one lemma per operation, by groups of the state. -/
namespace Sys2Proof.Machine

theorem Only.refl (gs : List Grp) (s : State) : Only gs s s := by intro g _; cases g <;> rfl

theorem Only.trans {a b c : List Grp} {s t u : State} (h1 : Only a s t) (h2 : Only b t u) (ha : a ⊆ c) (hb : b ⊆ c) : Only c s u := by
  intro g hg
  have e1 := h1 g fun h => hg (ha h)
  have e2 := h2 g fun h => hg (hb h)
  cases g <;> exact Eq.trans e2 e1

theorem Only.mono {a c : List Grp} {s t : State} (h : Only a s t) (hc : a ⊆ c) : Only c s t := fun g hg => h g fun x => hg (hc x)

/-- Nothing changes but the groups named: by evaluation of each other group. -/
theorem Only.step {c : List Grp} {s t u : State} (h1 : Only c s t) (h2 : Only c t u) : Only c s u :=
  h1.trans h2 (List.Subset.refl c) (List.Subset.refl c)

theorem Only.foldl {α : Type} {c : List Grp} (f : State → α → State) (hf : ∀ s x, Only c s (f s x)) (l : List α) (s : State) :
    Only c s (l.foldl f s) := by
  induction l generalizing s with
  | nil => exact Only.refl c s
  | cons x t ih => exact (hf s x).step (ih _)

theorem msix_only (s : State) (v : Nat) : Only [.host, .misc] s (s.msix v) := by
  intro g hg; unfold State.msix; split <;> cases g <;> first | rfl | simp at hg

theorem irqSource_only (s : State) (n : Nat) : Only [.misc] s (s.irqSource n) := by
  intro g hg; unfold State.irqSource; dsimp only; split <;> cases g <;> first | rfl | simp at hg

theorem sadLine_only (s : State) (n : Nat) : Only [.sad] s (s.sadLine n) := by
  intro g hg; cases g <;> first | rfl | simp at hg

theorem logAt_only (s : State) (f c k n : Nat) (d : List (Nat × Nat)) : Only [.log, .sad] s (s.logAt f c k n d) := by
  intro g hg; cases g <;> first | rfl | simp at hg

theorem logEv_only (s : State) (c k n : Nat) (d : List (Nat × Nat)) : Only [.log, .sad] s (s.logEv c k n d) :=
  logAt_only s s.time.ftb c k n d

theorem putRecord_only (s : State) (e : Event) : Only [.mem, .log, .host, .misc] s (s.putRecord e) := by
  unfold State.putRecord; dsimp only
  split
  · split
    · split
      · refine Only.trans (b := [.host, .misc]) (a := [.mem, .log]) ?_ (msix_only _ _) (by simp) (by simp)
        intro g hg; cases g <;> first | rfl | simp at hg
      · refine Only.trans (b := [.misc]) (a := [.mem, .log]) ?_ (irqSource_only _ _) (by simp) (by simp)
        intro g hg; cases g <;> first | rfl | simp at hg
    · intro g hg; cases g <;> first | rfl | simp at hg
  · intro g hg; cases g <;> first | rfl | simp at hg

theorem dropRecord_only (s : State) : Only [.log] s s.dropRecord := by
  intro g hg; cases g <;> first | rfl | simp at hg

theorem putOverflow_only (s : State) : Only [.mem, .log, .host, .misc] s s.putOverflow := by
  unfold State.putOverflow; dsimp only
  split
  · exact Only.refl _ _
  · refine Only.step ?_ (putRecord_only _ _)
    intro g hg; cases g <;> first | rfl | simp at hg

theorem record_only (s : State) (e : Event) : Only [.mem, .log, .host, .misc] s (s.record e) := by
  have h0 : Only [.mem, .log, .host, .misc] s ({ s with log := { s.log with smbus := if e.code / 256 = 0x0D then lastN 64 (s.log.smbus ++ [e]) else s.log.smbus } } : State) := by
    intro g hg; cases g <;> first | rfl | simp at hg
  refine h0.step ?_
  generalize ht : ({ s with log := { s.log with smbus := if e.code / 256 = 0x0D then lastN 64 (s.log.smbus ++ [e]) else s.log.smbus } } : State) = t
  have e1 : s.record e = if !t.log.opened then
      (if t.log.startLog.length < 256 then { t with log := { t.log with startLog := t.log.startLog ++ [e] } } else t.dropRecord)
    else (if ringOn t.putOverflow.log.evCfg && !t.putOverflow.log.full then t.putOverflow.putRecord e else t.putOverflow.dropRecord) := by
    subst ht; rfl
  rw [e1]
  split
  · split
    · intro g hg; cases g <;> first | rfl | simp at hg
    · exact (dropRecord_only _).mono (by simp)
  · refine (putOverflow_only _).step ?_
    split
    · exact putRecord_only _ _
    · exact (dropRecord_only _).mono (by simp)

theorem drain_only (s : State) : Only [.mem, .log, .host, .misc] s s.drain := by
  refine Only.step ?_ (Only.foldl _ record_only _ _)
  intro g hg; cases g <;> first | rfl | simp at hg

theorem reach_only (s : State) (n : Nat) : Only [.time, .mem, .log, .host, .misc] s (s.reach n) := by
  unfold State.reach; dsimp only
  split
  · exact Only.refl _ _
  · refine ((drain_only s).mono (by simp)).step ?_
    intro g hg; cases g <;> first | rfl | simp at hg

theorem updRing_only (s : State) (k : Fin 64) (f : RingSt → RingSt) : Only [.host] s (s.updRing k f) := by
  intro g hg; cases g <;> first | rfl | simp at hg

theorem ringError_only (s : State) (k : Fin 64) (c : Nat) : Only [.host, .log, .sad] s (s.ringError k c) :=
  (updRing_only _ _ _).trans (logEv_only _ _ _ _ _) (by simp) (by simp)

/-- A completion writes ring memory, advances the ring and may interrupt, or it is a ring error. -/
theorem complete_only (s : State) (k : Fin 64) (ep : Nat) (tag : W32) (st a b : Nat) (f : Bool) :
    Only [.mem, .log, .host, .sad, .misc] s (s.complete k ep tag st a b f) := by
  unfold State.complete; dsimp only
  have h1 : ∀ m g, Only [.mem, .log, .host, .sad, .misc] s (({ s with mem := m } : State).updRing k g) := by
    intro m g x hg; cases x <;> first | rfl | simp at hg
  split
  · exact Only.refl _ _
  · split
    · exact (ringError_only _ _ _).mono (by simp)
    · split
      · split
        · exact (h1 _ _).step ((msix_only _ _).mono (by simp))
        · exact (h1 _ _).step ((irqSource_only _ _).mono (by simp))
      · exact h1 _ _

theorem finish_only (s : State) (c : Taken) (st a b : Nat) (io : IoFail) : Only [.mem, .log, .host, .sad, .misc] s (s.finish c st a b io) :=
  complete_only s c.ring c.ep c.tag st a b io.cqWrite

theorem completeHeld_only (s : State) (h : HeldCmd) (st a b : Nat) : Only [.mem, .log, .host, .sad, .misc] s (s.completeHeld h st a b) := by
  refine Only.step ?_ (complete_only _ _ _ _ _ _ _ _)
  intro g hg; cases g <;> first | rfl | simp at hg

theorem countWait_only (s : State) (a f : Nat) : Only [.fab] s (s.countWait a f) := by
  intro g hg; cases g <;> first | rfl | simp at hg

theorem settleCredits_only (s : State) : Only [.fab, .dma, .app] s s.settleCredits := by
  unfold State.settleCredits; dsimp only
  refine Only.step (t := s.creditWaits.foldl (fun (s : State) w => s.countWait w.1 w.2) s) ?_ ?_
  · exact (Only.foldl _ (fun _ _ => countWait_only _ _ _) _ _).mono (by simp)
  · intro g hg; cases g <;> first | rfl | simp at hg

theorem anchorClocks_only (s : State) : Only [.time] s s.anchorClocks := by
  intro g hg; cases g <;> first | rfl | simp at hg

theorem setSerial_only (s : State) (l : List Taken) : Only [.host] s (s.setSerial l) := by
  intro g hg; cases g <;> first | rfl | simp at hg

/-- Correction of an HBM block: counters of the stack, and an event. -/
theorem checkBlock_only (s : State) (b p : Nat) (l : List Nat) : Only [.hbm, .log, .sad] s (s.checkBlock b p l).1 := by
  unfold State.checkBlock
  split
  · dsimp only
    split
    · refine Only.step ?_ ((logEv_only _ _ _ _ _).mono (by simp))
      intro g hg; cases g <;> first | rfl | simp at hg
    · intro g hg; cases g <;> first | rfl | simp at hg
  · exact Only.refl _ _

theorem seeHbm_only (s : State) (p a n : Nat) : Only [.hbm, .log, .sad] s (s.seeHbm p a n) := by
  unfold State.seeHbm
  split
  · exact Only.foldl _ (fun _ _ => checkBlock_only _ _ _ _) _ _
  · exact Only.refl _ _

theorem taken_only (s : State) (k : Fin 64) (f : RingSt → RingSt) (j : JobBlk) : Only [.host, .job] s ((s.updRing k f).setJob j) := by
  intro g hg; cases g <;> first | rfl | simp at hg

/-- The firmware's turn at ring k changes what the run of the command taken changes, beside the ring, the turn and the completion. -/
theorem takeNew_only (gs : List Grp) (s : State) (k : Fin 64) (io : IoFail) (op : Nat → Bool) (used : List (Nat × Nat))
    (run : State → Taken → State) (hg : [Grp.mem, .log, .host, .sad, .misc, .job, .hbm] ⊆ gs) (hr : ∀ t c, Only gs t (run t c)) :
    Only gs s (s.takeNew k io op used run) := by
  unfold State.takeNew; dsimp only
  have m : ∀ {l : List Grp} {s t : State}, Only l s t → l ⊆ [Grp.mem, .log, .host, .sad, .misc, .job, .hbm] → Only gs s t :=
    fun h hl => h.mono (List.Subset.trans hl hg)
  split
  · exact Only.refl _ _
  · split
    · exact m (ringError_only _ _ _) (by simp)
    · split
      · exact Only.refl _ _
      · have h1 : ∀ f j, Only gs s (((s.seeHbm 0x82 ((s.host.rings[k]).sqBase.toNat + 64 * (s.host.rings[k]).head) 64).updRing k f).setJob j) := by
          intro f j
          exact (m (seeHbm_only s 0x82 _ 64) (by simp)).step ((taken_only _ _ _ _).mono (List.Subset.trans (by simp) hg))
        split
        · exact (h1 _ _).step (m (complete_only _ _ _ _ _ _ _ _) (by simp))
        · split
          · exact (h1 _ _).step (m (setSerial_only _ _) (by simp))
          · exact (h1 _ _).step (hr _ _)

/-- A command taken from ring k, or one that has waited, changes what its run changes beside that. -/
theorem takeCommand_only (gs : List Grp) (s : State) (k : Fin 64) (io : IoFail) (op : Nat → Bool) (used : List (Nat × Nat))
    (run : State → Taken → State) (hg : [Grp.mem, .log, .host, .sad, .misc, .job, .hbm] ⊆ gs) (hr : ∀ t c, Only gs t (run t c)) :
    Only gs s (s.takeCommand k io op used run) := by
  unfold State.takeCommand
  split
  · split
    · exact ((setSerial_only _ _).mono (List.Subset.trans (by simp) hg)).step (hr _ _)
    · exact takeNew_only gs s k io op used run hg hr
  · exact takeNew_only gs s k io op used run hg hr

end Sys2Proof.Machine
end

