-- ==== Sys2Proof/Laws/Ring.lean ====
section
/-! SUPPORT. What taking a ring command and starting an instance come to, and what the advance of the FTB leaves. -/
namespace Sys2Proof.Machine

theorem seeHbm_host (s : State) (p a n : Nat) : (s.seeHbm p a n).host = s.host := seeHbm_only s p a n .host (by simp)

theorem takeCommand_eq (s : State) (k : Fin 64) (io : IoFail) (op : Nat → Bool) (n : Nat) (used : List (Nat × Nat)) (run : State → Taken → State)
    (h : Turn s k io n used) (ho : op n = true) : s.takeCommand k io op used run = run (s.afterTake k) (s.headCmd k) := by
  obtain ⟨h0, h1, h2, h3, h4, h5, h6⟩ := h
  have e : s.takeCommand k io op used run = s.takeNew k io op used run := by
    unfold State.takeCommand; rw [h0]
  have es : ∀ t : State, t.job.snap = s.job.snap → t.job.state = s.job.state → t.job.stopAt = s.job.stopAt → t.serialBusy = s.serialBusy := by
    intro t a b c; unfold State.serialBusy; rw [a, b, c]
  rw [e]
  unfold State.takeNew
  simp only [h1, h2, h3, h4, h6, ho, bne_self_eq_false, Bool.false_or, Bool.not_true, Bool.false_eq_true, if_false]
  have h7 : (s.afterTake k).host.serial = [] := (congrArg HostBlk.serial (seeHbm_host s 0x82 _ 64)).trans h0
  have h8 : (serialOp n && ((s.afterTake k).serialBusy || !(s.afterTake k).host.serial.isEmpty)) = false := by
    rw [h7, es (s.afterTake k) rfl rfl rfl]; simpa using h5
  exact if_neg fun c => Bool.false_ne_true (h8.symm.trans c)

@[simp] theorem headCmd_entry (s : State) (k : Fin 64) : (s.headCmd k).entry = s.sqEntry k := rfl
@[simp] theorem afterTake_mem (s : State) (k : Fin 64) : (s.afterTake k).mem = s.mem := seeHbm_only s 0x82 _ 64 .mem (by simp)
@[simp] theorem afterTake_job (s : State) (k : Fin 64) : (s.afterTake k).job = { s.job with lastRing := k.1 } := rfl
theorem afterTake_only (s : State) (k : Fin 64) : Only [.job, .host, .hbm, .log, .sad] s (s.afterTake k) := by
  unfold State.afterTake
  exact ((seeHbm_only s 0x82 _ 64).mono (by simp)).step ((taken_only _ _ _ _).mono (by simp))

@[simp] theorem afterTake_time (s : State) (k : Fin 64) : (s.afterTake k).time = s.time := afterTake_only s k .time (by simp)
@[simp] theorem afterTake_net (s : State) (k : Fin 64) : (s.afterTake k).net = s.net := afterTake_only s k .net (by simp)
@[simp] theorem afterTake_rel (s : State) (k : Fin 64) : (s.afterTake k).rel = s.rel := afterTake_only s k .rel (by simp)
@[simp] theorem afterTake_fab (s : State) (k : Fin 64) : (s.afterTake k).fab = s.fab := afterTake_only s k .fab (by simp)
@[simp] theorem afterTake_misc (s : State) (k : Fin 64) : (s.afterTake k).misc = s.misc := afterTake_only s k .misc (by simp)
@[simp] theorem afterTake_stamp (s : State) (k : Fin 64) : (s.afterTake k).stamp = s.stamp := afterTake_only s k .stamp (by simp)

@[simp] theorem finish_job (s : State) (c : Taken) (st a b : Nat) (io : IoFail) : (s.finish c st a b io).job = s.job :=
  finish_only s c st a b io .job (by simp)
@[simp] theorem finish_stamp (s : State) (c : Taken) (st a b : Nat) (io : IoFail) : (s.finish c st a b io).stamp = s.stamp :=
  finish_only s c st a b io .stamp (by simp)

theorem reach_ftb (s : State) (n : Nat) : (s.reach n).time.ftb = max s.time.ftb n := by
  unfold State.reach; split
  · omega
  · dsimp only; omega

@[simp] theorem reach_job (s : State) (n : Nat) : (s.reach n).job = s.job := reach_only s n .job (by simp)
@[simp] theorem reach_stamp (s : State) (n : Nat) : (s.reach n).stamp = s.stamp := reach_only s n .stamp (by simp)
@[simp] theorem reach_mgmt (s : State) (n : Nat) : (s.reach n).mgmt = s.mgmt := reach_only s n .mgmt (by simp)
@[simp] theorem reach_fab (s : State) (n : Nat) : (s.reach n).fab = s.fab := reach_only s n .fab (by simp)
@[simp] theorem reach_lan (s : State) (n : Nat) : (s.reach n).lan = s.lan := reach_only s n .lan (by simp)
@[simp] theorem reach_wick (s : State) (n : Nat) : (s.reach n).wick = s.wick := reach_only s n .wick (by simp)
@[simp] theorem reach_dma (s : State) (n : Nat) : (s.reach n).dma = s.dma := reach_only s n .dma (by simp)
@[simp] theorem reach_hbm (s : State) (n : Nat) : (s.reach n).hbm = s.hbm := reach_only s n .hbm (by simp)
@[simp] theorem reach_net (s : State) (n : Nat) : (s.reach n).net = s.net := reach_only s n .net (by simp)
@[simp] theorem reach_ur (s : State) (n : Nat) : (s.reach n).ur = s.ur := reach_only s n .ur (by simp)
@[simp] theorem reach_app (s : State) (n : Nat) : (s.reach n).app = s.app := reach_only s n .app (by simp)
@[simp] theorem reach_sad (s : State) (n : Nat) : (s.reach n).sad = s.sad := reach_only s n .sad (by simp)
@[simp] theorem reach_rel (s : State) (n : Nat) : (s.reach n).rel = s.rel := reach_only s n .rel (by simp)
@[simp] theorem reach_sec (s : State) (n : Nat) : (s.reach n).sec = s.sec := reach_only s n .sec (by simp)
@[simp] theorem reach_cfg (s : State) (n : Nat) : (s.reach n).cfg = s.cfg := reach_only s n .cfg (by simp)
@[simp] theorem reach_pending (s : State) (n : Nat) : (s.reach n).pending = s.pending := reach_only s n .pending (by simp)
@[simp] theorem settleCredits_mgmt (s : State) : s.settleCredits.mgmt = s.mgmt := settleCredits_only s .mgmt (by simp)
@[simp] theorem settleCredits_time (s : State) : s.settleCredits.time = s.time := settleCredits_only s .time (by simp)
@[simp] theorem anchorClocks_mgmt (s : State) : s.anchorClocks.mgmt = s.mgmt := rfl
@[simp] theorem anchorClocks_ftb (s : State) : s.anchorClocks.time.ftb = s.time.ftb := rfl
@[simp] theorem drain_time (s : State) : s.drain.time = s.time := drain_only s .time (by simp)
@[simp] theorem drain_mgmt (s : State) : s.drain.mgmt = s.mgmt := drain_only s .mgmt (by simp)

theorem startInst_eq (s : State) (i : Inst) (k : Nat) (e : TtEntry) (run : State → TtEntry → State) (h : Starts s i k e) :
    s.startInst k i run = run (s.startOf e i) e := by
  obtain ⟨h1, h2, h3⟩ := h
  unfold State.startInst; simp only [h1, h2, h3, and_self, if_true]; rfl

theorem startOf_only (s : State) (e : TtEntry) (i : Inst) : Only [.job, .time, .mem, .log, .host, .misc] s (s.startOf e i) := by
  refine ((reach_only s (s.startTick e i)).mono (by simp)).step ?_
  intro g hg; cases g <;> first | rfl | simp at hg

end Sys2Proof.Machine
end

