-- ==== Sys2Proof/Laws/Core.lean ====
section
/-! SUPPORT. What issuing an instruction comes to at both sites: one lemma for instructions that retire, one for those that trap. -/
namespace Sys2Proof.Machine

theorem upd_self {α : Type} {n : Nat} (v : Vector α n) (i : Fin n) (f : α → α) : (upd v i f)[i] = f v[i] := by simp [upd]
theorem upd_other {α : Type} {n : Nat} (v : Vector α n) (i j : Fin n) (f : α → α) (h : j ≠ i) : (upd v i f)[j] = v[j] := by
  have : i.1 ≠ j.1 := fun e => h (Fin.ext e.symm)
  simp [upd, this]

theorem Thread.same_refl (a : Thread) : Thread.same a a := ⟨rfl, rfl, rfl, rfl, rfl, rfl, rfl, rfl, rfl, rfl, rfl, rfl, rfl, rfl⟩
theorem settle_same (r c : Nat) (a b : Thread) (h : Thread.same a b) : Thread.same a (b.settle r c) := h

/-- What a write to CP_TAPER_OWNER that takes effect leaves: all but the owner. -/
theorem settleOwner_eq (k : Wick) : ∃ o d, k.settleOwner = { k with taperOwn := o, ownDue := d } := by
  unfold Wick.settleOwner
  split
  · split
    · exact ⟨_, _, rfl⟩
    · exact ⟨_, _, rfl⟩
  · exact ⟨_, _, rfl⟩

/-- Passing W-cycles leave all of a Wick but the cycle counts, the threads, the owner and the stalls. -/
theorem pass_eq (k : Wick) (r d : Nat) : ∃ o w, k.pass r d =
    { k with rho := k.rho + r, wcyc := k.wcyc + r + d, stalls := k.stalls + BitVec.ofNat 64 d
             threads := k.threads.map (Thread.settle (k.rho + r) (k.wcyc + r + d)), taperOwn := o, ownDue := w } := settleOwner_eq _

theorem pass_thread (k : Wick) (r d : Nat) (t : Fin 4) : (k.pass r d).threads[t] = (k.threads[t]).settle (k.rho + r) (k.wcyc + r + d) := by
  obtain ⟨o, w, h⟩ := pass_eq k r d
  rw [h]; simp
@[simp] theorem pass_sb (k : Wick) (r d : Nat) : (k.pass r d).sb = k.sb := by obtain ⟨o, w, h⟩ := pass_eq k r d; rw [h]
@[simp] theorem pass_irqPend (k : Wick) (r d : Nat) : (k.pass r d).irqPend = k.irqPend := by obtain ⟨o, w, h⟩ := pass_eq k r d; rw [h]
@[simp] theorem pass_taper (k : Wick) (r d : Nat) : (k.pass r d).taper = k.taper := by obtain ⟨o, w, h⟩ := pass_eq k r d; rw [h]
@[simp] theorem pass_testState (k : Wick) (r d : Nat) : (k.pass r d).testState = k.testState := by
  obtain ⟨o, w, h⟩ := pass_eq k r d; rw [h]; rfl
@[simp] theorem toSlot_sb (k : Wick) (t : Fin 4) : (k.toSlot t).sb = k.sb := pass_sb k _ 0
@[simp] theorem toSlot_irqPend (k : Wick) (t : Fin 4) : (k.toSlot t).irqPend = k.irqPend := pass_irqPend k _ 0
@[simp] theorem toSlot_taper (k : Wick) (t : Fin 4) : (k.toSlot t).taper = k.taper := pass_taper k _ 0
@[simp] theorem toSlot_testState (k : Wick) (t : Fin 4) : (k.toSlot t).testState = k.testState := pass_testState k _ 0
theorem toSlot_thread (k : Wick) (t u : Fin 4) :
    (k.toSlot t).threads[u] = (k.threads[u]).settle (k.rho + (k.slotOf t - k.rho)) (k.wcyc + (k.slotOf t - k.rho) + 0) := by
  unfold Wick.toSlot; exact pass_thread _ _ _ _

/-- No warm reset waits that was not waiting before. -/
theorem resetAfter_self (s t : State) (h : s.cfg.warmDue = t.cfg.warmDue) : s.resetAfter t = s := by
  unfold State.resetAfter
  split
  · rename_i a b; rw [h, a] at b; cases b
  · rfl

theorem slot_wick (s : State) (w : WkId) (t : Fin 4) : (s.slot w t).wick[w] = (s.wick[w]).toSlot t := by simp [State.slot, State.setWick, upd]
theorem slot_other (s : State) (w v : WkId) (t : Fin 4) (h : v ≠ w) : (s.slot w t).wick[v] = s.wick[v] := upd_other _ _ _ _ h

/-- Issue at a Wick comes to the run of the instruction in the state of its slot. -/
theorem issueWick_eq (s : State) (w : WkId) (t : Fin 4) (i : Instr) (len : Nat) (h : How) (run : State → Core → Run) (wide : Bool)
    (hi : Issues s w t i len) :
    s.issueWick w t .clean i h run =
      (let r := run (s.slot w t) (s.coreAt (.wick w t wide .clean) len)
       match r.exc with
       | some (c, a) => r.st.raise w t c a s.wick[w].threads[t].pc false 1
       | none => r.st.setWick w fun k =>
          let k := k.updT t fun th => th.finish len r
          let k := if r.reti then k.swapBanks t else k
          { k.pass 1 r.stall with
            pair := if h.alone || s.wick[w].threads[t].victim != .none then none
              else some (PairFirst.of t ((s.slot w t).wick[w].threads[t]) len h r (s.slot w t).wick[w].wcyc) }) := by
  obtain ⟨h1, h2, h3, h4⟩ := hi
  have e0 : (s.slot w t).wick[w] = (s.wick[w]).toSlot t := slot_wick s w t
  have ev : ((s.wick[w]).toSlot t).threads[t].victim = s.wick[w].threads[t].victim := by rw [toSlot_thread]; rfl
  have ep : ((s.wick[w]).toSlot t).threads[t].pc = s.wick[w].threads[t].pc := by rw [toSlot_thread]; rfl
  have ec : ((s.wick[w]).toSlot t).threads[t].core len = s.coreAt (.wick w t wide .clean) len := by rw [toSlot_thread]; rfl
  have et : ((s.wick[w]).toSlot t).testState = s.wick[w].testState := toSlot_testState _ _
  unfold State.issueWick
  have e1 : (s.setWick w fun k => k.toSlot t) = s.slot w t := rfl
  rw [if_neg (by rw [h1]; decide)]
  dsimp only
  rw [e1, e0, et]
  have c1 : (((s.wick[w]).toSlot t).threads[t].victim == .none && (((s.wick[w]).toSlot t).irqLine t).isSome) = false := by
    rw [ev]; by_cases hv : s.wick[w].threads[t].victim = .none
    · rw [h3 hv, hv]; rfl
    · rw [beq_eq_false_iff_ne.mpr hv]; rfl
  rw [c1, ← e0, h4, e0]
  simp only [bne_self_eq_false, Bool.false_eq_true, if_false]
  have c2 : (((s.wick[w]).toSlot t).threads[t].victim == .suppress) = false := by rw [ev]; exact beq_eq_false_iff_ne.mpr h2
  rw [c2, ec, ep, ev]
  simp only [Bool.false_eq_true, if_false]
  split <;> rename_i heq <;> (try rw [heq])
  all_goals first | rfl | (cases h.arith <;> rfl)

/-- Issue at a Saddler pair comes to the run of the instruction. -/
theorem issueSad_eq (s : State) (p : Fin 4) (b : Bool) (i : Instr) (len : Nat) (run : State → Core → Run)
    (hi : SiteReady s (.sad p b) i len) :
    s.issueSad p i run =
      (let r := run s (s.coreAt (.sad p b) len)
       match r.exc with
       | some (c, a) => r.st.raiseSad p c a
       | none => (r.st.setSad p fun q => q.finish len r).resetAfter s) := by
  obtain ⟨h1, h2, h3, h4, h5⟩ := hi
  unfold State.issueSad
  have c1 : (s.sad[p].fenced || s.sad[p].asleep || (s.sad[p].victim == .none && s.sad[p].irqLine.isSome)) = false := by
    rw [h1, h2]; by_cases hv : s.sad[p].victim = .none
    · rw [h4 hv, hv]; rfl
    · rw [beq_eq_false_iff_ne.mpr hv]; rfl
  dsimp only
  rw [c1, h5]
  simp only [bne_self_eq_false, Bool.false_eq_true, if_false]
  rw [beq_eq_false_iff_ne.mpr h3]
  simp only [Bool.false_eq_true, if_false]
  rfl

theorem ofNat_toNat_map (n : Nat) (l : List (BitVec n)) : (l.map (·.toNat)).map (BitVec.ofNat n ·) = l := by
  induction l <;> simp_all

theorem pass_same (k : Wick) (r d : Nat) (t : Fin 4) (a : Thread) (h : Thread.same a k.threads[t]) :
    Thread.same a (k.pass r d).threads[t] := by rw [pass_thread]; exact settle_same _ _ _ _ h

/-- An instruction of a Wick retires from a state in which its own effect has left the threads as they were. -/
theorem issueWick_retires (s : State) (w : WkId) (t : Fin 4) (wide : Bool) (i : Instr) (len : Nat) (h : How) (run : State → Core → Run) (st : State)
    (ws : List (G × W64)) (jump : Option Nat) (stk : Option (List Nat)) (v : Victim) (n : Nat) (hi : Issues s w t i len)
    (hrun : run (s.slot w t) (s.coreAt (.wick w t wide .clean) len) = ⟨st, none, ws, jump, stk, v, false, false, n⟩)
    (ht : ∀ r : Fin 4, st.wick[w].threads[r] = (s.slot w t).wick[w].threads[r]) (hb : st.wick[w].sb = s.wick[w].sb)
    (hp : st.wick[w].irqPend = s.wick[w].irqPend) (hx : st.wick[w].taper = s.wick[w].taper) (ho : ∀ u : WkId, u ≠ w → st.wick[u] = s.wick[u])
    (hs : Only [.wick] s st) :
    Retires s (s.issue (.wick w t wide .clean) i h run) (.wick w t wide .clean) (regSets (s.wick[w].threads[t]).g ws)
      (jump.getD (s.siteNext (.wick w t wide .clean) len)) (stk.getD (s.siteStack (.wick w t wide .clean))) := by
  show Retires s (s.issueWick w t .clean i h run) _ _ _ _
  rw [issueWick_eq s w t i len h run wide hi, hrun]
  dsimp only
  refine ⟨?_, ⟨?_, ?_, ?_, ?_, ?_⟩, ?_⟩
  · simp only [State.setWick, upd_self]
    apply pass_same
    simp only [Bool.false_eq_true, if_false, Wick.updT, upd_self, ht, slot_wick, toSlot_thread]
    have e1 : BitVec.ofNat 18 (s.siteNext (.wick w t wide .clean) len) = s.wick[w].threads[t].pc + BitVec.ofNat 18 len :=
      (BitVec.ofNat_toNat _ _).trans (BitVec.setWidth_eq _)
    have e2 : (s.siteStack (.wick w t wide .clean)).map (BitVec.ofNat 18 ·) = s.wick[w].threads[t].stack := ofNat_toNat_map 18 _
    cases jump <;> cases stk <;> simp only [Option.getD_none, Option.getD_some, e1, e2] <;>
      exact ⟨rfl, rfl, rfl, rfl, rfl, rfl, rfl, rfl, rfl, rfl, rfl, rfl, rfl, rfl⟩
  · intro r hrt
    simp only [State.setWick, upd_self]
    apply pass_same
    simp only [Bool.false_eq_true, if_false, Wick.updT, upd_other _ _ _ _ hrt, ht, slot_wick, toSlot_thread]
    exact Thread.same_refl _
  · simp only [State.setWick, upd_self, pass_sb]; exact hb
  · simp only [State.setWick, upd_self, pass_irqPend]; exact hp
  · simp only [State.setWick, upd_self, pass_taper]; exact hx
  · intro u hu
    simp only [State.setWick, upd_other _ _ _ _ hu]; exact ho u hu
  · refine hs.step ?_
    intro g hg; cases g <;> first | rfl | simp at hg

/-- An instruction of a Saddler pair retires. -/
theorem issueSad_retires (s : State) (p : Fin 4) (b : Bool) (i : Instr) (len : Nat) (h : How) (run : State → Core → Run) (ws : List (G × W64))
    (jump : Option Nat) (stk : Option (List Nat)) (v : Victim) (n : Nat) (hr : SiteReady s (.sad p b) i len)
    (hrun : run s (s.coreAt (.sad p b) len) = ⟨s, none, ws, jump, stk, v, false, false, n⟩) :
    Retires s (s.issue (.sad p b) i h run) (.sad p b) (regSets (s.sad[p]).g ws) (jump.getD (s.siteNext (.sad p b) len))
      (stk.getD (s.siteStack (.sad p b))) := by
  show Retires s (s.issueSad p i run) _ _ _ _
  rw [issueSad_eq s p b i len run hr, hrun]
  dsimp only
  rw [resetAfter_self (s.setSad p _) s rfl]
  have e1 : BitVec.ofNat 48 (s.siteNext (.sad p b) len) = s.sad[p].pc + BitVec.ofNat 48 len :=
    (BitVec.ofNat_toNat _ _).trans (BitVec.setWidth_eq _)
  have e2 : (s.siteStack (.sad p b)).map (BitVec.ofNat 48 ·) = s.sad[p].stack := ofNat_toNat_map 48 _
  refine ⟨?_, ?_, ?_, ?_, ?_, ?_, ?_, ?_, ?_, ?_⟩
  · simp only [State.setSad, upd_self]; rfl
  · simp only [State.setSad, upd_self]; cases jump
    · exact congrArg pairPc e1.symm
    · rfl
  · simp only [State.setSad, upd_self]; cases stk
    · exact e2.symm
    · rfl
  · simp only [State.setSad, upd_self]; rfl
  · simp only [State.setSad, upd_self]; rfl
  · simp only [State.setSad, upd_self]; rfl
  · simp only [State.setSad, upd_self]; rfl
  · simp only [State.setSad, upd_self]; rfl
  · intro q hq; exact upd_other _ _ _ _ hq
  · intro g hg; cases g <;> first | rfl | simp at hg

/-- An instruction that only writes registers, the return stack and the program counter retires. -/
theorem issue_retires (s : State) (x : Site) (i : Instr) (len : Nat) (h : How) (run : State → Core → Run) (ws : List (G × W64))
    (jump : Option Nat) (stk : Option (List Nat)) (v : Victim) (n : Nat) (hr : SiteReady s x i len)
    (hrun : run (s.atSite x) (s.coreAt x len) = ⟨s.atSite x, none, ws, jump, stk, v, false, false, n⟩) :
    Retires s (s.issue x i h run) x (regSets (s.siteRegs x) ws) (jump.getD (s.siteNext x len)) (stk.getD (s.siteStack x)) := by
  cases x with
  | wick w t wide res =>
    obtain ⟨rfl, hi⟩ := hr
    refine issueWick_retires s w t wide i len h run (s.slot w t) ws jump stk v n hi hrun (fun _ => rfl) ?_ ?_ ?_ (slot_other s w · t ·) ?_
    · rw [slot_wick, toSlot_sb]
    · rw [slot_wick, toSlot_irqPend]
    · rw [slot_wick, toSlot_taper]
    · intro g hg; cases g <;> first | rfl | simp at hg
  | sad p b => exact issueSad_retires s p b i len h run ws jump stk v n hr hrun

/-- Entry to a handler, or FAULTED, from the slot of a thread. -/
theorem raise_traps (s : State) (w : WkId) (t : Fin 4) (wide : Bool) (res : Residue) (c : Byte) (a : W64) (h8 : c ≠ 0x08) (h9 : c ≠ 0x09) :
    Traps s ((s.slot w t).raise w t c a s.wick[w].threads[t].pc false 1) (.wick w t wide res) c a := by
  have et : (s.slot w t).wick[w].threads[t] = (s.wick[w].threads[t]).settle (s.wick[w].rho + (s.wick[w].slotOf t - s.wick[w].rho))
      (s.wick[w].wcyc + (s.wick[w].slotOf t - s.wick[w].rho) + 0) := by rw [slot_wick, toSlot_thread]
  have ea : (s.slot w t).wick[w].threads[t].alt = s.wick[w].threads[t].alt := by rw [et]; rfl
  have es : (s.slot w t).wick[w].threads[t].stack = s.wick[w].threads[t].stack := by rw [et]; rfl
  unfold State.raise
  dsimp only
  rw [ea, es, beq_eq_false_iff_ne.mpr h8, beq_eq_false_iff_ne.mpr h9]
  refine ⟨?_, ?_⟩
  · intro h1 h2
    rw [if_neg (by rw [h1]; simpa using h2)]
    have key : ∀ k : Wick, (k.enter t s.wick[w].threads[t].pc (c.setWidth 64) a 0 1).threads[t] =
        Thread.settle (k.rho + 1) (k.wcyc + 1 + 2) { k.threads[t] with
          g := regSet (regSet (bankSwap k.threads[t].g k.threads[t].shadowG).1 30 (c.setWidth 64)) 31 a
          shadowG := (bankSwap k.threads[t].g k.threads[t].shadowG).2, alt := !k.threads[t].alt
          accSh := if k.owner == some t then k.taper.acc else k.threads[t].accSh
          stack := s.wick[w].threads[t].pc :: k.threads[t].stack, pc := 0, buf := [], coming := [] } := by
      intro k
      unfold Wick.enter; rw [pass_thread]
      simp only [Wick.updT, upd_self, Wick.swapBanks]
    simp only [State.setWick, upd_self]
    rw [key]
    simp only [Wick.updT, upd_self, et]
    refine ⟨rfl, ?_, rfl, rfl, ?_⟩
    · show (!s.wick[w].threads[t].alt) = true; rw [h1]; rfl
    · intro g hg; cases g <;> first | rfl | simp at hg
  · intro h1
    rw [if_pos (by rcases h1 with h1 | h1 <;> [rw [h1]; rw [decide_eq_true h1]] <;> simp)]
    unfold State.faultThread
    refine ⟨?_, ?_, rfl, ?_⟩
    · simp only [State.logEv, State.logAt, State.setWick, upd_self, pass_thread, Wick.updT, Thread.settle]
    · simp only [State.logEv, State.logAt, State.setWick, upd_self, pass_thread, Wick.updT]
      rw [et]; rfl
    · intro g hg; cases g <;> first | rfl | simp at hg

/-- An instruction that raises an exception traps. -/
theorem issue_traps (s : State) (x : Site) (i : Instr) (len : Nat) (h : How) (run : State → Core → Run) (c : Byte) (a : W64)
    (h8 : c ≠ 0x08) (h9 : c ≠ 0x09) (hr : SiteReady s x i len) (hrun : run (s.atSite x) (s.coreAt x len) = Run.raise (s.atSite x) c a) :
    Traps s (s.issue x i h run) x c a := by
  cases x with
  | wick w t wide res =>
    obtain ⟨rfl, hi⟩ := hr
    show Traps s (s.issueWick w t .clean i h run) _ _ _
    have hrun' : run (s.slot w t) (s.coreAt (.wick w t wide .clean) len) = Run.raise (s.slot w t) c a := hrun
    rw [issueWick_eq s w t i len h run wide hi, hrun']
    exact raise_traps s w t wide .clean c a h8 h9
  | sad p b =>
    show Traps s (s.issueSad p i run) _ _ _
    have hrun' : run s (s.coreAt (.sad p b) len) = Run.raise s c a := hrun
    rw [issueSad_eq s p b i len run hr, hrun']
    show Traps s (s.raiseSad p c a) _ _ _
    unfold State.raiseSad
    refine ⟨?_, ?_⟩
    · intro h1 h2
      dsimp only
      rw [if_neg (by rw [h1]; simpa using h2)]
      exact ⟨upd_self _ _ _, by intro g hg; cases g <;> first | rfl | simp at hg⟩
    · intro h1
      dsimp only
      rw [if_pos (by rcases h1 with h1 | h1 <;> [rw [h1]; rw [decide_eq_true h1]] <;> simp)]

end Sys2Proof.Machine
end

