-- ==== Sys2Proof/Laws/Mem.lean ====
section
/-! SUPPORT. The bytes of a number, and the sparse memories: read after write, and that every operation of a memory keeps its canonical form. -/
namespace Sys2Proof.Machine

/-! ## Bytes of a number -/

@[simp] theorem leBytes_length (n v : Nat) : (leBytes n v).length = n := by
  induction n generalizing v with
  | zero => rfl
  | succ n ih => simp [leBytes, ih]

theorem leNat_leBytes (n v : Nat) : leNat (leBytes n v) = v % 256 ^ n := by
  induction n generalizing v with
  | zero => simp [leBytes, leNat, Nat.mod_one]
  | succ n ih =>
    rw [leBytes, leNat, ih, Nat.pow_succ', Nat.mod_mul]
    rfl

theorem beNat_reverse (l : List Byte) : beNat l.reverse = leNat l := by
  induction l with
  | nil => rfl
  | cons b t ih =>
    have h : beNat (t.reverse ++ [b]) = 256 * beNat t.reverse + b.toNat := by simp only [beNat, List.foldl_append, List.foldl_cons, List.foldl_nil]
    rw [List.reverse_cons, h, ih, leNat, Nat.add_comm]

theorem beNat_beBytes (n v : Nat) : beNat (beBytes n v) = v % 256 ^ n := by rw [beBytes, beNat_reverse, leNat_leBytes]

/-- A field that ends within the first of two lists lies in it. -/
theorem slice_append {h l : List Byte} {o n : Nat} (e : o + n ≤ h.length) : slice (h ++ l) o n = slice h o n := by
  rw [slice, slice, List.drop_append_of_le_length (by omega), List.take_append_of_le_length (by rw [List.length_drop]; omega)]

/-! ## One key -/

theorem Sparse.wf_nil (d : Byte) : Sparse.wf d [] := ⟨List.Pairwise.nil, by simp⟩

theorem Sparse.wf_tail {d : Byte} {c : Host.Cell} {t : List Host.Cell} (h : Sparse.wf d (c :: t)) : Sparse.wf d t :=
  ⟨(List.pairwise_cons.1 h.1).2, fun x hx => h.2 x (List.mem_cons_of_mem _ hx)⟩

/-- A key below every listed one reads the default. -/
theorem Sparse.get_below (d : Byte) (m : List Host.Cell) (a : Nat) (h : ∀ c ∈ m, a < c.1) : Sparse.get d m a = d := by
  cases m with
  | nil => rfl
  | cons c t => simp [Sparse.get, h c (by simp)]

/-- Every key of the result is the key written or was listed. -/
theorem Sparse.mem_set {d : Byte} {m : List Host.Cell} {a : Nat} {v : Byte} {x : Host.Cell} (h : x ∈ Sparse.set d m a v) :
    (x = (a, v) ∧ v ≠ d) ∨ x ∈ m := by
  induction m with
  | nil => unfold Sparse.set at h; split at h <;> simp_all
  | cons c t ih =>
    unfold Sparse.set at h
    split at h
    · split at h <;> simp_all
    · split at h
      · split at h <;> simp_all
        tauto
      · rcases List.mem_cons.1 h with rfl | h
        · simp
        · rcases ih h with h | h
          · exact .inl h
          · exact .inr (List.mem_cons_of_mem _ h)

/-- A write keeps the canonical form. -/
theorem Sparse.set_wf {d : Byte} {m : List Host.Cell} (h : Sparse.wf d m) (a : Nat) (v : Byte) : Sparse.wf d (Sparse.set d m a v) := by
  refine ⟨?_, fun x hx => ?_⟩
  · induction m with
    | nil => unfold Sparse.set; split <;> simp
    | cons c t ih =>
      have hp := List.pairwise_cons.1 h.1
      unfold Sparse.set
      split
      · split
        · exact h.1
        · refine List.pairwise_cons.2 ⟨fun x hx => ?_, h.1⟩
          rcases List.mem_cons.1 hx with rfl | hx
          · assumption
          · exact lt_trans (by assumption) (hp.1 x hx)
      · split
        · rename_i e
          split
          · exact hp.2
          · exact List.pairwise_cons.2 ⟨fun x hx => by simpa [e] using hp.1 x hx, hp.2⟩
        · refine List.pairwise_cons.2 ⟨fun x hx => ?_, ih (Sparse.wf_tail h)⟩
          rcases Sparse.mem_set hx with ⟨rfl, _⟩ | hx
          · simp only; omega
          · exact hp.1 x hx
  · rcases Sparse.mem_set hx with ⟨rfl, hv⟩ | hx
    · exact hv
    · exact h.2 x hx

/-- Read after write. -/
theorem Sparse.get_set {d : Byte} {m : List Host.Cell} (h : Sparse.wf d m) (a b : Nat) (v : Byte) :
    Sparse.get d (Sparse.set d m a v) b = if b = a then v else Sparse.get d m b := by
  induction m with
  | nil =>
    unfold Sparse.set
    by_cases e : b = a
    · subst e; split <;> simp_all [Sparse.get]
    · split <;> simp [Sparse.get, e]
  | cons c t ih =>
    have hp := List.pairwise_cons.1 h.1
    have low : ∀ k, k ≤ c.1 → Sparse.get d t k = d := fun k hk => Sparse.get_below d t k fun x hx => lt_of_le_of_lt hk (hp.1 x hx)
    have ih := ih (Sparse.wf_tail h)
    unfold Sparse.set
    split
    · split
      · split
        · subst_vars; simp [Sparse.get, *]
        · rfl
      · by_cases e : b = a
        · subst e; simp [Sparse.get]
        · by_cases l : b < a
          · have : b < c.1 := by omega
            simp [Sparse.get, e, l, this]
          · simp [Sparse.get, e, l]
    · split
      · rename_i e
        split
        · by_cases eb : b = a
          · subst_vars; simp [low]
          · by_cases l : b < c.1
            · simp [Sparse.get, eb, l, low b (by omega)]
            · have : b ≠ c.1 := by omega
              simp [Sparse.get, eb, l, this]
        · by_cases eb : b = a
          · subst eb; simp [Sparse.get]
          · have : b ≠ c.1 := by omega
            simp only [Sparse.get, ← e, eb, if_false]
      · by_cases eb : b = a
        · subst eb
          have h1 : ¬ b < c.1 := by assumption
          have h2 : ¬ b = c.1 := by assumption
          simp [Sparse.get, h1, h2, ih]
        · simp only [Sparse.get, ih, eb, if_false]

/-! ## Ranges -/

theorem Sparse.write_wf {d : Byte} {m : List Host.Cell} (h : Sparse.wf d m) (a : Nat) (l : List Byte) : Sparse.wf d (Sparse.write d m a l) := by
  induction l generalizing m a with
  | nil => exact h
  | cons b t ih => exact ih (Sparse.set_wf h a b) _

/-- Read after a write of several bytes. -/
theorem Sparse.get_write {d : Byte} {m : List Host.Cell} (h : Sparse.wf d m) (a b : Nat) (l : List Byte) :
    Sparse.get d (Sparse.write d m a l) b = if a ≤ b ∧ b < a + l.length then l.getD (b - a) 0 else Sparse.get d m b := by
  induction l generalizing m a with
  | nil => simp only [Sparse.write, List.length_nil]; rw [if_neg (by omega)]
  | cons x t ih =>
    simp only [Sparse.write, ih (Sparse.set_wf h a x), Sparse.get_set h, List.length_cons]
    by_cases h1 : b = a
    · subst h1; simp
    · by_cases h2 : a ≤ b ∧ b < a + (t.length + 1)
      · have h3 : a + 1 ≤ b ∧ b < a + 1 + t.length := by omega
        obtain ⟨k, rfl⟩ : ∃ k, b = a + 1 + k := ⟨b - (a + 1), by omega⟩
        rw [if_pos h3, if_pos h2, show a + 1 + k - (a + 1) = k by omega, show a + 1 + k - a = k + 1 by omega]
        simp
      · have h3 : ¬ (a + 1 ≤ b ∧ b < a + 1 + t.length) := by omega
        rw [if_neg h3, if_neg h2, if_neg h1]

theorem Sparse.filter_wf {d : Byte} {m : List Host.Cell} (h : Sparse.wf d m) (p : Host.Cell → Bool) : Sparse.wf d (m.filter p) :=
  ⟨h.1.filter _, fun x hx => h.2 x (List.mem_of_mem_filter hx)⟩

theorem Sparse.clear_wf {d : Byte} {m : List Host.Cell} (h : Sparse.wf d m) (lo hi : Nat) : Sparse.wf d (Sparse.clear m lo hi) :=
  Sparse.filter_wf h _

theorem Sparse.copy_wf {d : Byte} {m : List Host.Cell} (h : Sparse.wf d m) (a b n : Nat) : Sparse.wf d (Sparse.copy d m a b n) := by
  unfold Sparse.copy
  generalize m.filter (fun c => decide (a ≤ c.1 ∧ c.1 < a + n)) = l
  have key : ∀ (l : List Host.Cell) (m' : List Host.Cell), Sparse.wf d m' →
      Sparse.wf d (l.foldl (fun m c => Sparse.set d m (c.1 - a + b) c.2) m') := by
    intro l
    induction l with
    | nil => intro m' h'; exact h'
    | cons c t ih => intro m' h'; exact ih _ (Sparse.set_wf h' _ _)
  exact key l _ (Sparse.clear_wf h b (b + n))

/-! ## The memories -/

theorem MemBlk.reset_wf : MemBlk.reset.wf :=
  ⟨Sparse.wf_nil _, Sparse.wf_nil _, Sparse.wf_nil _, Sparse.wf_nil _, Sparse.wf_nil _, Sparse.wf_nil _⟩

variable {m : MemBlk}

theorem MemBlk.write_wf (h : m.wf) (a : Nat) (l : List Byte) : (m.write a l).wf := ⟨Sparse.write_wf h.1 a l, h.2⟩
theorem MemBlk.setTag_wf (h : m.wf) (r : Nat) (t : Byte) : (m.setTag r t).wf := ⟨h.1, Sparse.set_wf h.2.1 r t, h.2.2⟩
theorem MemBlk.setPoison_wf (h : m.wf) (r : Nat) (p : Bool) : (m.setPoison r p).wf := ⟨h.1, h.2.1, Sparse.set_wf h.2.2.1 r _, h.2.2.2⟩
theorem MemBlk.setEcc_wf (h : m.wf) (a : Nat) (v : Byte) : (m.setEcc a v).wf :=
  ⟨h.1, h.2.1, h.2.2.1, Sparse.set_wf h.2.2.2.1 a v, h.2.2.2.2⟩
theorem MemBlk.setSbEcc_wf (h : m.wf) (a : Nat) (v : Byte) : ({ m with sbEcc := Sparse.set 0 m.sbEcc a v } : MemBlk).wf :=
  ⟨h.1, h.2.1, h.2.2.1, h.2.2.2.1, Sparse.set_wf h.2.2.2.2.1 a v, h.2.2.2.2.2⟩
theorem MemBlk.flashWrite_wf (h : m.wf) (o : Nat) (l : List Byte) : (m.flashWrite o l).wf :=
  ⟨h.1, h.2.1, h.2.2.1, h.2.2.2.1, h.2.2.2.2.1, Sparse.write_wf h.2.2.2.2.2 o l⟩

/-- A fold of steps that keep the form keeps it. -/
theorem MemBlk.foldl_wf {α : Type} (f : MemBlk → α → MemBlk) (hf : ∀ m x, m.wf → (f m x).wf) (l : List α) (h : m.wf) : (l.foldl f m).wf := by
  induction l generalizing m with
  | nil => exact h
  | cons x t ih => exact ih (hf m x h)

theorem MemBlk.merge_wf (h : m.wf) (a : Nat) (l : List Byte) : (m.merge a l).wf :=
  MemBlk.foldl_wf _ (fun _ _ k => MemBlk.setEcc_wf k _ _) _ (MemBlk.write_wf h a l)

theorem MemBlk.writeRow_wf (h : m.wf) (r : Nat) (k : BitVec 16) (x : Row) (t : Byte) (p : Bool) : (m.writeRow r k x t p).wf := by
  unfold MemBlk.writeRow
  dsimp only
  have h1 : (allSectors.foldl (fun m i => if k.getLsbD i then (m.write (r + 32 * i) (slice (rowBytes x) (32 * i) 32)).setEcc (r + 32 * i) 0 else m) m).wf := by
    refine MemBlk.foldl_wf _ (fun m i hm => ?_) _ h
    split
    · exact MemBlk.setEcc_wf (MemBlk.write_wf hm _ _) _ _
    · exact hm
  generalize allSectors.foldl (fun m i => if k.getLsbD i then (m.write (r + 32 * i) (slice (rowBytes x) (32 * i) 32)).setEcc (r + 32 * i) 0 else m) m = y at h1
  have h2 : ({ y.setTag r t with sbEcc := Sparse.set 0 y.sbEcc r 0 } : MemBlk).wf := MemBlk.setSbEcc_wf (MemBlk.setTag_wf h1 r t) r 0
  split
  · exact MemBlk.setPoison_wf h2 _ _
  · split
    · exact MemBlk.setPoison_wf h2 _ _
    · exact h2

theorem MemBlk.writeBlock_wf (h : m.wf) (a : Nat) (x : Row) (p : Bool) : (m.writeBlock a x p).wf :=
  MemBlk.foldl_wf _ (fun _ _ k => MemBlk.setEcc_wf k _ _) _ (MemBlk.setPoison_wf (MemBlk.write_wf h _ _) _ _)

theorem MemBlk.writePart_wf (h : m.wf) (a : Nat) (l : List Byte) (p : Bool) : (m.writePart a l p).wf := by
  unfold MemBlk.writePart
  split
  · exact MemBlk.writeBlock_wf h _ _ _
  · dsimp only
    refine MemBlk.foldl_wf _ (fun m i hm => ?_) _ ?_
    · split
      · exact MemBlk.setEcc_wf hm _ _
      · exact hm
    · split
      · exact MemBlk.setPoison_wf (MemBlk.write_wf h _ _) _ _
      · exact MemBlk.write_wf h _ _

theorem MemBlk.writeSectors_wf (h : m.wf) (a : Nat) (k : BitVec 16) (x : Row) (p : Bool) : (m.writeSectors a k x p).wf := by
  unfold MemBlk.writeSectors
  split
  · exact MemBlk.writeBlock_wf h _ _ _
  · dsimp only
    have h1 : ((List.range 8).foldl (fun (m : MemBlk) i => if k.getLsbD (2 * i) && k.getLsbD (2 * i + 1) then m.setEcc (a + 64 * i) 0 else m)
        (allSectors.foldl (fun m i => if k.getLsbD i then m.write (a + 32 * i) (slice (rowBytes x) (32 * i) 32) else m) m)).wf := by
      refine MemBlk.foldl_wf _ (fun m i hm => ?_) _ (MemBlk.foldl_wf _ (fun m i hm => ?_) _ h)
      · split
        · exact MemBlk.setEcc_wf hm _ _
        · exact hm
      · split
        · exact MemBlk.write_wf hm _ _
        · exact hm
    split
    · exact MemBlk.setPoison_wf h1 _ _
    · exact h1

theorem MemBlk.load_wf (h : m.wf) (a : Nat) (l : List Byte) : (m.load a l).wf :=
  have k := MemBlk.write_wf h a l
  ⟨k.1, k.2.1, k.2.2.1, Sparse.clear_wf k.2.2.2.1 _ _, k.2.2.2.2⟩

theorem MemBlk.loadRows_wf (h : m.wf) (a : Nat) (l : List Byte) : (m.loadRows a l).wf :=
  have k := MemBlk.load_wf h a l
  ⟨k.1, Sparse.clear_wf k.2.1 _ _, Sparse.clear_wf k.2.2.1 _ _, k.2.2.2.1, Sparse.clear_wf k.2.2.2.2.1 _ _, k.2.2.2.2.2⟩

theorem MemBlk.putRows_wf (h : m.wf) (rows : List Nat) (l : List Byte) : (m.putRows rows l).wf :=
  MemBlk.foldl_wf _ (fun _ _ k => MemBlk.writeRow_wf k _ _ _ _ _) _ h

theorem MemBlk.copyUnit_wf (h : m.wf) (a b n : Nat) : (m.copyUnit a b n).wf :=
  ⟨Sparse.copy_wf h.1 a b n, Sparse.copy_wf h.2.1 a b n, Sparse.copy_wf h.2.2.1 a b n, Sparse.clear_wf h.2.2.2.1 _ _,
    Sparse.clear_wf h.2.2.2.2.1 _ _, h.2.2.2.2.2⟩

theorem MemBlk.program_wf (h : m.wf) (o : Nat) (l : List Byte) : (m.program o l).wf := by
  refine MemBlk.flashWrite_wf ?_ o l
  exact ⟨h.1, h.2.1, h.2.2.1, h.2.2.2.1, h.2.2.2.2.1, Sparse.clear_wf h.2.2.2.2.2 _ _⟩

theorem MemBlk.afterReset_wf (h : m.wf) (k : RstKind) : (m.afterReset k).wf :=
  ⟨Sparse.filter_wf h.1 _, Sparse.filter_wf h.2.1 _, Sparse.filter_wf h.2.2.1 _, Sparse.filter_wf h.2.2.2.1 _,
    Sparse.filter_wf h.2.2.2.2.1 _, h.2.2.2.2.2⟩

/-- Read after write: the byte written, and every other byte as before. -/
theorem MemBlk.byte_write (h : m.wf) (a b : Nat) (l : List Byte) :
    (m.write a l).byte b = if a ≤ b ∧ b < a + l.length then l.getD (b - a) 0 else m.byte b := Sparse.get_write h.1 a b l
theorem MemBlk.tag_setTag (h : m.wf) (r q : Nat) (t : Byte) : (m.setTag r t).tag q = if q = r then t else m.tag q := Sparse.get_set h.2.1 r q t
theorem MemBlk.poisoned_setPoison (h : m.wf) (r q : Nat) (p : Bool) : (m.setPoison r p).poisoned q = if q = r then p else m.poisoned q := by
  unfold MemBlk.poisoned MemBlk.setPoison
  rw [Sparse.get_set h.2.2.1]
  split
  · cases p <;> rfl
  · rfl

end Sys2Proof.Machine
end

