-- ==== Sys2Proof/Laws/State.lean ====
section
/-! SUPPORT. What each setter of a group of the state leaves in each group, and the laws of a vector with one element replaced. -/
namespace Sys2Proof.Machine

theorem upd_get {α : Type} {n : Nat} (v : Vector α n) (i j : Fin n) (f : α → α) : (upd v i f)[j] = if i = j then f v[i] else v[j] := by
  unfold upd; simp only [Fin.getElem_fin, Vector.getElem_set, Fin.ext_iff]

theorem upd_get_self {α : Type} {n : Nat} (v : Vector α n) (i : Fin n) (f : α → α) : (upd v i f)[i] = f v[i] := by rw [upd_get, if_pos rfl]

theorem upd_get_ne {α : Type} {n : Nat} (v : Vector α n) {i j : Fin n} (f : α → α) (h : i ≠ j) : (upd v i f)[j] = v[j] := by rw [upd_get, if_neg h]

theorem toFin?_val {n : Nat} (i : Fin n) : toFin? n i.1 = some i := by simp [toFin?]

theorem updNat_fin {α : Type} {n : Nat} (v : Vector α n) (i : Fin n) (f : α → α) : updNat v i.1 f = upd v i f := by simp [updNat, toFin?_val]

@[simp] theorem State.setTime_pending (s : State) (x : TimeBlk) : (s.setTime x).pending = s.pending := rfl
@[simp] theorem State.setTime_time (s : State) (x : TimeBlk) : (s.setTime x).time = x := rfl
@[simp] theorem State.setTime_log (s : State) (x : TimeBlk) : (s.setTime x).log = s.log := rfl
@[simp] theorem State.setTime_mem (s : State) (x : TimeBlk) : (s.setTime x).mem = s.mem := rfl
@[simp] theorem State.setTime_lan (s : State) (x : TimeBlk) : (s.setTime x).lan = s.lan := rfl
@[simp] theorem State.setTime_wick (s : State) (x : TimeBlk) : (s.setTime x).wick = s.wick := rfl
@[simp] theorem State.setTime_dma (s : State) (x : TimeBlk) : (s.setTime x).dma = s.dma := rfl
@[simp] theorem State.setTime_hbm (s : State) (x : TimeBlk) : (s.setTime x).hbm = s.hbm := rfl
@[simp] theorem State.setTime_fab (s : State) (x : TimeBlk) : (s.setTime x).fab = s.fab := rfl
@[simp] theorem State.setTime_job (s : State) (x : TimeBlk) : (s.setTime x).job = s.job := rfl
@[simp] theorem State.setTime_net (s : State) (x : TimeBlk) : (s.setTime x).net = s.net := rfl
@[simp] theorem State.setTime_ur (s : State) (x : TimeBlk) : (s.setTime x).ur = s.ur := rfl
@[simp] theorem State.setTime_host (s : State) (x : TimeBlk) : (s.setTime x).host = s.host := rfl
@[simp] theorem State.setTime_app (s : State) (x : TimeBlk) : (s.setTime x).app = s.app := rfl
@[simp] theorem State.setTime_sad (s : State) (x : TimeBlk) : (s.setTime x).sad = s.sad := rfl
@[simp] theorem State.setTime_rel (s : State) (x : TimeBlk) : (s.setTime x).rel = s.rel := rfl
@[simp] theorem State.setTime_stamp (s : State) (x : TimeBlk) : (s.setTime x).stamp = s.stamp := rfl
@[simp] theorem State.setTime_sec (s : State) (x : TimeBlk) : (s.setTime x).sec = s.sec := rfl
@[simp] theorem State.setTime_cfg (s : State) (x : TimeBlk) : (s.setTime x).cfg = s.cfg := rfl
@[simp] theorem State.setTime_mgmt (s : State) (x : TimeBlk) : (s.setTime x).mgmt = s.mgmt := rfl
@[simp] theorem State.setTime_misc (s : State) (x : TimeBlk) : (s.setTime x).misc = s.misc := rfl

@[simp] theorem State.setLog_pending (s : State) (x : LogBlk) : (s.setLog x).pending = s.pending := rfl
@[simp] theorem State.setLog_time (s : State) (x : LogBlk) : (s.setLog x).time = s.time := rfl
@[simp] theorem State.setLog_log (s : State) (x : LogBlk) : (s.setLog x).log = x := rfl
@[simp] theorem State.setLog_mem (s : State) (x : LogBlk) : (s.setLog x).mem = s.mem := rfl
@[simp] theorem State.setLog_lan (s : State) (x : LogBlk) : (s.setLog x).lan = s.lan := rfl
@[simp] theorem State.setLog_wick (s : State) (x : LogBlk) : (s.setLog x).wick = s.wick := rfl
@[simp] theorem State.setLog_dma (s : State) (x : LogBlk) : (s.setLog x).dma = s.dma := rfl
@[simp] theorem State.setLog_hbm (s : State) (x : LogBlk) : (s.setLog x).hbm = s.hbm := rfl
@[simp] theorem State.setLog_fab (s : State) (x : LogBlk) : (s.setLog x).fab = s.fab := rfl
@[simp] theorem State.setLog_job (s : State) (x : LogBlk) : (s.setLog x).job = s.job := rfl
@[simp] theorem State.setLog_net (s : State) (x : LogBlk) : (s.setLog x).net = s.net := rfl
@[simp] theorem State.setLog_ur (s : State) (x : LogBlk) : (s.setLog x).ur = s.ur := rfl
@[simp] theorem State.setLog_host (s : State) (x : LogBlk) : (s.setLog x).host = s.host := rfl
@[simp] theorem State.setLog_app (s : State) (x : LogBlk) : (s.setLog x).app = s.app := rfl
@[simp] theorem State.setLog_sad (s : State) (x : LogBlk) : (s.setLog x).sad = s.sad := rfl
@[simp] theorem State.setLog_rel (s : State) (x : LogBlk) : (s.setLog x).rel = s.rel := rfl
@[simp] theorem State.setLog_stamp (s : State) (x : LogBlk) : (s.setLog x).stamp = s.stamp := rfl
@[simp] theorem State.setLog_sec (s : State) (x : LogBlk) : (s.setLog x).sec = s.sec := rfl
@[simp] theorem State.setLog_cfg (s : State) (x : LogBlk) : (s.setLog x).cfg = s.cfg := rfl
@[simp] theorem State.setLog_mgmt (s : State) (x : LogBlk) : (s.setLog x).mgmt = s.mgmt := rfl
@[simp] theorem State.setLog_misc (s : State) (x : LogBlk) : (s.setLog x).misc = s.misc := rfl

@[simp] theorem State.setMem_pending (s : State) (x : MemBlk) : (s.setMem x).pending = s.pending := rfl
@[simp] theorem State.setMem_time (s : State) (x : MemBlk) : (s.setMem x).time = s.time := rfl
@[simp] theorem State.setMem_log (s : State) (x : MemBlk) : (s.setMem x).log = s.log := rfl
@[simp] theorem State.setMem_mem (s : State) (x : MemBlk) : (s.setMem x).mem = x := rfl
@[simp] theorem State.setMem_lan (s : State) (x : MemBlk) : (s.setMem x).lan = s.lan := rfl
@[simp] theorem State.setMem_wick (s : State) (x : MemBlk) : (s.setMem x).wick = s.wick := rfl
@[simp] theorem State.setMem_dma (s : State) (x : MemBlk) : (s.setMem x).dma = s.dma := rfl
@[simp] theorem State.setMem_hbm (s : State) (x : MemBlk) : (s.setMem x).hbm = s.hbm := rfl
@[simp] theorem State.setMem_fab (s : State) (x : MemBlk) : (s.setMem x).fab = s.fab := rfl
@[simp] theorem State.setMem_job (s : State) (x : MemBlk) : (s.setMem x).job = s.job := rfl
@[simp] theorem State.setMem_net (s : State) (x : MemBlk) : (s.setMem x).net = s.net := rfl
@[simp] theorem State.setMem_ur (s : State) (x : MemBlk) : (s.setMem x).ur = s.ur := rfl
@[simp] theorem State.setMem_host (s : State) (x : MemBlk) : (s.setMem x).host = s.host := rfl
@[simp] theorem State.setMem_app (s : State) (x : MemBlk) : (s.setMem x).app = s.app := rfl
@[simp] theorem State.setMem_sad (s : State) (x : MemBlk) : (s.setMem x).sad = s.sad := rfl
@[simp] theorem State.setMem_rel (s : State) (x : MemBlk) : (s.setMem x).rel = s.rel := rfl
@[simp] theorem State.setMem_stamp (s : State) (x : MemBlk) : (s.setMem x).stamp = s.stamp := rfl
@[simp] theorem State.setMem_sec (s : State) (x : MemBlk) : (s.setMem x).sec = s.sec := rfl
@[simp] theorem State.setMem_cfg (s : State) (x : MemBlk) : (s.setMem x).cfg = s.cfg := rfl
@[simp] theorem State.setMem_mgmt (s : State) (x : MemBlk) : (s.setMem x).mgmt = s.mgmt := rfl
@[simp] theorem State.setMem_misc (s : State) (x : MemBlk) : (s.setMem x).misc = s.misc := rfl

@[simp] theorem State.setLan_pending (s : State) (n : LnId) (f : Lantern → Lantern) : (s.setLan n f).pending = s.pending := rfl
@[simp] theorem State.setLan_time (s : State) (n : LnId) (f : Lantern → Lantern) : (s.setLan n f).time = s.time := rfl
@[simp] theorem State.setLan_log (s : State) (n : LnId) (f : Lantern → Lantern) : (s.setLan n f).log = s.log := rfl
@[simp] theorem State.setLan_mem (s : State) (n : LnId) (f : Lantern → Lantern) : (s.setLan n f).mem = s.mem := rfl
@[simp] theorem State.setLan_lan (s : State) (n : LnId) (f : Lantern → Lantern) : (s.setLan n f).lan = upd s.lan n f := rfl
@[simp] theorem State.setLan_wick (s : State) (n : LnId) (f : Lantern → Lantern) : (s.setLan n f).wick = s.wick := rfl
@[simp] theorem State.setLan_dma (s : State) (n : LnId) (f : Lantern → Lantern) : (s.setLan n f).dma = s.dma := rfl
@[simp] theorem State.setLan_hbm (s : State) (n : LnId) (f : Lantern → Lantern) : (s.setLan n f).hbm = s.hbm := rfl
@[simp] theorem State.setLan_fab (s : State) (n : LnId) (f : Lantern → Lantern) : (s.setLan n f).fab = s.fab := rfl
@[simp] theorem State.setLan_job (s : State) (n : LnId) (f : Lantern → Lantern) : (s.setLan n f).job = s.job := rfl
@[simp] theorem State.setLan_net (s : State) (n : LnId) (f : Lantern → Lantern) : (s.setLan n f).net = s.net := rfl
@[simp] theorem State.setLan_ur (s : State) (n : LnId) (f : Lantern → Lantern) : (s.setLan n f).ur = s.ur := rfl
@[simp] theorem State.setLan_host (s : State) (n : LnId) (f : Lantern → Lantern) : (s.setLan n f).host = s.host := rfl
@[simp] theorem State.setLan_app (s : State) (n : LnId) (f : Lantern → Lantern) : (s.setLan n f).app = s.app := rfl
@[simp] theorem State.setLan_sad (s : State) (n : LnId) (f : Lantern → Lantern) : (s.setLan n f).sad = s.sad := rfl
@[simp] theorem State.setLan_rel (s : State) (n : LnId) (f : Lantern → Lantern) : (s.setLan n f).rel = s.rel := rfl
@[simp] theorem State.setLan_stamp (s : State) (n : LnId) (f : Lantern → Lantern) : (s.setLan n f).stamp = s.stamp := rfl
@[simp] theorem State.setLan_sec (s : State) (n : LnId) (f : Lantern → Lantern) : (s.setLan n f).sec = s.sec := rfl
@[simp] theorem State.setLan_cfg (s : State) (n : LnId) (f : Lantern → Lantern) : (s.setLan n f).cfg = s.cfg := rfl
@[simp] theorem State.setLan_mgmt (s : State) (n : LnId) (f : Lantern → Lantern) : (s.setLan n f).mgmt = s.mgmt := rfl
@[simp] theorem State.setLan_misc (s : State) (n : LnId) (f : Lantern → Lantern) : (s.setLan n f).misc = s.misc := rfl

@[simp] theorem State.setWick_pending (s : State) (n : WkId) (f : Wick → Wick) : (s.setWick n f).pending = s.pending := rfl
@[simp] theorem State.setWick_time (s : State) (n : WkId) (f : Wick → Wick) : (s.setWick n f).time = s.time := rfl
@[simp] theorem State.setWick_log (s : State) (n : WkId) (f : Wick → Wick) : (s.setWick n f).log = s.log := rfl
@[simp] theorem State.setWick_mem (s : State) (n : WkId) (f : Wick → Wick) : (s.setWick n f).mem = s.mem := rfl
@[simp] theorem State.setWick_lan (s : State) (n : WkId) (f : Wick → Wick) : (s.setWick n f).lan = s.lan := rfl
@[simp] theorem State.setWick_wick (s : State) (n : WkId) (f : Wick → Wick) : (s.setWick n f).wick = upd s.wick n f := rfl
@[simp] theorem State.setWick_dma (s : State) (n : WkId) (f : Wick → Wick) : (s.setWick n f).dma = s.dma := rfl
@[simp] theorem State.setWick_hbm (s : State) (n : WkId) (f : Wick → Wick) : (s.setWick n f).hbm = s.hbm := rfl
@[simp] theorem State.setWick_fab (s : State) (n : WkId) (f : Wick → Wick) : (s.setWick n f).fab = s.fab := rfl
@[simp] theorem State.setWick_job (s : State) (n : WkId) (f : Wick → Wick) : (s.setWick n f).job = s.job := rfl
@[simp] theorem State.setWick_net (s : State) (n : WkId) (f : Wick → Wick) : (s.setWick n f).net = s.net := rfl
@[simp] theorem State.setWick_ur (s : State) (n : WkId) (f : Wick → Wick) : (s.setWick n f).ur = s.ur := rfl
@[simp] theorem State.setWick_host (s : State) (n : WkId) (f : Wick → Wick) : (s.setWick n f).host = s.host := rfl
@[simp] theorem State.setWick_app (s : State) (n : WkId) (f : Wick → Wick) : (s.setWick n f).app = s.app := rfl
@[simp] theorem State.setWick_sad (s : State) (n : WkId) (f : Wick → Wick) : (s.setWick n f).sad = s.sad := rfl
@[simp] theorem State.setWick_rel (s : State) (n : WkId) (f : Wick → Wick) : (s.setWick n f).rel = s.rel := rfl
@[simp] theorem State.setWick_stamp (s : State) (n : WkId) (f : Wick → Wick) : (s.setWick n f).stamp = s.stamp := rfl
@[simp] theorem State.setWick_sec (s : State) (n : WkId) (f : Wick → Wick) : (s.setWick n f).sec = s.sec := rfl
@[simp] theorem State.setWick_cfg (s : State) (n : WkId) (f : Wick → Wick) : (s.setWick n f).cfg = s.cfg := rfl
@[simp] theorem State.setWick_mgmt (s : State) (n : WkId) (f : Wick → Wick) : (s.setWick n f).mgmt = s.mgmt := rfl
@[simp] theorem State.setWick_misc (s : State) (n : WkId) (f : Wick → Wick) : (s.setWick n f).misc = s.misc := rfl

@[simp] theorem State.setEng_pending (s : State) (n : Fin 4) (f : Engine → Engine) : (s.setEng n f).pending = s.pending := rfl
@[simp] theorem State.setEng_time (s : State) (n : Fin 4) (f : Engine → Engine) : (s.setEng n f).time = s.time := rfl
@[simp] theorem State.setEng_log (s : State) (n : Fin 4) (f : Engine → Engine) : (s.setEng n f).log = s.log := rfl
@[simp] theorem State.setEng_mem (s : State) (n : Fin 4) (f : Engine → Engine) : (s.setEng n f).mem = s.mem := rfl
@[simp] theorem State.setEng_lan (s : State) (n : Fin 4) (f : Engine → Engine) : (s.setEng n f).lan = s.lan := rfl
@[simp] theorem State.setEng_wick (s : State) (n : Fin 4) (f : Engine → Engine) : (s.setEng n f).wick = s.wick := rfl
@[simp] theorem State.setEng_dma (s : State) (n : Fin 4) (f : Engine → Engine) : (s.setEng n f).dma = upd s.dma n f := rfl
@[simp] theorem State.setEng_hbm (s : State) (n : Fin 4) (f : Engine → Engine) : (s.setEng n f).hbm = s.hbm := rfl
@[simp] theorem State.setEng_fab (s : State) (n : Fin 4) (f : Engine → Engine) : (s.setEng n f).fab = s.fab := rfl
@[simp] theorem State.setEng_job (s : State) (n : Fin 4) (f : Engine → Engine) : (s.setEng n f).job = s.job := rfl
@[simp] theorem State.setEng_net (s : State) (n : Fin 4) (f : Engine → Engine) : (s.setEng n f).net = s.net := rfl
@[simp] theorem State.setEng_ur (s : State) (n : Fin 4) (f : Engine → Engine) : (s.setEng n f).ur = s.ur := rfl
@[simp] theorem State.setEng_host (s : State) (n : Fin 4) (f : Engine → Engine) : (s.setEng n f).host = s.host := rfl
@[simp] theorem State.setEng_app (s : State) (n : Fin 4) (f : Engine → Engine) : (s.setEng n f).app = s.app := rfl
@[simp] theorem State.setEng_sad (s : State) (n : Fin 4) (f : Engine → Engine) : (s.setEng n f).sad = s.sad := rfl
@[simp] theorem State.setEng_rel (s : State) (n : Fin 4) (f : Engine → Engine) : (s.setEng n f).rel = s.rel := rfl
@[simp] theorem State.setEng_stamp (s : State) (n : Fin 4) (f : Engine → Engine) : (s.setEng n f).stamp = s.stamp := rfl
@[simp] theorem State.setEng_sec (s : State) (n : Fin 4) (f : Engine → Engine) : (s.setEng n f).sec = s.sec := rfl
@[simp] theorem State.setEng_cfg (s : State) (n : Fin 4) (f : Engine → Engine) : (s.setEng n f).cfg = s.cfg := rfl
@[simp] theorem State.setEng_mgmt (s : State) (n : Fin 4) (f : Engine → Engine) : (s.setEng n f).mgmt = s.mgmt := rfl
@[simp] theorem State.setEng_misc (s : State) (n : Fin 4) (f : Engine → Engine) : (s.setEng n f).misc = s.misc := rfl

@[simp] theorem State.setHbm_pending (s : State) (n : Fin 4) (f : HbmCtl → HbmCtl) : (s.setHbm n f).pending = s.pending := rfl
@[simp] theorem State.setHbm_time (s : State) (n : Fin 4) (f : HbmCtl → HbmCtl) : (s.setHbm n f).time = s.time := rfl
@[simp] theorem State.setHbm_log (s : State) (n : Fin 4) (f : HbmCtl → HbmCtl) : (s.setHbm n f).log = s.log := rfl
@[simp] theorem State.setHbm_mem (s : State) (n : Fin 4) (f : HbmCtl → HbmCtl) : (s.setHbm n f).mem = s.mem := rfl
@[simp] theorem State.setHbm_lan (s : State) (n : Fin 4) (f : HbmCtl → HbmCtl) : (s.setHbm n f).lan = s.lan := rfl
@[simp] theorem State.setHbm_wick (s : State) (n : Fin 4) (f : HbmCtl → HbmCtl) : (s.setHbm n f).wick = s.wick := rfl
@[simp] theorem State.setHbm_dma (s : State) (n : Fin 4) (f : HbmCtl → HbmCtl) : (s.setHbm n f).dma = s.dma := rfl
@[simp] theorem State.setHbm_hbm (s : State) (n : Fin 4) (f : HbmCtl → HbmCtl) : (s.setHbm n f).hbm = upd s.hbm n f := rfl
@[simp] theorem State.setHbm_fab (s : State) (n : Fin 4) (f : HbmCtl → HbmCtl) : (s.setHbm n f).fab = s.fab := rfl
@[simp] theorem State.setHbm_job (s : State) (n : Fin 4) (f : HbmCtl → HbmCtl) : (s.setHbm n f).job = s.job := rfl
@[simp] theorem State.setHbm_net (s : State) (n : Fin 4) (f : HbmCtl → HbmCtl) : (s.setHbm n f).net = s.net := rfl
@[simp] theorem State.setHbm_ur (s : State) (n : Fin 4) (f : HbmCtl → HbmCtl) : (s.setHbm n f).ur = s.ur := rfl
@[simp] theorem State.setHbm_host (s : State) (n : Fin 4) (f : HbmCtl → HbmCtl) : (s.setHbm n f).host = s.host := rfl
@[simp] theorem State.setHbm_app (s : State) (n : Fin 4) (f : HbmCtl → HbmCtl) : (s.setHbm n f).app = s.app := rfl
@[simp] theorem State.setHbm_sad (s : State) (n : Fin 4) (f : HbmCtl → HbmCtl) : (s.setHbm n f).sad = s.sad := rfl
@[simp] theorem State.setHbm_rel (s : State) (n : Fin 4) (f : HbmCtl → HbmCtl) : (s.setHbm n f).rel = s.rel := rfl
@[simp] theorem State.setHbm_stamp (s : State) (n : Fin 4) (f : HbmCtl → HbmCtl) : (s.setHbm n f).stamp = s.stamp := rfl
@[simp] theorem State.setHbm_sec (s : State) (n : Fin 4) (f : HbmCtl → HbmCtl) : (s.setHbm n f).sec = s.sec := rfl
@[simp] theorem State.setHbm_cfg (s : State) (n : Fin 4) (f : HbmCtl → HbmCtl) : (s.setHbm n f).cfg = s.cfg := rfl
@[simp] theorem State.setHbm_mgmt (s : State) (n : Fin 4) (f : HbmCtl → HbmCtl) : (s.setHbm n f).mgmt = s.mgmt := rfl
@[simp] theorem State.setHbm_misc (s : State) (n : Fin 4) (f : HbmCtl → HbmCtl) : (s.setHbm n f).misc = s.misc := rfl

@[simp] theorem State.setFab_pending (s : State) (x : FabBlk) : (s.setFab x).pending = s.pending := rfl
@[simp] theorem State.setFab_time (s : State) (x : FabBlk) : (s.setFab x).time = s.time := rfl
@[simp] theorem State.setFab_log (s : State) (x : FabBlk) : (s.setFab x).log = s.log := rfl
@[simp] theorem State.setFab_mem (s : State) (x : FabBlk) : (s.setFab x).mem = s.mem := rfl
@[simp] theorem State.setFab_lan (s : State) (x : FabBlk) : (s.setFab x).lan = s.lan := rfl
@[simp] theorem State.setFab_wick (s : State) (x : FabBlk) : (s.setFab x).wick = s.wick := rfl
@[simp] theorem State.setFab_dma (s : State) (x : FabBlk) : (s.setFab x).dma = s.dma := rfl
@[simp] theorem State.setFab_hbm (s : State) (x : FabBlk) : (s.setFab x).hbm = s.hbm := rfl
@[simp] theorem State.setFab_fab (s : State) (x : FabBlk) : (s.setFab x).fab = x := rfl
@[simp] theorem State.setFab_job (s : State) (x : FabBlk) : (s.setFab x).job = s.job := rfl
@[simp] theorem State.setFab_net (s : State) (x : FabBlk) : (s.setFab x).net = s.net := rfl
@[simp] theorem State.setFab_ur (s : State) (x : FabBlk) : (s.setFab x).ur = s.ur := rfl
@[simp] theorem State.setFab_host (s : State) (x : FabBlk) : (s.setFab x).host = s.host := rfl
@[simp] theorem State.setFab_app (s : State) (x : FabBlk) : (s.setFab x).app = s.app := rfl
@[simp] theorem State.setFab_sad (s : State) (x : FabBlk) : (s.setFab x).sad = s.sad := rfl
@[simp] theorem State.setFab_rel (s : State) (x : FabBlk) : (s.setFab x).rel = s.rel := rfl
@[simp] theorem State.setFab_stamp (s : State) (x : FabBlk) : (s.setFab x).stamp = s.stamp := rfl
@[simp] theorem State.setFab_sec (s : State) (x : FabBlk) : (s.setFab x).sec = s.sec := rfl
@[simp] theorem State.setFab_cfg (s : State) (x : FabBlk) : (s.setFab x).cfg = s.cfg := rfl
@[simp] theorem State.setFab_mgmt (s : State) (x : FabBlk) : (s.setFab x).mgmt = s.mgmt := rfl
@[simp] theorem State.setFab_misc (s : State) (x : FabBlk) : (s.setFab x).misc = s.misc := rfl

@[simp] theorem State.setJob_pending (s : State) (x : JobBlk) : (s.setJob x).pending = s.pending := rfl
@[simp] theorem State.setJob_time (s : State) (x : JobBlk) : (s.setJob x).time = s.time := rfl
@[simp] theorem State.setJob_log (s : State) (x : JobBlk) : (s.setJob x).log = s.log := rfl
@[simp] theorem State.setJob_mem (s : State) (x : JobBlk) : (s.setJob x).mem = s.mem := rfl
@[simp] theorem State.setJob_lan (s : State) (x : JobBlk) : (s.setJob x).lan = s.lan := rfl
@[simp] theorem State.setJob_wick (s : State) (x : JobBlk) : (s.setJob x).wick = s.wick := rfl
@[simp] theorem State.setJob_dma (s : State) (x : JobBlk) : (s.setJob x).dma = s.dma := rfl
@[simp] theorem State.setJob_hbm (s : State) (x : JobBlk) : (s.setJob x).hbm = s.hbm := rfl
@[simp] theorem State.setJob_fab (s : State) (x : JobBlk) : (s.setJob x).fab = s.fab := rfl
@[simp] theorem State.setJob_job (s : State) (x : JobBlk) : (s.setJob x).job = x := rfl
@[simp] theorem State.setJob_net (s : State) (x : JobBlk) : (s.setJob x).net = s.net := rfl
@[simp] theorem State.setJob_ur (s : State) (x : JobBlk) : (s.setJob x).ur = s.ur := rfl
@[simp] theorem State.setJob_host (s : State) (x : JobBlk) : (s.setJob x).host = s.host := rfl
@[simp] theorem State.setJob_app (s : State) (x : JobBlk) : (s.setJob x).app = s.app := rfl
@[simp] theorem State.setJob_sad (s : State) (x : JobBlk) : (s.setJob x).sad = s.sad := rfl
@[simp] theorem State.setJob_rel (s : State) (x : JobBlk) : (s.setJob x).rel = s.rel := rfl
@[simp] theorem State.setJob_stamp (s : State) (x : JobBlk) : (s.setJob x).stamp = s.stamp := rfl
@[simp] theorem State.setJob_sec (s : State) (x : JobBlk) : (s.setJob x).sec = s.sec := rfl
@[simp] theorem State.setJob_cfg (s : State) (x : JobBlk) : (s.setJob x).cfg = s.cfg := rfl
@[simp] theorem State.setJob_mgmt (s : State) (x : JobBlk) : (s.setJob x).mgmt = s.mgmt := rfl
@[simp] theorem State.setJob_misc (s : State) (x : JobBlk) : (s.setJob x).misc = s.misc := rfl

@[simp] theorem State.setNet_pending (s : State) (x : NetBlk) : (s.setNet x).pending = s.pending := rfl
@[simp] theorem State.setNet_time (s : State) (x : NetBlk) : (s.setNet x).time = s.time := rfl
@[simp] theorem State.setNet_log (s : State) (x : NetBlk) : (s.setNet x).log = s.log := rfl
@[simp] theorem State.setNet_mem (s : State) (x : NetBlk) : (s.setNet x).mem = s.mem := rfl
@[simp] theorem State.setNet_lan (s : State) (x : NetBlk) : (s.setNet x).lan = s.lan := rfl
@[simp] theorem State.setNet_wick (s : State) (x : NetBlk) : (s.setNet x).wick = s.wick := rfl
@[simp] theorem State.setNet_dma (s : State) (x : NetBlk) : (s.setNet x).dma = s.dma := rfl
@[simp] theorem State.setNet_hbm (s : State) (x : NetBlk) : (s.setNet x).hbm = s.hbm := rfl
@[simp] theorem State.setNet_fab (s : State) (x : NetBlk) : (s.setNet x).fab = s.fab := rfl
@[simp] theorem State.setNet_job (s : State) (x : NetBlk) : (s.setNet x).job = s.job := rfl
@[simp] theorem State.setNet_net (s : State) (x : NetBlk) : (s.setNet x).net = x := rfl
@[simp] theorem State.setNet_ur (s : State) (x : NetBlk) : (s.setNet x).ur = s.ur := rfl
@[simp] theorem State.setNet_host (s : State) (x : NetBlk) : (s.setNet x).host = s.host := rfl
@[simp] theorem State.setNet_app (s : State) (x : NetBlk) : (s.setNet x).app = s.app := rfl
@[simp] theorem State.setNet_sad (s : State) (x : NetBlk) : (s.setNet x).sad = s.sad := rfl
@[simp] theorem State.setNet_rel (s : State) (x : NetBlk) : (s.setNet x).rel = s.rel := rfl
@[simp] theorem State.setNet_stamp (s : State) (x : NetBlk) : (s.setNet x).stamp = s.stamp := rfl
@[simp] theorem State.setNet_sec (s : State) (x : NetBlk) : (s.setNet x).sec = s.sec := rfl
@[simp] theorem State.setNet_cfg (s : State) (x : NetBlk) : (s.setNet x).cfg = s.cfg := rfl
@[simp] theorem State.setNet_mgmt (s : State) (x : NetBlk) : (s.setNet x).mgmt = s.mgmt := rfl
@[simp] theorem State.setNet_misc (s : State) (x : NetBlk) : (s.setNet x).misc = s.misc := rfl

@[simp] theorem State.setUr_pending (s : State) (x : UrBlk) : (s.setUr x).pending = s.pending := rfl
@[simp] theorem State.setUr_time (s : State) (x : UrBlk) : (s.setUr x).time = s.time := rfl
@[simp] theorem State.setUr_log (s : State) (x : UrBlk) : (s.setUr x).log = s.log := rfl
@[simp] theorem State.setUr_mem (s : State) (x : UrBlk) : (s.setUr x).mem = s.mem := rfl
@[simp] theorem State.setUr_lan (s : State) (x : UrBlk) : (s.setUr x).lan = s.lan := rfl
@[simp] theorem State.setUr_wick (s : State) (x : UrBlk) : (s.setUr x).wick = s.wick := rfl
@[simp] theorem State.setUr_dma (s : State) (x : UrBlk) : (s.setUr x).dma = s.dma := rfl
@[simp] theorem State.setUr_hbm (s : State) (x : UrBlk) : (s.setUr x).hbm = s.hbm := rfl
@[simp] theorem State.setUr_fab (s : State) (x : UrBlk) : (s.setUr x).fab = s.fab := rfl
@[simp] theorem State.setUr_job (s : State) (x : UrBlk) : (s.setUr x).job = s.job := rfl
@[simp] theorem State.setUr_net (s : State) (x : UrBlk) : (s.setUr x).net = s.net := rfl
@[simp] theorem State.setUr_ur (s : State) (x : UrBlk) : (s.setUr x).ur = x := rfl
@[simp] theorem State.setUr_host (s : State) (x : UrBlk) : (s.setUr x).host = s.host := rfl
@[simp] theorem State.setUr_app (s : State) (x : UrBlk) : (s.setUr x).app = s.app := rfl
@[simp] theorem State.setUr_sad (s : State) (x : UrBlk) : (s.setUr x).sad = s.sad := rfl
@[simp] theorem State.setUr_rel (s : State) (x : UrBlk) : (s.setUr x).rel = s.rel := rfl
@[simp] theorem State.setUr_stamp (s : State) (x : UrBlk) : (s.setUr x).stamp = s.stamp := rfl
@[simp] theorem State.setUr_sec (s : State) (x : UrBlk) : (s.setUr x).sec = s.sec := rfl
@[simp] theorem State.setUr_cfg (s : State) (x : UrBlk) : (s.setUr x).cfg = s.cfg := rfl
@[simp] theorem State.setUr_mgmt (s : State) (x : UrBlk) : (s.setUr x).mgmt = s.mgmt := rfl
@[simp] theorem State.setUr_misc (s : State) (x : UrBlk) : (s.setUr x).misc = s.misc := rfl

@[simp] theorem State.setHost_pending (s : State) (x : HostBlk) : (s.setHost x).pending = s.pending := rfl
@[simp] theorem State.setHost_time (s : State) (x : HostBlk) : (s.setHost x).time = s.time := rfl
@[simp] theorem State.setHost_log (s : State) (x : HostBlk) : (s.setHost x).log = s.log := rfl
@[simp] theorem State.setHost_mem (s : State) (x : HostBlk) : (s.setHost x).mem = s.mem := rfl
@[simp] theorem State.setHost_lan (s : State) (x : HostBlk) : (s.setHost x).lan = s.lan := rfl
@[simp] theorem State.setHost_wick (s : State) (x : HostBlk) : (s.setHost x).wick = s.wick := rfl
@[simp] theorem State.setHost_dma (s : State) (x : HostBlk) : (s.setHost x).dma = s.dma := rfl
@[simp] theorem State.setHost_hbm (s : State) (x : HostBlk) : (s.setHost x).hbm = s.hbm := rfl
@[simp] theorem State.setHost_fab (s : State) (x : HostBlk) : (s.setHost x).fab = s.fab := rfl
@[simp] theorem State.setHost_job (s : State) (x : HostBlk) : (s.setHost x).job = s.job := rfl
@[simp] theorem State.setHost_net (s : State) (x : HostBlk) : (s.setHost x).net = s.net := rfl
@[simp] theorem State.setHost_ur (s : State) (x : HostBlk) : (s.setHost x).ur = s.ur := rfl
@[simp] theorem State.setHost_host (s : State) (x : HostBlk) : (s.setHost x).host = x := rfl
@[simp] theorem State.setHost_app (s : State) (x : HostBlk) : (s.setHost x).app = s.app := rfl
@[simp] theorem State.setHost_sad (s : State) (x : HostBlk) : (s.setHost x).sad = s.sad := rfl
@[simp] theorem State.setHost_rel (s : State) (x : HostBlk) : (s.setHost x).rel = s.rel := rfl
@[simp] theorem State.setHost_stamp (s : State) (x : HostBlk) : (s.setHost x).stamp = s.stamp := rfl
@[simp] theorem State.setHost_sec (s : State) (x : HostBlk) : (s.setHost x).sec = s.sec := rfl
@[simp] theorem State.setHost_cfg (s : State) (x : HostBlk) : (s.setHost x).cfg = s.cfg := rfl
@[simp] theorem State.setHost_mgmt (s : State) (x : HostBlk) : (s.setHost x).mgmt = s.mgmt := rfl
@[simp] theorem State.setHost_misc (s : State) (x : HostBlk) : (s.setHost x).misc = s.misc := rfl

@[simp] theorem State.setApp_pending (s : State) (x : AppBlk) : (s.setApp x).pending = s.pending := rfl
@[simp] theorem State.setApp_time (s : State) (x : AppBlk) : (s.setApp x).time = s.time := rfl
@[simp] theorem State.setApp_log (s : State) (x : AppBlk) : (s.setApp x).log = s.log := rfl
@[simp] theorem State.setApp_mem (s : State) (x : AppBlk) : (s.setApp x).mem = s.mem := rfl
@[simp] theorem State.setApp_lan (s : State) (x : AppBlk) : (s.setApp x).lan = s.lan := rfl
@[simp] theorem State.setApp_wick (s : State) (x : AppBlk) : (s.setApp x).wick = s.wick := rfl
@[simp] theorem State.setApp_dma (s : State) (x : AppBlk) : (s.setApp x).dma = s.dma := rfl
@[simp] theorem State.setApp_hbm (s : State) (x : AppBlk) : (s.setApp x).hbm = s.hbm := rfl
@[simp] theorem State.setApp_fab (s : State) (x : AppBlk) : (s.setApp x).fab = s.fab := rfl
@[simp] theorem State.setApp_job (s : State) (x : AppBlk) : (s.setApp x).job = s.job := rfl
@[simp] theorem State.setApp_net (s : State) (x : AppBlk) : (s.setApp x).net = s.net := rfl
@[simp] theorem State.setApp_ur (s : State) (x : AppBlk) : (s.setApp x).ur = s.ur := rfl
@[simp] theorem State.setApp_host (s : State) (x : AppBlk) : (s.setApp x).host = s.host := rfl
@[simp] theorem State.setApp_app (s : State) (x : AppBlk) : (s.setApp x).app = x := rfl
@[simp] theorem State.setApp_sad (s : State) (x : AppBlk) : (s.setApp x).sad = s.sad := rfl
@[simp] theorem State.setApp_rel (s : State) (x : AppBlk) : (s.setApp x).rel = s.rel := rfl
@[simp] theorem State.setApp_stamp (s : State) (x : AppBlk) : (s.setApp x).stamp = s.stamp := rfl
@[simp] theorem State.setApp_sec (s : State) (x : AppBlk) : (s.setApp x).sec = s.sec := rfl
@[simp] theorem State.setApp_cfg (s : State) (x : AppBlk) : (s.setApp x).cfg = s.cfg := rfl
@[simp] theorem State.setApp_mgmt (s : State) (x : AppBlk) : (s.setApp x).mgmt = s.mgmt := rfl
@[simp] theorem State.setApp_misc (s : State) (x : AppBlk) : (s.setApp x).misc = s.misc := rfl

@[simp] theorem State.setSad_pending (s : State) (n : Fin 4) (f : Saddler → Saddler) : (s.setSad n f).pending = s.pending := rfl
@[simp] theorem State.setSad_time (s : State) (n : Fin 4) (f : Saddler → Saddler) : (s.setSad n f).time = s.time := rfl
@[simp] theorem State.setSad_log (s : State) (n : Fin 4) (f : Saddler → Saddler) : (s.setSad n f).log = s.log := rfl
@[simp] theorem State.setSad_mem (s : State) (n : Fin 4) (f : Saddler → Saddler) : (s.setSad n f).mem = s.mem := rfl
@[simp] theorem State.setSad_lan (s : State) (n : Fin 4) (f : Saddler → Saddler) : (s.setSad n f).lan = s.lan := rfl
@[simp] theorem State.setSad_wick (s : State) (n : Fin 4) (f : Saddler → Saddler) : (s.setSad n f).wick = s.wick := rfl
@[simp] theorem State.setSad_dma (s : State) (n : Fin 4) (f : Saddler → Saddler) : (s.setSad n f).dma = s.dma := rfl
@[simp] theorem State.setSad_hbm (s : State) (n : Fin 4) (f : Saddler → Saddler) : (s.setSad n f).hbm = s.hbm := rfl
@[simp] theorem State.setSad_fab (s : State) (n : Fin 4) (f : Saddler → Saddler) : (s.setSad n f).fab = s.fab := rfl
@[simp] theorem State.setSad_job (s : State) (n : Fin 4) (f : Saddler → Saddler) : (s.setSad n f).job = s.job := rfl
@[simp] theorem State.setSad_net (s : State) (n : Fin 4) (f : Saddler → Saddler) : (s.setSad n f).net = s.net := rfl
@[simp] theorem State.setSad_ur (s : State) (n : Fin 4) (f : Saddler → Saddler) : (s.setSad n f).ur = s.ur := rfl
@[simp] theorem State.setSad_host (s : State) (n : Fin 4) (f : Saddler → Saddler) : (s.setSad n f).host = s.host := rfl
@[simp] theorem State.setSad_app (s : State) (n : Fin 4) (f : Saddler → Saddler) : (s.setSad n f).app = s.app := rfl
@[simp] theorem State.setSad_sad (s : State) (n : Fin 4) (f : Saddler → Saddler) : (s.setSad n f).sad = upd s.sad n f := rfl
@[simp] theorem State.setSad_rel (s : State) (n : Fin 4) (f : Saddler → Saddler) : (s.setSad n f).rel = s.rel := rfl
@[simp] theorem State.setSad_stamp (s : State) (n : Fin 4) (f : Saddler → Saddler) : (s.setSad n f).stamp = s.stamp := rfl
@[simp] theorem State.setSad_sec (s : State) (n : Fin 4) (f : Saddler → Saddler) : (s.setSad n f).sec = s.sec := rfl
@[simp] theorem State.setSad_cfg (s : State) (n : Fin 4) (f : Saddler → Saddler) : (s.setSad n f).cfg = s.cfg := rfl
@[simp] theorem State.setSad_mgmt (s : State) (n : Fin 4) (f : Saddler → Saddler) : (s.setSad n f).mgmt = s.mgmt := rfl
@[simp] theorem State.setSad_misc (s : State) (n : Fin 4) (f : Saddler → Saddler) : (s.setSad n f).misc = s.misc := rfl

@[simp] theorem State.setRel_pending (s : State) (x : RelBlk) : (s.setRel x).pending = s.pending := rfl
@[simp] theorem State.setRel_time (s : State) (x : RelBlk) : (s.setRel x).time = s.time := rfl
@[simp] theorem State.setRel_log (s : State) (x : RelBlk) : (s.setRel x).log = s.log := rfl
@[simp] theorem State.setRel_mem (s : State) (x : RelBlk) : (s.setRel x).mem = s.mem := rfl
@[simp] theorem State.setRel_lan (s : State) (x : RelBlk) : (s.setRel x).lan = s.lan := rfl
@[simp] theorem State.setRel_wick (s : State) (x : RelBlk) : (s.setRel x).wick = s.wick := rfl
@[simp] theorem State.setRel_dma (s : State) (x : RelBlk) : (s.setRel x).dma = s.dma := rfl
@[simp] theorem State.setRel_hbm (s : State) (x : RelBlk) : (s.setRel x).hbm = s.hbm := rfl
@[simp] theorem State.setRel_fab (s : State) (x : RelBlk) : (s.setRel x).fab = s.fab := rfl
@[simp] theorem State.setRel_job (s : State) (x : RelBlk) : (s.setRel x).job = s.job := rfl
@[simp] theorem State.setRel_net (s : State) (x : RelBlk) : (s.setRel x).net = s.net := rfl
@[simp] theorem State.setRel_ur (s : State) (x : RelBlk) : (s.setRel x).ur = s.ur := rfl
@[simp] theorem State.setRel_host (s : State) (x : RelBlk) : (s.setRel x).host = s.host := rfl
@[simp] theorem State.setRel_app (s : State) (x : RelBlk) : (s.setRel x).app = s.app := rfl
@[simp] theorem State.setRel_sad (s : State) (x : RelBlk) : (s.setRel x).sad = s.sad := rfl
@[simp] theorem State.setRel_rel (s : State) (x : RelBlk) : (s.setRel x).rel = x := rfl
@[simp] theorem State.setRel_stamp (s : State) (x : RelBlk) : (s.setRel x).stamp = s.stamp := rfl
@[simp] theorem State.setRel_sec (s : State) (x : RelBlk) : (s.setRel x).sec = s.sec := rfl
@[simp] theorem State.setRel_cfg (s : State) (x : RelBlk) : (s.setRel x).cfg = s.cfg := rfl
@[simp] theorem State.setRel_mgmt (s : State) (x : RelBlk) : (s.setRel x).mgmt = s.mgmt := rfl
@[simp] theorem State.setRel_misc (s : State) (x : RelBlk) : (s.setRel x).misc = s.misc := rfl

@[simp] theorem State.setStamp_pending (s : State) (x : StampBlk) : (s.setStamp x).pending = s.pending := rfl
@[simp] theorem State.setStamp_time (s : State) (x : StampBlk) : (s.setStamp x).time = s.time := rfl
@[simp] theorem State.setStamp_log (s : State) (x : StampBlk) : (s.setStamp x).log = s.log := rfl
@[simp] theorem State.setStamp_mem (s : State) (x : StampBlk) : (s.setStamp x).mem = s.mem := rfl
@[simp] theorem State.setStamp_lan (s : State) (x : StampBlk) : (s.setStamp x).lan = s.lan := rfl
@[simp] theorem State.setStamp_wick (s : State) (x : StampBlk) : (s.setStamp x).wick = s.wick := rfl
@[simp] theorem State.setStamp_dma (s : State) (x : StampBlk) : (s.setStamp x).dma = s.dma := rfl
@[simp] theorem State.setStamp_hbm (s : State) (x : StampBlk) : (s.setStamp x).hbm = s.hbm := rfl
@[simp] theorem State.setStamp_fab (s : State) (x : StampBlk) : (s.setStamp x).fab = s.fab := rfl
@[simp] theorem State.setStamp_job (s : State) (x : StampBlk) : (s.setStamp x).job = s.job := rfl
@[simp] theorem State.setStamp_net (s : State) (x : StampBlk) : (s.setStamp x).net = s.net := rfl
@[simp] theorem State.setStamp_ur (s : State) (x : StampBlk) : (s.setStamp x).ur = s.ur := rfl
@[simp] theorem State.setStamp_host (s : State) (x : StampBlk) : (s.setStamp x).host = s.host := rfl
@[simp] theorem State.setStamp_app (s : State) (x : StampBlk) : (s.setStamp x).app = s.app := rfl
@[simp] theorem State.setStamp_sad (s : State) (x : StampBlk) : (s.setStamp x).sad = s.sad := rfl
@[simp] theorem State.setStamp_rel (s : State) (x : StampBlk) : (s.setStamp x).rel = s.rel := rfl
@[simp] theorem State.setStamp_stamp (s : State) (x : StampBlk) : (s.setStamp x).stamp = x := rfl
@[simp] theorem State.setStamp_sec (s : State) (x : StampBlk) : (s.setStamp x).sec = s.sec := rfl
@[simp] theorem State.setStamp_cfg (s : State) (x : StampBlk) : (s.setStamp x).cfg = s.cfg := rfl
@[simp] theorem State.setStamp_mgmt (s : State) (x : StampBlk) : (s.setStamp x).mgmt = s.mgmt := rfl
@[simp] theorem State.setStamp_misc (s : State) (x : StampBlk) : (s.setStamp x).misc = s.misc := rfl

@[simp] theorem State.setSec_pending (s : State) (x : SecBlk) : (s.setSec x).pending = s.pending := rfl
@[simp] theorem State.setSec_time (s : State) (x : SecBlk) : (s.setSec x).time = s.time := rfl
@[simp] theorem State.setSec_log (s : State) (x : SecBlk) : (s.setSec x).log = s.log := rfl
@[simp] theorem State.setSec_mem (s : State) (x : SecBlk) : (s.setSec x).mem = s.mem := rfl
@[simp] theorem State.setSec_lan (s : State) (x : SecBlk) : (s.setSec x).lan = s.lan := rfl
@[simp] theorem State.setSec_wick (s : State) (x : SecBlk) : (s.setSec x).wick = s.wick := rfl
@[simp] theorem State.setSec_dma (s : State) (x : SecBlk) : (s.setSec x).dma = s.dma := rfl
@[simp] theorem State.setSec_hbm (s : State) (x : SecBlk) : (s.setSec x).hbm = s.hbm := rfl
@[simp] theorem State.setSec_fab (s : State) (x : SecBlk) : (s.setSec x).fab = s.fab := rfl
@[simp] theorem State.setSec_job (s : State) (x : SecBlk) : (s.setSec x).job = s.job := rfl
@[simp] theorem State.setSec_net (s : State) (x : SecBlk) : (s.setSec x).net = s.net := rfl
@[simp] theorem State.setSec_ur (s : State) (x : SecBlk) : (s.setSec x).ur = s.ur := rfl
@[simp] theorem State.setSec_host (s : State) (x : SecBlk) : (s.setSec x).host = s.host := rfl
@[simp] theorem State.setSec_app (s : State) (x : SecBlk) : (s.setSec x).app = s.app := rfl
@[simp] theorem State.setSec_sad (s : State) (x : SecBlk) : (s.setSec x).sad = s.sad := rfl
@[simp] theorem State.setSec_rel (s : State) (x : SecBlk) : (s.setSec x).rel = s.rel := rfl
@[simp] theorem State.setSec_stamp (s : State) (x : SecBlk) : (s.setSec x).stamp = s.stamp := rfl
@[simp] theorem State.setSec_sec (s : State) (x : SecBlk) : (s.setSec x).sec = x := rfl
@[simp] theorem State.setSec_cfg (s : State) (x : SecBlk) : (s.setSec x).cfg = s.cfg := rfl
@[simp] theorem State.setSec_mgmt (s : State) (x : SecBlk) : (s.setSec x).mgmt = s.mgmt := rfl
@[simp] theorem State.setSec_misc (s : State) (x : SecBlk) : (s.setSec x).misc = s.misc := rfl

@[simp] theorem State.setCfg_pending (s : State) (x : CfgBlk) : (s.setCfg x).pending = s.pending := rfl
@[simp] theorem State.setCfg_time (s : State) (x : CfgBlk) : (s.setCfg x).time = s.time := rfl
@[simp] theorem State.setCfg_log (s : State) (x : CfgBlk) : (s.setCfg x).log = s.log := rfl
@[simp] theorem State.setCfg_mem (s : State) (x : CfgBlk) : (s.setCfg x).mem = s.mem := rfl
@[simp] theorem State.setCfg_lan (s : State) (x : CfgBlk) : (s.setCfg x).lan = s.lan := rfl
@[simp] theorem State.setCfg_wick (s : State) (x : CfgBlk) : (s.setCfg x).wick = s.wick := rfl
@[simp] theorem State.setCfg_dma (s : State) (x : CfgBlk) : (s.setCfg x).dma = s.dma := rfl
@[simp] theorem State.setCfg_hbm (s : State) (x : CfgBlk) : (s.setCfg x).hbm = s.hbm := rfl
@[simp] theorem State.setCfg_fab (s : State) (x : CfgBlk) : (s.setCfg x).fab = s.fab := rfl
@[simp] theorem State.setCfg_job (s : State) (x : CfgBlk) : (s.setCfg x).job = s.job := rfl
@[simp] theorem State.setCfg_net (s : State) (x : CfgBlk) : (s.setCfg x).net = s.net := rfl
@[simp] theorem State.setCfg_ur (s : State) (x : CfgBlk) : (s.setCfg x).ur = s.ur := rfl
@[simp] theorem State.setCfg_host (s : State) (x : CfgBlk) : (s.setCfg x).host = s.host := rfl
@[simp] theorem State.setCfg_app (s : State) (x : CfgBlk) : (s.setCfg x).app = s.app := rfl
@[simp] theorem State.setCfg_sad (s : State) (x : CfgBlk) : (s.setCfg x).sad = s.sad := rfl
@[simp] theorem State.setCfg_rel (s : State) (x : CfgBlk) : (s.setCfg x).rel = s.rel := rfl
@[simp] theorem State.setCfg_stamp (s : State) (x : CfgBlk) : (s.setCfg x).stamp = s.stamp := rfl
@[simp] theorem State.setCfg_sec (s : State) (x : CfgBlk) : (s.setCfg x).sec = s.sec := rfl
@[simp] theorem State.setCfg_cfg (s : State) (x : CfgBlk) : (s.setCfg x).cfg = x := rfl
@[simp] theorem State.setCfg_mgmt (s : State) (x : CfgBlk) : (s.setCfg x).mgmt = s.mgmt := rfl
@[simp] theorem State.setCfg_misc (s : State) (x : CfgBlk) : (s.setCfg x).misc = s.misc := rfl

@[simp] theorem State.setMgmt_pending (s : State) (x : MgmtBlk) : (s.setMgmt x).pending = s.pending := rfl
@[simp] theorem State.setMgmt_time (s : State) (x : MgmtBlk) : (s.setMgmt x).time = s.time := rfl
@[simp] theorem State.setMgmt_log (s : State) (x : MgmtBlk) : (s.setMgmt x).log = s.log := rfl
@[simp] theorem State.setMgmt_mem (s : State) (x : MgmtBlk) : (s.setMgmt x).mem = s.mem := rfl
@[simp] theorem State.setMgmt_lan (s : State) (x : MgmtBlk) : (s.setMgmt x).lan = s.lan := rfl
@[simp] theorem State.setMgmt_wick (s : State) (x : MgmtBlk) : (s.setMgmt x).wick = s.wick := rfl
@[simp] theorem State.setMgmt_dma (s : State) (x : MgmtBlk) : (s.setMgmt x).dma = s.dma := rfl
@[simp] theorem State.setMgmt_hbm (s : State) (x : MgmtBlk) : (s.setMgmt x).hbm = s.hbm := rfl
@[simp] theorem State.setMgmt_fab (s : State) (x : MgmtBlk) : (s.setMgmt x).fab = s.fab := rfl
@[simp] theorem State.setMgmt_job (s : State) (x : MgmtBlk) : (s.setMgmt x).job = s.job := rfl
@[simp] theorem State.setMgmt_net (s : State) (x : MgmtBlk) : (s.setMgmt x).net = s.net := rfl
@[simp] theorem State.setMgmt_ur (s : State) (x : MgmtBlk) : (s.setMgmt x).ur = s.ur := rfl
@[simp] theorem State.setMgmt_host (s : State) (x : MgmtBlk) : (s.setMgmt x).host = s.host := rfl
@[simp] theorem State.setMgmt_app (s : State) (x : MgmtBlk) : (s.setMgmt x).app = s.app := rfl
@[simp] theorem State.setMgmt_sad (s : State) (x : MgmtBlk) : (s.setMgmt x).sad = s.sad := rfl
@[simp] theorem State.setMgmt_rel (s : State) (x : MgmtBlk) : (s.setMgmt x).rel = s.rel := rfl
@[simp] theorem State.setMgmt_stamp (s : State) (x : MgmtBlk) : (s.setMgmt x).stamp = s.stamp := rfl
@[simp] theorem State.setMgmt_sec (s : State) (x : MgmtBlk) : (s.setMgmt x).sec = s.sec := rfl
@[simp] theorem State.setMgmt_cfg (s : State) (x : MgmtBlk) : (s.setMgmt x).cfg = s.cfg := rfl
@[simp] theorem State.setMgmt_mgmt (s : State) (x : MgmtBlk) : (s.setMgmt x).mgmt = x := rfl
@[simp] theorem State.setMgmt_misc (s : State) (x : MgmtBlk) : (s.setMgmt x).misc = s.misc := rfl

@[simp] theorem State.setMisc_pending (s : State) (x : MiscBlk) : (s.setMisc x).pending = s.pending := rfl
@[simp] theorem State.setMisc_time (s : State) (x : MiscBlk) : (s.setMisc x).time = s.time := rfl
@[simp] theorem State.setMisc_log (s : State) (x : MiscBlk) : (s.setMisc x).log = s.log := rfl
@[simp] theorem State.setMisc_mem (s : State) (x : MiscBlk) : (s.setMisc x).mem = s.mem := rfl
@[simp] theorem State.setMisc_lan (s : State) (x : MiscBlk) : (s.setMisc x).lan = s.lan := rfl
@[simp] theorem State.setMisc_wick (s : State) (x : MiscBlk) : (s.setMisc x).wick = s.wick := rfl
@[simp] theorem State.setMisc_dma (s : State) (x : MiscBlk) : (s.setMisc x).dma = s.dma := rfl
@[simp] theorem State.setMisc_hbm (s : State) (x : MiscBlk) : (s.setMisc x).hbm = s.hbm := rfl
@[simp] theorem State.setMisc_fab (s : State) (x : MiscBlk) : (s.setMisc x).fab = s.fab := rfl
@[simp] theorem State.setMisc_job (s : State) (x : MiscBlk) : (s.setMisc x).job = s.job := rfl
@[simp] theorem State.setMisc_net (s : State) (x : MiscBlk) : (s.setMisc x).net = s.net := rfl
@[simp] theorem State.setMisc_ur (s : State) (x : MiscBlk) : (s.setMisc x).ur = s.ur := rfl
@[simp] theorem State.setMisc_host (s : State) (x : MiscBlk) : (s.setMisc x).host = s.host := rfl
@[simp] theorem State.setMisc_app (s : State) (x : MiscBlk) : (s.setMisc x).app = s.app := rfl
@[simp] theorem State.setMisc_sad (s : State) (x : MiscBlk) : (s.setMisc x).sad = s.sad := rfl
@[simp] theorem State.setMisc_rel (s : State) (x : MiscBlk) : (s.setMisc x).rel = s.rel := rfl
@[simp] theorem State.setMisc_stamp (s : State) (x : MiscBlk) : (s.setMisc x).stamp = s.stamp := rfl
@[simp] theorem State.setMisc_sec (s : State) (x : MiscBlk) : (s.setMisc x).sec = s.sec := rfl
@[simp] theorem State.setMisc_cfg (s : State) (x : MiscBlk) : (s.setMisc x).cfg = s.cfg := rfl
@[simp] theorem State.setMisc_mgmt (s : State) (x : MiscBlk) : (s.setMisc x).mgmt = s.mgmt := rfl
@[simp] theorem State.setMisc_misc (s : State) (x : MiscBlk) : (s.setMisc x).misc = x := rfl

@[simp] theorem State.emit_pending (s : State) (o : Out) : (s.emit o).pending = s.pending := rfl
@[simp] theorem State.emit_time (s : State) (o : Out) : (s.emit o).time = s.time := rfl
@[simp] theorem State.emit_log (s : State) (o : Out) : (s.emit o).log = s.log := rfl
@[simp] theorem State.emit_mem (s : State) (o : Out) : (s.emit o).mem = s.mem := rfl
@[simp] theorem State.emit_lan (s : State) (o : Out) : (s.emit o).lan = s.lan := rfl
@[simp] theorem State.emit_wick (s : State) (o : Out) : (s.emit o).wick = s.wick := rfl
@[simp] theorem State.emit_dma (s : State) (o : Out) : (s.emit o).dma = s.dma := rfl
@[simp] theorem State.emit_hbm (s : State) (o : Out) : (s.emit o).hbm = s.hbm := rfl
@[simp] theorem State.emit_fab (s : State) (o : Out) : (s.emit o).fab = s.fab := rfl
@[simp] theorem State.emit_job (s : State) (o : Out) : (s.emit o).job = s.job := rfl
@[simp] theorem State.emit_net (s : State) (o : Out) : (s.emit o).net = s.net := rfl
@[simp] theorem State.emit_ur (s : State) (o : Out) : (s.emit o).ur = s.ur := rfl
@[simp] theorem State.emit_host (s : State) (o : Out) : (s.emit o).host = s.host := rfl
@[simp] theorem State.emit_app (s : State) (o : Out) : (s.emit o).app = s.app := rfl
@[simp] theorem State.emit_sad (s : State) (o : Out) : (s.emit o).sad = s.sad := rfl
@[simp] theorem State.emit_rel (s : State) (o : Out) : (s.emit o).rel = s.rel := rfl
@[simp] theorem State.emit_stamp (s : State) (o : Out) : (s.emit o).stamp = s.stamp := rfl
@[simp] theorem State.emit_sec (s : State) (o : Out) : (s.emit o).sec = s.sec := rfl
@[simp] theorem State.emit_cfg (s : State) (o : Out) : (s.emit o).cfg = s.cfg := rfl
@[simp] theorem State.emit_mgmt (s : State) (o : Out) : (s.emit o).mgmt = s.mgmt := rfl
@[simp] theorem State.emit_misc (s : State) (o : Out) : (s.emit o).misc = { s.misc with out := o :: s.misc.out } := rfl

@[simp] theorem State.fresh_pending (s : State) (n : Nat) : (s.fresh n).pending = s.pending := rfl
@[simp] theorem State.fresh_time (s : State) (n : Nat) : (s.fresh n).time = s.time := rfl
@[simp] theorem State.fresh_log (s : State) (n : Nat) : (s.fresh n).log = s.log := rfl
@[simp] theorem State.fresh_mem (s : State) (n : Nat) : (s.fresh n).mem = s.mem := rfl
@[simp] theorem State.fresh_lan (s : State) (n : Nat) : (s.fresh n).lan = s.lan := rfl
@[simp] theorem State.fresh_wick (s : State) (n : Nat) : (s.fresh n).wick = s.wick := rfl
@[simp] theorem State.fresh_dma (s : State) (n : Nat) : (s.fresh n).dma = s.dma := rfl
@[simp] theorem State.fresh_hbm (s : State) (n : Nat) : (s.fresh n).hbm = s.hbm := rfl
@[simp] theorem State.fresh_fab (s : State) (n : Nat) : (s.fresh n).fab = s.fab := rfl
@[simp] theorem State.fresh_job (s : State) (n : Nat) : (s.fresh n).job = s.job := rfl
@[simp] theorem State.fresh_net (s : State) (n : Nat) : (s.fresh n).net = s.net := rfl
@[simp] theorem State.fresh_ur (s : State) (n : Nat) : (s.fresh n).ur = s.ur := rfl
@[simp] theorem State.fresh_host (s : State) (n : Nat) : (s.fresh n).host = s.host := rfl
@[simp] theorem State.fresh_app (s : State) (n : Nat) : (s.fresh n).app = s.app := rfl
@[simp] theorem State.fresh_sad (s : State) (n : Nat) : (s.fresh n).sad = s.sad := rfl
@[simp] theorem State.fresh_rel (s : State) (n : Nat) : (s.fresh n).rel = s.rel := rfl
@[simp] theorem State.fresh_stamp (s : State) (n : Nat) : (s.fresh n).stamp = s.stamp := rfl
@[simp] theorem State.fresh_sec (s : State) (n : Nat) : (s.fresh n).sec = s.sec := rfl
@[simp] theorem State.fresh_cfg (s : State) (n : Nat) : (s.fresh n).cfg = s.cfg := rfl
@[simp] theorem State.fresh_mgmt (s : State) (n : Nat) : (s.fresh n).mgmt = s.mgmt := rfl
@[simp] theorem State.fresh_misc (s : State) (n : Nat) : (s.fresh n).misc = { s.misc with fresh := s.misc.fresh + n } := rfl

end Sys2Proof.Machine
end

