-- ==== Sys2Proof/WellFormed.lean ====
section
/-! DEFINITION. Which commands can come about at all: operands within the ranges that the spec gives the event a row names. The types of
Word.lean bound the unit numbers; what is left is here. `exec` is total and does not ask for it. -/
namespace Sys2Proof

/-- A memory access of n bytes, 1 to `most`; a write carries n of them. -/
def accessOk (most n : Nat) (write : Option (List Byte)) : Bool :=
  decide (1 ≤ n) && decide (n ≤ most) && (write.map fun b => b.length == n).getD true

/-- Offset of the low half of one of the 24 window registers UR_TXWIN_BASE, UR_TXWIN_SIZE, UR_RXWIN_BASE, UR_RXWIN_SIZE (R415). -/
def urWindowOff (off : Nat) : Bool :=
  (List.range 6).any fun u => [0x08, 0x10, 0x18, 0x20].any fun k => off == 0x06000100 + 0x100 * u + k

/-- A peer is one of 32 modules and one of its six links (R395, R397). -/
def peerOk (p : Option LinkPeer) : Bool := (p.map fun q => decide (q.modl < 32) && decide (q.link < 6)).getD true

/-- The operands of a command are in range. -/
def Instr.wf : Instr → Bool
  -- R519: the thresholds of the input supply
  | .inputUndervoltage mv => decide (mv < 38000)
  | .inputOvervoltage mv => decide (63000 < mv)
  -- R489: a press shorter than 1 s is none
  | .serviceButtonPress ms => decide (1000 ≤ ms)
  -- R490, R491: operations 1 to 7 have rows of their own
  | .secBadOp op => decide (op.toNat = 0) || decide (7 < op.toNat)
  -- R534: offsets are multiples of 4
  | .smbusRegRead off _ => decide (off.toNat % 4 = 0)
  | .smbusRegWrite off _ _ => decide (off.toNat % 4 = 0)
  -- R417, R419: a configuration request names a doubleword; a BAR2 request has at most the max payload size
  | .configRequest off _ => decide (off.toNat % 4 = 0)
  | .bar2Access off n w => decide (off + n ≤ 2 ^ 34) && accessOk 512 n w
  -- R161: an application-core access has 1 to 64 bytes
  | .appCoreAccess _ addr n w => decide (addr < 2 ^ 48) && accessOk 64 n w
  -- R14: 4 bytes, or 8 at a multiple of 8
  | .registerWrite _ _ size _ => decide (size = 4) || decide (size = 8)
  | .registerLowerHalfRead _ r => decide (r.size = 4) || decide (r.size = 8)
  | .counterClear _ off _ => decide (off % 4 = 0)
  -- R157: a row starts at a multiple of 512
  | .fabricRowWrite wr _ => decide (wr.addr % 512 = 0)
  | .heldWriteRetry addr _ => decide (addr % 512 = 0)
  | .localFabricAccess _ _ off n w => decide (off < 0x00400000) && accessOk 512 n w
  | .hbmOpenAccess _ addr n w => decide (addr < 2 ^ 48) && accessOk 512 n w
  | .dmaBusError _ _ _ addr => decide (addr < 2 ^ 48)
  -- R445: the causes of a Saddler exception
  | .saddlerException _ cause _ => decide (1 ≤ cause.toNat) && decide (cause.toNat ≤ 9)
  -- R380, R388: a packet leaves within 1,000 FTB ticks of its count
  | .egressPacket _ delay => decide (delay ≤ 1000)
  | .rrscSlot _ delay => decide (delay ≤ 1000)
  -- R396: the identity that the peer reports
  | .linkTraining _ p => peerOk p
  | .linkRetrain _ _ p => peerOk p
  | .linkRetryTimer _ p => peerOk p
  | .urWindowWrite _ off _ _ => urWindowOff off
  -- R476: level 0 holds the leaves
  | .parentHashDone _ _ level _ => decide (1 ≤ level)
  -- Every operand of the other rows is allowed.
  | .powerOnReset .. | .fundamentalReset .. | .warmReset .. | .railOutOfRegulation .. | .thermalTrip .. | .saveSettings .. |
    .configRecordWrite | .configWriteDone .. | .buttonWindowExpiry | .debugJumper .. | .sealBroken .. | .fwWrite .. | .libWrite .. |
    .rollbackCommit | .configDefault .. | .fenceClear .. | .certWrite .. | .identityZeroise .. | .attestGo .. | .attestDone |
    .throttleWindow .. | .throttleRequest .. | .externalThrottle .. | .throttleStepBegin .. | .throttleStep .. | .smbusEventRead .. |
    .smbusWarmReset .. => true
  | .flr | .hotReset | .bar2BaseWrite .. | .ftbCountLowRead .. | .steeringWrite .. | .dbSqWrite .. | .ringEnable .. | .ringDisable .. |
    .loadImage .. | .bindStream .. | .arm .. | .updateParams .. | .snapshot .. | .resume .. | .stop .. | .query .. | .fenceQuery .. |
    .unknownCommand .. | .stopAtAnchor | .mailboxOut .. | .mailboxRecordWrite | .ibSend .. | .ibSendCredited .. |
    .saddlerInterrupt .. | .saddlerTimerTick | .saddlerDivergence .. | .watchdog .. | .cpIrqSwiWrite .. => true
  | .crossingRelease .. | .ptpMessage .. | .ptpLocked | .ptpHoldover | .ptpOffsetExcess | .uplinkTimeFlit .. | .urlanFtbOffset |
    .commitPoint .. | .anchorSwitch .. | .epochStageCopy .. | .epochPayloadComplete .. | .chain .. | .requant .. | .gavg .. |
    .haltedOccupancyEnd .. | .lanternHang .. | .failedChainHandling .. | .wickStart .. | .dmaStart .. | .release .. | .testWindow .. |
    .testWindowPostponed .. | .unitMove .. | .moveEnd .. | .fullSweep .. | .sequencerDivergence .. | .snapshotPoint .. |
    .instanceComplete .. | .fabricRowRead .. | .mapStoreBankGrant .. | .creditWaitEnd .. | .creditStall .. => true
  | .wickInterruptEntry .. | .wickException .. | .wickHang .. | .storeBufferDrain .. | .instructionRefill .. | .cpRcwWrite .. |
    .rcwWaitEnd .. | .rcwStall .. | .cpTaperOwnerWrite .. | .cpRetWrite .. | .addSub .. | .andOrXor .. | .shlShrSar .. | .mul .. |
    .mulhMulhu .. | .divDivu .. | .remRemu .. | .immediateAlu .. | .shiftImmediate .. | .li .. | .lis .. | .crcs .. | .par .. | .brev .. |
    .clz .. | .load .. | .store .. | .skip .. | .jmp .. | .call .. | .ret .. | .reti .. | .featr .. | .drain .. | .halt .. | .nop .. => true
  | .vsetl .. | .vld .. | .vst .. | .vaddVsub .. | .vmulVmacc .. | .vmulhVmulhu .. | .vandVorVxor .. | .vshlVshrVsar .. | .vrsr .. |
    .vminVmax .. | .vsaddVssub .. | .vcmp .. | .vsel .. | .vmvs .. | .vmvx .. | .vslupVsldn .. | .vwidsVwidu .. | .vnrs .. |
    .vreduction .. | .vmpop .. | .vcrc .. | .vgth .. | .tclr .. | .tsync .. | .tstat .. | .tload .. | .lineLoadDone .. | .trep .. |
    .tsetc .. | .tmac .. | .tout .. | .texp .. | .tnorm .. | .tmacs .. | .tsigr .. => true
  | .dmaStep .. | .dmaBlockReturned .. | .dmaDescriptorComplete .. | .haltedChannelCompletion .. | .dmaRowWaitEnd .. | .dmaWaitStall .. |
    .hbmSlot .. | .hbmReadData .. | .hbmTempHigh .. | .ethFrameReceived .. | .networkControlPacket .. | .rrsPacket .. | .portLink .. | .ethPortCfgWrite .. |
    .ingressRelease .. | .ingressPathSilent .. | .egressSlot .. | .egressLateSend .. | .stampAncPacket .. | .rrscCommitGo .. |
    .rrscLatch .. | .rrscMissed .. | .urlanDataSend .. | .urlanDataFlit .. | .urlanCtrlFlit .. | .urlanAckTimer .. | .urlanTimeSend .. |
    .urlanLateRelease .. | .urlanLateBlockWrite .. | .leafHashStart .. | .leafHashDone .. | .stampRecordForm .. | .signatureDone |
    .telemetrySample .. | .managementSupply .. | .spareRotation .. | .vacatedUnitTest .. | .ppsOut => true

end Sys2Proof
end

