-- ==== Sys2Proof/Tests/Slice0.lean ====
section
/-! SUPPORT. Tests: for each statement with hypotheses a state and operands that meet them (witness_…), ill-formed commands that
WellFormed refuses, and worked examples of the spec. Instructions appear as bytes written out from the encodings of R283–R290, R304–R305,
R310–R312 and R323–R324. -/
namespace Sys2Proof.Tests
open Sys2Proof Sys2Proof.Machine

/-! ## Small states -/

/-- Supplies valid and start-up done. -/
def up : State := { State.reset with
  mgmt := { MgmtBlk.reset with supplies := true, mgmtOn := true }
  host := { HostBlk.reset with cfgUp := true }
  cfg := { CfgBlk.reset with startSt := 2 } }

/-- Ring pair 0 on, with one entry at the foot of host memory. -/
def ring (s : State) (entry : List Byte) : State := { s with
  host := { s.host with rings := upd s.host.rings 0 fun r => { r with cfg := 0x82100000, sqBase := BitVec.ofNat 64 hostBase, tail := 1 } }
  mem := s.mem.write hostBase entry }

/-- No read or write of ring memory fails. -/
def calm : IoFail := ⟨false, false, false, false⟩

/-- An entry with 8-byte fields from offset 8 (R423). -/
def cmd (op : Nat) (fields : List Nat) : List Byte := leBytes 8 op ++ fields.flatMap fun v => leBytes 8 v

/-- An event, and a record of the settings. -/
def ev : Event := ⟨7, 0x0D01, 0x0B, 0, List.replicate 16 0⟩
def setRec : CfgWrite := ⟨false, 1, List.replicate 256 0⟩

theorem ok_of {α β : Type} {e : Except α β} (h : e.toBool = true) : ∃ b, e = .ok b := by
  cases e with
  | ok b => exact ⟨b, rfl⟩
  | error _ => cases h

theorem error_of {α β : Type} {e : Except α β} (h : e.toBool = false) : ∃ a, e = .error a := by
  cases e with
  | ok b => cases h
  | error a => exact ⟨a, rfl⟩

theorem some_of {α : Type} {o : Option α} (h : o.isSome = true) : ∃ a, o = some a := Option.isSome_iff_exists.1 h

/-- Logical units 0 to 31 and 0 to 47 on the physical units of the same number, all idle. -/
def inService (s : State) : State := { s with
  lan := Vector.replicate 36 { Lantern.reset with mode := .idle }
  wick := Vector.replicate 52 { Wick.reset with mode := .idle }
  rel := { s.rel with
    ln := Vector.ofFn fun n => if n.1 < 32 then ⟨.serving, some n.1, false⟩ else ⟨.spare, none, false⟩
    wk := Vector.ofFn fun n => if n.1 < 48 then ⟨.serving, some n.1, false⟩ else ⟨.spare, none, false⟩ } }

/-- An image of 50 frames a second with the given timetable. -/
def img (entries : List TtEntry) : JobImage := { (default : JobImage) with
  hdr := ⟨512, 32, 48, Vector.replicate 4 0, 50, 1, 0, 256, 0, 0⟩
  entries := entries }

/-- That image loaded, and armed from absolute frame 100 on (FTB count 2 x 10^9). -/
def loaded (im : JobImage) : State := { inService up with job := { up.job with state := .loaded, image := some im } }
def armed (im : JobImage) : State := { inService up with job := { up.job with state := .armed, image := some im, frame0 := 100, launch := 1999999990 } }

/-- An entry of a kind on a unit, once a frame, with no predecessor; its instance in job frame 0. -/
def ent (kind unit arg0 arg1 : Nat) : TtEntry := ⟨5, 0, kind, unit, arg0, arg1, 0xFFFFFFFF, 0, 0, 0⟩
def i0 : Inst := ⟨0, 0, 0⟩

/-! ## Witnesses: states that meet the hypotheses of each statement, clause by clause -/

theorem witness_ResetsAndSupplyEventsActAsTabled :
    (State.reset.mgmt.supplies = false ∧ State.reset.mgmt.tripPin = false) ∧ up.mgmt.supplies = true ∧
    ((0x57520001 : W32).toNat / 65536 = 0x5752 ∧ bit (0x57520001 : W32).toNat 0 = true ∧ up.cfg.current = none) ∧
    (37999 < 38000 ∧ 63000 < 63001) := by decide +kernel

theorem witness_ConfigurationAndPresenceControlsAct :
    let q := { up with cfg := { up.cfg with waiting := [setRec] } }
    let c := { up with cfg := { up.cfg with current := some setRec } }
    let w := { up with sec := { up.sec with window := some 5 } }
    let j := { up with sec := { up.sec with jumper := true } }
    let o := { up with sec := { up.sec with sealOpen := true } }
    bit (1 : W32).toNat 0 = true ∧ (q.cfg.current = none ∧ q.cfg.waiting = [setRec]) ∧
    (c.cfg.current = some setRec ∧ c.cfg.warmDue = none) ∧ w.sec.window = some 5 ∧ up.sec.jumper = false ∧ j.sec.jumper = true ∧
    (o.mgmt.supplies = true ∧ o.sec.sealOpen = true ∧ o.sec.sealBroken = false) := by decide +kernel

/-- The two containers' signature checks are free values (log 9): the witnesses of FW_WRITE, LIB_WRITE and CERT_WRITE are for a value of
theirs that passes. -/
theorem witness_PrivilegedOperationsNeedPresence :
    let w := { up with sec := { up.sec with window := some 5, jumper := true, arg := BitVec.ofNat 64 hostBase, len := 512 } }
    let a := { up with sec := { up.sec with attBusy := true }, stamp := { up.stamp with engine := some (true, 0, 0, 9) } }
    (w.job.state ≠ .armed ∧ w.sec.busy = false ∧ w.windowOpen = true ∧ w.sec.sealBroken = false ∧ w.sec.jumper = true) ∧
    (w.copyStatus 0x01000000 true true true = 0 ∧ w.copyStatus 0x02000000 true true true = 0 ∧ w.copyStatus 4096 true true true = 0) ∧
    up.windowOpen = false ∧ (¬ (1 ≤ (8 : Byte).toNat ∧ (8 : Byte).toNat ≤ 7)) ∧ (bit (4 : W32).toNat 2 = true ∧ up.sec.attBusy = false) ∧
    (a.sec.attBusy = true ∧ a.stamp.engine = some (true, 0, 0, 9)) := by decide +kernel

theorem witness_ThrottlingMovesOneIndexAtATime :
    let t := { up with mgmt := { up.mgmt with target := Vector.replicate 4 1 } }
    let m := { up with mgmt := { up.mgmt with moving := upd up.mgmt.moving 2 fun _ => some 1 } }
    up.mgmt.supplies = true ∧ requestHolds (.hotspot 0) true 105 = true ∧ requestHolds (.hotspot 0) false 95 = true ∧ up.mgmt.pinThrot = !true ∧
    t.mgmt.mayMove 3 (t.mgmt.nextStep 3) = true ∧ t.mgmt.step[3] < t.mgmt.nextStep 3 ∧ m.mgmt.moving[2] = some 1 := by decide +kernel

theorem witness_ReadingsSupplyAndSmbusAnswer :
    let e := { up with log := { up.log with smbus := [ev] } }
    up.mgmt.mgmtOn = true ∧ 36000 ≤ 36000 ∧ 35999 < 36000 ∧ up.mgmt.supplies = true ∧ e.drain.log.smbus = [ev] ∧
    (up.drain.mgmt.supplies = true ∧ up.drain.cfg.current = none) := by decide +kernel

theorem witness_RegistersAreReadAndWritten :
    let l := { up with misc := { up.misc with pendLow := [⟨.bar0, 0x07003000, 9⟩] } }
    let a := { up with job := { up.job with state := .armed } }
    (up.pathOpen .bar0 0x06000008 = true ∧ 0x06000008 % 4 = 0 ∧ 0x06000008 ≠ 0x00100000 ∧ isLow64 0x06000008 = true ∧
      up.tripleHalf .bar0 0x06000008 = none ∧ 0x06000008 % 8 = 0) ∧
    (up.pathOpen .bar0 0x0600000C = true ∧ 0x0600000C % 8 ≠ 0 ∧ up.pathOpen .bar0 0x06000006 = true ∧ 0x06000006 % 4 ≠ 0) ∧
    (∀ o ∈ [0x00100000, 0x07003000, 0x06000608, 0x18, 0x01000010, 0x05000000, 0x05008000, 0x01000020 + 0x10000 * 35, 0x05001020 + 0x40 * 31],
      up.pathOpen .bar0 o = true) ∧
    latchFind l.misc.pendLow .bar0 0x07003000 = some 9 ∧ up.job.state ≠ .armed ∧ up.lan[35].mode = .off ∧ a.job.state = .armed ∧
    bit (1 : W32).toNat 0 = true ∧ bit (8 : W32).toNat 3 = true ∧ up.mgmt.supplies = true := by decide +kernel

theorem witness_RingsAndAccessesAnswer :
    let r := ring up []
    let e := { up with log := { up.log with evCfg := 0x80200000 } }
    (ringOn 0x82100000 = true ∧ ringOn up.host.rings[63].cfg = false) ∧ (ringOn up.log.evCfg = false ∧ up.drain.log.opened = false) ∧
    (ringOn 0 = false ∧ ringOn r.host.rings[0].cfg = true) ∧ ringOn e.log.evCfg = true ∧
    (bits (15 : W32).toNat 15 0 < sqSize r.host.rings[0].cfg ∧ sqSize r.host.rings[0].cfg ≤ bits (16 : W32).toNat 15 0) ∧
    (up.mgmt.supplies = true ∧ up.host.cfgUp = true) ∧
    ({ up with host := { up.host with cfgUp := false } } : State).host.cfgUp = false ∧
    (512 ≤ 512 ∧ 2 ^ 34 - 512 + 512 ≤ 2 ^ 34 ∧ hostBase ≤ hostBase ∧ hostBase + 64 ≤ 2 ^ 48) ∧
    (0x020000000000 ≤ hostBase - 64 ∧ hostBase - 64 + 64 ≤ hostBase) := by decide +kernel

/-- A binding of slot 0 to sub-port 0 of its port, with no second path. -/
def bind0 : List Byte := padTo 256 [0, 0, 0xFF, 96]

/-- An RRS stream in slot 0 on port E0, in a buffer at the foot of stack H0: two stripes of 8 rows of 8 pixels, D = 2. -/
def cam : StreamBind := ⟨0, 0, 0, 0xFF, 8, 16, 1, 2, 8, 0, 0, 0x1234, 0, 4096, 2, 50, 1, 0xFF⟩
def camImg (entries : List TtEntry) : JobImage := { img entries with streams := [cam] }
def b0 : Binding := bindingOf bind0

/-- An image that passes every check has 384 refresh records at least (R357), too many for the kernel to read here; one was put together and
accepted outside the package (NOTES.md). -/
theorem witness_LoadAndBindPrepareAJob :
    let s := ring (inService up) (cmd 1 [hostBase + 512, 512])
    let b := ring (loaded (camImg [])) (padTo 512 (cmd 2 [hostBase + 512]) ++ bind0)
    (Turn s 0 calm 1 [(8, 16)] ∧ s.job.state ≠ .armed ∧
      ∃ r, (s.afterTake 0).checkImage (fld (s.sqEntry 0) 8 8) (fld (s.sqEntry 0) 0x10 8) calm = .error r) ∧
    (Turn b 0 calm 2 [(8, 8)] ∧ b.job.state = .loaded ∧ (b.afterTake 0).outerOk (fld (b.sqEntry 0) 8 8) 256 = true ∧
      (b.afterTake 0).bindingOk (bindingOf (b.mem.bytes (fld (b.sqEntry 0) 8 8) 256)) = true) := by
  unfold Turn
  refine ⟨⟨by decide +kernel, by decide +kernel, error_of (by decide +kernel)⟩, by decide +kernel⟩

theorem witness_ArmAndStopFollowTheImageStates :
    let a (l : Nat) : State := let s := ring (loaded (camImg [])) (cmd 3 [l]); { s with job := { s.job with bindings := [b0] } }
    let p := ring (armed (img [])) (cmd 7 [])
    let q := { armed (img []) with job := { (armed (img [])).job with stopAt := some 3 } }
    (Turn (a 1000000) 0 calm 3 [(8, 8)] ∧ (a 1000000).job.state = .loaded ∧ (a 1000000).job.image = some (camImg []) ∧
      (a 1000000).job.allBound (camImg []) = true ∧ (a 1000000).launchOk (fld ((a 1000000).sqEntry 0) 8 8) = true) ∧
    (Turn (a 999990) 0 calm 3 [(8, 8)] ∧ (a 999990).launchOk (fld ((a 999990).sqEntry 0) 8 8) = false) ∧
    (Turn p 0 calm 7 [] ∧ p.job.state = .armed) ∧ (Turn (ring up (cmd 7 [])) 0 calm 7 [] ∧ (ring up (cmd 7 [])).job.state ≠ .armed) ∧
    (q.job.stopAt = some 3 ∧ q.job.state = .armed ∧ q.job.stopping = false) := by unfold Turn; decide +kernel

theorem witness_SnapshotAndResume :
    let im := { img [ent 9 0 0 0] with hdr := { (img []).hdr with lanterns := 0, wicks := 0 } }
    let p (n : Nat) : State := ring (armed im) (cmd 5 [0, hostBase + 512, n])
    let r := ring (loaded im) (cmd 6 [hostBase + 512, 1000000])
    let v := ring (loaded im) (padTo 512 (cmd 6 [hostBase + 512, 1000000]) ++ ascii "RQ9SNAPS" ++ leBytes 8 1 ++ leBytes 8 32)
    (Turn (p im.snapSize) 0 calm 5 [(8, 24)] ∧ im.hasPoint = true ∧ im.snapSize ≤ fld ((p im.snapSize).sqEntry 0) 0x18 8 ∧
      ((p im.snapSize).afterTake 0).outerOk (fld ((p im.snapSize).sqEntry 0) 0x10 8) im.snapSize = true) ∧
    (Turn (p 319) 0 calm 5 [(8, 24)] ∧ fld ((p 319).sqEntry 0) 0x18 8 < im.snapSize) ∧
    (Turn v 0 calm 6 [(8, 16)] ∧ v.job.state = .loaded ∧ v.job.image = some im ∧ (v.afterTake 0).outerOk (fld (v.sqEntry 0) 8 8) 256 = true ∧
      (v.mem.bytes (fld (v.sqEntry 0) 8 8) 256).take 8 = ascii "RQ9SNAPS" ∧ fld (v.mem.bytes (fld (v.sqEntry 0) 8 8) 256) 8 2 = 1 ∧
      (v.afterTake 0).outerOk (fld (v.sqEntry 0) 8 8) (fld (v.mem.bytes (fld (v.sqEntry 0) 8 8) 256) 0x10 8) = true ∧
      (let x := (v.afterTake 0).outerRead (fld (v.sqEntry 0) 8 8) (fld (v.mem.bytes (fld (v.sqEntry 0) 8 8) 256) 0x10 8);
        resumeCheck x.1 im x.2 = some (0x0C, 0))) ∧
    (Turn r 0 calm 6 [(8, 16)] ∧ r.job.state = .loaded ∧ r.job.image = some im ∧ (r.afterTake 0).outerOk (fld (r.sqEntry 0) 8 8) 256 = true ∧
      (r.mem.bytes (fld (r.sqEntry 0) 8 8) 256).take 8 ≠ ascii "RQ9SNAPS") ∧
    ((armed im).entryOf i0 = some (ent 9 0 0 0) ∧ (armed im).canStart (ent 9 0 0 0) i0 = true ∧
      (((armed im).upTo 4).all (fun p => !(armed im).job.before p.1 p.2 (ent 9 0 0 0) i0 || (armed im).done p.2) &&
        !(armed im).job.moves.any fun m => m.endM != 0) = true ∧ (∀ w : WkId, (armed im).wick[w].taper.loader = none)) := by unfold Turn; decide +kernel

theorem witness_QueriesAndUnknownCommandsAnswer :
    let q := ring up (cmd 8 [hostBase + 512])
    let f := ring up (cmd 9 [hostBase + 512])
    (Turn q 0 calm 8 [(8, 8)] ∧ (q.afterTake 0).outerOk (fld (q.sqEntry 0) 8 8) (q.afterTake 0).queryRecord.length = true) ∧
    (Turn f 0 calm 9 [(8, 8)] ∧ (f.afterTake 0).outerOk (fld (f.sqEntry 0) 8 8) f.fenceAnswer.length = true) ∧
    Turn (ring up (cmd 0 [])) 0 calm 0 [(8, 56)] ∧ Turn (ring up (cmd 10 [])) 0 calm 10 [(8, 56)] := by unfold Turn; decide +kernel

/-- A block of 64 bytes in Wick 0, and one of channel records; epochs for them. -/
def blk : EpochBlk := ⟨1, 0, 0, 64, 0, 0x100, 0⟩
def chBlk : EpochBlk := ⟨2, 2, 0, 16, 0, 0, 0⟩
def blkImg : JobImage := { img [] with blocks := [blk, chBlk], chans := [default] }
def ep (block order due : Nat) (carried : Bool) : Epoch := ⟨0, 7, hostBase + 512, due, 1, block, if block = 1 then 64 else 16, 0, order, due, carried⟩
/-- An UPDATE_PARAMS entry: source, target frame 5, SEQ 1, block, length. -/
def upd0 (block len : Nat) : List Byte := cmd 4 [hostBase + 512, 5, 1 + 2 ^ 32 * block, len]

theorem witness_EpochsAreQueuedAndDecided :
    let n := ring up (upd0 1 64)
    let a (block len : Nat) (l : List Epoch) : State := let s := ring (armed blkImg) (upd0 block len); { s with job := { s.job with epochs := l } }
    let c (l : List Epoch) (sh : List ShadowSt) : State := let s := armed blkImg; { s with job := { s.job with epochs := l, shadows := sh } }
    let due (s : State) : List Epoch := s.job.epochs.filter fun e => decide (e.due ≤ 0) && !s.job.commits.any fun x => x.2 == e.order
    (Turn n 0 calm 4 [(8, 0x16), (0x20, 8)] ∧ n.job.state = .none) ∧
    (Turn (a 3 64 []) 0 calm 4 [(8, 0x16), (0x20, 8)] ∧ (a 3 64 []).job.state ≠ .none ∧ (a 3 64 []).job.blockOf (fld ((a 3 64 []).sqEntry 0) 0x1C 2) = none) ∧
    (Turn (a 1 65 []) 0 calm 4 [(8, 0x16), (0x20, 8)] ∧ (a 1 65 []).job.blockOf (fld ((a 1 65 []).sqEntry 0) 0x1C 2) = some blk ∧
      fld ((a 1 65 []).sqEntry 0) 0x20 4 ≠ blk.size) ∧
    (Turn (a 1 64 []) 0 calm 4 [(8, 0x16), (0x20, 8)] ∧ (a 1 64 []).job.blockOf (fld ((a 1 64 []).sqEntry 0) 0x1C 2) = some blk ∧
      fld ((a 1 64 []).sqEntry 0) 0x20 4 = blk.size ∧ (a 1 64 []).job.epochs.length < 256 ∧
      (a 1 64 []).job.shadowOf (fld ((a 1 64 []).sqEntry 0) 0x1C 2) = none) ∧
    256 ≤ (a 1 64 (List.replicate 256 (ep 1 0 9 false))).job.epochs.length ∧
    (let s := c [] []; let u := { s with job := { s.job with resumed := true } };
      u.job.state = .armed ∧ 0 = u.job.next ∧ u.job.resumed = true ∧ 0 = u.job.base) ∧
    ((c [] []).job.state = .armed ∧ 0 = (c [] []).job.next ∧ (c [] []).job.stopAt = none ∧ (c [] []).job.resumed = false ∧ due (c [] []) = []) ∧
    (let s := c [ep 1 0 0 false] [⟨1, 0, List.replicate 64 0, true⟩]; due s = [ep 1 0 0 false] ∧ s.job.complete? 0 (ep 1 0 0 false) = true) ∧
    (let s := c [ep 1 0 0 false] []; due s = [ep 1 0 0 false] ∧ s.job.complete? 0 (ep 1 0 0 false) = false) ∧
    (let s := c [ep 1 0 0 true] []; due s = [ep 1 0 0 true] ∧ s.job.complete? 0 (ep 1 0 0 true) = false ∧ (ep 1 0 0 true).carried = true) := by
  unfold Turn; decide +kernel

theorem witness_EpochsAreCopiedCheckedAndSwitched :
    let c (l : List Epoch) (sh : List ShadowSt) (m : List (Nat × Nat)) : State :=
      let s := armed blkImg; { s with job := { s.job with epochs := l, shadows := sh, commits := m } }
    let good : List Byte := leBytes 4 (2 ^ 30) ++ List.replicate 12 0
    let x : ShadowSt := ⟨2, 0, good, false⟩
    let e : Epoch := { ep 2 0 0 false with crc := crc32c good }
    ((c [] [] []).job.state = .armed ∧ 0 = (c [] [] []).job.next ∧ (c [] [] []).job.commits = []) ∧
    (let s := c [e] [{ x with verified := true }] [(2, 0)];
      s.job.blockOf 2 = some chBlk ∧ s.job.shadowOf 2 = some ({ x with verified := true }, e) ∧ (s.job.epochs.find? fun y => y.order == e.order) = some e) ∧
    (let s := c [e] [] [];
      s.job.headOf 2 = some e ∧ s.job.blockOf 2 = some chBlk ∧ (s.job.commits.any fun c => c.1 == 2) = false ∧ s.job.shadowOf 2 = none ∧
      s.outerOk e.source e.length = true ∧ chBlk.kind = 2) ∧
    (let s := c [{ e with source := mapBase}] [] [];
      s.job.headOf 2 = some { e with source := mapBase } ∧
        mayCopy (s.job.shadowOf 2) { e with source := mapBase } = true ∧ s.outerOk mapBase e.length = false) ∧
    (let s := c [e] [x] [];
      s.job.shadowOf 2 = some (x, e) ∧ s.job.blockOf 2 = some chBlk ∧ x.verified = false ∧ crc32c x.payload = e.crc ∧ payloadOk chBlk x.payload = true) ∧
    (let s := c [e] [{ x with payload := List.replicate 16 0 }] [];
      s.job.shadowOf 2 = some ({ x with payload := List.replicate 16 0 }, e) ∧ payloadOk chBlk (List.replicate 16 0) = false) := by decide +kernel

theorem witness_SaddlerPairsTakeTheirLinesAndRestart :
    let u (f : Saddler → Saddler) : State := { up with sad := upd up.sad 3 f }
    let i (f : Saddler → Saddler) : State := u fun q => f { q with pc := BitVec.ofNat 48 hostBase, victim := .none }
    let l := u fun q => { q with ie := true, pend := 0x8001 }
    let d := u fun q => { q with divTimes := [9, 8] }
    let w := u fun q => { q with line2 := some 4 }
    (l.sad[3].fenced = false ∧ l.sad[3].victim = .none ∧ l.sad[3].irqLine = some 0) ∧
    up.sad[3].fenced = false ∧
    (∀ q ∈ [i id, i fun q => { q with alt := true }, i fun q => { q with stack := List.replicate 64 0 }, i fun q => { q with victim := .suppress }],
      q.sad[3].fenced = false ∧ q.sad[3].asleep = false ∧ (q.sad[3].victim = .none → q.sad[3].irqLine = none) ∧
        decodeCompact 3 (q.mem.bytes q.sad[3].pc.toNat 4) = none) ∧
    ((i id).sad[3].alt = false ∧ (i id).sad[3].stack.length < 64 ∧ (i id).sad[3].victim ≠ .suppress) ∧
    (i fun q => { q with alt := true }).sad[3].alt = true ∧ 64 ≤ (i fun q => { q with stack := List.replicate 64 0 }).sad[3].stack.length ∧
    (i fun q => { q with victim := .suppress }).sad[3].victim = .suppress ∧
    (d.sad[3].fenced = false ∧ [0, 9, 8] = d.time.ftb :: d.sad[3].divTimes.filter (fun t => decide (d.time.ftb < t + 60000000000))) ∧
    (w.sad[3].line2 = some 4 ∧ w.sad[3].fenced = false) := by decide +kernel

/-- Regions: map-store rows 0 to 15 in granules of 8, written by the mailbox path and read by the Wicks; rows 0 to 7 of Lantern 0's activation
scratchpad in granules of one row, written by channel 5 of engine D1. -/
def ibRegion0 : Region := ⟨4, 0, 3, 3, 0, 0, 16, 2, []⟩
def actRegion : Region := ⟨1, 0, 0, 0, 37, 0, 8, 8, []⟩
def regImg (entries : List TtEntry) : JobImage := { img entries with regions := [ibRegion0, actRegion] }
/-- The job armed with those regions, with credits as given. -/
def regions (entries : List TtEntry) (a b : RegionSt) : State :=
  let s := armed (regImg entries); { s with fab := { s.fab with regions := [a, b] } }
/-- A write of channel 5 of D1 into row 0 of that region; its address is the physical Lantern's. -/
def wr0 : RowWrite := ⟨89, some 5, actRow 0 0, 0xFFFF, 5, 3, false⟩

theorem witness_MailboxesCarryRecords :
    let e := ent 7 15 0 4096
    let s := armed (img [e])
    let box (t : State) (f : ObBox → ObBox) : State := { t with app := { t.app with ob := upd t.app.ob 15 f } }
    let o := box s fun b => { b with cfg := 0x80000004, base := BitVec.ofNat 64 hostBase }
    let r : ObRec := ⟨15, 3, i0, 2000000050, [1, 2], []⟩
    let p := { o with app := { o.app with path := [r] } }
    let g (n : Nat) : State := regions [] ⟨0, 0, n, 0⟩ ⟨0, 0, 8, 0⟩
    let w : IbWait := ⟨5, 3, false, 3⟩
    let q (n : Nat) : State := let s := g n; { s with app := { s.app with ib := upd s.app.ib 0 fun b => { b with waiting := [w] } } }
    let z := { q 0 with job := { (q 0).job with stopping := true } }
    (Starts s i0 7 e ∧ e.unit = (15 : Fin 16).1 ∧ s.job.stopAt = none ∧ s.slotFree 15 = false) ∧ (Starts o i0 7 e ∧ o.slotFree 15 = true ∧
      e.arg i0.inst + (e.arg1 + 511) / 512 ≤ 524288) ∧
    (p.app.path = r :: [] ∧ r.rows = [] ∧ p.outerOk ((p.app.ob[r.box]).base.toNat + 4160 * r.slot) 4160 = true) ∧
    ((g 1).ibRegion 0 = some 0 ∧ (g 1).regionList[0]? = some ibRegion0 ∧ bits (0 : W32).toNat 12 0 = 0 ∧ 4096 < bits (4097 : W32).toNat 12 0 ∧
      512 * ibRegion0.granule ≤ bits (4096 : W32).toNat 12 0) ∧
    ((g 1).job.state = .armed ∧ 0 < bits (4096 : W32).toNat 12 0 ∧ bits (4096 : W32).toNat 12 0 ≤ 4096 ∧
      bits (4096 : W32).toNat 12 0 ≤ 512 * ibRegion0.granule ∧ 0 < (g 1).ibCredits 0 ∧ (g 0).ibCredits 0 = 0 ∧ ((g 1).app.ib[0]).waiting = []) ∧
    (((q 1).app.ib[0]).waiting = w :: [] ∧ 0 < (q 1).ibCredits 0 ∧ (q 0).ibCredits 0 = 0) ∧
    ((z.app.ib[0]).waiting = w :: [] ∧ z.job.stopping = true) := by unfold Starts; decide +kernel

theorem witness_CrossingsReleaseAndCreditsGuard :
    let it : XItem := ⟨4, none, 0, 0, 0, false, 0, false⟩
    let c : Crossing := ⟨3, 0x7F, [it], []⟩
    let x (b : Bool) : State := { up with fab := { up.fab with cross := [{ c with items := [{ it with slipped := b }] }] } }
    -- The quadrant of Lantern 3 is 31 degrees warmer than the others.
    let y := { x false with mgmt := { (x false).mgmt with hotspot := upd (x false).mgmt.hotspot 0 fun v => v + 31 } }
    let s (a b : Nat) : State := regions [] ⟨0, 0, 0, 0⟩ ⟨0, a, b, 0⟩
    let w : CreditWait := ⟨1, wr0, 3, false, 3⟩
    let v (n : Nat) : State := let t := s 0 n; { t with fab := { t.fab with waits := [w] } }
    let m := { v 1 with job := { (v 1).job with moves := [⟨.lantern 0, .lantern 32, none, 13⟩] } }
    let ib : IbWait := ⟨5, 3, false, 3⟩
    let k := let s := regions [] ⟨0, 0, 0, 0⟩ ⟨0, 0, 8, 0⟩; { s with app := { s.app with ib := upd s.app.ib 0 fun b => { b with waiting := [ib] } } }
    (∀ b : Bool, ((x b).fab.cross.find? fun c => c.src == (3 : Byte).toNat && c.dst == (0x7F : Byte).toNat) =
      some { c with items := [{ it with slipped := b }] }) ∧
    (x false).outsideLimits 3 0x7F = false ∧ (y.outsideLimits 3 0x7F = true ∧
      (y.fab.cross.find? fun c => c.src == (3 : Byte).toNat && c.dst == (0x7F : Byte).toNat) = some c ∧ it.slipped = false) ∧
    (s 0 8).portWaits wr0.addr 512 true = false ∧ (m.fab.nextWait 1 = some w ∧ m.freely = false ∧ m.moving w.write.addr = true) ∧
    ((k.fab.waits.find? fun c => c.region == 0 && !c.logged) = none ∧ k.waitingChan 0 = none ∧ k.waitingIb 0 = some (0, ib)) ∧
    (memNo wr0.addr = some 1 ∧ (s 0 8).moving wr0.addr = false ∧ (s 0 8).job.state = .armed ∧ firmwareWrite wr0 = false ∧
      (s 0 8).mayWrite { wr0 with chan := some 6 } = false ∧ firmwareWrite { wr0 with chan := some 6 } = false) ∧
    ((s 0 0).mayWrite wr0 = true ∧ (s 0 0).job.stopping = false ∧ (s 0 0).regionAt wr0.addr = some 1 ∧ (s 0 0).writerWaits wr0 = false ∧
      (s 0 0).regionList[1]? = some actRegion ∧ (s 0 0).fab.regions[1]? = some ⟨0, 0, 0, 0⟩ ∧
      (0 : Nat) < RegionSt.need ⟨0, 0, 0, 0⟩ actRegion.granules ((s 0 0).granuleOf 1 wr0.addr)) ∧
    (place wr0.addr = .lan 0 0x00400000 ∧ (s 0 1).fab.regions[1]? = some ⟨0, 0, 1, 0⟩ ∧
      RegionSt.need ⟨0, 0, 1, 0⟩ actRegion.granules ((s 0 1).granuleOf 1 wr0.addr) ≤ 1) ∧
    (∀ n ∈ [0, 1], (v n).fab.nextWait 1 = some w ∧ (v n).freely = false ∧ (v n).moving w.write.addr = false) ∧
    ((v 1).takeCredits 1 wr0).2 = true ∧ ((v 0).takeCredits 1 wr0).2 = false ∧ EngineUse.read ≠ .none ∧
    ((v 0).fab.waits.find? fun c => c.region == 1 && !c.logged) = some w := by
  decide +kernel

/-- PTP messages of domain 0 from sender 7 of grandmaster 5, in the layout of IEEE 1588: an Announce, a Sync, a Follow_Up and a Delay_Resp
with SEQ 9, at second 1; the last names a port's identity. -/
def ptpHead (kind len : Byte) (two : Bool) : List Byte :=
  [kind, 0x12, 0, len, 0, 0, if two then 2 else 0, 0] ++ List.replicate 12 0 ++ beBytes 10 7 ++ [0, 9, 0, 0] ++ beBytes 6 1 ++ beBytes 4 0
def announceMsg : List Byte := ptpHead 11 64 false ++ [0, 0, 0, 128, 248, 0xFE, 0xFF, 0xFF, 128] ++ beBytes 8 5 ++ [0, 0, 0xA0]
def delayRespMsg (identity : Nat) : List Byte := ptpHead 9 54 false ++ beBytes 10 identity
def ptpMst : PtpMaster := ⟨7, 0x0500000000000000, 0x80F8FEFFFF8000000000000000050000, [], []⟩

theorem delayResp_read (x : BitVec 80) : ptpIn 0 [] [] (delayRespMsg x.toNat) = some (.delayResp 7 9 x.toNat second 0) := by
  have e : ∀ o n, o + n ≤ 44 → slice (delayRespMsg x.toNat) o n = slice (ptpHead 9 54 false) o n := fun o n h => slice_append h
  have l : (delayRespMsg x.toNat).length = 54 := rfl
  have h : beNat (slice (delayRespMsg x.toNat) 44 10) = x.toNat := (beNat_beBytes 10 x.toNat).trans (Nat.mod_eq_of_lt x.isLt)
  simp only [ptpIn, ptpTime, befld, fld, l, h, e 0 1 (by decide), e 1 1 (by decide), e 2 2 (by decide), e 4 1 (by decide), e 6 1 (by decide),
    e 8 8 (by decide), e 20 10 (by decide), e 30 2 (by decide), e 34 6 (by decide), e (34 + 6) 4 (by decide)]
  rfl

theorem witness_StudioTimeIsFollowed :
    let t (f : TimeBlk → TimeBlk) : State := { up with ur := { up.ur with gcfg := 0xE0 }, net := { up.net with ptpCfg := 0x10000 }, time := f up.time }
    let m (t1 : Option Nat) (d : Option (Nat × Int)) (x : TimeBlk) : TimeBlk := { x with ptp := upd x.ptp 0 fun p => { p with masters := [ptpMst], sync := some ⟨9, t1, 5, 0⟩, dreq := d } }
    -- An exchange that is answered at second 1: T1 and T2 as the Sync gave them, T3 as the Delay_Req's departure.
    let x (g : State → State) : State := g (t (m (some 5) (some (9, ((second : Nat) : Int)))))
    let ar (s : State) : State := { s with job := (armed (img [])).job }
    let a := t fun x => { x with servo := .acquiring, inBand := some 5, lastValid := 7 * second + 6 }
    let j (u : W32) (f : TimeBlk → TimeBlk) : State :=
      let s := armed (img []); { s with time := f { s.time with servo := .locked }, ur := { s.ur with gcfg := u } }
    let k := j 0xE0 fun x => { x with ptpOffset := 1000001 }
    let l := j 0xA0 fun x => { x with urOffset := -17 }
    let u := { up with ur := { up.ur with gcfg := 0xA0, links := upd up.ur.links 5 fun x => { x with state := .up } } }
    let f : Flit := ⟨3, 0, 0, 0, 0, 1, 0, 0, beBytes 8 5 ++ List.replicate 4 0⟩
    (t id).ptpPort 1 = false ∧ (t id).ptpPort 0 = true ∧ ptpIn (t id).ptpDomain [] [] [] = none ∧
    ptpIn (t id).ptpDomain [] [] announceMsg = some (.announce ptpMst) ∧
    (∀ b : Bool, ptpIn (t id).ptpDomain [] [] (ptpHead 0 44 b) = some (.sync ptpMst.sender 9 b second 0)) ∧
    (((t (m none none)).time.ptp[(0 : Fin 4)]).best = some ptpMst ∧ ((t (m none none)).time.ptp[(0 : Fin 4)]).sync = some ⟨9, none, 5, 0⟩ ∧
      ptpIn (t id).ptpDomain [] [] (ptpHead 8 44 false) = some (.followUp ptpMst.sender 9 second 0)) ∧
    (∀ g ∈ [id, ar], (x g).ptpPort 0 = true ∧ ((x g).time.ptp[(0 : Fin 4)]).best = some ptpMst ∧ ((x g).time.ptp[(0 : Fin 4)]).sync = some ⟨9, some 5, 5, 0⟩ ∧
      ((x g).time.ptp[(0 : Fin 4)]).dreq = some (9, ((second : Nat) : Int)) ∧ (x g).ptpDomain = 0 ∧ (x g).isRoot = true ∧ (0 : Fin 4).1 = (x g).followed) ∧
    ptpIn (x id).ptpDomain [] [] (delayRespMsg (Config.ptpIdentity 0).toNat) = some (.delayResp ptpMst.sender 9 (Config.ptpIdentity 0).toNat second 0) ∧
    (ptpOffsetOf 5 5 0 second second 0 = 0 ∧ ptpOffsetOf 5 2007 0 second second 0 = 1001) ∧
    ((x id).job.state ≠ .armed ∧ (x id).time.servo ≠ .locked ∧ (x ar).job.state = .armed) ∧
    (x fun s => { s with ur := { s.ur with gcfg := 0 } }).isRoot = false ∧
    (a.time.servo = .acquiring ∧ a.time.inBand = some 5 ∧ 5 + 7 * second < a.time.lastValid) ∧
    (bits u.ur.gcfg.toNat 7 5 = (5 : Fin 6).1 ∧ (u.ur.links[5]).state = .up ∧ flitOf 3 f.bytes = some f) ∧
    (k.slewing = true ∧ k.isRoot = true ∧ 1000000 < k.time.ptpOffset) ∧ (l.slewing = true ∧ l.isRoot = false ∧ l.time.urOffset < -16) :=
  ⟨by decide +kernel, by decide +kernel, by decide +kernel, by decide +kernel, by decide +kernel, by decide +kernel,
    fun g hg => by rcases List.mem_pair.1 hg with rfl | rfl <;> decide +kernel, delayResp_read _, by decide +kernel, by decide +kernel, by decide +kernel,
    by decide +kernel, by decide +kernel, by decide +kernel, by decide +kernel⟩

theorem witness_InstancesStartTheirUnits :
    let w := ent 4 47 0x3FFFC 3
    let d := ent 5 37 0 0
    let r := ent 6 0 0 1
    let s := armed (img [w])
    let t := armed { img [d] with dma := [[DmaDesc.zero]] }
    let q : RegionSt := ⟨0, 1, 1, 0⟩
    let u := regions [r] q ⟨0, 0, 8, 0⟩
    let c (e : TtEntry) (f : JobBlk → JobBlk) : State := let s := armed (img [e]); { s with job := f s.job }
    let v := c (ent 8 0 788 1) fun j => { j with started := [i0] }
    (Starts s i0 4 w ∧ s.rel.wkPhys w.unit = some 47 ∧ w.thread = (3 : Fin 4).1 ∧ s.threadFree 47 3 = true) ∧
    (Starts t i0 5 d ∧ d.unit = 32 * (1 : Fin 4).1 + (5 : Fin 32).1 ∧ (t.dma[1].ch[5]).state = .idle ∧ t.descAt (d.arg 0) 0 = some DmaDesc.zero) ∧
    (Starts u i0 6 r ∧ u.job.image = some (regImg [r]) ∧ (regImg [r]).regions[r.arg 0]? = some ibRegion0 ∧ u.readersDone (regImg [r]) ibRegion0 r i0 = true ∧
      u.releasesDone r i0 = true ∧ u.job.stopAt = none ∧ u.job.released i0 = 0 ∧ u.fab.regions[r.arg 0]? = some q ∧ r.arg1 ≤ q.len) ∧
    (v.entryOf i0 = some (ent 8 0 788 1) ∧ v.job.started.contains i0 = true ∧ v.done i0 = false ∧ v.ended (ent 8 0 788 1) i0 = true ∧
      v.job.stopAt = none) := by
  unfold Starts; decide +kernel

theorem witness_FabricRowAccessesAct :
    let m : RowWrite := { wr0 with addr := mapRow 63 }
    let h := { up with fab := { up.fab with held := [wr0] } }
    let r : BankReq := ⟨89, some 5, m.addr, some m, 40⟩
    let bank (r : BankReq) (s : State) : State := { s with fab := { s.fab with banks := upd s.fab.banks 63 fun _ => [r] } }
    let b := bank r up
    let rd (port : Nat) : BankReq := ⟨port, none, mapRow 63, none, 40⟩
    let ob : ObRec := ⟨15, 3, i0, 2000000050, List.replicate 512 0, [(mapRow 63, 0)]⟩
    let x := bank (rd 100) { up with app := { up.app with path := [ob] } }
    let v := { up with job := { up.job with moves := [⟨.lantern 0, .lantern 32, none, 13⟩] } }
    let l := { up with wick := upd up.wick 5 fun w => { w with sb := [⟨0x2FF8, [1], 1⟩] } }
    (place wr0.addr = .lan 0 0x00400000 ∧ memNo wr0.addr = some 1 ∧ up.moving wr0.addr = false ∧ up.job.state ≠ .armed ∧ EngineUse.read ≠ .none ∧
      up.portWaits wr0.addr 512 true = false) ∧
    v.moving wr0.addr = true ∧ l.portWaits (wickBase 5 + 512) 512 true = true ∧
    (up.moving (actRow 0 0 + 5) = false ∧ place (rowBase (actRow 0 0 + 5)) = .lan 0 0x00400000) ∧
    (up.moving (mapRow 63 + 5) = false ∧ place (rowBase (mapRow 63 + 5)) = .map (512 * 63)) ∧
    (h.fab.held.find? fun x => x.addr == wr0.addr && !h.moving x.addr) = some wr0 ∧
    (bankPick b.fab.banks[63] (b.fab.grantAt 63) = some r ∧ r.write = some m) ∧
    (let c := bank (rd 36) up; bankPick c.fab.banks[63] (c.fab.grantAt 63) = some (rd 36) ∧ (rd 36).write = none ∧ (rd 36).port ≠ 100) ∧
    (bankPick x.fab.banks[63] (x.fab.grantAt 63) = some (rd 100) ∧ (rd 100).write = none ∧ (rd 100).port = 100 ∧ x.job.stopAt = none ∧
      (x.app.path.findSome? fun m => (m.rows.find? fun y => y.1 == (rd 100).addr).map fun y => (m, y.2)) = some (ob, 0)) := by decide +kernel

/-- A chain of one pass with one vector of no taps on Lantern 31, and of the same pass with tags that the scratchpad does not hold. -/
def pass0 : PassDesc := { (default : PassDesc) with n := 1, init := true }
def chainImg (p : PassDesc) : JobImage := { img [ent 1 31 0 1] with passes := [p], windows := [default] }
def hurt : LnFault := ⟨.rowParity, 0, 3, 0, 0⟩

theorem witness_ChainsDrainOrHalt :
    let e := ent 1 31 0 1
    let im := chainImg pass0
    let s := armed im
    let c := (s.startOf e i0).startCycle 31 e i0 7
    let r (f : List LnFault) : State × Option Abort := (s.startOf e i0).runChain 31 i0 im (im.chainPasses (e.arg 0) e.arg1) (s.lan[31].loadStart c)
      (max (s.lan[31].loadStart c + 256) s.lan[31].drainEnd) (s.lan[31].preload c) f
    let h := s.setLan 31 fun l => { l with mode := .halted, occEnd := some 9 }
    (Starts s i0 1 e ∧ s.rel.lnPhys e.unit = some 31 ∧ s.job.image = some im) ∧ (∃ u, r [] = (u, none)) ∧ (∃ u a, r [hurt] = (u, some a)) ∧
    (h.lan[31].mode = .halted ∧ h.lan[31].occEnd = some 9) ∧ (s.startOf e i0).mem.wf := by
  unfold Starts
  intro e im s c r h
  refine ⟨by decide +kernel +revert, ⟨(r []).1, Prod.ext rfl ?_⟩, ?_, by decide +kernel +revert, by decide +kernel +revert⟩
  · exact Option.not_isSome_iff_eq_none.1 (by decide +kernel +revert)
  · obtain ⟨a, ha⟩ := some_of (o := (r [hurt]).2) (by decide +kernel +revert)
    exact ⟨(r [hurt]).1, a, Prod.ext rfl ha⟩

theorem witness_RequantiserAndAverageUnitRun :
    let s := armed { img [ent 2 31 0 0] with rqops := [default] }
    let t := armed { img [ent 3 31 0 0] with gavgs := [default] }
    (Starts s i0 2 (ent 2 31 0 0) ∧ s.rel.lnPhys 31 = some 31 ∧ (∃ im op, s.job.image = some im ∧ im.rqops[(ent 2 31 0 0).arg 0]? = some op)) ∧
    (Starts t i0 3 (ent 3 31 0 0) ∧ t.rel.lnPhys 31 = some 31 ∧ (∃ im o, t.job.image = some im ∧ im.gavgs[(ent 3 31 0 0).arg 0]? = some o)) := by
  unfold Starts
  refine ⟨⟨by decide +kernel, by decide +kernel, _, _, rfl, rfl⟩, by decide +kernel, by decide +kernel, _, _, rfl, rfl⟩

theorem witness_FailedChainsAreClassified :
    let f : FailedChain := ⟨i0, 0, 3, true, 1⟩
    let im := chainImg pass0
    let win : WinProg := { (default : WinProg) with
      srcCh := 16, imgH := 1, imgW := 1, regH := 1, kY := 1, kX := 1, sY := 1, sX := 1, dY := 1, dX := 1, q0 := 0
      rowmap := 0 :: List.replicate 31 0xFF00, taps := [(0, 0)] }
    let bad := { chainImg { pass0 with tagBase := 1 } with windows := [win] }
    let s (b : Bool) (im : JobImage) : State :=
      let t := (armed im).setLan 31 fun l => { l with mode := .halted, failed := some f, ctrl := 3 }
      { t with rel := { t.rel with ln := upd t.rel.ln 31 fun e => { e with prob := b } } }
    let ps (im : JobImage) : List (Nat × PassDesc) := im.chainPasses 0 1
    ((s true im).lan[31].failed = some f ∧ (s true im).job.image = some im ∧ (s true im).entryOf f.inst = some (ent 1 31 0 1) ∧
      bit (s true im).lan[31].ctrl.toNat 2 = false ∧ (s true im).rel.ln[31].prob = true) ∧
    ((s false im).rel.ln[31].prob = false ∧ ((s false im).replay 31 im f (ps im) []).2 = none) ∧
    ((s false im).replay 31 im f (ps im) [hurt]).2.map (·.again) = some true ∧
    ((s false bad).replay 31 bad f (ps bad) []).2.map (·.again) = some false := by
  decide +kernel

theorem witness_RequantiserRoundsAndSaturates :
    2 * ((1 : Int) - 2 ^ 1 * roundShift 1 1).natAbs = 2 ^ 1 ∧ (-8 ≤ (7 : Int) ∧ (7 : Int) < 8 ∧ (-9 : Int) < -8) ∧
    ((captureCode (-8) 7 100 0 4).2 = .escape) ∧
    (∀ x ∈ [((-32768 : Int), 0)], -128 ≤ roundShift x.1 (x.2 + 8) ∧ roundShift x.1 (x.2 + 8) ≤ 127) ∧
    2 * ((3 : Int) - (2 : Nat) * roundDiv 3 2).natAbs = 2 := by decide +kernel

theorem witness_WinogradIsTheDirectConvolution : 1 < 2 ∧ 0 < 2 := by decide

/-- Item 0 of the library: a general pass in the rotation. -/
def item0 : LibItem := ⟨0, 0, 1, 0, 0, 1, 5⟩

theorem witness_TestItemsRunAndAreCounted :
    let e := ent 8 31 788 1
    let s := armed (img [e])
    let u : UnitId := .lantern 35
    let r := { inService up with rel := { (inService up).rel with items := [item0] } }
    let v := { s with rel := { s.rel with vacated := [(.lantern 31, some i0)] } }
    let w := (v.runWindow (.lantern 31) (e.arg 0) e.arg1 []).inTest (.lantern 31) none (v.freeCycle (.lantern 31)) (e.arg 0) e.arg1
      (bit v.rel.ctrl.toNat 1)
    (s.entryOf i0 = some e ∧ s.windowPhys e = some (.lantern 31) ∧ e.kind = 8 ∧ s.canStart e i0 = true ∧ s.unitIdle (.lantern 31) = true ∧
      s.time.ftb ≤ s.job.placed e i0 + 50000000) ∧
    (bit r.rel.ctrl.toNat 1 = true ∧ r.inUse u = false ∧ (r.entry u).st ≠ .busy ∧ r.fenceDue u = none ∧
      (r.tst u).next r.rel (unitWick u) = some (.rotation, 0, false) ∧ r.rel.items[0]? = some item0 ∧ item0.length ≤ 65536 ∧
      itemFails item0 (unitWick u) ⟨6, true⟩ = true ∧ itemFails item0 (unitWick u) ⟨5, true⟩ = false ∧ (r.entry u).prob = false) ∧
    (s.job.state = .armed ∧ s.job.started.contains i0 = false ∧ s.job.cancelled e i0 = false ∧
      (s.job.moves.any fun m => m.left == .lantern 31) = false ∧ (s.freeSpareOf (unitWick (.lantern 31))).isSome = true) ∧
    ((v.rel.vacated.find? fun v => v.1 == .lantern 31) = some (.lantern 31, some i0) ∧ v.entryOf i0 = some e ∧
      (w.tst (.lantern 31)).repeatDue = none ∧ w.fenceDue (.lantern 31) = none) := by decide +kernel

theorem witness_UnitsAreFencedMovedAndRepaired :
    let s := inService up
    let u : UnitId := .lantern 31
    let f := s.setLan 31 fun l => { l with fenceDue := some 0 }
    let m : Move := ⟨u, u, some i0, 0⟩
    let k : Move := ⟨u, .lantern 32, none, 13⟩
    let j (l : List Move) : State := { s with job := { s.job with moves := l } }
    let q := { s with
      lan := upd s.lan 31 fun l => { l with lines := [(true, 256), (false, 0)] }
      rel := { s.rel with ln := upd s.rel.ln 31 fun _ => ⟨.fenced, none, false⟩ } }
    (f.unitIdle u = true ∧ f.fenceDue u = some 0 ∧ (f.entry u).st = .serving) ∧
    ((j [m]).unitIdle u = true ∧ (j [m]).fenceDue u = none ∧ ((j [m]).entry u).st = .serving ∧
      ((j [m]).job.moves.find? fun m => m.left == u && m.endM == 0) = some m ∧ (j [m]).freeSpareOf (unitWick u) = some (.lantern 32)) ∧
    (((j [k]).job.moves.find? fun m => m.left == u && m.endM != 0) = some k ∧ k.window = none ∧ (j [k]).job.stopAt = none) ∧
    (s.rel.wk[47].st ≠ .fenced ∧ { s with rel := { s.rel with wk := upd s.rel.wk 47 fun _ => ⟨.fenced, none, false⟩ } }.rel.wk[47].st = .fenced) ∧
    (q.rel.ln[31].st = .fenced ∧ q.job.state ≠ .armed ∧ q.lan[31].unlocated = false ∧ q.lan[31].lines ≠ [] ∧
      (steerBoth q.lan[31] [256] [0]).isSome = true ∧
      [256] = ((q.lan[31].lines.filterMap fun x => if x.1 then some x.2 else none).dedup.filter fun k => !steered q.lan[31].rowSteer k) ∧
      [0] = ((q.lan[31].lines.filterMap fun x => if x.1 then none else some x.2).dedup.filter fun k => !steered q.lan[31].colSteer k) ∧
      q.sweepPasses false [] = true) ∧
    (armed (img [])).job.state = .armed := by decide +kernel

/-! ## Instructions, by bytes written out from R283–R290, R304–R305, R310–R312 and R323–R324 -/

/-- General registers 1, 2, …: g1 = 7, g2 = 5, g3 = 0x3000, g4 = 0x3FFFF, the others 0. -/
def gs : Vector W64 32 := Vector.ofFn fun r => #[0, 7, 5, 0x3000, 0x3FFFF].getD r.1 0

/-- Thread 2 of Wick 5 runs, with the bytes l in its instruction buffer. -/
def onThread (f : Wick → Wick) (h : Thread → Thread) : State := { up with
  wick := upd up.wick 5 fun w => { f w with threads := upd (f w).threads 2 fun t => h { t with run := .running, pc := 0x1000, g := gs } } }
def runs (l : List Byte) (h : Thread → Thread := id) : State := onThread id fun t => h { t with buf := l }
/-- The same of a Wick in test state, where a buffered store is absent or the Taper is the thread's. -/
def onWick (f : Wick → Wick) (l : List Byte) (h : Thread → Thread := id) : State := onThread f fun t => h { t with buf := l }
/-- Saddler pair 3 with the bytes l at its address. -/
def pairRuns (l : List Byte) (f : Saddler → Saddler := id) : State := { up with
  sad := upd up.sad 3 fun q => f { q with pc := BitVec.ofNat 48 hostBase, g := gs, victim := .none }
  mem := up.mem.write hostBase l }

/-- What the sites of a Wick thread and of a pair decode from the bytes. -/
def onWickCodes (s : List Byte → State) (l : List (Bool × (Site → Instr) × List Byte)) : Prop :=
  ∀ p ∈ l, SiteReady (s p.2.2) (.wick 5 2 p.1 .clean) (p.2.1 (.wick 5 2 p.1 .clean)) p.2.2.length
def onPairCodes (s : List Byte → State) (l : List (Bool × (Site → Instr) × List Byte)) : Prop :=
  ∀ p ∈ l, SiteReady (s p.2.2) (.sad 3 p.1) (p.2.1 (.sad 3 p.1)) p.2.2.length

theorem wickCodes_of {s : List Byte → State} {l : List (Bool × (Site → Instr) × List Byte)}
    (h : (l.all fun p => decide ((s p.2.2).wick[5].threads[2].run = .running ∧ (s p.2.2).wick[5].threads[2].victim ≠ .suppress ∧
      ((s p.2.2).wick[5].threads[2].victim = .none → ((s p.2.2).wick[5].toSlot 2).irqLine 2 = none) ∧
      decodeWick 5 2 false .clean (s p.2.2).wick[5].testState ((s p.2.2).slot 5 2).wick[5].threads[2].buf =
        .ok (p.2.1 (.wick 5 2 p.1 .clean)) p.2.2.length)) = true) : onWickCodes s l := fun p hp =>
  have e := of_decide_eq_true (List.all_eq_true.1 h p hp); ⟨rfl, e⟩

theorem pairCodes_of {s : List Byte → State} {l : List (Bool × (Site → Instr) × List Byte)}
    (h : (l.all fun p => decide ((s p.2.2).sad[3].fenced = false ∧ (s p.2.2).sad[3].asleep = false ∧ (s p.2.2).sad[3].victim ≠ .suppress ∧
      ((s p.2.2).sad[3].victim = .none → (s p.2.2).sad[3].irqLine = none) ∧
      decodeCompact 3 ((s p.2.2).mem.bytes (s p.2.2).sad[3].pc.toNat 4) = some (p.2.1 (.sad 3 p.1), p.2.2.length))) = true) : onPairCodes s l :=
  fun p hp => have e := of_decide_eq_true (List.all_eq_true.1 h p hp); e

theorem witness_IntegerInstructionsWriteTheirResult :
    onWickCodes runs [
      (false, (.addSub · false 3 1 2), [0x10, 3, 1, 2]), (false, (.addSub · true 31 0 30), [0x11, 0x1F, 0, 0x1E]),
      (false, (.andOrXor · .and 0 1 2), [0x12, 0, 1, 2]), (false, (.andOrXor · .xor 3 1 2), [0x14, 3, 1, 2]),
      (false, (.shlShrSar · .shl 3 1 2), [0x15, 3, 1, 2]), (false, (.shlShrSar · .sar 3 1 2), [0x17, 3, 1, 2]),
      (false, (.mul · 3 1 2), [0x18, 3, 1, 2]), (false, (.mulhMulhu · false 3 1 2), [0x19, 3, 1, 2]),
      (false, (.mulhMulhu · true 3 1 2), [0x1A, 3, 1, 2]), (false, (.immediateAlu · .add 3 1 (-128)), [0x20, 3, 1, 0x80]),
      (false, (.immediateAlu · .mul 3 1 127), [0x27, 3, 1, 0x7F]), (true, (.immediateAlu · .or 3 1 0x80000000), [0xEA, 0x22, 3, 1, 0, 0, 0, 0x80]),
      (false, (.shiftImmediate · .shr 3 1 63), [0x25, 3, 1, 63]), (false, (.li · 7 0xFFFFFFFFFFFF8000), [0x0A, 7, 0, 0x80]),
      (true, (.li · 7 0x0807060504030201), [0xEA, 0x0A, 7, 1, 2, 3, 4, 5, 6, 7, 8]), (false, (.lis · 7 0xBA98), [0x0B, 7, 0x98, 0xBA]),
      (true, (.lis · 7 0xDEADBA98), [0xEA, 0x0B, 7, 0x98, 0xBA, 0xAD, 0xDE])] ∧
    onPairCodes pairRuns [
      -- H = op·2^10 + rd·2^5 + ra.
      (true, (.addSub · false 3 1 0), [0x61, 0x08]), (true, (.addSub · true 3 3 1), [0x61, 0x10]), (true, (.andOrXor · .xor 31 31 30), [0xFE, 0x1F]),
      (true, (.immediateAlu · .add 3 3 (-16)), [0x70, 0x20]), (true, (.li · 3 15), [0x6F, 0x24]), (true, (.shiftImmediate · .sar 3 3 31), [0x7F, 0x30]),
      -- W = sub·2^26 + rb·2^21 + ra·2^16 + 2^15 + op·2^8 + rd·2^3.
      (false, (.mul · 3 1 2), [0x18, 0x81, 0x41, 0x20]), (false, (.mulhMulhu · true 31 30 29), [0xF8, 0x81, 0xBE, 0x2B]),
      (false, (.shlShrSar · .shr 3 1 2), [0x18, 0x81, 0x41, 0x18]), (false, (.immediateAlu · .add 3 1 (-1024)), [0x18, 0x82, 0x01, 0x80]),
      (false, (.li · 3 0xFFFFFFFFFFFF8001), [0x18, 0x8A, 0x01, 0x80]), (false, (.lis · 3 0xBA98), [0x18, 0x8B, 0x98, 0xBA])] ∧
    (3 : G) ≠ 0 := ⟨wickCodes_of (by decide +kernel), pairCodes_of (by decide +kernel), by decide⟩

theorem witness_DivisionsAnswerOrTrap :
    onWickCodes runs [(false, (.divDivu · false 3 1 2), [0x1B, 3, 1, 2]), (false, (.divDivu · true 3 1 2), [0x1C, 3, 1, 2]),
      (false, (.remRemu · false 3 1 2), [0x1D, 3, 1, 2]), (false, (.remRemu · true 3 1 0), [0x1E, 3, 1, 0])] ∧
    onPairCodes pairRuns [(false, (.divDivu · false 3 1 2), [0x18, 0x81, 0x41, 0x2C]), (false, (.remRemu · true 3 1 0), [0x18, 0x81, 0x01, 0x38])] ∧
    regGet gs 2 ≠ 0 ∧ regGet gs 0 = 0 ∧ (quotient false (-7) 5 * 5 + remainder false (-7) 5 = -7 ∧ remainder false (-7) 5 = -2) :=
  ⟨wickCodes_of (by decide +kernel), pairCodes_of (by decide +kernel), by decide, by decide, by decide⟩

theorem witness_BitInstructionsWriteTheirResult :
    onWickCodes runs [(false, (.crcs · .b 3 1 2), [0x28, 3, 1, 2]), (false, (.crcs · .d 3 1 2), [0x2B, 3, 1, 2]), (false, (.par · 3 1), [0x2C, 3, 1]),
      (false, (.brev · false 3 1), [0x2D, 3, 1]), (false, (.brev · true 3 1), [0x2E, 3, 1]), (false, (.clz · 3 1), [0x2F, 3, 1]),
      (false, (.featr · 3 15), [0x09, 3, 15]), (false, (.nop ·), [0x00]), (false, (.drain ·), [0x04])] ∧
    onPairCodes pairRuns [(true, (.crcs · .b 3 1 0), [0x61, 0x60]), (false, (.crcs · .w 3 1 2), [0x18, 0x81, 0x41, 0x48]),
      (false, (.par · 3 1), [0x18, 0x81, 0x01, 0x50]), (false, (.brev · false 3 1), [0x18, 0x81, 0x01, 0x54]),
      (false, (.brev · true 3 1), [0x18, 0x81, 0x01, 0x58]), (false, (.clz · 3 1), [0x18, 0x81, 0x01, 0x5C]),
      (false, (.featr · 3 15), [0x18, 0xB0, 0xE0, 0x01]), (true, (.nop ·), [0x00, 0x04]), (true, (.drain ·), [0x04, 0x04])] :=
  ⟨wickCodes_of (by decide +kernel), pairCodes_of (by decide +kernel)⟩

theorem witness_ControlTransfersActAsTabled :
    let x : Site := .wick 5 2 false .clean
    let far (l : List Byte) : State := runs l fun t => { t with pc := 0x3FFFF }
    let full (l : List Byte) : State := runs l fun t => { t with stack := List.replicate 32 0 }
    let inside (l : List Byte) : State := runs l fun t => { t with stack := [0x2000], alt := true }
    onWickCodes runs [(false, (.jmp · (.rel (-3))), [0x05, 0xFD, 0xFF]), (true, (.jmp · (.rel 0x40000000)), [0xEA, 0x05, 0, 0, 0, 0x40]),
      (false, (.jmp · (.reg 3)), [0x07, 3]), (false, (.call · (.rel 5)), [0x06, 5, 0]), (false, (.call · (.reg 3)), [0x08, 3]), (false, (.ret ·), [0x02]),
      (false, (.reti ·), [0x03]), (false, (.halt ·), [0x01]), (false, (.skip · .eq 1 (.reg 2)), [0x40, 1, 2]), (false, (.skip · .bc 1 (.reg 2)), [0x47, 1, 2]),
      (false, (.skip · .ge 1 (.imm (-1))), [0x4B, 1, 0xFF]), (true, (.skip · .ltu 1 (.imm 258)), [0xEA, 0x4C, 1, 2, 1, 0, 0])] ∧
    onWickCodes inside [(false, (.ret ·), [0x02]), (false, (.reti ·), [0x03])] ∧ onWickCodes full [(false, (.call · (.rel 5)), [0x06, 5, 0])] ∧
    onPairCodes pairRuns [(true, (.jmp · (.rel (-512))), [0x00, 0x52]), (true, (.call · (.reg 3)), [0x03, 0x5C]), (true, (.ret ·), [0x02, 0x04]),
      (true, (.skip · .ne 3 (.reg 1)), [0x61, 0x48]), (false, (.skip · .bs 1 (.reg 2)), [0x00, 0xA0, 0x41, 0x18]),
      (false, (.skip · .lt 1 (.imm 3)), [0x40, 0xA1, 0x61, 0x00]), (false, (.jmp · (.rel (-8388608))), [0x00, 0xA8, 0x00, 0x80]),
      (false, (.call · (.rel 0x010203)), [0x03, 0xA9, 0x02, 0x01]), (false, (.jmp · (.reg 3)), [0x00, 0xAA, 0x03, 0x00]), (true, (.halt ·), [0x01, 0x04])] ∧
    ((∃ a v, branchTarget x (.rel 5) ((runs [0x06, 5, 0]).coreAt x 3) = (some a, v)) ∧ ((runs [0x06, 5, 0]).siteStack x).length < stackDepth x) ∧
    (∃ v, branchTarget x (.rel 5) ((far [0x06, 5, 0]).coreAt x 3) = (none, v)) ∧ stackDepth x ≤ ((full [0x06, 5, 0]).siteStack x).length ∧
    (∃ v, branchTarget x (.rel 5) ((far [0x05, 5, 0]).coreAt x 3) = (none, v)) ∧
    (runs [0x02]).siteStack x = [] ∧ (runs [0x03]).siteAlt x = false ∧ (inside [0x03]).siteAlt x = true ∧ (inside [0x03]).siteStack x = [0x2000] := by
  refine ⟨wickCodes_of (by decide +kernel), wickCodes_of (by decide +kernel), wickCodes_of (by decide +kernel), pairCodes_of (by decide +kernel),
    ⟨⟨_, _, rfl⟩, by decide +kernel⟩, ?_, by decide +kernel, ?_, by decide +kernel⟩
  all_goals exact ⟨_, Prod.ext (by decide +kernel) rfl⟩

theorem witness_LoadsAndStoresReachTheirBytes :
    let x : Site := .wick 5 2 false .clean
    let upd8 : List Byte := [0x36, 3, 0x43, 8]
    let ld : List Byte := [0x36, 1, 3, 0xF8]
    let st : List Byte := [0x3A, 1, 3, 4]
    let e : SbEntry := ⟨0x2FF8, [1, 2, 3, 4, 5, 6, 7, 8], 1⟩
    let held (l : List Byte) : State := onWick (fun w => { w with sb := [e] }) l
    onWickCodes runs [(false, (.load · .d false 3 (.postInc 8) 3), upd8), (false, (.load · .d false 1 (.off (-8)) 3), ld),
      (false, (.load · .b false 1 (.off 0) 3), [0x30, 1, 3, 0]), (false, (.load · .b true 1 (.preDec 1) 3), [0x31, 1, 0x83, 1]),
      (false, (.load · .h true 1 (.index 2 1) 3), [0x33, 1, 0xC3, 0x42]), (true, (.load · .w false 1 (.off 258) 3), [0xEA, 0x34, 1, 3, 2, 1, 0, 0]),
      (false, (.load · .w true 1 (.off 0) 4), [0x35, 1, 4, 0]), (false, (.store · .w 1 (.off 4) 3), st), (false, (.store · .b 1 (.postInc 1) 3), [0x38, 1, 0x43, 1]),
      (false, (.store · .h 1 (.off 0) 4), [0x39, 1, 4, 0]), (false, (.store · .d 1 (.index 2 3) 3), [0x3B, 1, 0xC3, 0xC2])] ∧
    onWickCodes held [(false, (.load · .d false 1 (.off (-8)) 3), ld)] ∧
    onPairCodes pairRuns [(true, (.load · .d false 3 (.off 0) 1), [0x61, 0x34]), (true, (.store · .w 3 (.off 0) 1), [0x61, 0x40]),
      (false, (.load · .d false 3 (.postInc (-8)) 3), [0x1A, 0x96, 0x03, 0xFF]), (false, (.load · .b true 3 (.off 1) 3), [0x18, 0x91, 0x23, 0x00]),
      (false, (.store · .h 3 (.index 2 1) 3), [0x1E, 0x99, 0x43, 0x04]), (false, (.store · .w 3 (.off 1) 3), [0x18, 0x9A, 0x23, 0x00])] ∧
    (modeUpdates (.postInc 8) = true ∧ (modeUpdates (.off (-8)) && (1 : G) == 3) = false) ∧
    (scalarAt (eaOf (.off (-8)) ((runs ld).siteRegs x) 3).1 (sizeBytes .d) = .local_ 0x2FF8 ∧ 0x2FF8 % 16 + sizeBytes .d ≤ 16 ∧
      (runs ld).wick[5].sb = [] ∧ (runs ld).mem.eccAt ((runs ld).localAddr 5 (0x2FF8 / 16 * 16)) = 0) ∧
    ((held ld).wick[5].sb = [e] ∧ e.addr = 0x2FF8 ∧ e.bytes.length = sizeBytes .d ∧
      scalarAt (eaOf (.off (-8)) ((held ld).siteRegs x) 3).1 (sizeBytes .d) = .local_ 0x2FF8) ∧
    scalarAt (eaOf (.off 0) ((runs ld).siteRegs x) 4).1 (sizeBytes .w) = .bad 0x40000 ∧
    scalarAt (eaOf (.off 0) ((runs ld).siteRegs x) 4).1 (sizeBytes .h) = .bad 0x40000 ∧
    (scalarAt (eaOf (.off 4) ((runs st).siteRegs x) 3).1 (sizeBytes .w) = .local_ 0x3004 ∧ (runs st).wick[5].sb.length < 4) ∧
    (sadAddr (eaOf (.off 0) gs 1).1 (sizeBytes .d) = none ∧ sadAddr (eaOf (.off 0) gs 1).1 (sizeBytes .w) = none) ∧
    sadAddr (eaOf (.off 1) gs 3).1 (sizeBytes .b) = some 0x3001 ∧ sadAddr (eaOf (.index 2 1) gs 3).1 (sizeBytes .h) = some 0x300A ∧
    ((pairRuns [0x1E, 0x99, 0x43, 0x04]).coreAccess (.sad 3) (.saddler 3) 0x300A 2 (some (leBytes 2 (regGet gs 3).toNat))).1.cfg.warmDue =
      (pairRuns [0x1E, 0x99, 0x43, 0x04]).cfg.warmDue :=
  ⟨wickCodes_of (by decide +kernel), wickCodes_of (by decide +kernel), pairCodes_of (by decide +kernel), by decide +kernel⟩

theorem witness_WickEventsEnterOrEndThreads :
    let src (w : Wick) : Wick := { w with irqSrc := Vector.replicate 16 0xA2000000, irqPend := 0x8010 }
    let i := onWick src [] fun t => { t with ie := true, victim := .none }
    let ill := runs [0x0C]
    let past := runs [] fun t => { t with pc := 0x3FFFF, buf := [0x10] }
    let h := let s := armed (img []); { s with wick := upd s.wick 5 fun w => { w with
      threads := upd w.threads 2 fun t => { t with run := .running, started := some 2000000010, pc := 0x1234 } } }
    let r : RcwWait := ⟨0, 1, 7, 5, false⟩
    let wt (f : State → State) : State := f (runs [] fun t => { t with run := .waiting, rcw := some r })
    let w := wt fun s => { s with fab := { s.fab with rowsDone := [(0, 1, 8)] } }
    -- The second of the pair in the slot is a Taper form of an unassigned code; the first took no branch, or one.
    let p (b : Bool) : PairFirst := ⟨2, [], false, 4, 0x1004, b, [0xE9, 0xFF], 0⟩
    let two (b : Bool) : State := onWick (fun w => { w with pair := some (p b) }) []
    let sup := runs [0x0C] fun t => { t with victim := .suppress }
    (i.wick[5].threads[2].run = .running ∧ i.wick[5].threads[2].victim = .none ∧ (i.wick[5].toSlot 2).irqLine 2 = some 4) ∧
    (∀ b : Bool, (two b).wick[5].threads[2].run = .running ∧ (two b).wick[5].illegalSecond 2 = some (p b) ∧
      (two b).wick[5].threads[2].alt = false ∧ (two b).wick[5].threads[2].stack.length < 32) ∧
    (sup.wick[5].threads[2].run = .running ∧ sup.wick[5].threads[2].victim = .suppress ∧ sup.wick[5].illegalSecond 2 = none ∧
      decodeWick 5 2 false .clean sup.wick[5].testState (sup.slot 5 2).wick[5].threads[2].buf = .illegal) ∧
    (∀ s ∈ [ill, past], s.wick[5].threads[2].run = .running ∧ s.wick[5].threads[2].victim ≠ .suppress ∧ s.wick[5].illegalSecond 2 = none ∧
      (s.wick[5].threads[2].victim = .none → (s.wick[5].toSlot 2).irqLine 2 = none)) ∧
    decodeWick 5 2 false .clean ill.wick[5].testState (ill.slot 5 2).wick[5].threads[2].buf = .illegal ∧
    (decodeWick 5 2 false .clean past.wick[5].testState (past.slot 5 2).wick[5].threads[2].buf = .short ∧
      (past.slot 5 2).wick[5].threads[2].runsPast = true) ∧
    (h.wick[5].threads[2].started = some 2000000010 ∧ h.job.state = .armed ∧ h.wick[5].reachedHalt 2 = false) ∧
    (w.wick[5].threads[2].rcw = some r ∧ w.wick[5].threads[2].run = .waiting ∧ r.row < w.fab.rowCount r.region r.buf) ∧
    ((wt id).wick[5].threads[2].rcw = some r ∧ r.logged = false ∧ (wt id).fab.rowCount r.region r.buf ≤ r.row) := by decide +kernel

theorem witness_WickMemoriesAndControlPageAct :
    let x : Site := .wick 5 2 false .clean
    let e : SbEntry := ⟨0x2FF8, [1, 2], 1⟩
    let d := { up with wick := upd up.wick 5 fun w => { w with sb := [e] } }
    let r := runs [0x00] fun t => { t with run := .running }
    let bad := { r with mem := r.mem.setEcc (r.localAddr 5 (r.wick[5].threads[2].fetchAt / 16 * 16)) 2 }
    let a := armed (img [])
    let cp (off : Byte) : List Byte := [0x3A, 1, 5, off]
    let c (l : List Byte) : State := runs l fun t => { t with g := regSet (regSet t.g 5 (BitVec.ofNat 64 cpBase)) 1 0x00100003, stack := [0x2000] }
    -- Thread 1 has 100 slots of a TREP before it.
    let rep (l : List Byte) : State := { c l with wick := upd (c l).wick 5 fun w => { w with threads := upd w.threads 1 fun t => { t with trepEnd := 100 } } }
    (d.wick[5].sb = e :: [] ∧ d.mem.eccAt (d.localAddr 5 (e.addr / 16 * 16)) = 0) ∧
    (r.wick[5].sb = [] ∧ r.wick[5].refillThread = some 2 ∧ r.mem.eccAt (r.localAddr 5 (r.wick[5].threads[2].fetchAt / 16 * 16)) = 0) ∧
    (bad.wick[5].sb = [] ∧ bad.wick[5].refillThread = some 2 ∧ bad.mem.eccAt (bad.localAddr 5 (bad.wick[5].threads[2].fetchAt / 16 * 16)) = 2) ∧
    (0x0007FFFC + 4 ≤ 0x00080000 ∧ up.moving (wickBase (5 : WkId).1) = false ∧ up.job.state ≠ .armed ∧
      ∀ b : Bool, up.portWaits (wickBase (5 : WkId).1 + 0x0007FFFC) 4 b = false) ∧
    d.portWaits (wickBase (5 : WkId).1 + 0x1000) 1 false = true ∧
    (a.moving (wickBase (5 : WkId).1) = false ∧ a.job.state = .armed ∧ 0x1000 < 0x00040000 ∧ 0x1000 + [(1 : Byte)].length ≤ 0x00080000 ∧
      a.inShadow 5 0x1000 [(1 : Byte)].length = false ∧ a.portWaits (wickBase (5 : WkId).1 + 0x1000) [(1 : Byte)].length true = false) ∧
    (∀ r : Fin 4, ((c (cp 0x0C)).slot 5 2).wick[5].threads[r].trepEnd ≤ ((c (cp 0x0C)).slot 5 2).wick[5].rho ∧
      ((rep (cp 0x0C)).slot 5 2).wick[5].rho + 1 < ((rep (cp 0x0C)).slot 5 2).wick[5].threads[(1 : Fin 4)].trepEnd) ∧
    onWickCodes rep [(false, (.store · .w 1 (.off 0x0C) 5), cp 0x0C)] ∧ (eaOf (.off 0x0C) ((rep (cp 0x0C)).siteRegs x) 5).1.toNat = cpBase + 0x0C ∧
    onWickCodes c [(false, (.store · .w 1 (.off 0x14) 5), cp 0x14), (false, (.store · .w 1 (.off 0x0C) 5), cp 0x0C), (false, (.store · .w 1 (.off 0x10) 5), cp 0x10)] ∧
    (eaOf (.off 0x14) ((c (cp 0x14)).siteRegs x) 5).1.toNat = cpBase + 0x14 ∧ (eaOf (.off 0x0C) ((c (cp 0x0C)).siteRegs x) 5).1.toNat = cpBase + 0x0C ∧
    (eaOf (.off 0x10) ((c (cp 0x10)).siteRegs x) 5).1.toNat = cpBase + 0x10 ∧ (c (cp 0x10)).wick[5].threads[2].stack = 0x2000 :: [] :=
  ⟨by decide +kernel, by decide +kernel, by decide +kernel, by decide +kernel, by decide +kernel, by decide +kernel, by decide +kernel,
   wickCodes_of (by decide +kernel), by decide +kernel, wickCodes_of (by decide +kernel), by decide +kernel, by decide +kernel, by decide +kernel,
   by decide +kernel⟩

/-- Vector and Taper instructions that thread 2 of Wick 5 decodes from the bytes. -/
def onVecCodes (s : List Byte → State) (l : List (Bool × (VSite → Instr) × List Byte)) : Prop :=
  ∀ p ∈ l, VReady (s p.2.2) ⟨5, 2, p.1, false, .clean⟩ (p.2.1 ⟨5, 2, p.1, false, .clean⟩) p.2.2.length

theorem vecCodes_of {s : List Byte → State} {l : List (Bool × (VSite → Instr) × List Byte)}
    (h : (l.all fun p => decide ((s p.2.2).wick[5].threads[2].run = .running ∧ (s p.2.2).wick[5].threads[2].victim ≠ .suppress ∧
      ((s p.2.2).wick[5].threads[2].victim = .none → ((s p.2.2).wick[5].toSlot 2).irqLine 2 = none) ∧
      decodeWick 5 2 false .clean (s p.2.2).wick[5].testState ((s p.2.2).slot 5 2).wick[5].threads[2].buf =
        .ok (p.2.1 ⟨5, 2, p.1, false, .clean⟩) p.2.2.length)) = true) : onVecCodes s l := fun p hp =>
  have e := of_decide_eq_true (List.all_eq_true.1 h p hp); ⟨rfl, rfl, e⟩

theorem witness_VectorArithmeticWritesItsGroup :
    onVecCodes runs [
      (false, (.vaddVsub · false 3 1 (.vec 2) none), [0xE8, 0x00, 3, 1, 2, 0]), (false, (.vaddVsub · true 3 1 (.scalar 2) (some 7)), [0xE8, 0x05, 3, 1, 2, 0x0F]),
      (true, (.vaddVsub · false 31 1 (.imm 0x80000001) none), [0xEA, 0xE8, 0x02, 31, 1, 1, 0, 0, 0x80, 0]), (false, (.vmulVmacc · false 3 1 (.imm (-1)) none), [0xE8, 0x0A, 3, 1, 0xFF, 0]),
      (false, (.vmulhVmulhu · false 3 1 (.vec 2) none), [0xE8, 0x0C, 3, 1, 2, 0]), (false, (.vmulhVmulhu · true 3 1 (.vec 2) none), [0xE8, 0x10, 3, 1, 2, 0]),
      (false, (.vmulVmacc · true 3 1 (.vec 2) none), [0xE8, 0x14, 3, 1, 2, 0]), (false, (.vandVorVxor · .and 3 1 (.vec 2) none), [0xE8, 0x18, 3, 1, 2, 0]),
      (false, (.vandVorVxor · .xor 3 1 (.vec 2) none), [0xE8, 0x20, 3, 1, 2, 0]), (false, (.vshlVshrVsar · .shl 3 1 (.vec 2) none), [0xE8, 0x24, 3, 1, 2, 0]),
      (false, (.vshlVshrVsar · .sar 3 1 (.vec 2) none), [0xE8, 0x2C, 3, 1, 2, 0]), (false, (.vrsr · 3 1 (.imm 4) none), [0xE8, 0x32, 3, 1, 4, 0]),
      (false, (.vminVmax · .min 3 1 (.vec 2) none), [0xE8, 0x34, 3, 1, 2, 0]), (false, (.vminVmax · .maxu 3 1 (.vec 2) none), [0xE8, 0x40, 3, 1, 2, 0]),
      (false, (.vsaddVssub · false 3 1 (.vec 2) none), [0xE8, 0x44, 3, 1, 2, 0]), (false, (.vsaddVssub · true 3 1 (.vec 2) (some 0)), [0xE8, 0x48, 3, 1, 2, 8])] ∧
    aligned 1 ([3, 1] ++ rhsRegs (.vec 2)) = true ∧ aligned 2 ([3, 1] ++ rhsRegs (.vec 2)) = false ∧
    ((runs []).thrAt ⟨5, 2, false, false, .clean⟩).group = 1 := ⟨vecCodes_of (by decide +kernel), by decide, by decide, by decide +kernel⟩

theorem witness_VectorMovesMasksAndReductionsAnswer :
    onVecCodes runs [
      (false, (.vcmp · .ltu 7 1 (.vec 2) none), [0xE8, 0x4C, 7, 1, 2, 0x40]), (false, (.vcmp · .eq 0 1 (.scalar 2) (some 3)), [0xE8, 0x4D, 0, 1, 2, 0x0B]),
      (false, (.vsel · 3 1 2 5), [0xE8, 0x66, 3, 1, 2, 0x0D]), (false, (.vmvs · 3 1 none), [0xE8, 0x64, 3, 1, 0]), (false, (.vmvx · 3 1 2), [0xE8, 0x65, 3, 1, 2, 0]),
      (false, (.vslupVsldn · false 3 1 255 none), [0xE8, 0x67, 3, 1, 0xFF, 0]), (false, (.vslupVsldn · true 3 1 1 none), [0xE8, 0x68, 3, 1, 1, 0]),
      (false, (.vwidsVwidu · false 4 1 none), [0xE8, 0x69, 4, 1, 0, 0]), (false, (.vwidsVwidu · true 4 1 none), [0xE8, 0x6A, 4, 1, 0, 0]),
      (false, (.vnrs · 3 2 15 none), [0xE8, 0x6B, 3, 2, 15, 0]), (false, (.vnrs · 3 2 16 none), [0xE8, 0x6B, 3, 2, 16, 0]), (false, (.vreduction · .sum 3 1 none), [0xE8, 0x6C, 3, 1, 0, 0]),
      (false, (.vreduction · .maxu 3 1 (some 1)), [0xE8, 0x70, 3, 1, 0, 9]), (false, (.vmpop · 3 6), [0xE8, 0x72, 3, 0, 0, 0x0E]),
      (false, (.vsetl · 3 1 0x0F), [0xE8, 0x60, 3, 1, 0x0F]), (false, (.vsetl · 3 1 0x10), [0xE8, 0x60, 3, 1, 0x10])] ∧
    ((runs []).thrAt ⟨5, 2, false, false, .clean⟩).wideOk = true ∧ ((runs []).thrAt ⟨5, 2, false, false, .clean⟩).group = 1 ∧
    ((runs []).thrAt ⟨5, 2, false, false, .clean⟩).sewBits = 8 ∧ aligned (2 * 1) [(4 : V)] = true ∧ aligned 1 [(1 : V)] = true ∧
    ((15 : BitVec 32).toNat < 2 * 8 ∧ 2 * 8 ≤ (16 : BitVec 32).toNat) ∧ (0x0F : Byte).toNat < 16 ∧ 16 ≤ (0x10 : Byte).toNat :=
  ⟨vecCodes_of (by decide +kernel), by decide +kernel, by decide +kernel, by decide +kernel, by decide, by decide, by decide, by decide, by decide⟩

theorem witness_VectorMemoryInstructionsReachTheirRows :
    let x : VSite := ⟨5, 2, false, false, .clean⟩
    let c (l : List Byte) : State := runs l fun t => { t with vl := 1024, g := regSet t.g 5 0x200000 }
    onVecCodes c [(false, (.vld · 3 (.off 0) 3), [0xE8, 0x61, 3, 3, 0]), (false, (.vld · 3 (.postInc 1) 5), [0xE8, 0x61, 3, 0x45, 1]),
      (true, (.vld · 3 (.off 1536) 3), [0xEA, 0xE8, 0x61, 3, 3, 0, 6, 0, 0]), (false, (.vst · 3 (.off 0) 3 1), [0xE8, 0x62, 3, 3, 0, 1]),
      (true, (.vst · 3 (.preDec 512) 3 1), [0xEA, 0xE8, 0x62, 3, 0x83, 0, 2, 0, 0, 1]), (false, (.vst · 3 (.index 0 0) 5 1), [0xE8, 0x62, 3, 0xC5, 0, 1]),
      (false, (.vcrc · 2 3 1), [0xE8, 0x71, 2, 3, 1]), (false, (.vgth · 3 3 2), [0xE8, 0x63, 3, 3, 2]), (false, (.vgth · 3 5 2), [0xE8, 0x63, 3, 5, 2])] ∧
    (aligned ((c []).thrAt x).group [3] = true ∧ vecRows (eaOf (.off 0) ((c []).thr x).g 3).1 ((c []).thrAt x).rows = some 24 ∧
      vecRows (eaOf (.off 1536) ((c []).thr x).g 3).1 ((c []).thrAt x).rows = some 27 ∧
      vecRows (eaOf (.postInc 1) ((c []).thr x).g 5).1 ((c []).thrAt x).rows = none ∧ vecRows (eaOf (.index 0 0) ((c []).thr x).g 5).1 ((c []).thrAt x).rows = none) ∧
    (0 < ((c []).thr x).vl ∧ vecRows (regGet ((c []).thr x).g 3) 1 = some 24) ∧
    (onVecCodes runs [(false, (.vcrc · 2 3 1), [0xE8, 0x71, 2, 3, 1])] ∧ ((runs [0xE8, 0x71, 2, 3, 1]).thr x).vl = 0) ∧
    (((c []).thr x).vfidx = 0 ∧ ((c []).thrAt x).sewBits / 8 = 1 ∧ ((c []).thrAt x).v[(2 : Fin 32)] = 0 ∧ regGet ((c []).thr x).g 3 = 0x3000 ∧
      regGet ((c []).thr x).g 5 = 0x200000 ∧ ((0x3000 : W64).toNat % 1 = 0 ∧ (0x3000 : W64).toNat + 1 ≤ 0x200000) ∧ 0x200000 < (0x200000 : W64).toNat + 1) :=
  ⟨vecCodes_of (by decide +kernel), by decide +kernel, by decide +kernel, ⟨vecCodes_of (by decide +kernel), by decide +kernel⟩, by decide +kernel⟩

/-- A load of one line of 2 elements from row 0 of the vector scratchpad to X, in bytes (R318). -/
def lineLoad : List Byte := [0, 0, 0, 0, 0, 0, 0, 0, 8, 0, 2, 0, 2, 0, 1, 0] ++ List.replicate 16 0

/-- Thread 2 owns the Taper of the Wick, which is in test state; its register g5 lies past the local memory. -/
def tapers (l : List Byte) : State :=
  let s := onWick (fun w => { w with taperOwn := 6, mode := .test }) l fun t => { t with g := regSet t.g 5 0x40000 }
  { s with mem := s.mem.write (s.localAddr 5 0x3000) lineLoad }

theorem taperReady_of {i : Instr} {n : Nat} {s : State} (h : VReady s ⟨5, 2, false, false, .clean⟩ i n) (h1 : (s.slot 5 2).wick[5].owner = some 2)
    (h2 : (s.slot 5 2).wick[5].trepRuns = false) (h3 : s.wick[5].taperHeld i = false) : TReady s ⟨5, 2, false, false, .clean⟩ i n := ⟨h, h1, h2, h3⟩

theorem witness_TaperInstructionsAct :
    let codes : List (Bool × (VSite → Instr) × List Byte) := [(false, (.tclr ·), [0xE9, 0x00]), (false, (.tsync ·), [0xE9, 0x01]),
      (false, (.tstat · 3), [0xE9, 0x02, 3]), (false, (.tsigr · 3), [0xEB, 0xE9, 0x20, 3]), (false, (.tsetc · 7 1 2), [0xE9, 0x08, 7, 1, 2]),
      (false, (.tsetc · 7 4 1), [0xE9, 0x08, 7, 4, 1]), (false, (.tout · 3 55 0), [0xE9, 0x18, 3, 55, 0]), (false, (.texp · 3), [0xE9, 0x19, 3]),
      (false, (.tnorm · 3), [0xE9, 0x1A, 3])]
    onVecCodes tapers codes ∧
    (∀ p ∈ codes, ((tapers p.2.2).slot 5 2).wick[5].owner = some 2 ∧ ((tapers p.2.2).slot 5 2).wick[5].trepRuns = false ∧
      (tapers p.2.2).wick[5].taperHeld (p.2.1 ⟨5, 2, false, false, .clean⟩) = false) ∧
    onVecCodes (onWick fun w => { w with mode := .test }) codes ∧
    (∀ p ∈ codes, ((onWick (fun w => { w with mode := .test }) p.2.2).slot 5 2).wick[5].owner ≠ some 2) ∧
    (1 ≤ (regGet gs 2).toNat ∧ (regGet gs 1).toNat + (regGet gs 2).toNat ≤ 65536 ∧ 65536 < (regGet gs 4).toNat + (regGet gs 1).toNat ∧
      (55 : Byte).toNat ≤ 55) :=
  ⟨vecCodes_of (by decide +kernel), by decide +kernel, vecCodes_of (by decide +kernel), by decide +kernel, by decide +kernel⟩

theorem witness_TaperMultipliesAndLoads :
    let x : VSite := ⟨5, 2, false, false, .clean⟩
    let a : TmacArgs := ⟨1, 2, -1, 4, 0, 3⟩
    let o : List Byte := [0x10, 1, 2, 0xFF, 0xFF, 4, 0, 0, 3]
    let codes : List (Bool × (VSite → Instr) × List Byte) := [(false, (.tmac · a), 0xE9 :: o), (false, (.tmacs · a), 0xEB :: 0xE9 :: o),
      (false, (.trep · 2 false a), [0xE9, 0x04, 2, 0xE9] ++ o), (false, (.trep · 2 true a), [0xE9, 0x04, 2, 0xEB, 0xE9] ++ o),
      (false, (.tload · 3), [0xE9, 0x03, 3]), (false, (.tload · 5), [0xE9, 0x03, 5])]
    let d := loaderOf 2 lineLoad 100
    let l := { up with wick := upd up.wick 5 fun w => { w with taper := { w.taper with loader := some d } } }
    onVecCodes tapers codes ∧
    (∀ p ∈ codes, ((tapers p.2.2).slot 5 2).wick[5].owner = some 2 ∧ ((tapers p.2.2).slot 5 2).wick[5].trepRuns = false ∧
      (tapers p.2.2).wick[5].taperHeld (p.2.1 x) = false) ∧
    (a.fl.toNat < 4 ∧ a.cb = 0 ∧ pointers (tapers []).wick[5].taper a = (⟨none, -1⟩, ⟨none, 4⟩) ∧
      (Pointer.mk none (-1)).fails (regGet gs 1).toNat 5 32 = none ∧ (Pointer.mk none 4).fails (regGet gs 2).toNat 5 32 = none ∧
      (Pointer.mk none (-1)).fails (regGet gs 1).toNat 0 32 = none ∧ (Pointer.mk none 4).fails (regGet gs 2).toNat 0 32 = none ∧
      (Pointer.mk none 4).fails (regGet gs 2).toNat 0 4 = none) ∧
    ((0x3000 : W64).toNat % 32 = 0 ∧ (0x3000 : W64).toNat < 0x40000 ∧ lineLoad = (tapers []).localBytes 5 (0x3000 : W64).toNat 32 ∧
      (loaderOf 2 lineLoad 0).ok lineLoad = true ∧ 0x40000 ≤ (0x40000 : W64).toNat) ∧
    (l.wick[5].taper.loader = some d ∧ d.ok lineLoad = true ∧ d.fromX = false ∧ l.wick[5].swapped = [] ∧ l.mem.wf) :=
  ⟨vecCodes_of (by decide +kernel), by decide +kernel, by decide +kernel, by decide +kernel,
    by decide +kernel, by decide +kernel, by decide +kernel, by decide +kernel, MemBlk.reset_wf⟩

/-- 1,024 bytes in beats of 64 from the foot of HBM stack 0 to a place 64 KiB above. -/
def dd : DmaDesc := { DmaDesc.zero with
  dst := 0x10000, srcBStride := 64, dstBStride := 64, srcBeats := 15, dstBeats := 15, srcW := 64, dstW := 64, retry := 2, wait := 0x00080007 }

/-- Channel 5 of engine D1 at work on that descriptor. -/
def dmaAt (s : State) (f : Chan → Chan) : State := { s with
  dma := upd s.dma 1 fun g => { g with ch := upd g.ch 5 fun c => f { c with state := .running, cur := dd } } }

theorem witness_DmaStepsKeepTheByteStream :
    let x : Chan := { Chan.reset with state := .running, cur := dd, hold := List.replicate 128 (1, 2, false) }
    x.hold.length ≤ 128 ∧ (x.stepBeats true).dst = 2 := by decide +kernel

theorem witness_DmaStepsServeTheirOwner :
    let a := dmaAt up fun c => { c with cur := { dd with dstW := 128, dstBeats := 7 }, srcDone := 15, asked := 16, blocks := [⟨512, 16, true, false, 7, 3, false⟩] }
    let b := dmaAt up fun c => { c with srcDone := 16, asked := 16, dstDone := 15, hold := List.replicate 64 (1, 2, false) }
    let f := dmaAt up id
    let o := (0x103C0, List.replicate 64 ((1, 2, false) : Byte × Byte × Bool))
    (DmaReady a 1 5 ∧ (a.dmaChan 1 5).canAsk = false ∧ ((a.dmaChan 1 5).stepBeats true).out = [] ∧ ((a.dmaChan 1 5).stepBeats true).src = 1) ∧
    (DmaReady b 1 5 ∧ (b.dmaChan 1 5).canAsk = false ∧ ((b.dmaChan 1 5).stepBeats true).out = o :: [] ∧ b.imageAddr o.1 = some 0x103C0 ∧
      b.imageAddr (rowBase o.1) = some 0x10200 ∧ place 0x103C0 = .hbm 0 0x103C0 ∧ place 0x10200 = .hbm 0 0x10200 ∧ b.hbmDet 0x103C0 = false ∧
      b.hbmDet 0x10200 = false ∧ ((o :: []).any fun p => p.2.any fun y => y.2.2) = false ∧
      (b.fab.held.any fun w => Machine.dmaChan w == some (1, 5)) = false) ∧
    (DmaReady f 1 5 ∧ (f.dmaChan 1 5).blocks = [] ∧ (f.dmaChan 1 5).hold = [] ∧ 0 < (f.dmaChan 1 5).cur.dstW ∧ (f.dmaChan 1 5).canAsk = true ∧
      f.imageAddr (rowBase ((f.dmaChan 1 5).cur.srcAt (f.dmaChan 1 5).asked).toNat) = some 0 ∧ place 0 = .hbm 0 0 ∧ f.hbmDet 0 = false) := by
  unfold DmaReady
  exact ⟨by decide +kernel, by decide +kernel, by decide +kernel⟩

theorem witness_DmaTransfersRunWaitRetryAndEnd :
    let k : Block := ⟨512, 16, false, false, 0, 0, false⟩
    let x : XItem := ⟨4, some 5, 512, 7, 3, false, 0, false⟩
    let y : XItem := { x with mcyc := 100000000000 }
    let r (x : XItem) : State := let s := dmaAt up fun c => { c with blocks := [k], asked := if x.mcyc = 0 then 16 else 0 }; { s with fab := { s.fab with cross := [⟨0x7F, 89, [], [x]⟩] } }
    let j (l : List DmaDesc) (d : DmaDesc) : State := dmaAt (armed { img [] with dma := [l] }) fun c => { c with cur := d, dstDone := 16, inst := some i0 }
    let w (n : Nat) : State := let s := dmaAt up fun c => { c with wait := .rows }; { s with fab := { s.fab with rowsDone := [(0, 1, n)] } }
    let e (n : Nat) : State := dmaAt up fun c => { c with refused := some (true, 0x10000), retries := n }
    let h := let s := armed (img []); { s with
      dma := upd s.dma 1 fun g => { g with ch := upd g.ch 5 fun c => { c with state := .halted, cur := dd, flushed := true, inst := some i0 } } }
    let g := { h with fab := { h.fab with waits := [⟨0, wr0, 3, false, 3⟩] } }
    (∀ v ∈ [x, y], (((r v).dma[1].ch[5]).blocks.findSome? fun b => if b.back || b.again then none
        else ((r v).fab.arrived (88 + (1 : Fin 4).1) 5 b.addr).map fun p => (b, p.1, p.2)) = some (k, 0x7F, v)) ∧
    (((r x).nextCycle 1).all fun n => decide (x.usableAt ≤ n)) = true ∧ (((r y).nextCycle 1).any fun n => decide (n < y.usableAt)) = true ∧
    (∀ s ∈ [j [dd, dd] dd, j [dd] dd, j [dd] { dd with ctrl := 4 }], (s.dma[1].ch[5]).state = .running ∧
      (s.dma[1].ch[5]).cur.dstTotal ≤ (s.dma[1].ch[5]).dstDone ∧ s.writesAccepted 1 5 = true ∧ (s.dma[1].ch[5]).inst = some i0 ∧ s.job.stopAt = none) ∧
    (bit dd.ctrl 2 = false ∧ (j [dd, dd] dd).descAt 0 1 = some dd ∧ (j [dd] dd).descAt 0 1 = none ∧ bit { dd with ctrl := 4 }.ctrl 2 = true) ∧
    (bits dd.wait 31 20 = 0 ∧ bits dd.wait 19 19 = 1 ∧ bits dd.wait 18 0 = 7 ∧ ((w 8).dma[1].ch[5]).wait = .rows ∧ 7 < (w 8).fab.rowCount 0 1 ∧
      (w 7).fab.rowCount 0 1 ≤ 7 ∧ ((w 7).dma[1].ch[5]).wait = .rows ∧ ((w 7).dma[1].ch[5]).waitLog = false) ∧
    (((e 1).dma[1].ch[5]).state = .running ∧ ((e 1).dma[1].ch[5]).refused = some (true, 0x10000) ∧ 1 < ((e 1).dma[1].ch[5]).cur.retry ∧
      ((e 2).dma[1].ch[5]).state = .running ∧ ((e 2).dma[1].ch[5]).refused = some (true, 0x10000) ∧ ((e 2).dma[1].ch[5]).cur.retry ≤ 2) ∧
    ((h.dma[1].ch[5]).state = .halted ∧ (h.dma[1].ch[5]).flushed = true ∧ h.writesAccepted 1 5 = true ∧
      (h.dma[1].ch[5]).inst = some i0 ∧ h.job.stopAt = none) ∧
    ((g.dma[1].ch[5]).state = .halted ∧ (g.dma[1].ch[5]).flushed = true ∧ g.writesAccepted 1 5 = false) := by decide +kernel

/-- A job whose stack 1 has the given records, in a list of 100 epoch ticks, with the given requests at the controller. -/
def hbmAt (recs : List HbmRec) (reqs : List HbmReq) (f : HbmCtl → HbmCtl) : State :=
  let s := armed { img [] with hbm := upd (img []).hbm 1 fun h => { h with period := 100, recs := recs } }
  { s with hbm := upd s.hbm 1 fun h => f { h with detPc := 8, reqs := reqs } }

theorem slotRuns_of {s : State} {st : Fin 4} {m rep rec blk slot : Nat} {r : HbmRec} {im : JobImage} (h0 : s.job.image = some im)
    (h : (im.hbm[st]).recs[rec]? = some r ∧ s.job.state = .armed ∧ s.job.base ≤ m ∧ blk < r.count ∧
      s.job.anchor m + 10 * (im.hbm[st]).period * (rep + 1) < s.job.anchor (m + 1) ∧
      slot = s.job.anchor m + 10 * (im.hbm[st]).period * rep + 10 * r.tick + r.sub + 16 * blk) : SlotRuns s st m rep rec blk slot r :=
  ⟨im, h0, h⟩

theorem witness_HbmSlotsServeTheirRequests :
    let k (kind : Nat) : HbmRec := ⟨20, 3, 7, kind, 5, 40, 2⟩
    let q (w : Option (BitVec 16 × Row × Bool)) (since : Nat) : HbmReq := ⟨5, none, 7, 41, w, 0, since, false⟩
    let slot := 2000000000 + 1000 * 3 + 200 + 3 + 16
    let rd := hbmAt [k 0] [q none slot] id
    let wr := hbmAt [k 1] [q (some (0xFFFF, 7, false)) (slot - 8)] id
    let no := hbmAt [k 1] [q none slot] id
    let late := hbmAt [k 1] [q (some (0xFFFF, 7, false)) (slot - 7)] id
    let rf := hbmAt [k 2] [] id
    let lateRd := hbmAt [k 0] [q none (slot + 1)] id
    let e (port : Nat) : HbmRec := { k 0 with req := port }
    let d : HbmData := ⟨2000000100, 5, none, 512, 7, false⟩
    let fl := hbmAt [] [] fun h => { h with flying := [d] }
    (SlotRuns rd 1 0 3 0 1 slot (k 0) ∧ SlotRuns wr 1 0 3 0 1 slot (k 1) ∧ SlotRuns no 1 0 3 0 1 slot (k 1) ∧
      SlotRuns late 1 0 3 0 1 slot (k 1) ∧ SlotRuns rf 1 0 3 0 1 slot (k 2) ∧ SlotRuns lateRd 1 0 3 0 1 slot (k 0) ∧
      SlotRuns (hbmAt [e 96] [] id) 1 0 3 0 1 slot (e 96) ∧ SlotRuns (hbmAt [e 100] [] id) 1 0 3 0 1 slot (e 100)) ∧
    (96 ≤ (e 96).req ∧ (e 96).req < 100 ∧ (e 100).req < 102 ∧ ((lateRd.hbm[1]).reqs.find? fun x => x.fits 5 7 41 false) = some (q none (slot + 1))) ∧
    (((rd.hbm[1]).reqs.find? fun x => x.fits 5 7 41 false) = some (q none slot) ∧
      ((wr.hbm[1]).reqs.find? fun x => x.fits 5 7 41 true) = some (q (some (0xFFFF, 7, false)) (slot - 8)) ∧
      ((no.hbm[1]).reqs.find? fun x => x.fits 5 7 41 true) = none ∧
      ((late.hbm[1]).reqs.find? fun x => x.fits 5 7 41 true) = some (q (some (0xFFFF, 7, false)) (slot - 7))) ∧
    (fl.hbm[1]).flying = d :: [] :=
  ⟨⟨slotRuns_of rfl (by decide +kernel), slotRuns_of rfl (by decide +kernel), slotRuns_of rfl (by decide +kernel), slotRuns_of rfl (by decide +kernel),
    slotRuns_of rfl (by decide +kernel), slotRuns_of rfl (by decide +kernel), slotRuns_of rfl (by decide +kernel),
    slotRuns_of rfl (by decide +kernel)⟩, by decide +kernel,
    by decide +kernel, by decide +kernel⟩

theorem witness_OpenHbmAndTemperature :
    let a := hbmAddr 1 7 40
    let b := hbmAddr 1 8 40
    let s := hbmAt [] [] fun h => { h with mode := 2 }
    (place a = .hbm 1 (a - stackSize) ∧ s.hbmUp a = true ∧ s.hbmDet a = true ∧ portAgent (0x81 : Byte).toNat = some (.app 0) ∧
      portAgent (36 : Byte).toNat = none ∧ a % 512 + 512 ≤ 512) ∧ State.reset.hbmUp a = false ∧
    (place b = .hbm 1 (b - stackSize) ∧ s.hbmUp b = true ∧ s.hbmDet b = false ∧ 0 < (List.replicate 512 (1 : Byte)).length ∧
      b % 512 + (List.replicate 512 (1 : Byte)).length ≤ 512) ∧
    ((s.hbm[1]).hot = false ∧ 95 < (96 : Byte).toNat ∧ (95 : Byte).toNat ≤ 95) := by decide +kernel

/-! ## Network -/

/-- Stream slot 4: ingress of camera 3 on port 0, 16 by 4 pixels in two stripes, two frames deep; slots 5, 6 and 7: video, its Stamp
records and RRS-C on the same port. -/
def sIn : StreamBind := ⟨4, 0, 0, 0xFF, 16, 4, 1, 2, 2, 0, 3, 77, 0x4000, 0x1000, 2, 50, 1, 0⟩
def sVid : StreamBind := ⟨5, 1, 0, 0xFF, 16, 4, 0x10, 0, 0, 0, 0, 0, 0x8000, 0x1000, 0, 50, 1, 16⟩
def sAnc : StreamBind := ⟨6, 2, 0, 0xFF, 0, 0, 0, 0, 0, 0, 0, 0, 0, 0, 0, 50, 1, 5⟩
def sCam : StreamBind := ⟨7, 3, 0, 0xFF, 0, 0, 0, 0, 0, 0, 3, 0, 0, 0, 0, 50, 1, 0⟩

def pathA : NetPath := ⟨4, 0, 0, [], 40000, 5000, padTo 16 [10, 0, 0, 1], padTo 16 [10, 0, 0, 2]⟩

/-- Port 0 in four sub-ports that are up, an image with those streams and the given entries armed, bound on sub-port 1. -/
def netAt (entries : List TtEntry) (f : Stream → Stream) (streams : List StreamBind := [sIn, sVid, sAnc, sCam]) : State :=
  let s := armed { img entries with streams := streams }
  { s with
    net := { s.net with
      ports := upd s.net.ports 0 fun p => { p with cfg := 0x102, link := 0xF }
      slots := s.net.slots.map f }
    job := { s.job with bindings := [4, 5, 6, 7].map fun k => ⟨k, 1, 0, 96, 7, pathA, default⟩ }
    time := { s.time with ftb := 2000000000 } }

/-- An RRS packet of 8 pixels from R368's table, with its check word. -/
def rrs (camera seq frame row col : Nat) (ver : Byte := 1) : List Byte :=
  let l : List Byte := [ver, 1, BitVec.ofNat 8 camera, 0] ++ beBytes 4 seq ++ beBytes 4 frame ++ beBytes 2 row ++ beBytes 2 col ++ beBytes 2 8 ++ [0, 0] ++
    List.replicate 16 9
  l ++ beBytes 4 (crc32c l).toNat

/-- An Ethernet frame of UDP over IPv4 from 10.0.0.1 to 10.0.0.2 that carries an RRS packet to port 5000, without its FCS; its FCS; the RRS
packet; and the FCS of the same frame to port 5001, and of one of an EtherType that nothing takes. -/
def udpFrame : List Byte :=
  [0xAA, 0xAA, 0xAA, 0xAA, 0xAA, 0xAA, 0xAA, 0xAA, 0xAA, 0xAA, 0xAA, 0xAA, 8, 0, 0x45, 0, 0, 0x44, 0, 0, 0, 0, 0x40, 0x11, 0x66, 0xA7,
   0x0A, 0, 0, 1, 0x0A, 0, 0, 2, 0x9C, 0x40, 0x13, 0x88, 0, 0x30, 0, 0, 1, 1, 3, 0, 0, 0, 0, 9, 0, 0, 0, 0x64, 0, 0, 0, 0, 0, 8, 0, 0, 9,
   9, 9, 9, 9, 9, 9, 9, 9, 9, 9, 9, 9, 9, 9, 9, 0x18, 0xCB, 0xF8, 0xBB]
def udpFcs : List Byte := [0x6D, 0x0C, 0xC2, 0xAE]
def otherFcs : List Byte := [0x21, 0x24, 0x54, 0x0D]
def strayFcs : List Byte := [0xB5, 0xA6, 0x8B, 0xF3]
def udpFrame1 : List Byte := udpFrame.set 37 0x89

/-- An ARP request of 10.0.0.1 for 10.0.0.2, a PAUSE frame, and 44 bytes of zeros to 224.0.1.129, port 319. -/
def arpFrame : List Byte :=
  [0xFF, 0xFF, 0xFF, 0xFF, 0xFF, 0xFF, 0xAA, 0xAA, 0xAA, 0xAA, 0xAA, 0xAA, 8, 6, 0, 1, 8, 0, 6, 4, 0, 1, 0xAA, 0xAA, 0xAA, 0xAA, 0xAA, 0xAA,
   0x0A, 0, 0, 1, 0, 0, 0, 0, 0, 0, 0x0A, 0, 0, 2] ++ List.replicate 18 0
def pauseFrame : List Byte := [1, 0x80, 0xC2, 0, 0, 1, 0xAA, 0xAA, 0xAA, 0xAA, 0xAA, 0xAA, 0x88, 8, 0, 1] ++ List.replicate 44 0
def ptpFrame : List Byte :=
  List.replicate 12 0xAA ++ [8, 0, 0x45, 0, 0, 0x48, 0, 0, 0, 0, 0x40, 0x11, 0x8F, 0x23, 0x0A, 0, 0, 1, 0xE0, 0, 1, 0x81, 1, 0x3F, 1, 0x3F, 0, 0x34,
   0, 0] ++ List.replicate 44 0
def stray : List Byte := List.replicate 12 0xAA ++ [0x12, 0x34] ++ List.replicate 50 0

/-- A CRC taken in pieces of 16 bytes, with its register after each piece. -/
def crcChain (poly c : W32) (l : List Byte) : List W32 → Bool
  | [] => l.isEmpty
  | v :: vs => crcRun poly c (l.take 16) == v && crcChain poly v (l.drop 16) vs

theorem crc_of_chain {poly : W32} : ∀ (vs : List W32) (c : W32) (l : List Byte), crcChain poly c l vs = true → crcRun poly c l = vs.getLastD c
  | [], _, l, h => by rw [List.isEmpty_iff.1 h]; rfl
  | v :: vs, c, l, h => by
    obtain ⟨h1, h2⟩ := Bool.and_eq_true_iff.1 h
    rw [List.getLastD_cons, ← crc_of_chain vs v (l.drop 16) h2, ← beq_iff_eq.1 h1, crcRun, crcRun, crcRun, ← List.foldl_append, List.take_append_drop]

theorem frameOk_of {l f : List Byte} {vs : List W32} (h : crcChain 0xEDB88320 0xFFFFFFFF l vs = true)
    (h0 : (l ++ f).take ((l ++ f).length - 4) = l) (h1 : 64 ≤ (l ++ f).length ∧ (l ++ f).length ≤ 9216)
    (h2 : fld (l ++ f) ((l ++ f).length - 4) 4 = (vs.getLastD 0xFFFFFFFF ^^^ 0xFFFFFFFF).toNat) : frameOk (l ++ f) = true := by
  rw [frameOk, fcsOk, h0, crc32, crc_of_chain vs _ l h, h2, beq_self_eq_true, Bool.and_true, decide_eq_true_iff]; exact h1

theorem udp_ok : frameOk (udpFrame ++ udpFcs) = true := frameOk_of (vs :=
    [0xE40C13F2, 0xBE4920C1, 0x4017645E, 0x907AA3B1, 0x90A39870, 0x513DF392]) (by decide +kernel) (by decide +kernel) (by decide +kernel) (by decide +kernel)
theorem udp1_ok : frameOk (udpFrame1 ++ otherFcs) = true := frameOk_of (vs :=
    [0xE40C13F2, 0xBE4920C1, 0x8199BB9E, 0xFEF6B8F0, 0xD7B06E8B, 0xF2ABDBDE]) (by decide +kernel) (by decide +kernel) (by decide +kernel) (by decide +kernel)
theorem stray_ok : frameOk (stray ++ strayFcs) = true := frameOk_of (vs :=
    [0x75C45205, 0x20FBD02A, 0xB6C8F967, 0x0C74594A]) (by decide +kernel) (by decide +kernel) (by decide +kernel) (by decide +kernel)
theorem arp_ok : frameOk (arpFrame ++ [0xF5, 0xCC, 0x4F, 0xA8]) = true := frameOk_of (vs :=
    [0x0FAAD6B5, 0x89E2CC02, 0x0FAB0D38, 0x57B0330A]) (by decide +kernel) (by decide +kernel) (by decide +kernel) (by decide +kernel)
theorem pause_ok : frameOk (pauseFrame ++ [0xC8, 0xEA, 0xC6, 0xC9]) = true := frameOk_of (vs :=
    [0xD5CE79B5, 0x1A0C5424, 0x6346E77A, 0x36391537]) (by decide +kernel) (by decide +kernel) (by decide +kernel) (by decide +kernel)
theorem ptp_ok : frameOk (ptpFrame ++ [0x21, 0xD3, 0xF8, 0x30]) = true := frameOk_of (vs :=
    [0xE40C13F2, 0xBFEB62E8, 0x8B1A4CA0, 0x37EA3853, 0x452C40E7, 0xCF072CDE]) (by decide +kernel) (by decide +kernel) (by decide +kernel)
    (by decide +kernel)
/-- The stray frame with an FCS of zeros. -/
theorem stray_bad : fld (stray ++ [0, 0, 0, 0]) ((stray ++ [0, 0, 0, 0]).length - 4) 4 ≠
    (crc32 ((stray ++ [0, 0, 0, 0]).take ((stray ++ [0, 0, 0, 0]).length - 4))).toNat := by
  have h : (stray ++ [0, 0, 0, 0]).take ((stray ++ [0, 0, 0, 0]).length - 4) = stray := by decide +kernel
  rw [h, crc32,
    crc_of_chain [0x75C45205, 0x20FBD02A, 0xB6C8F967, 0x0C74594A] _ stray (by decide +kernel)]
  decide +kernel

theorem witness_PortsFilterTheirFrames :
    let s := netAt [] id
    let m := { s with net := { s.net with ptpCfg := 0x10000 } }
    let p := rrs 3 9 100 0 0
    let a := udpFrame ++ udpFcs
    let b := udpFrame1 ++ otherFcs
    let drop := stray ++ strayFcs
    let pause := pauseFrame ++ [0xC8, 0xEA, 0xC6, 0xC9]
    let arp := arpFrame ++ [0xF5, 0xCC, 0x4F, 0xA8]
    let ptp := ptpFrame ++ [0x21, 0xD3, 0xF8, 0x30]
    let path (k : Fin 32) (f : Stream → Stream) : State :=
      let s := netAt [] id [{ sIn with portB := 2 }]; { s with net := { s.net with slots := upd s.net.slots k f } }
    (up.net.ports[(0 : Fin 4)]).enabled = false ∧ (fld (List.replicate 4 0) 0 4 = (crc32 []).toNat ∧ (List.replicate 4 (0 : Byte)).length < 64) ∧
    (FrameIn s 0 1 pause ∧ frameOf pause = none) ∧ (FrameIn s 0 1 drop ∧ frameOf drop = some .drop) ∧
    (FrameIn s 0 1 a ∧ frameOf a = some (.udp false pathA.srcIp pathA.dstIp 40000 5000 p) ∧
      s.ingressOf (0 : Fin 4).1 (1 : Fin 4).1 false pathA.srcIp pathA.dstIp 40000 5000 = some (4, false)) ∧
    (FrameIn s 0 1 b ∧ frameOf b = some (.udp false pathA.srcIp pathA.dstIp 40000 5001 p) ∧
      s.ingressOf (0 : Fin 4).1 (1 : Fin 4).1 false pathA.srcIp pathA.dstIp 40000 5001 = none ∧ s.ptpDatagram (0 : Fin 4).1 false pathA.dstIp 5001 = false) ∧
    (FrameIn m 0 1 ptp ∧ frameOf ptp = some (.udp false pathA.srcIp (padTo 16 ptpGroup) 319 319 (List.replicate 44 0)) ∧
      m.ingressOf (0 : Fin 4).1 (1 : Fin 4).1 false pathA.srcIp (padTo 16 ptpGroup) 319 319 = none ∧
      m.ptpDatagram (0 : Fin 4).1 false (padTo 16 ptpGroup) 319 = true) ∧
    (FrameIn s 0 1 arp ∧ frameOf arp = some (.control (.arp (List.replicate 6 0xAA) [10, 0, 0, 1] [10, 0, 0, 2])) ∧ padTo 16 [10, 0, 0, 2] ∈ s.ownAddrs) ∧
    ((s.net.ports[(0 : Fin 4)]).enabled = true ∧ (1 : Fin 4).1 < (s.net.ports[(0 : Fin 4)]).subs ∧ (s.net.ports[(0 : Fin 4)]).link.getLsbD (1 : Fin 4).1 = !false) ∧
    ((path 4 id).streamAt 4 = some { sIn with portB := 2 } ∧ (path 4 id).job.state = .armed ∧
      (((path 4 fun t => { t with gotA := [0] }).net.slots[(4 : Fin 32)]).silentB = false ∧ 0 ∉ ((path 4 fun t => { t with gotA := [0] }).net.slots[(4 : Fin 32)]).gotB ∧
        0 ∈ ((path 4 fun t => { t with gotA := [0] }).net.slots[(4 : Fin 32)]).gotA) ∧
      (((path 4 fun t => { t with gotB := [0] }).net.slots[(4 : Fin 32)]).silentA = false ∧ 0 ∉ ((path 4 fun t => { t with gotB := [0] }).net.slots[(4 : Fin 32)]).gotA ∧
        0 ∈ ((path 4 fun t => { t with gotB := [0] }).net.slots[(4 : Fin 32)]).gotB)) := by
  have i (b : List Byte) (h : frameOk b = true) : FrameIn (netAt [] id) 0 1 b := ⟨by decide +kernel, by decide +kernel, by decide +kernel, h⟩
  exact ⟨by decide +kernel, by decide +kernel, ⟨i _ pause_ok, by decide +kernel⟩, ⟨i _ stray_ok, by decide +kernel⟩, ⟨i _ udp_ok, by decide +kernel⟩,
    ⟨i _ udp1_ok, by decide +kernel⟩, ⟨⟨by decide +kernel, by decide +kernel, by decide +kernel, ptp_ok⟩, by decide +kernel⟩,
    ⟨i _ arp_ok, by decide +kernel⟩, by decide +kernel⟩

theorem witness_RrsPacketsPassTheirChecks :
    let rel := ent 0x10 4 1 0
    let s := netAt [] id
    let p := rrs 3 9 100 0 0
    let u := s.countSeq 4 false 9
    let r := netAt [] fun t => { t with released := [⟨0, 0, 0⟩] }
    let d := netAt [] fun t => { t with assembly := [⟨0, 0, [(0, 0)], []⟩] }
    -- The next frame but one needs the buffer of frame 0, whose release has a successor that is not complete.
    let full := netAt [rel, { ent 5 37 0 0 with pred := 0 }] id
    let late := { full with time := { full.time with ftb := 2000000000 + 40000000 } }
    let q := rrs 3 9 102 2 8
    (RrsIn s 4 false sIn ∧ rrsShape (rrs 3 9 100 0 0 2) = false) ∧
    (rrsShape (p.dropLast ++ [p.getLast! + 1]) = true ∧ rrsCrc (p.dropLast ++ [p.getLast! + 1]) = false) ∧
    (rrsShape p = true ∧ rrsCrc p = true ∧ befld p 4 4 = 9) ∧
    (sIn.geometry (rrs 4 9 100 0 0) = false ∧ rrsShape (rrs 4 9 100 0 0) = true ∧ rrsCrc (rrs 4 9 100 0 0) = true) ∧
    (sIn.geometry (rrs 3 9 102 0 0) = true ∧ s.job.rrsFrame s.time.ftb sIn.d (befld (rrs 3 9 102 0 0) 8 4) = none) ∧
    (sIn.geometry p = true ∧ s.job.rrsFrame s.time.ftb sIn.d (befld p 8 4) = some 0 ∧ 0 = befld p 12 2 / sIn.stripeH) ∧
    (RrsIn r 4 false sIn ∧ (r.countSeq 4 false 9).isReleased 4 0 0 = true) ∧
    (RrsIn d 4 false sIn ∧ (d.countSeq 4 false 9).isReleased 4 0 0 = false ∧ ((((d.countSeq 4 false 9).net.slots[(4 : Fin 32)]).assemblyOf 0 0).fresh p) = []) ∧
    (u.isReleased 4 0 0 = false ∧ (((u.net.slots[(4 : Fin 32)]).assemblyOf 0 0).fresh p) ≠ [] ∧ u.bufferFree sIn 0 0 = true ∧
      u.storeUsed sIn.portA + sIn.stripeBytes 0 ≤ 16777216) ∧
    (RrsIn late 4 false sIn ∧ rrsShape q = true ∧ rrsCrc q = true ∧ sIn.geometry q = true ∧
      late.job.rrsFrame late.time.ftb sIn.d (befld q 8 4) = some 2 ∧ 1 = befld q 12 2 / sIn.stripeH ∧ (late.countSeq 4 false 9).isReleased 4 2 1 = false ∧
      (((((late.countSeq 4 false 9).net.slots[(4 : Fin 32)]).assemblyOf 2 1).fresh q)) ≠ [] ∧ (late.countSeq 4 false 9).bufferFree sIn 2 1 = false) := by
  unfold RrsIn; decide +kernel

theorem witness_ReleasedStripesAreFixedHashedAndWritten :
    let e := ent 0x10 4 1 0
    let s := netAt [e] id
    let full := netAt [e, { ent 5 37 0 0 with pred := 0 }] id
    let c : Assembly := ⟨0, 1, [(2, 0), (2, 1), (3, 0), (3, 1)], []⟩
    let w := netAt [e] fun t => { t with unwritten := [(0, 1, [])] }
    let v := { w with job := { w.job with started := [i0] } }
    (Starts s i0 0x10 e ∧ e.unit = (4 : Fin 32).1 ∧ s.streamAt 4 = some sIn ∧ sIn.dir = 0 ∧ s.job.started.contains i0 = false ∧
      (s.startOf e i0).bufferFree sIn i0.frame (e.arg i0.inst) = true) ∧
    (Starts full ⟨2, 0, 0⟩ 0x10 e ∧ full.streamAt 4 = some sIn ∧ full.job.started.contains ⟨2, 0, 0⟩ = false ∧
      (full.startOf e ⟨2, 0, 0⟩).bufferFree sIn 2 (e.arg 0) = false) ∧
    (sIn.rowsOf c.stripe * (sIn.width / 8) ≤ c.groups.length ∧ (⟨0, 1, [], []⟩ : Assembly).groups.length < sIn.rowsOf 1 * (sIn.width / 8)) ∧
    (v.entryOf i0 = some e ∧ e.kind = 0x10 ∧ v.streamAt 4 = some sIn ∧ v.job.started.contains i0 = true ∧
      ((v.net.slots[(4 : Fin 32)]).unwritten.find? fun u => u.1 == i0.frame && u.2.1 == e.arg i0.inst) = some (0, 1, []) ∧
      v.bufferFree sIn i0.frame (e.arg i0.inst) = true) := by unfold Starts; decide +kernel

theorem witness_EgressRowsLeaveInOrder :
    let e := ent 0x11 5 0 2
    let a := ent 0x11 6 0 0
    let p := { e with pred := 1 }
    let s := netAt [e] id
    let t := netAt [a] id
    let l := netAt [p, ent 5 37 0 0] id
    let r := netAt [e] fun t => { t with lateRows := [i0] }
    let k : EgPkt := ⟨2000000050, 0, 1, 0, false⟩
    let d := netAt [e] fun t => { t with due := [k] }
    let bad := { d with mem := d.mem.setPoison (sVid.rowAddr 0 1) true }
    (s.entryOf i0 = some e ∧ e.unit = (5 : Fin 32).1 ∧ s.streamAt 5 = some sVid ∧ s.slotComes e i0 = true ∧ sVid.dir ≠ 2 ∧ s.predDone e i0 = true ∧
      (s.net.slots[(5 : Fin 32)]).lateRows = []) ∧
    (t.entryOf i0 = some a ∧ t.streamAt 6 = some sAnc ∧ t.slotComes a i0 = true ∧ sAnc.dir = 2) ∧
    (l.entryOf i0 = some p ∧ l.slotComes p i0 = true ∧ l.predDone p i0 = false) ∧
    ((r.net.slots[(5 : Fin 32)]).lateRows = i0 :: [] ∧ r.streamAt 5 = some sVid ∧ r.entryOf i0 = some e ∧ r.predDone e i0 = true) ∧
    ((d.net.slots[(5 : Fin 32)]).due = k :: [] ∧ d.streamAt 5 = some sVid ∧ 1000 ≤ (1000 : Nat) ∧
      (d.reach (k.due + 1000)).rowPoison (sVid.rowAddr 0 1) (sVid.pixBytes sVid.width) = false ∧ sVid.portB = 0xFF ∧
      d.rrscAhead 5 sVid (max (k.due + 1000) d.time.ftb) = false) ∧
    -- An RRS-C message of slot 7 at count 2,000,010,000.
    (let x : State := netAt [e, { ent 0x12 7 0 0 with tick := 10000 }] fun t => { t with due := [{ k with due := 2000010000 }], latched := [(⟨0, 1, 0⟩, none)] };
      (x.net.slots[(5 : Fin 32)]).due = { k with due := 2000010000 } :: [] ∧ x.streamAt 5 = some sVid ∧
        x.rrscAhead 5 sVid (max (2000010000 + 0) x.time.ftb) = true) ∧
    ((bad.reach (k.due + 1000)).rowPoison (sVid.rowAddr 0 1) (sVid.pixBytes sVid.width) = true ∧
      (∀ q ∈ (bad.net.slots[(5 : Fin 32)]).poisoned, q.1 ≠ k.frame)) := by decide +kernel

/-- An RRS-C slot at FTB count 2,000,010,000, and the state before it. -/
def camSlot : TtEntry := { ent 0x12 7 0 0 with tick := 10000 }
def camAt (f : Stream → Stream) : State := netAt [camSlot] f

theorem witness_CameraMessagesLeaveAtTheirSlots :
    let e := camSlot
    let n := 2000010000
    let c : RrscCmd := ⟨1, [(2, 3)], 9, 2000004999⟩
    let soon := camAt fun t => { t with pending := some c }
    let tight := camAt fun t => { t with pending := some { c with at_ := 2000005000 } }
    let new := camAt fun t => { t with latched := [(i0, some c)] }
    let held := camAt fun t => { t with latched := [(i0, none)], last := some c, lastHeld := true }
    let past := { new with time := { new.time with ftb := 2000012001 } }
    (∀ s ∈ [soon, tight, camAt id], s.rrscOf i0 = some (e, 7, sCam, n) ∧ s.job.state = .armed ∧ s.job.cancelled e i0 = false ∧
      s.job.started.contains i0 = false ∧ (s.net.slots[(7 : Fin 32)]).latched.lookup i0 = none) ∧
    ((soon.net.slots[(7 : Fin 32)]).pending = some c ∧ c.at_ + 5000 < n) ∧
    ((tight.net.slots[(7 : Fin 32)]).pending = some { c with at_ := 2000005000 } ∧ n ≤ 2000005000 + 5000) ∧
    ((camAt id).net.slots[(7 : Fin 32)]).pending = none ∧
    (∀ s ∈ [new, held], s.rrscOf i0 = some (e, 7, sCam, n) ∧ Starts s i0 0x12 e ∧ s.job.stopAt = none ∧ s.time.ftb ≤ n + 2000) ∧ sCam.portB = 0xFF ∧
    (new.net.slots[(7 : Fin 32)]).latched.lookup i0 = some (some c) ∧ ((held.net.slots[(7 : Fin 32)]).latched.lookup i0 = some none ∧
      (held.net.slots[(7 : Fin 32)]).last = some c ∧ (held.net.slots[(7 : Fin 32)]).lastHeld = true) ∧
    (past.rrscOf i0 = some (e, 7, sCam, n) ∧ (past.net.slots[(7 : Fin 32)]).latched.lookup i0 = some (some c) ∧ n + 2000 < past.time.ftb) := by
  unfold Starts
  exact ⟨by decide +kernel, by decide +kernel, by decide +kernel, by decide +kernel, by decide +kernel, by decide +kernel, by decide +kernel,
    by decide +kernel, by decide +kernel⟩

theorem witness_LinksTrainAndFallBackToSpares :
    -- Link 1 is MESH, link 5 its spare; module 3 of a ring of 8.
    let g (f : UrLink → UrLink) : State := { up with ur := { up.ur with
      gcfg := 0x4703
      links := upd (upd up.ur.links 1 fun l => f { l with cfg := 0x140 }) 5 fun l => { l with cfg := 0x1C8, state := .up } } }
    let a := g fun l => { l with state := .training }
    let z := { a with ur := { a.ur with links := upd a.ur.links 5 fun x => { x with state := .down } } }
    let b := g fun l => { l with state := .up }
    let c := { b with ur := { b.ur with links := upd b.ur.links 5 fun l => { l with state := .down } } }
    let x := { up with ur := { up.ur with links := upd up.ur.links 2 fun l => { l with cfg := 0x180, state := .down } } }
    ((a.ur.links[(1 : Fin 6)]).enabled = true ∧ (a.ur.links[(1 : Fin 6)]).state = .training ∧ (a.ur.links[(1 : Fin 6)]).replay = [] ∧
      a.ur.required 1 = some 2 ∧ 2 ≠ 31 ∧
      (a.ur.links[(1 : Fin 6)]).role ≠ 3 ∧ a.ur.spareOf 1 = some 5) ∧
    ((z.ur.links[(1 : Fin 6)]).enabled = true ∧ (z.ur.links[(1 : Fin 6)]).state = .training ∧ z.ur.required 1 = some 2 ∧ z.ur.spareOf 1 = none) ∧
    ((b.ur.links[(1 : Fin 6)]).state = .up ∧ (b.ur.links[(1 : Fin 6)]).role = 1 ∧ b.ur.spareOf 1 = some 5) ∧
    ((c.ur.links[(1 : Fin 6)]).state = .up ∧ c.ur.spareOf 1 = none) ∧
    ((x.ur.links[(2 : Fin 6)]).enabled = true ∧ (x.ur.links[(2 : Fin 6)]).state = .down ∧ x.ur.required 2 = none ∧ (x.ur.links[(2 : Fin 6)]).replay = [] ∧
      (x.ur.links[(2 : Fin 6)]).role ≠ 3 ∧ (60 ≤ 60 ∧ 1000 ≤ 1000) ∧ 59 < 60 ∧ 1000 < 1001) := by decide +kernel

/-- A DATA flit of module 9 with SEQ 8, ACK 3 and 2 credits that carries block 70,000 of frame 4, poisoned and all zeros (R397), and its CRC. -/
def dataFlit : Flit := ⟨1, 1, 8, 3, 2, 9, 4, 70000, List.replicate 512 0⟩
def dataBytes : List Byte := [1, 1, 0, 8, 0, 3, 0, 2, 9, 0, 0, 4, 0, 1, 0x11, 0x70] ++ List.replicate 512 0
def dataCrc : List Byte := [0xF0, 0x0A, 0x17, 0x70]

theorem flitOf_data {b : List Byte} {f : Flit}
    (hf : (⟨fld b 0 1, fld b 1 1, befld b 2 2, befld b 4 2, befld b 6 2, fld b 8 1, befld b 10 2, befld b 12 4, slice b 16 (b.length - 20)⟩ : Flit) = f)
    (hk : f.kind = 1) (h1 : (b.length == 532 && decide (f.flags < 2)) = true) (h2 : f.seq < 4096 ∧ f.ack < 4096 ∧ f.credit ≤ 2048 ∧ f.src < 32)
    (h3 : fld b 9 1 = 0) (hc : befld b (b.length - 4) 4 = (crc32c (b.take (b.length - 4))).toNat) : flitOf 1 b = some f := by
  subst hf; exact if_pos ⟨hk, h1, h2.1, h2.2.1, h2.2.2.1, h2.2.2.2, h3, hc⟩

theorem dataFlit_read : flitOf 1 (dataBytes ++ dataCrc) = some dataFlit := by
  have h := crc_of_chain (poly := 0x82F63B78) (c := 0xFFFFFFFF) (l := dataBytes)
    [0xE963FC28, 0xA830578C, 0x55772565, 0x9B9714C8, 0x37F6A4F1, 0x1247CF8A, 0xE3D797BA, 0xF137CBD4, 0x602104AA, 0x949F3C3F, 0x7026126B,
     0x15998964, 0x0AC173E9, 0x4DED7369, 0x38FC7C37, 0x2580C973, 0xF618B563, 0x5606FB74, 0x7E011D6A, 0xCAAA7879, 0xDA3B2C35, 0x3A4311F5,
     0xB265AA5E, 0x6A3621E3, 0x9BB3EFE7, 0x3CACDD3B, 0x32CE5A15, 0xC95125FB, 0x90A14F97, 0x957DCE66, 0x714EFA8F, 0x22EC76B0, 0x0FF5E88F] (by decide +kernel)
  have h0 : (dataBytes ++ dataCrc).take ((dataBytes ++ dataCrc).length - 4) = dataBytes := by decide +kernel
  have hc : befld (dataBytes ++ dataCrc) ((dataBytes ++ dataCrc).length - 4) 4 = (crc32c ((dataBytes ++ dataCrc).take ((dataBytes ++ dataCrc).length - 4))).toNat := by
    rw [h0, crc32c, h]; decide +kernel
  exact flitOf_data (by decide +kernel) (by decide +kernel) (by decide +kernel) (by decide +kernel) (by decide +kernel) hc

theorem witness_FlitsCarryBlocksInOrder :
    let g (f : UrLink → UrLink) : State := { up with ur := { up.ur with links := upd up.ur.links 0 fun l => f { l with state := .up, credits := 3 } } }
    let b : UrBlock := ⟨4, 70000, 5, false, 0⟩
    let q := g fun l => { l with txQueue := [b] }
    let a := g fun l => { l with lastRx := some 7 }
    let ack : Flit := ⟨2, 0, 0, 5, 3, 9, 0, 0, List.replicate 12 0⟩
    let r : HbmRec := ⟨20, 3, 7, 1, 102, 40, 2⟩
    let late := let s := hbmAt [r] [] id; { s with ur := { s.ur with links := upd s.ur.links 0 fun l => { l with rxOn := true, rxBase := BitVec.ofNat 64 (hbmAddr 1 7 40) } } }
    let slot := 2000000000 + 1000 * 3 + 200 + 3 + 16
    let here := { late with ur := { late.ur with links := upd late.ur.links 0 fun l => { l with
      rx := [⟨0, late.recIndex 0 1 r 1, 5, false, slot - 8⟩], rxSeen := [(0, late.recIndex 0 1 r 1)] } } }
    let y : UrBlock := ⟨4, 0, 5, false, 0⟩
    let w := { late with
      ur := { late.ur with links := upd late.ur.links 0 fun l => { l with rx := [y] } }, job := { late.job with lateKeys := [(0, 4, 0)] } }
    ((q.ur.links[(0 : Fin 6)]).state = .up ∧ q.ur.traffic 0 = 0 ∧ (q.ur.links[(0 : Fin 6)]).txQueue = b :: [] ∧ 0 < (q.ur.links[(0 : Fin 6)]).credits ∧
      (q.ur.links[(0 : Fin 6)]).replay.length < 1024) ∧
    ((a.ur.links[(0 : Fin 6)]).state = .up ∧ a.ur.traffic 0 = 0 ∧ flitOf 1 (dataBytes ++ dataCrc) = some dataFlit ∧
      dataFlit.seq = ((a.ur.links[(0 : Fin 6)]).ackNow + 1) % 4096 ∧ (a.ur.links[(0 : Fin 6)]).accepted < 63 ∧
      (a.job.nearFrame dataFlit.frame, dataFlit.index) ∉ (a.ur.links[(0 : Fin 6)]).rxSeen) ∧
    (dataFlit.seq ≠ ((q.ur.links[(0 : Fin 6)]).ackNow + 1) % 4096 ∧ flitOf 1 [] = none) ∧
    (flitOf 2 ack.bytes = some ack ∧ bit ack.flags 1 = false ∧ flitOf 2 { ack with flags := 2 }.bytes = some { ack with flags := 2 } ∧ bit 2 1 = true) ∧
    (flitOf 2 [] = none ∧ flitOf 3 [] = none) ∧ (bits q.ur.gcfg.toNat 7 5 ≠ (1 : Fin 6).1) ∧
    (late.linkRec 0 1 0 = some (100, r) ∧ late.job.state = .armed ∧ 1 < r.count ∧ late.job.repRuns 100 0 3 = true ∧
      (late.ur.links[(0 : Fin 6)]).rxOn = true ∧ (0, 0, late.recIndex 0 1 r 1) ∉ late.job.lateKeys ∧
      (late.ur.links[(0 : Fin 6)]).inTime 0 (late.recIndex 0 1 r 1) slot = false ∧ (1, 0, 3, 0) ∉ late.job.lateRecs ∧
      (here.linkRec 0 1 0 = some (100, r) ∧ here.recIndex 0 1 r 1 = late.recIndex 0 1 r 1 ∧ (here.ur.links[(0 : Fin 6)]).rxOn = true ∧
        (here.ur.links[(0 : Fin 6)]).inTime 0 (late.recIndex 0 1 r 1) slot = true)) ∧
    (((w.ur.links[(0 : Fin 6)]).rx.find? fun b => b.frame == 4 && b.index == 0) = some y ∧ (0, 4, 0) ∈ w.job.lateKeys ∧
      hbmPlace ((w.ur.links[(0 : Fin 6)]).rxBase.toNat + 512 * 0) = some (1, 7) ∧ (w.freeSlot 1 7).isSome = true) :=
  ⟨by decide +kernel, ⟨by decide +kernel, by decide +kernel, dataFlit_read, by decide +kernel, by decide +kernel, by decide +kernel⟩,
    by decide +kernel, by decide +kernel, by decide +kernel, by decide +kernel, by decide +kernel⟩

/-- The leaves of both stripes of camera 0's slot in frame 0, and video slot 5 that shows it with its frame sent. -/
def stampAt (f : StampBlk → StampBlk) : State :=
  let s := netAt [] (fun t => { t with sentFrames := [(0, 2000300000)] }) [{ sIn with camera := 0 }, sVid, sAnc]
  { s with stamp := f { s.stamp with leaves := [⟨4, 0, 0, 0, [1], 2000100000⟩, ⟨4, 0, 0, 1, [2], 2000200000⟩] } }

theorem witness_StampsAreHashedFormedSignedAndSent :
    let w : Lane := ⟨4, 0, 1, [3], 200⟩
    let a := stampAt fun b => { b with waiting := [w] }
    let d := stampAt fun b => { b with lanes := b.lanes.set 0 (some w) }
    let p := stampAt id
    let im := (p.job.image.getD default)
    let f := stampAt fun b => { b with nodes := [⟨5, 0, 1, 0, [4], 2000200200⟩] }
    let g := stampAt fun b => { b with engine := some (false, 5, 10, 2000500000) }
    let r : StampRec := ⟨5, 0, [7], 2000300000, false, none, []⟩
    let t := stampAt fun b => { b with records := [r] }
    (w.slot = (4 : Fin 32).1 ∧ (a.stamp.waiting.find? fun x => a.engineOf x.slot == a.engineOf (4 : Fin 32).1) = some w ∧
      a.stamp.freeLane (a.engineOf (4 : Fin 32).1) = some 0) ∧
    d.stamp.lanes[(0 : Fin 64)] = some w ∧
    (p.videoAt 5 = some (im, sVid) ∧ 2 * 0 + 1 < levelSize (im.leavesOf sVid).length 0 ∧ p.stamp.node (im.leavesOf sVid) 5 0 (0 + 1) 0 = none ∧
      p.stamp.node (im.leavesOf sVid) 5 0 0 (2 * 0) = some ([1], 2000100000) ∧ p.stamp.node (im.leavesOf sVid) 5 0 0 (2 * 0 + 1) = some ([2], 2000200000)) ∧
    (f.videoAt 5 = some (im, sVid) ∧ f.formTime im sVid 0 = some 2000300000 ∧ f.job.state = .armed ∧ f.nextRecord im = some (0, 5)) ∧
    g.stamp.engine = some (false, 5, 10, 2000500000) ∧
    (t.streamAt 6 = some sAnc ∧ sAnc.dir = 2 ∧ t.stamp.toSend sAnc = some r ∧ t.stamp.t40Of sAnc.slot r.frame = none ∧ sAnc.portB = 0xFF ∧
      t.rrscAhead 6 sAnc (max (r.formed + if r.signed = true then 250000 else 0) t.time.ftb) = false) := by
  exact ⟨by decide +kernel, by decide +kernel, by decide +kernel, by decide +kernel, by decide +kernel, by decide +kernel⟩

/-! ## The short statements -/

/-- Thread 2 owns the Taper and TCLR and TSTAT are next (R317). -/
theorem witness_TaperAccumulatorsClearAndStatusReads :
    onVecCodes tapers [(false, (.tclr ·), [0xE9, 0x00]), (false, (.tstat · 3), [0xE9, 0x02, 3])] ∧
    (∀ l ∈ [[0xE9, 0x00], [0xE9, 0x02, 3]], ((tapers l).slot 5 2).wick[5].owner = some 2 ∧ ((tapers l).slot 5 2).wick[5].trepRuns = false ∧
      (tapers l).wick[5].taperHeld (.tclr ⟨5, 2, false, false, .clean⟩) = false ∧
      (tapers l).wick[5].taperHeld (.tstat ⟨5, 2, false, false, .clean⟩ 3) = false) := ⟨vecCodes_of (by decide +kernel), by decide +kernel⟩

/-- Memory with one byte listed is in canonical form. -/
theorem witness_RowWritesReachTheirSectors : (MemBlk.reset.write 5 [7]).wf := MemBlk.write_wf MemBlk.reset_wf 5 [7]

theorem witness_FramesStartAtTheirCounts : 0 < 50 := by decide

theorem witness_StepRunsTheFrontCommand :
    ({ up with pending := [.hotReset, .flr] } : State).pending = .hotReset :: [.flr] ∧ up.pending = [] := ⟨rfl, rfl⟩

/-- Each invariant holds at reset, where the idle step answers a next state. -/
theorem witness_StepsKeepMemoryCanonical : State.reset.mem.wf ∧ ∃ t, step State.reset = .next t := ⟨MemBlk.reset_wf, _, rfl⟩
theorem witness_StepsKeepQuadrantsNear : State.reset.quadrantsNear ∧ ∃ t, step State.reset = .next t :=
  ⟨by unfold State.quadrantsNear; decide +kernel, _, rfl⟩
theorem witness_StepsStayWithinDepths : State.reset.withinDepths ∧ ∃ t, step State.reset = .next t :=
  ⟨by unfold State.withinDepths; decide +kernel, _, rfl⟩

/-! ## Ill-formed commands -/

/-- One ill-formed term for each check of WellFormed.lean, beside a well-formed one. -/
theorem test_wf_refuses :
    ([.inputUndervoltage 38000, .inputOvervoltage 63000, .serviceButtonPress 999, .secBadOp 7, .smbusRegRead 2 true, .smbusRegWrite 2 0 true,
      .configRequest 2 none, .bar2Access (2 ^ 34) 1 none, .bar2Access 0 0 none, .bar2Access 0 513 none, .bar2Access 0 2 (some [1]),
      .appCoreAccess 0 (2 ^ 48) 1 none, .appCoreAccess 0 0 65 none, .registerWrite .bar0 0 2 0,
      .registerLowerHalfRead .bar0 ⟨0, 2⟩, .counterClear .bar0 2 0, .fabricRowWrite ⟨0, none, 5, 0, 0, 0, false⟩ .none, .heldWriteRetry 5 true,
      .localFabricAccess 0 0 0x00400000 1 none, .hbmOpenAccess 0 (2 ^ 48) 1 none, .hbmOpenAccess 0 0 0 none, .dmaBusError 0 0 true (2 ^ 48),
      .saddlerException 0 0 0, .saddlerException 0 10 0, .egressPacket 0 1001, .rrscSlot ⟨0, 0, 0⟩ 1001, .linkTraining 0 (some ⟨32, 0, 60⟩), .linkRetrain 0 true (some ⟨0, 6, 60⟩),
      .linkRetryTimer 0 (some ⟨32, 6, 60⟩), .urWindowWrite .bar0 0x06000100 .full 0, .parentHashDone 0 0 0 0] : List Instr).all (fun i => !i.wf) = true ∧
    ([.inputUndervoltage 37999, .inputOvervoltage 63001, .serviceButtonPress 1000, .secBadOp 8, .bar2Access (2 ^ 34 - 1) 1 (some [1]),
      .registerWrite .bar0 8 8 0, .urWindowWrite .bar0 0x06000608 .full 0, .networkControlPacket 0 0 [], .parentHashDone 0 0 1 0, .nop (.sad 0 true)] :
      List Instr).all Instr.wf = true := by decide +kernel

/-! ## Worked examples of the spec, and single steps -/

/-- The state after a command. -/
def after (c : Instr) (s : State) : State := match exec c s with | .next t => t | _ => s

/-- R284: LI g7, 0x7EDC; LIS g7, 0xBA98; LIS g7, 0x8001. -/
theorem test_li : ((after (.li (.wick 5 2 false .clean) 7 0x7EDC) (runs [0x0A, 7, 0xDC, 0x7E])).wick[5].threads[2].g[7]) = 0x7EDC := by decide +kernel
theorem test_lis : ((after (.lis (.wick 5 2 false .clean) 7 0xBA98) (runs [0x0B, 7, 0x98, 0xBA] fun t => { t with g := regSet t.g 7 0x7EDC })).wick[5].threads[2].g[7]) =
    0x7EDCBA98 := by decide +kernel
theorem test_lis_again : ((after (.lis (.sad 3 false) 7 0x8001) (pairRuns [0x38, 0x8B, 0x01, 0x80] fun q => { q with g := regSet q.g 7 0x7EDCBA98 })).sad[3].g[7]) =
    0x7EDCBA988001 := by decide +kernel

/-- R295: with ga = 1,000, SEW 16 and G 4, vl is 1,000. -/
theorem test_vsetl : ((after (.vsetl ⟨5, 2, false, false, .clean⟩ 3 1 0x09) (runs [0xE8, 0x60, 3, 1, 0x09] fun t => { t with g := regSet t.g 1 1000 })).wick[5].threads[2].vl) =
    1000 := by decide +kernel

/-- R316: an accumulator of 3,000 gives 43. -/
theorem test_texp : signRun 3000 = 43 ∧ signRun (-1) = 55 ∧ signRun 0 = 55 := by decide +kernel

/-- R89: the occupancy of 64 channels of 1,080 by 1,920 S8A elements, and the divider's three results. -/
theorem test_gavg : GavgOp.occupancy ⟨0, false, 0, 0, 64, 0, 2073600, 2073600, 0, 0, 0, 0, 0⟩ = 259234 ∧
    (roundDiv (-3110400) 2073600 = -2 ∧ roundDiv (-3110399) 2073600 = -1 ∧ roundDiv 1036800 2073600 = 1) := by decide +kernel

/-- R117: a largest magnitude of 100,000 at gain 2^-8 (M = 2^30, sh = 38) takes s = 2, and 32,640 then rounds to 32. -/
theorem test_block_shift : blockShift [(100000 * 2 ^ 30, 38)] = 2 ∧ roundShift (32640 * 2 ^ 30) 40 = 32 := by decide +kernel

/-- R270: SKIP.EQ of equal registers suppresses the next instruction; R253: g0 discards a write. -/
theorem test_skip : ((after (.skip (.wick 5 2 false .clean) .eq 1 (.reg 1)) (runs [0x40, 1, 1])).wick[5].threads[2].victim) = .suppress := by decide +kernel
theorem test_g0 : ((after (.addSub (.wick 5 2 false .clean) false 0 1 2) (runs [0x10, 0, 1, 2])).wick[5].threads[2].g) = gs := by decide +kernel

/-- R494: a power-on reset starts the supplies. -/
theorem test_power_on : (after (.powerOnReset ⟨0, [], [], [], none, false, false⟩) State.reset).mgmt.supplies = true := by decide +kernel

/-- An erased halfword and a halfword of zeros trap on a pair (R288, R290). -/
theorem test_compact_illegal : decodeCompact 0 [0xFF, 0xFF, 0xFF, 0xFF] = none ∧ decodeCompact 0 [0, 0, 0, 0] = none := by decide +kernel

/-- R280: prefixes out of order, repeated or reserved, and a test form outside the test state, are ILLEGAL; a cut instruction asks for more bytes. -/
theorem test_wick_illegal :
    (∀ l ∈ [[0xEA, 0xEB, 0xE9, 0x20, 3], [0xEA, 0xEA, 0x20, 3, 1, 0, 0, 0, 0], [0xE8, 0xE9, 0x00, 0, 0, 0], [0xEC], [0xEB, 0x00], [0xEA, 0x10, 3, 1, 2],
      [0xEB, 0xE9, 0x20, 3], [0xF0, 0], [0x0C]], decodeWick 5 2 false .clean false l = .illegal) ∧
    decodeWick 5 2 false .clean true [0xEB, 0xE9, 0x20, 3] = .ok (.tsigr ⟨5, 2, false, false, .clean⟩ 3) 4 ∧
    decodeWick 5 2 false .clean false [0xEA, 0x0A, 7, 1, 2] = .short := by decide +kernel

end Sys2Proof.Tests
end

section
/-! PROOFS. Accesses to the register space: what a read answers and latches, which field a write reaches, and O15 from these rules. -/
namespace Sys2Proof.Machine

/-! ## Reads (R14, R546) -/

theorem latchFind_cons (l : List Latch) (p : Path) (off : Nat) (v : W32) : latchFind (⟨p, off, v⟩ :: l) p off = some v := by
  simp [latchFind]

section
variable (s : State) (p : Path) {off n : Nat}

theorem regRead4_ftbCount : s.regRead4 p 0x00100000 =
    (s.setMisc { s.misc with triples := (p, BitVec.ofNat 64 s.time.ftb, BitVec.ofNat 64 s.jobFrameReg, BitVec.ofNat 64 s.nextAnchorReg) ::
      (s.misc.triples.filter fun x => x.1 != p) }, s.regWord p 0x00100000) := rfl

theorem regRead4_low (ha : off % 4 = 0) (hf : off ≠ 0x00100000) (hl : isLow64 off = true) (ht : s.tripleHalf p off = none) :
    s.regRead4 p off =
      (s.setMisc { s.misc with latches := ⟨p, off, s.regWord p (off + 4)⟩ :: latchDrop s.misc.latches p off }, s.regWord p off) := by
  simp [State.regRead4, ha, hf, ht, hl]

theorem regRead_word (off : Nat) : s.regRead p off 4 = ((s.regRead4 p off).1, (s.regRead4 p off).2.setWidth 64) := rfl

theorem regRead_low_whole (ha : off % 8 = 0) (hl : isLow64 off = true) :
    s.regRead p off 8 = (s, BitVec.ofNat 64 ((s.regWord p off).toNat + 2 ^ 32 * (s.regWord p (off + 4)).toNat)) := by
  simp [State.regRead, ha, hl]

theorem regRead_unaligned (hn : n = 4 ∨ n = 8) (ha : off % n ≠ 0) : s.regRead p off n = (s, 0) := by
  obtain rfl | rfl := hn
  · simp [State.regRead, State.regRead4, ha]
  · simp [State.regRead, ha]

/-! ## Writes: which half or register they reach (R14, R15) -/

theorem regWrite_unaligned (v : W64) (hn : n = 4 ∨ n = 8) (ha : off % n ≠ 0) : s.regWrite p off n v = s := by
  obtain rfl | rfl := hn
  · simp [State.regWrite, State.regWrite4, ha]
  · simp [State.regWrite, ha]

theorem regWrite4_low (v : W32) (ha : off % 4 = 0) (hl : isLow64 off = true) :
    s.regWrite4 p off v = s.setMisc { s.misc with pendLow := ⟨p, off, v⟩ :: latchDrop s.misc.pendLow p off } := by
  simp [State.regWrite4, ha, hl]

/-- The upper half of a 64-bit register, after its lower half was held: both halves are written together. -/
theorem regWrite4_high (v low : W32) (ha : off % 4 = 0) (hl : isLow64 (off + 4) = false) (hh : isLow64 off = true)
    (hp : latchFind s.misc.pendLow p off = some low) :
    s.regWrite4 p (off + 4) v = (s.setMisc { s.misc with pendLow := latchDrop s.misc.pendLow p off }).regWrite64 p off
      (BitVec.ofNat 64 (low.toNat + 2 ^ 32 * v.toNat)) := by
  simp [State.regWrite4, ha, hl, isHigh64, hh, hp]

/-- A word that is no half of a 64-bit register. -/
theorem regWrite_word (v : W64) (ha : off % 4 = 0) (hl : isLow64 off = false) (hh : isHigh64 off = false) :
    s.regWrite p off 4 v = s.regWrite32 p off (v.setWidth 32) := by
  simp [State.regWrite, State.regWrite4, ha, hl, hh]

/-! ## Writes: the field of each register -/

theorem regWrite32_scratch (v : W32) : s.regWrite32 p 0x18 v = s.setMisc { s.misc with scratch := v } := rfl

theorem regWrite64_bar2Base (v : W64) :
    s.regWrite64 p 0x07003000 v = s.setHost { s.host with bar2 := v &&& 0x0000FFFFE0000000 } := rfl

/-- LN_ERR of Lantern m is write-one-to-clear (R90). -/
theorem regWrite32_lnErr (m : LnId) (v : W32) : s.regWrite32 p (0x01000020 + 0x10000 * m.1) v =
    s.setLan m fun l => { l with err := l.err &&& ~~~(v &&& 0x3FF) } := by
  have hm := m.isLt
  have hd : (0x01000020 + 0x10000 * m.1 - 0x01000000) / 0x10000 = m.1 := by omega
  have ho : (0x01000020 + 0x10000 * m.1) % 0x10000 = 0x20 := by omega
  unfold State.regWrite32
  rw [if_neg (by omega), if_neg (by omega), if_neg (by omega), if_pos (by omega), hd, ho]
  simp [toFin?_val]

/-- UR_TX_BASE of link u, while no job is armed (R409). -/
theorem regWrite64_urTxBase (u : Fin 6) (v : W64) (hj : s.job.state ≠ .armed) :
    s.regWrite64 p (0x06000108 + 0x100 * u.1) v =
      s.setUr { s.ur with links := upd s.ur.links u fun l => { l with txBase := v &&& 0x0000FFFFFFFFFE00 } } := by
  have hu := u.isLt
  have hd : (0x06000108 + 0x100 * u.1 - 0x06000100) / 0x100 = u.1 := by omega
  have ho : (0x06000108 + 0x100 * u.1) % 0x100 = 0x08 := by omega
  unfold State.regWrite64
  rw [if_pos (by omega), if_neg (by simpa using hj), hd, ho, updNat_fin]
  rfl

/-- The counter CLEAR of stream slot k (R18). -/
theorem clearCounters_stream (k : Fin 32) : s.clearCounters (0x05001020 + 0x40 * k.1) =
    s.setNet { s.net with slots := upd s.net.slots k fun t => { t with ctr := StCounters.reset } } := by
  have hk := k.isLt
  have hd : (0x05001020 + 0x40 * k.1 - 0x05001000) / 0x40 = k.1 := by omega
  unfold State.clearCounters
  rw [if_neg (by omega), if_neg (by omega), if_neg (by omega), if_neg (by omega), if_neg (by omega), if_neg (by omega),
    if_pos (by omega), hd, updNat_fin]

end

theorem steeringEffect_resting (m : LnId) (col : Bool) (v : W32) (s : State) (hm : s.lan[m].mode = .off ∨ s.lan[m].mode = .idle)
    (hj : s.job.state ≠ .armed) : steeringEffect m col v s =
      s.setLan m fun l => if col then { l with colSteer := v &&& 0x3FFFFFFF } else { l with rowSteer := v &&& 0x3FFFFFFF } := by
  refine if_pos ?_
  simpa [hj] using hm

theorem ethCfgEffect_armed (q : Fin 4) (v : W32) (s : State) (hj : s.job.state = .armed) : ethCfgEffect q v s = s :=
  if_pos (by simp [hj])

/-- The new configuration of a port, and the state of its links when MODE changes (R365). -/
theorem ethCfgEffect_port (q : Fin 4) (v : W32) (s : State) (hj : s.job.state ≠ .armed) :
    ((ethCfgEffect q v s).net.ports[q]).cfg = v &&& 0x103 ∧
    (v &&& 3 ≠ s.net.ports[q].cfg &&& 3 → ((ethCfgEffect q v s).net.ports[q]).link = 0) := by
  have hmode : v &&& 0x103 &&& 3 = v &&& 3 := by rw [BitVec.and_assoc]; rfl
  simp only [ethCfgEffect, beq_iff_eq, hj, if_false, State.setNet_net, upd_get_self, ethCfgMask, hmode]
  by_cases hm : v &&& 3 = s.net.ports[q].cfg &&& 3
  · rw [if_pos hm]
    exact ⟨rfl, fun hne => absurd hm hne⟩
  · rw [if_neg hm]
    exact ⟨rfl, fun _ => rfl⟩

theorem ethCfgEffect_frame (q : Fin 4) (v : W32) (s : State) : ethCfgEffect q v s = { s with net := (ethCfgEffect q v s).net } := by
  unfold ethCfgEffect
  split <;> rfl

/-! ## Which registers have halves (R542) -/

theorem isLow64_lnErr (m : LnId) : isLow64 (0x01000020 + 0x10000 * m.1) = false := by revert m; decide

theorem isHigh64_lnErr (m : LnId) : isHigh64 (0x01000020 + 0x10000 * m.1) = false := by revert m; decide

theorem isLow64_urTxBase (u : Fin 6) : isLow64 (0x06000108 + 0x100 * u.1) = true := by revert u; decide

/-! ## The commands on an open path (R495) -/

section
variable {s : State} {p : Path}

theorem exec_registerRead {off n : Nat} (h : s.pathOpen p off = true) :
    exec (.registerLowerHalfRead p ⟨off, n⟩) s = .next ((s.regRead p off n).1.emit (.read p off (s.regRead p off n).2)) :=
  congrArg _ (if_pos h)

theorem exec_ftbCountRead (h : s.pathOpen p 0x00100000 = true) : exec (.ftbCountLowRead p) s =
    .next ((s.regRead4 p 0x00100000).1.emit (.read p 0x00100000 ((s.regRead4 p 0x00100000).2.setWidth 64))) :=
  congrArg _ (if_pos h)

theorem exec_registerWrite {off n : Nat} {v : W64} (h : s.pathOpen p off = true) :
    exec (.registerWrite p off n v) s = .next (s.regWrite p off n v) :=
  congrArg _ (if_pos h)

theorem exec_bar2BaseWrite_low {v : W64} (h : s.pathOpen p 0x07003000 = true) :
    exec (.bar2BaseWrite p .low v) s = .next (s.regWrite4 p 0x07003000 (v.setWidth 32)) := congrArg _ (if_pos h)

theorem exec_bar2BaseWrite_high {v : W64} (h : s.pathOpen p 0x07003000 = true) :
    exec (.bar2BaseWrite p .high v) s = .next (s.regWrite4 p 0x07003004 (v.setWidth 32)) := congrArg _ (if_pos h)

theorem exec_bar2BaseWrite_full {v : W64} (h : s.pathOpen p 0x07003000 = true) :
    exec (.bar2BaseWrite p .full v) s = .next (s.regWrite64 p 0x07003000 v) := congrArg _ (if_pos h)

theorem exec_urTxBaseWrite {u : Fin 6} {v : W64} (h : s.pathOpen p (0x06000108 + 0x100 * u.1) = true) :
    exec (.urWindowWrite p (0x06000108 + 0x100 * u.1) .full v) s = .next (s.regWrite64 p (0x06000108 + 0x100 * u.1) v) := by
  have hu := u.isLt
  have hc : (s.pathOpen p (0x06000108 + 0x100 * u.1) &&
      decide (0x06000100 ≤ 0x06000108 + 0x100 * u.1 ∧ 0x06000108 + 0x100 * u.1 < 0x06000700) &&
      isLow64 (0x06000108 + 0x100 * u.1)) = true := by
    rw [h, isLow64_urTxBase, decide_eq_true (by omega)]
    rfl
  exact congrArg _ (if_pos hc)

theorem exec_counterClear {off : Nat} {v : W32} (h : s.pathOpen p off = true) (hv : bit v.toNat 0 = true) :
    exec (.counterClear p off v) s = .next (s.clearCounters off) :=
  congrArg _ ((if_pos h).trans (if_pos hv))

theorem exec_steeringWrite {m : LnId} {col : Bool} {v : W32} (h : s.pathOpen p 0x01000010 = true) :
    exec (.steeringWrite p m col v) s = .next (steeringEffect m col v s) :=
  congrArg _ (if_pos h)

theorem exec_ethPortCfgWrite {q : Fin 4} {v : W32} (h : s.pathOpen p 0x05000000 = true) :
    exec (.ethPortCfgWrite p q v) s = .next (ethCfgEffect q v s) :=
  congrArg _ (if_pos h)

/-- While a job is armed a port's configuration stays, whether the path is open or not. -/
theorem exec_ethPortCfgWrite_armed {q : Fin 4} {v : W32} (hj : s.job.state = .armed) :
    exec (.ethPortCfgWrite p q v) s = .next s := by
  simp only [exec, execEthPortCfgWrite, ethCfgEffect_armed q v s hj, ite_self]

theorem exec_rrscCommitGo {k : Fin 32} {v : W32} (h : s.pathOpen p 0x05008000 = true) (hv : bit v.toNat 0 = true) :
    exec (.rrscCommitGo p k v) s = .next (s.setNet { s.net with
      slots := upd s.net.slots k fun t => { t with pending := some (stagedCommand t s.time.ftb) } }) :=
  congrArg _ ((if_pos h).trans (if_pos hv))

theorem exec_saddlerSwi {i : Fin 4} {v : W32} (hv : bit v.toNat 3 = true) :
    exec (.cpIrqSwiWrite (.saddler i) v) s = .next (s.setSad i fun x => { x with pend := x.pend ||| 8 }) := by
  simp only [exec, execCpIrqSwiWrite, State.sadSwi, hv, if_true]

end

/-! ## O15 -/

/-- Settles O15: each clause is the rule of its command on an open path, and then the rule of the half or register it reaches. -/
theorem registersAreReadAndWritten : Obligations.RegistersAreReadAndWritten := by
  unfold Obligations.RegistersAreReadAndWritten
  refine ⟨⟨?lowRead, ?wholeRead, ?unaligned, ?ftbCount, ?bar2Full, ?bar2Low, ?bar2High, ?urWindow⟩,
    ?scratch, ?lnErr, ?counters, ?steering, ?ethPort, ?ethArmed, ?rrscCommit, ?swi⟩
  case lowRead =>
    intro p off s ho ha hf hl ht
    refine ⟨_, exec_registerRead ho, ?_⟩
    rw [regRead_word, regRead4_low s p ha hf hl ht]
    exact ⟨rfl, latchFind_cons .., rfl⟩
  case wholeRead =>
    intro p off s ho ha hl
    exact ⟨_, exec_registerRead ho, by rw [regRead_low_whole s p ha hl]⟩
  case unaligned =>
    intro p off n v s ho hn ha
    exact ⟨⟨_, exec_registerRead ho, by rw [regRead_unaligned s p hn ha]⟩,
      ⟨_, exec_registerWrite ho, regWrite_unaligned s p v hn ha⟩⟩
  case ftbCount =>
    intro p s ho
    refine ⟨_, exec_ftbCountRead ho, ?_⟩
    rw [regRead4_ftbCount]
    exact ⟨rfl, rfl, rfl⟩
  case bar2Full =>
    intro p v s ho
    exact ⟨_, exec_bar2BaseWrite_full ho, regWrite64_bar2Base s p v⟩
  case bar2Low =>
    intro p v s ho
    refine ⟨_, exec_bar2BaseWrite_low ho, ?_⟩
    rw [regWrite4_low s p _ rfl rfl]
    exact ⟨latchFind_cons .., rfl⟩
  case bar2High =>
    intro p v low s ho hp
    refine ⟨_, exec_bar2BaseWrite_high ho, ?_⟩
    rw [regWrite4_high s p (off := 0x07003000) _ low rfl rfl rfl hp, regWrite64_bar2Base]
    exact ⟨rfl, rfl⟩
  case urWindow =>
    intro p u v s ho hj
    refine ⟨_, exec_urTxBaseWrite ho, ?_⟩
    rw [regWrite64_urTxBase s p u v hj]
    exact ⟨congrArg UrLink.txBase (upd_get_self _ u _), rfl⟩
  case scratch =>
    intro p v s ho
    exact ⟨_, exec_registerWrite ho, regWrite_word s p v rfl rfl rfl⟩
  case lnErr =>
    intro p n v s ho
    refine ⟨_, exec_registerWrite ho, ?_⟩
    rw [regWrite_word s p v (by omega) (isLow64_lnErr n) (isHigh64_lnErr n), regWrite32_lnErr]
    exact ⟨congrArg Lantern.err (upd_get_self _ n _), rfl⟩
  case counters =>
    intro p k v s ho hv
    refine ⟨_, exec_counterClear ho hv, ?_⟩
    rw [clearCounters_stream]
    exact ⟨congrArg Stream.ctr (upd_get_self _ k _), rfl⟩
  case steering =>
    intro p n col v s ho hj hm
    refine ⟨_, exec_steeringWrite ho, ?_⟩
    rw [steeringEffect_resting n col v s hm hj]
    exact ⟨upd_get_self _ n _, rfl⟩
  case ethPort =>
    intro p q v s ho hj
    obtain ⟨hcfg, hlink⟩ := ethCfgEffect_port q v s hj
    exact ⟨_, exec_ethPortCfgWrite ho, hcfg, hlink, ethCfgEffect_frame q v s⟩
  case ethArmed =>
    intro p q v s hj
    exact ⟨s, exec_ethPortCfgWrite_armed hj, rfl⟩
  case rrscCommit =>
    intro p k v s ho hv
    exact ⟨_, exec_rrscCommitGo ho hv, congrArg Stream.pending (upd_get_self _ k _), rfl⟩
  case swi =>
    intro p q v s hv _
    exact ⟨_, exec_saddlerSwi hv, congrArg Saddler.pend (upd_get_self _ p _)⟩

end Sys2Proof.Machine
end

section
/-! PROOFS. Rules shared by the proofs below: the event logged last, and the one group that a setter changes. -/
namespace Sys2Proof.Machine

@[simp] theorem newest_logAt (s : State) (f c k n : Nat) (d : List (Nat × Nat)) :
    (s.logAt f c k n d).newest = some ⟨f, c, k, n, detail d⟩ := rfl

@[simp] theorem newest_logEv (s : State) (c k n : Nat) (d : List (Nat × Nat)) :
    (s.logEv c k n d).newest = some ⟨s.time.ftb, c, k, n, detail d⟩ := rfl

theorem setMem_only (s : State) (x : MemBlk) : Only [.mem] s (s.setMem x) := by
  intro g hg
  cases g with
  | mem => exact absurd (List.mem_singleton_self _) hg
  | _ => rfl

theorem setHbm_only (s : State) (n : Fin 4) (f : HbmCtl → HbmCtl) : Only [.hbm] s (s.setHbm n f) := by
  intro g hg
  cases g with
  | hbm => exact absurd (List.mem_singleton_self _) hg
  | _ => rfl

theorem setFab_only (s : State) (x : FabBlk) : Only [.fab] s (s.setFab x) := by
  intro g hg
  cases g with
  | fab => exact absurd (List.mem_singleton_self _) hg
  | _ => rfl

theorem setJob_only (s : State) (x : JobBlk) : Only [.job] s (s.setJob x) := by
  intro g hg
  cases g with
  | job => exact absurd (List.mem_singleton_self _) hg
  | _ => rfl

theorem setApp_only (s : State) (x : AppBlk) : Only [.app] s (s.setApp x) := by
  intro g hg
  cases g with
  | app => exact absurd (List.mem_singleton_self _) hg
  | _ => rfl

theorem emit_only (s : State) (o : Out) : Only [.misc] s (s.emit o) := by
  intro g hg
  cases g with
  | misc => exact absurd (List.mem_singleton_self _) hg
  | _ => rfl

end Sys2Proof.Machine
end

section
/-! PROOFS. Accesses to HBM in open service and the temperature of a stack (R28, R354, R360–R364), and O52 from these rules. -/
namespace Sys2Proof.Machine

/-! ## Where HBM lies (R540) -/

theorem place_of_lt_hbm {a : Nat} (h : a < 4 * stackSize) : place a = .hbm (a / stackSize) (a % stackSize) := if_pos h

theorem lt_of_place_hbm {a st off : Nat} (h : place a = .hbm st off) : a < 4 * stackSize := by
  by_contra hge
  unfold place at h
  rw [if_neg hge] at h
  dsimp only at h
  split_ifs at h

/-- The block that holds a byte of HBM lies in HBM. -/
theorem place_rowBase_hbm {a st off : Nat} (h : place a = .hbm st off) : ∃ st' off', place (rowBase a) = .hbm st' off' :=
  ⟨_, _, place_of_lt_hbm (lt_of_le_of_lt (Nat.div_mul_le_self a 512) (lt_of_place_hbm h))⟩

/-! ## The correction of a block (R360, R362) -/

/-- A read is poisoned by an uncorrectable codeword among those read or by a stored marker. -/
theorem checkBlock_poison (s : State) {b st off : Nat} (p : Nat) (cws : List Nat) (h : place b = .hbm st off) :
    (s.checkBlock b p cws).2 = ((cws.any fun i => s.mem.eccAt (b + 64 * i) == 2) || s.mem.poisoned b) := by
  simp only [State.checkBlock, h, List.any_map, Function.comp_def]
  split <;> rfl

@[simp] theorem checkBlock_mem (s : State) (b p : Nat) (cws : List Nat) : (s.checkBlock b p cws).1.mem = s.mem :=
  checkBlock_only s b p cws .mem (by simp)

@[simp] theorem checkBlock_misc (s : State) (b p : Nat) (cws : List Nat) : (s.checkBlock b p cws).1.misc = s.misc :=
  checkBlock_only s b p cws .misc (by simp)

/-! ## Open accesses (R28, R354) -/

section
variable {s : State} {a n : Nat} (port : Nat)

theorem hbmOpenEffect_untrained (w : Option (List Byte)) (h : s.hbmUp a = false) : hbmOpenEffect port a n w s = s :=
  if_pos (by simp [h])

/-- A refused access of a fabric port that has no requester of R364 changes nothing. -/
theorem hbmOpenEffect_unnamed (w : Option (List Byte)) (hd : s.hbmDet a = true) (hp : portAgent port = none) :
    hbmOpenEffect port a n w s = s := by
  simp only [hbmOpenEffect, hd, hp, if_true, ite_self]

theorem hbmOpenEffect_refusedRead {who : Agent} (hu : s.hbmUp a = true) (hd : s.hbmDet a = true) (hp : portAgent port = some who)
    (hn : 0 < n) (hb : a % 512 + n ≤ 512) :
    hbmOpenEffect port a n none s = (s.logRefused who a).emit (.bytes a (List.replicate n 0) false) := by
  simp [hbmOpenEffect, hu, hd, hp, Nat.ne_of_gt hn, Nat.not_lt.2 hb]

theorem hbmOpenEffect_refusedWrite {who : Agent} {l : List Byte} (hu : s.hbmUp a = true) (hd : s.hbmDet a = true)
    (hp : portAgent port = some who) (hn : 0 < l.length) (hb : a % 512 + l.length ≤ 512) :
    hbmOpenEffect port a n (some l) s = s.logRefused who a := by
  simp [hbmOpenEffect, hu, hd, hp, List.ne_nil_of_length_pos hn, Nat.not_lt.2 hb]

theorem hbmOpenEffect_write {l : List Byte} (hu : s.hbmUp a = true) (hd : s.hbmDet a = false) (hn : 0 < l.length)
    (hb : a % 512 + l.length ≤ 512) : hbmOpenEffect port a n (some l) s = s.setMem (s.mem.writePart a l false) := by
  simp [hbmOpenEffect, hu, hd, List.ne_nil_of_length_pos hn, Nat.not_lt.2 hb]

theorem hbmOpenEffect_read (hu : s.hbmUp a = true) (hd : s.hbmDet a = false) (hn : 0 < n) (hb : a % 512 + n ≤ 512) :
    hbmOpenEffect port a n none s = (s.checkBlock (rowBase a) port (parts a n 64)).1.emit
      (.bytes a (s.mem.bytes a n) (s.checkBlock (rowBase a) port (parts a n 64)).2) := by
  simp [hbmOpenEffect, hu, hd, Nat.ne_of_gt hn, Nat.not_lt.2 hb]

end

theorem exec_hbmOpenAccess (p : Byte) (a n : Nat) (w : Option (List Byte)) (s : State) :
    exec (.hbmOpenAccess p a n w) s = .next (hbmOpenEffect p.toNat a n w s) := rfl

/-- DOMAIN_ACCESS_REFUSED names the requester, the address, and whether BAR2 made the access (R28). -/
theorem newest_logRefused (s : State) (who : Agent) (a : Nat) : (s.logRefused who a).newest =
    some ⟨s.time.ftb, 0x0A10, who.unit.1, who.unit.2, detail [(8, a), (1, if who = .bar2 then 0 else 1)]⟩ := by
  cases who <;> rfl

theorem logRefused_only (s : State) (who : Agent) (a : Nat) : Only [.log, .sad] s (s.logRefused who a) := logEv_only _ _ _ _ _

/-! ## Temperature (R364) -/

section
variable (s : State) (st : Fin 4) (v : Byte)

theorem hbmTemp_hbm : (s.hbmTemp st v).hbm = upd s.hbm st fun h => { h with temp := v, hot := decide (95 < v.toNat) } := by
  unfold State.hbmTemp
  dsimp only
  split <;> rfl

theorem hbmTemp_rise (hc : s.hbm[st].hot = false) (hv : 95 < v.toNat) : s.hbmTemp st v =
    (s.setHbm st fun h => { h with temp := v, hot := decide (95 < v.toNat) }).logEv 0x0703 4 st.1 [(1, v.toNat)] :=
  if_pos ⟨hc, hv⟩

theorem hbmTemp_quiet (h : s.hbm[st].hot = true ∨ v.toNat ≤ 95) :
    s.hbmTemp st v = s.setHbm st fun h => { h with temp := v, hot := decide (95 < v.toNat) } := by
  refine if_neg fun ⟨hc, hv⟩ => ?_
  obtain hh | hv' := h
  · exact Bool.false_ne_true (hc.symm.trans hh)
  · omega

theorem hbmTemp_only : Only [.hbm, .log, .sad] s (s.hbmTemp st v) := by
  unfold State.hbmTemp
  dsimp only
  split
  · exact (setHbm_only _ _ _).trans (logEv_only _ _ _ _ _) (by simp) (by simp)
  · exact (setHbm_only _ _ _).mono (by simp)

end

/-! ## O52 -/

/-- Settles O52: each clause is the rule of its access on a trained or untrained stack, and the last the rule of a rise in temperature. -/
theorem openHbmAndTemperature : Obligations.OpenHbmAndTemperature := by
  unfold Obligations.OpenHbmAndTemperature
  refine ⟨?refused, ?unchanged, ?write, ?read, ?temperature⟩
  case refused =>
    intro p who a n s hu hd hp hn hb
    refine ⟨⟨_, exec_hbmOpenAccess p a n none s, ?_⟩, fun l hl => ⟨_, exec_hbmOpenAccess p a n (some l) s, ?_⟩⟩
    · rw [hbmOpenEffect_refusedRead _ hu hd hp hn hb]
      exact ⟨newest_logRefused s who a, rfl, (logRefused_only s who a).trans (emit_only _ _) (by simp) (by simp)⟩
    · subst hl
      rw [hbmOpenEffect_refusedWrite _ hu hd hp hn hb]
      exact ⟨newest_logRefused s who a, logRefused_only s who a⟩
  case unchanged =>
    intro p a n w s h
    refine ⟨_, exec_hbmOpenAccess p a n w s, ?_⟩
    obtain hu | ⟨hd, hp⟩ := h
    · exact hbmOpenEffect_untrained _ w hu
    · exact hbmOpenEffect_unnamed _ w hd hp
  case write =>
    intro p a n st off l s _ hu hd hn hb
    refine ⟨_, exec_hbmOpenAccess p a n (some l) s, ?_⟩
    rw [hbmOpenEffect_write _ hu hd hn hb]
    exact ⟨rfl, setMem_only _ _⟩
  case read =>
    intro p a n st off s ha hu hd hn hb
    obtain ⟨st', off', hrow⟩ := place_rowBase_hbm ha
    refine ⟨_, exec_hbmOpenAccess p a n none s, ?_⟩
    rw [hbmOpenEffect_read _ hu hd hn hb, checkBlock_poison s _ _ hrow]
    exact ⟨by simp, by simp, (checkBlock_only _ _ _ _).trans (emit_only _ _) (by simp) (by simp)⟩
  case temperature =>
    intro st v s
    refine ⟨s.hbmTemp st v, rfl, ?_, ?_, hbmTemp_only s st v, fun hc hv => ?_, fun h => ?_⟩
    · rw [hbmTemp_hbm, upd_get_self]
    · rw [hbmTemp_hbm, upd_get_self]
      exact decide_eq_true_iff
    · rw [hbmTemp_rise s st v hc hv]
      exact newest_logEv ..
    · rw [hbmTemp_quiet s st v h]
      rfl

end Sys2Proof.Machine
end

section
/-! PROOFS. Mailboxes of the application cores (R26, R27, R165, R441, R442), and O24 from the rules of their four commands. -/
namespace Sys2Proof.Machine

/-! ## The state as a timetable entry starts (R41) -/

section
variable (s : State) (e : TtEntry) (i : Inst)

@[simp] theorem startOf_app : (s.startOf e i).app = s.app := startOf_only s e i .app (by simp)
@[simp] theorem startOf_fab : (s.startOf e i).fab = s.fab := startOf_only s e i .fab (by simp)
@[simp] theorem startOf_job : (s.startOf e i).job = s.job.start i := congrArg (·.start i) (reach_job s _)

theorem placed_le_startOf : s.job.placed e i ≤ (s.startOf e i).time.ftb := by
  calc s.job.placed e i ≤ s.startTick e i := Nat.le_add_right _ _
    _ ≤ max s.time.ftb (s.startTick e i) := le_max_right _ _
    _ = (s.startOf e i).time.ftb := (reach_ftb s _).symm

end

/-- With no STOP pending no completion ends the job. -/
theorem tryStop_of_none {s : State} (h : s.job.stopAt = none) : s.tryStop = s := by rw [State.tryStop, h]

/-! ## Slots of an outbound mailbox (R441) -/

theorem slotFree_congr {s t : State} (h : t.app = s.app) (m : Fin 16) : t.slotFree m = s.slotFree m := by
  simp only [State.slotFree, h]

theorem nextSlot_congr {s t : State} (h : t.app = s.app) (m : Fin 16) : t.nextSlot m = s.nextSlot m := by
  simp only [State.nextSlot, h]

/-! ## Row reads of the mailbox path (R165) -/

theorem place_of_map {a : Nat} (hlo : mapBase ≤ a) (hhi : a < mapBase + 0x10000000) : place a = .map (a - mapBase) := by
  have hhbm : ¬ a < 4 * stackSize := fun h => absurd (lt_of_le_of_lt hlo h) (by decide)
  exact (if_neg hhbm).trans (if_pos ⟨hlo, hhi⟩)

theorem place_mapRow {r : Nat} (h : r < 524288) : place (mapRow r) = .map (mapRow r - mapBase) :=
  place_of_map (Nat.le_add_right _ _) (Nat.add_lt_add_left (by omega) _)

/-- The mailbox path's read of a map-store row waits at the row's bank from the present M-cycle on. -/
theorem fabricRead_mailbox (s : State) {a : Nat} (tick : Nat) (h : place a = .map (a - mapBase)) :
    s.fabricRead 100 none a tick = s.setFab { s.fab with
      banks := upd s.fab.banks ⟨(a - mapBase) / 512 % 64, Nat.mod_lt _ (by decide)⟩ (· ++ [⟨100, none, a, none, mCycle s.time.ftb⟩]) } := by
  rw [← updNat_fin]
  unfold State.fabricRead
  rw [h]
  rfl

/-- The reads of a record's rows, as `State.takeSlot` makes them. -/
def State.readMailRows (s : State) (rows : List (Nat × Nat)) : State :=
  rows.foldl (fun s r => s.fabricRead 100 none r.1 (s.time.ftb / 10)) s

theorem readMailRows_only (rows : List (Nat × Nat)) (hmap : ∀ r ∈ rows, place r.1 = .map (r.1 - mapBase)) (s : State) :
    Only [.fab] s (s.readMailRows rows) := by
  induction rows generalizing s with
  | nil => exact Only.refl _ s
  | cons r rest ih =>
    have hhead : Only [.fab] s (s.fabricRead 100 none r.1 (s.time.ftb / 10)) := by
      rw [fabricRead_mailbox s _ (hmap r List.mem_cons_self)]
      exact setFab_only _ _
    exact hhead.step (ih (fun x hx => hmap x (List.mem_cons_of_mem _ hx)) _)

/-- Each bank gets the requests of the record's rows that lie in it, in the record's order. -/
theorem readMailRows_banks (rows : List (Nat × Nat)) (hmap : ∀ r ∈ rows, place r.1 = .map (r.1 - mapBase)) (s : State) (k : Fin 64) :
    (s.readMailRows rows).fab.banks[k] = s.fab.banks[k] ++ (rows.filter fun r => (r.1 - mapBase) / 512 % 64 == k.1).map fun r =>
      ⟨100, none, r.1, none, mCycle s.time.ftb⟩ := by
  induction rows generalizing s with
  | nil => exact (List.append_nil _).symm
  | cons r rest ih =>
    have hrest := ih (fun x hx => hmap x (List.mem_cons_of_mem _ hx)) (s.fabricRead 100 none r.1 (s.time.ftb / 10))
    rw [fabricRead_mailbox s _ (hmap r List.mem_cons_self)] at hrest
    have hfold : s.readMailRows (r :: rest) = (s.fabricRead 100 none r.1 (s.time.ftb / 10)).readMailRows rest := rfl
    rw [hfold, fabricRead_mailbox s _ (hmap r List.mem_cons_self), hrest]
    simp only [State.setFab_fab, State.setFab_time, upd_get, Fin.ext_iff]
    by_cases hk : (r.1 - mapBase) / 512 % 64 = k.1
    · simp [hk]
    · simp [hk]

/-! ## MAILBOX_OUT (R27, R441) -/

section
variable {s : State} {e : TtEntry} {i : Inst} {m : Fin 16}

/-- MAILBOX_OUT once it starts: the record takes a slot, or is discarded and the work is complete at once (log 42). -/
theorem mailboxOutEffect_eq (hs : Starts s i 7 e) (hm : e.unit = m.1) : mailboxOutEffect i s =
    if s.slotFree m then (s.startOf e i).takeSlot m i (s.job.placed e i) (e.arg i.inst) e.arg1
    else (((s.startOf e i).logAt (s.job.placed e i) 0x0A11 0 0 [(1, m.1), (8, i.frame)]).completeInst i).tryStop := by
  have hplaced : (s.startOf e i).job.placed e i = s.job.placed e i := by rw [startOf_job]; rfl
  rw [mailboxOutEffect, startInst_eq s i 7 e _ hs]
  simp only [hm, toFin?_val, slotFree_congr (startOf_app s e i), hplaced]

theorem mailboxOutEffect_overrun (hs : Starts s i 7 e) (hm : e.unit = m.1) (hstop : s.job.stopAt = none) (hfree : s.slotFree m = false) :
    mailboxOutEffect i s = ((s.startOf e i).logAt (s.job.placed e i) 0x0A11 0 0 [(1, m.1), (8, i.frame)]).completeInst i := by
  rw [mailboxOutEffect_eq hs hm, if_neg (by simp [hfree])]
  exact tryStop_of_none (show (s.startOf e i).job.stopAt = none by rw [startOf_job]; exact hstop)

end

/-- The slot taken: the rows are read, and the record follows those in the path. -/
theorem takeSlot_eq (s : State) (m : Fin 16) (i : Inst) (count row n : Nat) (rows : List (Nat × Nat))
    (hrows : rows = (List.range ((n + 511) / 512)).map fun j => (mapRow (row + j), 512 * j)) :
    s.takeSlot m i count row n = (s.readMailRows rows).setApp { (s.readMailRows rows).app with
      path := (s.readMailRows rows).app.path ++ [⟨m, s.nextSlot m, i, count, List.replicate n 0, rows⟩] } := by
  subst hrows
  rfl

/-- The rows of a record that ends within the map store are rows of it. -/
theorem place_recordRow {row n : Nat} (hend : row + n ≤ 524288) :
    ∀ r ∈ (List.range n).map (fun j => (mapRow (row + j), 512 * j)), place r.1 = .map (r.1 - mapBase) := by
  intro r hr
  obtain ⟨j, hj, rfl⟩ := List.mem_map.1 hr
  have hlt := List.mem_range.1 hj
  exact place_mapRow (by omega)

/-! ## MAILBOX_RECORD_WRITE (R441) -/

/-- Slot `r.slot` of the mailbox of record r. -/
def State.recordAddr (s : State) (r : ObRec) : Nat := (s.app.ob[r.box]).base.toNat + 4160 * r.slot

/-- The state once record r, the first of the path, has left it and is counted. -/
def State.countRecord (s : State) (r : ObRec) (rest : List ObRec) : State :=
  s.setApp { s.app with path := rest, ob := upd s.app.ob r.box fun b => { b with written := (s.app.ob[r.box]).written + 1 } }

/-- The memory with payload and header of record r where its slot answers (log 39). -/
def State.recordMem (s : State) (r : ObRec) : MemBlk :=
  if s.outerOk (s.recordAddr r) 4160 = true then
    (s.mem.storeOuter (s.recordAddr r + 64) r.payload).storeOuter (s.recordAddr r) (r.header ((s.app.ob[r.box]).written + 1).toNat)
  else s.mem

theorem recordWriteEffect_eq {s : State} {r : ObRec} {rest : List ObRec} (hp : s.app.path = r :: rest) (hr : r.rows = []) :
    recordWriteEffect s = ((s.countRecord r rest).setMem (s.recordMem r)).irqSource r.box.1 := by
  have hok : (s.countRecord r rest).outerOk (s.recordAddr r) 4160 = s.outerOk (s.recordAddr r) 4160 := rfl
  unfold recordWriteEffect
  rw [hp]
  simp only [hr, ne_eq, not_true_eq_false, if_false]
  refine congrArg (fun t : State => t.irqSource r.box.1) ?_
  unfold State.recordMem
  by_cases h : s.outerOk (s.recordAddr r) 4160 = true
  · rw [if_pos h]
    exact if_pos (hok.trans h)
  · rw [if_neg h]
    exact if_neg fun hout => h (hok.symm.trans hout)

/-! ## IB_SEND (R26, R442) -/

section
variable {s : State} {i : Fin 16} {v : W32} {j : Nat} {g : Region}

/-- A length out of range, or no armed job. -/
theorem ibSendEffect_error (hj : s.ibRegion i.1 = some j) (hg : s.regionList[j]? = some g)
    (h : s.job.state ≠ .armed ∨ bits v.toNat 12 0 = 0 ∨ 4096 < bits v.toNat 12 0 ∨ 512 * g.granule < bits v.toNat 12 0) :
    ibSendEffect i v s = s.updIb i fun b => { b with error := true } :=
  if_pos (by simpa [hj, hg, or_assoc] using h)

/-- A store within range goes on to the credits, and waits there without one or behind a store that waits. -/
theorem ibSendEffect_inRange (hj : s.ibRegion i.1 = some j) (hg : s.regionList[j]? = some g) (ha : s.job.state = .armed)
    (hpos : 0 < bits v.toNat 12 0) (hmax : bits v.toNat 12 0 ≤ 4096) (hfit : bits v.toNat 12 0 ≤ 512 * g.granule) :
    ibSendEffect i v s =
      if s.ibCredits i.1 = 0 || !(s.app.ib[i]).waiting.isEmpty then
        s.updIb i fun b => { b with waiting := b.waiting ++ [⟨bits v.toNat 12 0, s.time.ftb, false, s.time.ftb⟩] }
      else s.ibWrite i (bits v.toNat 12 0) :=
  if_neg (by simp [hj, hg, ha, Nat.ne_of_gt hpos, hmax, hfit])

/-- The oldest store that waits is written once a credit is held, or the job has stopped or is stopping (R436). -/
theorem ibSendCreditedEffect_oldest {w : IbWait} {rest : List IbWait} (hw : (s.app.ib[i]).waiting = w :: rest)
    (h : 0 < s.ibCredits i.1 ∨ s.job.state ≠ .armed ∨ s.job.stopping = true) : ibSendCreditedEffect i s =
      ((s.countWait mapBase w.counted).updIb i fun b => { b with waiting := rest }).ibWrite i w.bytes := by
  unfold ibSendCreditedEffect
  rw [hw]
  refine if_neg fun hstay => ?_
  simp only [Bool.and_eq_true, decide_eq_true_eq, beq_iff_eq, Bool.not_eq_true'] at hstay
  obtain ⟨⟨hnone, harmed⟩, hgoing⟩ := hstay
  obtain hc | hj | hstop := h
  · omega
  · exact hj harmed
  · exact Bool.false_ne_true (hgoing.symm.trans hstop)

end

theorem updIb_only (s : State) (i : Fin 16) (f : IbBox → IbBox) : Only [.app] s (s.updIb i f) := setApp_only _ _

/-! ## O24 -/

/-- Settles O24: each clause is the rule of its command, with the requests of a record's rows by induction over the rows. That
discarded work is complete at once is log 42, that a record for memory that does not answer is lost log 39, a request's M-cycle log 23. -/
theorem mailboxesCarryRecords : Obligations.MailboxesCarryRecords := by
  unfold Obligations.MailboxesCarryRecords
  refine ⟨?overrun, ?queued, ?recordWrite, ?sendError, ?send, ?credited⟩
  case overrun =>
    intro i e m s hs hm hstop hfree
    refine ⟨_, rfl, ?_⟩
    rw [mailboxOutEffect_overrun hs hm hstop hfree]
    refine ⟨newest_logAt (s.startOf e i) .., List.mem_cons_self, List.mem_cons_self, placed_le_startOf s e i, ?_⟩
    exact ((startOf_only s e i).mono (by simp)).step
      (((logAt_only _ _ _ _ _ _).mono (by simp)).step ((setJob_only _ _).mono (by simp)))
  case queued =>
    intro i e m rows s hs hm hfree hrows hend
    have hmap : ∀ r ∈ rows, place r.1 = .map (r.1 - mapBase) := hrows ▸ place_recordRow hend
    have hread := readMailRows_only rows hmap (s.startOf e i)
    have htime : ((s.startOf e i).readMailRows rows).time = (s.startOf e i).time := hread .time (by simp)
    have happ : ((s.startOf e i).readMailRows rows).app = s.app := (hread .app (by simp)).trans (startOf_app s e i)
    have hjob : ((s.startOf e i).readMailRows rows).job = s.job.start i := (hread .job (by simp)).trans (startOf_job s e i)
    refine ⟨_, rfl, ?_⟩
    rw [mailboxOutEffect_eq hs hm, if_pos hfree, takeSlot_eq _ m i _ _ _ rows hrows, happ, nextSlot_congr (startOf_app s e i)]
    refine ⟨rfl, fun k => ?_, ?_, ?_, ?_⟩
    · rw [State.setApp_fab, State.setApp_time, htime, readMailRows_banks rows hmap, startOf_fab]
    · rw [State.setApp_time, htime]
      exact placed_le_startOf s e i
    · rw [State.setApp_job, hjob]
      exact List.mem_cons_self
    · exact ((startOf_only s e i).mono (by simp)).step ((hread.mono (by simp)).step ((setApp_only _ _).mono (by simp)))
  case recordWrite =>
    intro r rest a s hp hr ha
    have hirq := irqSource_only ((s.countRecord r rest).setMem (s.recordMem r)) r.box.1
    have happ := hirq .app (by simp)
    have hmem := hirq .mem (by simp)
    refine ⟨_, rfl, ?_⟩
    rw [recordWriteEffect_eq hp hr]
    refine ⟨congrArg AppBlk.path happ, ?_, ?_, ?_⟩
    · have hob : (((s.countRecord r rest).setMem (s.recordMem r)).app.ob[r.box]).written = (s.app.ob[r.box]).written + 1 :=
        congrArg ObBox.written (upd_get_self _ r.box _)
      rw [happ, hob]
    · subst ha
      exact hmem
    · exact ((setApp_only _ _).mono (by simp)).step (((setMem_only _ _).mono (by simp)).step (hirq.mono (by simp)))
  case sendError =>
    intro i v j g s hj hg h
    refine ⟨_, rfl, ?_⟩
    rw [ibSendEffect_error hj hg h]
    exact ⟨rfl, updIb_only _ _ _⟩
  case send =>
    intro i v j g s hj hg ha hpos hmax hfit
    refine ⟨_, rfl, ?_⟩
    rw [ibSendEffect_inRange hj hg ha hpos hmax hfit]
    refine ⟨fun hcredit hnone => if_neg ?_, fun hwait => ?_⟩
    · simpa [Nat.ne_of_gt hcredit] using hnone
    · rw [if_pos (by simpa using hwait)]
      exact ⟨rfl, updIb_only _ _ _⟩
  case credited =>
    intro i w rest s hw h
    exact ⟨_, rfl, ibSendCreditedEffect_oldest hw h⟩

end Sys2Proof.Machine
end

section
/-! PROOFS. Start counts of frames and their anchors (R34, R37), and O7. -/
namespace Sys2Proof.Machine

/-- The start count is the least count n with m x 10^9 x den at most n x num: the ceiling of the quotient. -/
theorem frameStart_le_iff {num : Nat} (den m n : Nat) (h : 0 < num) :
    frameStart num den m ≤ n ↔ m * 10 ^ 9 * den ≤ n * num := by
  unfold frameStart
  rw [Nat.div_le_iff_le_mul h]
  simp only [Nat.reducePow]
  omega

/-- The epoch tick at or after a count is the least multiple of 10 that is no smaller. -/
theorem epochTick_le_iff (n a : Nat) (ha : a % 10 = 0) : epochTick n ≤ a ↔ n ≤ a := by
  unfold epochTick
  omega

theorem epochTick_mod (n : Nat) : epochTick n % 10 = 0 := Nat.mul_mod_left _ _

/-- Settles O7: both counts are least by their characterisations, at themselves and at any other count. -/
theorem framesStartAtTheirCounts : Obligations.FramesStartAtTheirCounts := by
  unfold Obligations.FramesStartAtTheirCounts
  refine ⟨fun num den m hnum => ⟨?_, fun n => (frameStart_le_iff den m n hnum).2, ?_⟩, fun j n => ⟨rfl, epochTick_mod _, ?_, ?_⟩⟩
  · exact (frameStart_le_iff den m _ hnum).1 le_rfl
  · exact Nat.le_zero.1 ((frameStart_le_iff den 0 0 hnum).2 (by simp))
  · exact (epochTick_le_iff _ _ (epochTick_mod _)).1 le_rfl
  · exact fun a ha => (epochTick_le_iff _ a ha).2

end Sys2Proof.Machine
end

section
/-! PROOFS. Rules shared by the proofs below: the one group that each setter changes, and completions of taken commands. -/
namespace Sys2Proof.Machine

section
variable (s : State)

theorem setTime_only (x : TimeBlk) : Only [.time] s (s.setTime x) := by
  intro g hg
  cases g with
  | time => exact absurd (List.mem_singleton_self _) hg
  | _ => rfl

theorem setNet_only (x : NetBlk) : Only [.net] s (s.setNet x) := by
  intro g hg
  cases g with
  | net => exact absurd (List.mem_singleton_self _) hg
  | _ => rfl

theorem setUr_only (x : UrBlk) : Only [.ur] s (s.setUr x) := by
  intro g hg
  cases g with
  | ur => exact absurd (List.mem_singleton_self _) hg
  | _ => rfl

theorem setHost_only (x : HostBlk) : Only [.host] s (s.setHost x) := by
  intro g hg
  cases g with
  | host => exact absurd (List.mem_singleton_self _) hg
  | _ => rfl

theorem setStamp_only (x : StampBlk) : Only [.stamp] s (s.setStamp x) := by
  intro g hg
  cases g with
  | stamp => exact absurd (List.mem_singleton_self _) hg
  | _ => rfl

theorem setLan_only (n : LnId) (f : Lantern → Lantern) : Only [.lan] s (s.setLan n f) := by
  intro g hg
  cases g with
  | lan => exact absurd (List.mem_singleton_self _) hg
  | _ => rfl

theorem setWick_only (n : WkId) (f : Wick → Wick) : Only [.wick] s (s.setWick n f) := by
  intro g hg
  cases g with
  | wick => exact absurd (List.mem_singleton_self _) hg
  | _ => rfl

theorem setEng_only (e : Fin 4) (f : Engine → Engine) : Only [.dma] s (s.setEng e f) := by
  intro g hg
  cases g with
  | dma => exact absurd (List.mem_singleton_self _) hg
  | _ => rfl

end

theorem le_reach (s : State) (n : Nat) : n ≤ (s.reach n).time.ftb := by
  rw [reach_ftb]
  exact le_max_right _ _

theorem Only.right {a c : List Grp} {s t u : State} (h1 : Only c s t) (h2 : Only a t u) (ha : a ⊆ c) : Only c s u := h1.step (h2.mono ha)

theorem Only.left {a c : List Grp} {s t u : State} (h1 : Only a s t) (h2 : Only c t u) (ha : a ⊆ c) : Only c s u := (h1.mono ha).step h2

end Sys2Proof.Machine
end

section
/-! PROOFS. The counts of a run's frames depend on its image, its first absolute frame and its first job frame alone (R34, R36, R57). -/
namespace Sys2Proof.Machine

/-- Two job states of one run. -/
def JobBlk.SameRun (j j' : JobBlk) : Prop := j'.image = j.image ∧ j'.frame0 = j.frame0 ∧ j'.base = j.base

section
variable {j j' : JobBlk}

theorem JobBlk.num_congr (h : j'.image = j.image) : j'.num = j.num := by rw [JobBlk.num, JobBlk.num, h]
theorem JobBlk.den_congr (h : j'.image = j.image) : j'.den = j.den := by rw [JobBlk.den, JobBlk.den, h]

theorem JobBlk.SameRun.frameF (h : j.SameRun j') (n : Nat) : j'.frameF n = j.frameF n := by
  obtain ⟨hi, hf, hb⟩ := h
  rw [JobBlk.frameF, JobBlk.frameF, JobBlk.absFrame, JobBlk.absFrame, num_congr hi, den_congr hi, hf, hb]

theorem JobBlk.SameRun.anchor (h : j.SameRun j') (n : Nat) : j'.anchor n = j.anchor n := congrArg epochTick (h.frameF n)

theorem JobBlk.SameRun.commitPoint (h : j.SameRun j') (n : Nat) : j'.commitPoint n = j.commitPoint n := congrArg (· - 100000) (h.anchor n)

theorem JobBlk.SameRun.frameAt (h : j.SameRun j') (ftb : Nat) : j'.frameAt ftb = j.frameAt ftb := by
  obtain ⟨hi, hf, hb⟩ := h
  simp only [JobBlk.frameAt, num_congr hi, den_congr hi, hf, hb]

theorem JobBlk.SameRun.nextCommit (h : j.SameRun j') (ftb : Nat) : j'.nextCommit ftb = j.nextCommit ftb := by
  have hdef : JobBlk.nextCommit = JobBlk.nextCommit := rfl
  conv at hdef => rhs; delta JobBlk.nextCommit
  simp only [hdef, h.frameAt, h.2.2]

theorem JobBlk.SameRun.placed (h : j.SameRun j') (e : TtEntry) (i : Inst) : j'.placed e i = j.placed e i := by
  rw [JobBlk.placed, JobBlk.placed, h.anchor, h.frameF]

end

end Sys2Proof.Machine
end

section
/-! PROOFS. ARM and STOP (R35, R36, R203, R436), and O18 from their rules. -/
namespace Sys2Proof.Machine

/-! ## Writes that wait for a credit (R436) -/

theorem writeVecRow_only (s : State) (w : WkId) (r : Nat) (mask : BitVec 16) (data : Row) (tag : Byte) (p : Bool) :
    Only [.mem] s (s.writeVecRow w r mask data tag p) := by
  unfold State.writeVecRow
  dsimp only
  split
  · exact setMem_only _ _
  · refine Only.foldl _ (fun t row => ?_) _ _
    split
    · exact Only.refl _ _
    · exact setMem_only _ _

/-- A write that is accepted reaches a row memory, or the queue of its bank. -/
theorem acceptWrite_only (s : State) (wr : RowWrite) : Only [.mem, .fab] s (s.acceptWrite wr) := by
  unfold State.acceptWrite
  split
  · exact (setFab_only _ _).mono (by simp)
  · split
    · exact (writeVecRow_only _ _ _ _ _ _ _).mono (by simp)
    · exact Only.refl _ _
  · exact (setMem_only _ _).mono (by simp)
  · exact Only.refl _ _

theorem acceptWrite_waits (s : State) (wr : RowWrite) : (s.acceptWrite wr).fab.waits = s.fab.waits := by
  unfold State.acceptWrite
  split
  · rfl
  · split
    · exact congrArg FabBlk.waits (writeVecRow_only s _ _ _ _ _ _ .fab (by simp))
    · rfl
  · rfl
  · rfl

theorem acceptAll_only (l : List CreditWait) (s : State) : Only [.mem, .fab] s (l.foldl (fun s c => s.acceptWrite c.write) s) := by
  refine Only.foldl _ (fun s c => ?_) l s
  exact acceptWrite_only s c.write

theorem countAll_only (l : List CreditWait) (s : State) : Only [.fab] s (l.foldl (fun s c => s.countWait c.write.addr c.counted) s) := by
  refine Only.foldl _ (fun s c => ?_) l s
  exact countWait_only s c.write.addr c.counted

theorem freeWaits_only (s : State) : Only [.mem, .fab] s s.freeWaits := by
  unfold State.freeWaits
  exact Only.left ((countAll_only s.fab.waits s).step (setFab_only _ _)) (acceptAll_only _ _) (by simp)

theorem acceptAll_waits (l : List CreditWait) (s : State) : (l.foldl (fun s c => s.acceptWrite c.write) s).fab.waits = s.fab.waits := by
  induction l generalizing s with
  | nil => rfl
  | cons c rest ih => exact (ih _).trans (acceptWrite_waits s c.write)

/-- Once the waits are freed none is left: no write that is accepted waits again. -/
theorem freeWaits_waits (s : State) : s.freeWaits.fab.waits = [] := by
  unfold State.freeWaits
  rw [acceptAll_waits, State.setFab_fab]

/-! ## The end of a job -/

theorem stopped_job (s : State) : s.stopped.job = s.job.halt := by
  unfold State.stopped
  dsimp only
  have key (c a : Nat) (t : State) (l : List HeldCmd) : (l.foldl (fun (s : State) h => s.completeHeld h c a 0) t).job = t.job :=
    Only.foldl _ (fun _ _ => completeHeld_only _ _ _ _ _) l t .job (by simp)
  rw [key, key]
  rfl

theorem stopped_only (s : State) : Only [.job, .hbm, .wick, .mem, .log, .host, .sad, .misc] s s.stopped := by
  unfold State.stopped
  dsimp only
  refine Only.right (Only.right ?_ (Only.foldl _ (fun _ _ => completeHeld_only _ _ _ _ _) _ _) (by simp))
    (Only.foldl _ (fun _ _ => completeHeld_only _ _ _ _ _) _ _) (by simp)
  intro g hg
  cases g with
  | job | hbm | wick => exact absurd (by simp) hg
  | _ => rfl

/-- The job goes on as it was, or it is STOPPED. -/
theorem tryStop_cases (s : State) : s.tryStop = s ∨ s.tryStop = s.stopped := by
  unfold State.tryStop
  split
  · split
    · exact Or.inr rfl
    · exact Or.inl rfl
  · exact Or.inl rfl

theorem tryStop_only (s : State) : Only [.job, .hbm, .wick, .mem, .log, .host, .sad, .misc] s s.tryStop := by
  obtain h | h := tryStop_cases s
  · rw [h]
    exact Only.refl _ s
  · rw [h]
    exact stopped_only s

/-! ## The start of a run (R36) -/

theorem armLink_only (s : State) (u : Fin 6) : Only [.ur, .log, .sad] s (s.armLink u) := by
  unfold State.armLink
  dsimp only
  have h : ∀ (p : Prop) [Decidable p] (t v : State), Only [.ur, .log, .sad] s t → Only [.log, .sad] t v →
      Only [.ur, .log, .sad] s (if p then v else t) := by
    intro p _ t v ht hv
    split
    · exact ht.right hv (by simp)
    · exact ht
  exact h _ _ _ (h _ _ _ ((setUr_only _ _).mono (by simp)) (logEv_only _ _ _ _ _)) (logEv_only _ _ _ _ _)

theorem joinGroups_only (s : State) : Only [.net, .misc] s s.joinGroups := by
  unfold State.joinGroups
  exact Only.left (setNet_only _ _) (Only.foldl _ (fun _ _ => (emit_only _ _).mono (by simp)) _ _) (by simp)

theorem startRun_job (s : State) (l base : Nat) : (s.startRun l base).job = { s.job.startRun l base with armedAt := s.time.ftb } := by
  unfold State.startRun
  dsimp only
  refine (joinGroups_only _ .job (by simp)).trans ?_
  exact Only.foldl _ armLink_only _ _ .job (by simp)


@[simp] theorem JobBlk.startRun_frame0 (j : JobBlk) (l base : Nat) : (j.startRun l base).frame0 = firstFrame j.num j.den l := rfl

/-! ## The commands -/

/-- ARM of a loaded and fully bound image with an acceptable launch count starts the run. -/
theorem armRun_accepted {s : State} {im : JobImage} (io : IoFail) (c : Taken) (hl : s.job.state = .loaded) (hi : s.job.image = some im)
    (hb : s.job.allBound im = true) (ho : s.launchOk (fld c.entry 8 8) = true) :
    (armRun io s c).job = { s.job.startRun (fld c.entry 8 8) 0 with armedAt := s.time.ftb } := by
  simp only [armRun, hl, hi, hb, ho, Bool.not_true, Bool.false_eq_true, if_false]
  rw [finish_job, logEv_only _ _ _ _ _ .job (by simp), State.setFab_job, startRun_job]

theorem armRun_late {s : State} {im : JobImage} (io : IoFail) (c : Taken) (hl : s.job.state = .loaded) (hi : s.job.image = some im)
    (hb : s.job.allBound im = true) (ho : s.launchOk (fld c.entry 8 8) = false) :
    armRun io s c = (s.launchLate (fld c.entry 8 8)).finish c 0x0B (fld c.entry 8 8) 0 io := by
  simp [armRun, hl, hi, hb, ho]

theorem sameRun_afterTake (s : State) (k : Fin 64) : s.job.SameRun (s.afterTake k).job := ⟨rfl, rfl, rfl⟩

theorem launchOk_afterTake (s : State) (k : Fin 64) (l : Nat) : (s.afterTake k).launchOk l = s.launchOk l := by
  simp only [State.launchOk, afterTake_time]

/-- STOP of an armed job is held until the anchor after the next commit point. -/
theorem stopRun_armed {s : State} (io : IoFail) (c : Taken) (h : s.job.state = .armed) : stopRun io s c =
    (s.setJob { s.job with stopAt := some (s.job.nextCommit s.time.ftb) }).setHost
      { s.host with held := s.host.held ++ [⟨7, c.ring, c.tag, c.ep, 0⟩] } := if_pos h

theorem stopRun_other {s : State} (io : IoFail) (c : Taken) (h : s.job.state ≠ .armed) : stopRun io s c = s.finish c 0 0 0 io := if_neg h

section
variable {s : State} {k : Fin 64} {io : IoFail}

theorem takeCommand_arm (h : Turn s k io 3 [(8, 8)]) : exec (.arm k io) s = .next (armRun io (s.afterTake k) (s.headCmd k)) :=
  congrArg Host.Outcome.next (takeCommand_eq s k io _ 3 _ _ h rfl)

theorem takeCommand_stop (h : Turn s k io 7 []) : exec (.stop k io) s = .next (stopRun io (s.afterTake k) (s.headCmd k)) :=
  congrArg Host.Outcome.next (takeCommand_eq s k io _ 7 _ _ h rfl)

end

/-- STOP takes effect at its anchor. -/
theorem stopAnchorEffect_eq {s : State} {n : Nat} (hn : s.job.stopAt = some n) (ha : s.job.state = .armed) (hs : s.job.stopping = false) :
    stopAnchorEffect s = (((s.reach (s.job.anchor n)).setJob { s.job with
      stopping := true
      completed := (s.reach (s.job.anchor n)).waitingReleases n ++ s.job.completed }).freeWaits).tryStop := by
  simp [stopAnchorEffect, hn, ha, hs]

/-! ## O18 -/

/-- Settles O18: each clause is the rule of its command; that RESULT0 of a STOP outside ARMED is 0 is the model's choice (log 54). -/
theorem armAndStopFollowTheImageStates : Obligations.ArmAndStopFollowTheImageStates := by
  unfold Obligations.ArmAndStopFollowTheImageStates
  refine ⟨?armed, ?late, ?stopArmed, ?stopOther, ?anchor⟩
  case armed =>
    intro k io im s ht hl hi hb ho
    refine ⟨_, takeCommand_arm ht, ?_⟩
    dsimp only
    rw [armRun_accepted (s := s.afterTake k) io (s.headCmd k) hl hi hb ((launchOk_afterTake s k _).trans ho), headCmd_entry]
    refine ⟨rfl, rfl, ?_, rfl, rfl, rfl, hi⟩
    rw [JobBlk.startRun_frame0, JobBlk.num_congr (sameRun_afterTake s k).1, JobBlk.den_congr (sameRun_afterTake s k).1]
  case late =>
    intro k io im s ht hl hi hb ho
    refine ⟨_, takeCommand_arm ht, ?_⟩
    rw [armRun_late (s := s.afterTake k) io (s.headCmd k) hl hi hb ((launchOk_afterTake s k _).trans ho), headCmd_entry]
    refine ⟨rfl, ?_⟩
    rw [finish_job]
    exact hl
  case stopArmed =>
    intro k io s ht ha
    refine ⟨_, takeCommand_stop ht, ?_⟩
    rw [stopRun_armed (s := s.afterTake k) io _ ha, (sameRun_afterTake s k).nextCommit, afterTake_time]
    exact ⟨rfl, afterTake_mem s k⟩
  case stopOther =>
    intro k io s ht ha
    exact ⟨_, takeCommand_stop ht, stopRun_other (s := s.afterTake k) io _ ha⟩
  case anchor =>
    intro n s hn ha hs
    refine ⟨_, rfl, ?_⟩
    rw [stopAnchorEffect_eq hn ha hs]
    generalize hu : (s.reach (s.job.anchor n)).setJob _ = u
    have htime : s.job.anchor n ≤ u.freeWaits.tryStop.time.ftb := by
      rw [tryStop_only u.freeWaits .time (by simp), freeWaits_only u .time (by simp), ← hu, State.setJob_time]
      exact le_reach s _
    have hwaits : u.freeWaits.tryStop.fab.waits = [] := by
      rw [tryStop_only u.freeWaits .fab (by simp)]
      exact freeWaits_waits u
    refine ⟨htime, hwaits, ?_⟩
    obtain h | h := tryStop_cases u.freeWaits
    · left
      rw [h, freeWaits_only u .job (by simp), ← hu, State.setJob_job]
    · right
      rw [h, stopped_job]
      rfl

end Sys2Proof.Machine
end

section
/-! PROOFS. Epochs: UPDATE_PARAMS and the commit points (R44–R46, R433–R435), and O21 from their rules. -/
namespace Sys2Proof.Machine

/-! ## What the end of an epoch changes -/

theorem endEpoch_only (s : State) (e : Epoch) (status r0 : Nat) :
    Only [.job, .mem, .log, .host, .sad, .misc] s (s.endEpoch e status r0) := by
  unfold State.endEpoch
  dsimp only
  split
  · exact Only.left (setJob_only _ _) ((completeHeld_only _ _ _ _ _).mono (by simp)) (by simp)
  · exact (setJob_only _ _).mono (by simp)

theorem logEpoch_only (s : State) (f c : Nat) (e : Epoch) : Only [.log, .sad] s (s.logEpoch f c e) := logAt_only _ _ _ _ _ _

theorem discard_only (s : State) (f c status : Nat) (e : Epoch) :
    Only [.job, .mem, .log, .host, .sad, .misc] s (s.discard f c status e) := by
  unfold State.discard
  exact Only.left (setJob_only _ _) (Only.left (logEpoch_only _ _ _ _) (endEpoch_only _ _ _ _) (by simp)) (by simp)

/-! ## UPDATE_PARAMS (R433, R434) -/

section
variable {s : State} {c : Taken} (io : IoFail)

theorem updateRun_noImage (h : s.job.state = .none) : updateRun io s c = s.finish c 9 (fld c.entry 0x10 8) (fld c.entry 0x18 4) io :=
  if_pos h

theorem updateRun_unknownBlock (h : s.job.state ≠ .none) (hb : s.job.blockOf (fld c.entry 0x1C 2) = none) :
    updateRun io s c = s.finish c 0x14 (fld c.entry 0x10 8) (fld c.entry 0x18 4) io := by
  simp [updateRun, epochOf, h, hb]

variable {b : EpochBlk}

theorem updateRun_wrongLength (h : s.job.state ≠ .none) (hb : s.job.blockOf (fld c.entry 0x1C 2) = some b)
    (hl : fld c.entry 0x20 4 ≠ b.size) : updateRun io s c = s.finish c 0x14 (fld c.entry 0x10 8) (fld c.entry 0x18 4) io := by
  simp [updateRun, epochOf, h, hb, hl]

theorem updateRun_full (h : s.job.state ≠ .none) (hb : s.job.blockOf (fld c.entry 0x1C 2) = some b) (hl : fld c.entry 0x20 4 = b.size)
    (hf : 256 ≤ s.job.epochs.length) : updateRun io s c = s.finish c 0x15 (fld c.entry 0x10 8) (fld c.entry 0x18 4) io := by
  simp [updateRun, epochOf, h, hb, hl, hf]

/-- The epoch joins the pending ones, and its command is held: no verified epoch for the same frame ranks above it. -/
theorem updateRun_queued (h : s.job.state ≠ .none) (hb : s.job.blockOf (fld c.entry 0x1C 2) = some b) (hl : fld c.entry 0x20 4 = b.size)
    (hf : s.job.epochs.length < 256)
    (hv : ∀ x v, s.job.shadowOf (fld c.entry 0x1C 2) = some (x, v) →
      ¬ (x.verified = true ∧ v.due = fld c.entry 0x10 8 ∧ fld c.entry 0x18 4 < v.seq)) :
    updateRun io s c = (s.setJob { s.job with epochs := s.job.epochs ++ [epochOf c s.job.nextOrder], nextOrder := s.job.nextOrder + 1 }).setHost
      { s.host with held := s.host.held ++ [⟨4, c.ring, c.tag, c.ep, s.job.nextOrder⟩] } := by
  simp only [updateRun, h, if_false]
  rw [show s.job.blockOf (epochOf c s.job.nextOrder).block = some b from hb]
  simp only [show (epochOf c s.job.nextOrder).length = b.size from hl, ne_eq, not_true_eq_false, if_false, Nat.not_le.2 hf]
  refine if_neg ?_
  split
  case h_1 x v hs =>
    simp only [Bool.and_eq_true, beq_iff_eq, decide_eq_true_eq, and_assoc]
    exact hv x v hs
  case h_2 => exact Bool.false_ne_true

theorem exec_updateParams {k : Fin 64} {io : IoFail} (h : Turn s k io 4 [(8, 0x16), (0x20, 8)]) :
    exec (.updateParams k io) s = .next (updateRun io (s.afterTake k) (s.headCmd k)) :=
  congrArg Host.Outcome.next (takeCommand_eq s k io _ 4 _ _ h rfl)

end

@[simp] theorem afterTake_held (s : State) (k : Fin 64) : (s.afterTake k).host.held = s.host.held := by
  simp only [State.afterTake, State.setJob_host, State.updRing, seeHbm_host]

/-! ## Commit points (R44–R47, R435) -/

/-- The epochs that C_n decides: those due by then that are not committed yet. -/
def JobBlk.dueAt (j : JobBlk) (n : Nat) : List Epoch := j.epochs.filter fun e => decide (e.due ≤ n) && !j.commits.any fun x => x.2 == e.order

/-- A STOP that takes effect by A_n, or the snapshot from which the run began, leaves nothing to decide at C_n (R58, R436). -/
def JobBlk.commitsNothing (j : JobBlk) (n : Nat) : Bool :=
  (match j.stopAt with | some k => decide (k ≤ n) | none => false) || (j.resumed && n == j.base)

theorem commitEffect_eq {s : State} {n : Nat} (ha : s.job.state = .armed) (hn : n = s.job.next) : commitEffect n s =
    if s.job.commitsNothing n then s.reach (s.job.commitPoint n)
    else (s.job.dueAt n).foldl (fun t e => t.decide_ n (s.job.commitPoint n) ((s.job.dueAt n).filter (s.job.complete? n)) e)
      (s.reach (s.job.commitPoint n)) := by
  unfold commitEffect
  rw [if_neg (by simp [ha, ← hn])]
  simp only [reach_job]
  rfl

section
variable {s : State} {n c : Nat} {wins : List Epoch} {e : Epoch}

theorem decide_complete (h : (wins.any fun w => w.order == e.order) = true) :
    s.decide_ n c wins e = s.setJob { s.job with commits := s.job.commits ++ [(e.block, e.order)] } := if_pos h

theorem decide_carry (h : e.carried = false) : s.decide_ n c [] e = (s.setJob { s.job with
    marks := s.job.marks ++ [e.target]
    epochs := s.job.epochs.map fun x => if x.order = e.order then { x with due := n + 1, carried := true } else x }).logEpoch c 0x0107 e := by
  simp [State.decide_, h]

theorem decide_carried (h : e.carried = true) : s.decide_ n c [] e = s.discard c 0x0108 0x12 e := by
  simp [State.decide_, h]

end

/-! ## O21 -/

/-- Settles O21: each clause is the rule of UPDATE_PARAMS or of the decision of one due epoch. -/
theorem epochsAreQueuedAndDecided : Obligations.EpochsAreQueuedAndDecided := by
  unfold Obligations.EpochsAreQueuedAndDecided
  refine ⟨fun k io s ht => ⟨?noImage, ?unknownBlock, ?wrongLength, ?full, ?queued⟩, ?resumed, ?decided⟩
  case noImage =>
    intro h
    refine ⟨_, exec_updateParams ht, updateRun_noImage (s := s.afterTake k) io h, ?_⟩
    rw [updateRun_noImage (s := s.afterTake k) io h]
    exact Only.left (afterTake_only s k) ((finish_only _ _ _ _ _ _).mono (by simp)) (by simp)
  case unknownBlock =>
    intro h hb
    exact ⟨_, exec_updateParams ht, updateRun_unknownBlock (s := s.afterTake k) io h hb⟩
  case wrongLength =>
    intro b h hb hl
    exact ⟨_, exec_updateParams ht, updateRun_wrongLength (s := s.afterTake k) io h hb hl⟩
  case full =>
    intro b h hb hl hf
    exact ⟨_, exec_updateParams ht, updateRun_full (s := s.afterTake k) io h hb hl hf⟩
  case queued =>
    intro b h hb hl hf hv
    refine ⟨_, exec_updateParams ht, ?_⟩
    rw [updateRun_queued (s := s.afterTake k) (c := s.headCmd k) io h hb hl hf hv]
    refine ⟨rfl, ?_, ?_⟩
    · rw [afterTake_held]
      rfl
    · exact (afterTake_only s k).step (((setJob_only _ _).mono (by simp)).step ((setHost_only _ _).mono (by simp)))
  case resumed =>
    intro n s ha hn hr hb
    refine ⟨_, rfl, ?_⟩
    rw [commitEffect_eq ha hn, if_pos (by simp [JobBlk.commitsNothing, hr, hb])]
  case decided =>
    intro n due s ha hn hstop hr hdue
    have hgo : s.job.commitsNothing n = false := by
      simpa [JobBlk.commitsNothing, hstop] using hr
    have heq : commitEffect n s = due.foldl (fun t e => t.decide_ n (s.job.commitPoint n) (due.filter (s.job.complete? n)) e)
        (s.reach (s.job.commitPoint n)) := by
      rw [commitEffect_eq ha hn, hgo, hdue]
      rfl
    have hreach := reach_only s (s.job.commitPoint n)
    refine ⟨fun h => ?_, fun e h hc => ?_, fun e h hc hcar => ?_, fun e h hc hcar => ?_⟩
    · refine ⟨_, rfl, ?_⟩
      rw [heq, h, List.foldl_nil]
      exact ⟨rfl, le_reach s _⟩
    · refine ⟨_, rfl, ?_⟩
      rw [heq, h, List.foldl_cons, List.foldl_nil, decide_complete (by simp [hc]), reach_job]
      exact ⟨State.setJob_job _ _, Only.left hreach ((setJob_only _ _).mono (by simp)) (by simp)⟩
    · refine ⟨_, rfl, ?_⟩
      rw [heq, h, List.foldl_cons, List.foldl_nil, List.filter_cons_of_neg (by simp [hc]), List.filter_nil, decide_carry hcar, reach_job]
      refine ⟨?_, newest_logAt _ _ _ _ _ _, ?_⟩
      · exact (logEpoch_only _ _ _ _ .job (by simp)).trans (State.setJob_job _ _)
      · exact Only.left hreach (((setJob_only _ _).mono (by simp)).step ((logEpoch_only _ _ _ _).mono (by simp))) (by simp)
    · refine ⟨_, rfl, ?_⟩
      rw [heq, h, List.foldl_cons, List.foldl_nil, List.filter_cons_of_neg (by simp [hc]), List.filter_nil, decide_carried hcar]
      exact ⟨rfl, Only.left hreach ((discard_only _ _ _ _ _).mono (by simp)) (by simp)⟩

end Sys2Proof.Machine
end

section
/-! PROOFS. Copying, checking and switching of epochs (R44, R46, R48, R110, R434, R479), and O22 from their rules. -/
namespace Sys2Proof.Machine

theorem withLan_only (s : State) (l : Vector Lantern 36) : Only [.lan] s { s with lan := l } := by
  intro g hg
  cases g with
  | lan => exact absurd (List.mem_singleton_self _) hg
  | _ => rfl

theorem withWick_only (s : State) (l : Vector Wick 52) : Only [.wick] s { s with wick := l } := by
  intro g hg
  cases g with
  | wick => exact absurd (List.mem_singleton_self _) hg
  | _ => rfl

/-! ## The switch of a block's copies (R44, R48) -/

theorem blockPhys_congr {s t : State} (hj : t.job.image = s.job.image) (hr : t.rel = s.rel) (b : EpochBlk) : t.blockPhys b = s.blockPhys b := by
  rw [State.blockPhys, State.blockPhys, hj, hr]

/-- The mark of a block in the remap of a Wick that holds it changes (R231). -/
def swapMark (id : Nat) (k : Wick) : Wick :=
  { k with swapped := if k.swapped.contains id then k.swapped.erase id else id :: k.swapped }

theorem foldl_setWick (f : Wick → Wick) (l : List WkId) (s : State) :
    l.foldl (fun (t : State) w => t.setWick w f) s = { s with wick := l.foldl (fun v w => upd v w f) s.wick } := by
  induction l generalizing s with
  | nil => rfl
  | cons w rest ih => exact ih (s.setWick w f)

theorem switchBlock_wicks {s : State} {b : EpochBlk} (h : b.kind ≠ 2) :
    s.switchBlock b = { s with wick := (s.blockPhys b).foldl (fun v w => upd v w (swapMark b.id)) s.wick } :=
  (if_neg h).trans (foldl_setWick (swapMark b.id) _ s)

theorem switchBlock_only (s : State) (b : EpochBlk) : Only [.lan, .wick] s (s.switchBlock b) := by
  by_cases h : b.kind = 2
  · unfold State.switchBlock
    rw [if_pos h]
    exact (withLan_only _ _).mono (by simp)
  · rw [switchBlock_wicks h]
    exact (withWick_only _ _).mono (by simp)

/-- What a switch makes of the Lanterns and Wicks depends on them, the image and the units that serve it alone. -/
theorem switchBlock_congr {s t : State} (hl : t.lan = s.lan) (hw : t.wick = s.wick) (hj : t.job = s.job) (hr : t.rel = s.rel) (b : EpochBlk) :
    (t.switchBlock b).lan = (s.switchBlock b).lan ∧ (t.switchBlock b).wick = (s.switchBlock b).wick := by
  by_cases h : b.kind = 2
  · simp only [State.switchBlock, if_pos h, hl, hw, and_self]
  · rw [switchBlock_wicks h, switchBlock_wicks h, blockPhys_congr (congrArg JobBlk.image hj) hr, hw]
    exact ⟨hl, rfl⟩

/-! ## Anchors (R44, R48, R479) -/

@[simp] theorem JobBlk.dropEpoch_front (j : JobBlk) (e : Epoch) : (j.dropEpoch e).front = j.front := rfl

theorem endEpoch_job (s : State) (e : Epoch) (status r0 : Nat) : (s.endEpoch e status r0).job = s.job.dropEpoch e := by
  unfold State.endEpoch
  dsimp only
  split
  · exact completeHeld_only _ _ _ _ _ .job (by simp)
  · rfl

/-- The frame's anchor has passed: the frame is current, and its record shows the parameters in force. -/
def State.anchored (s : State) (n : Nat) : State :=
  (s.setJob { s.job with current := some n, commits := [] }).setStamp { s.stamp with params := (n, s.stamp.paramsNow) :: s.stamp.params }

theorem anchored_job (s : State) (n : Nat) : (s.anchored n).job = { s.job with current := some n, commits := [] } := rfl
theorem anchored_stamp (s : State) (n : Nat) :
    (s.anchored n).stamp = { s.stamp with params := (n, s.stamp.paramsNow) :: s.stamp.params } := rfl

theorem anchored_only (s : State) (n : Nat) : Only [.job, .stamp] s (s.anchored n) :=
  Only.left (setJob_only _ _) ((setStamp_only _ _).mono (by simp)) (by simp)

theorem anchorEffect_eq {s : State} {n : Nat} (ha : s.job.state = .armed) (hn : n = s.job.next) :
    anchorEffect n s = (s.job.commits.foldl (fun t c => t.switchEpoch n c) (s.reach (s.job.anchor n))).anchored n := by
  unfold anchorEffect
  rw [if_neg (by simp [ha, ← hn])]
  simp only [reach_job]
  rfl

theorem switchEpoch_eq {s : State} {n : Nat} {b : EpochBlk} {x : ShadowSt} {v e : Epoch} (hb : s.job.blockOf b.id = some b)
    (hx : s.job.shadowOf b.id = some (x, v)) (he : (s.job.epochs.find? fun y => y.order == e.order) = some e) :
    s.switchEpoch n (b.id, e.order) = (((s.switchBlock b).setJob { s.job with
      front := (s.job.front.filter fun p => p.1 != b.id) ++ [(b.id, x.payload)] }).setStamp
        { s.stamp with digests := putDigest s.stamp.digests b.id (sha512 x.payload) }).endEpoch e 0 n := by
  have hstamp : (s.switchBlock b).stamp = s.stamp := switchBlock_only s b .stamp (by simp)
  simp only [State.switchEpoch, hb, hx, he, State.setJob_stamp, hstamp]

/-! ## The copy of a payload (R434) -/

section
variable {s : State} {block : Nat} {e : Epoch} {b : EpochBlk} (he : s.job.headOf block = some e) (hb : s.job.blockOf block = some b)
  (hc : (s.job.commits.any fun c => c.1 == block) = false)
include he hb hc

theorem stageEffect_unreadable (hm : mayCopy (s.job.shadowOf block) e = true) (ho : s.outerOk e.source e.length = false) :
    stageEffect block s = s.endEpoch e 0x11 e.target := by
  simp [stageEffect, he, hb, hc, hm, ho]

theorem stageEffect_first (hs : s.job.shadowOf block = none) (ho : s.outerOk e.source e.length = true) :
    stageEffect block s = ((s.seeHbm 0x82 e.source e.length).setJob { s.job with
      shadows := (s.job.shadows.filter fun x => x.block != block) ++ [⟨block, e.order, s.mem.bytes e.source e.length, false⟩] }).shadowWrite b
        (s.mem.bytes e.source e.length) := by
  have hjob : (s.seeHbm 0x82 e.source e.length).job = s.job := seeHbm_only s _ _ _ .job (by simp)
  have hmem : (s.seeHbm 0x82 e.source e.length).mem = s.mem := seeHbm_only s _ _ _ .mem (by simp)
  simp [stageEffect, he, hb, hc, hs, ho, mayCopy, State.outerRead, hjob, hmem]

end

/-- The shadow records of a channel set hold the payload's (R110). -/
def shadowRecords (b : EpochBlk) (l : List Byte) (n : Lantern) : Lantern :=
  { n with paramsSh := n.paramsSh.map fun p =>
      if b.fg ≤ p.1 ∧ p.1 < b.fg + b.size / 16 then (p.1, payloadChan l (p.1 - b.fg)) else p }

theorem shadowWrite_records (s : State) {b : EpochBlk} (l : List Byte) (h : b.kind = 2) :
    s.shadowWrite b l = { s with lan := s.lan.map (shadowRecords b l) } := if_pos h

/-! ## The check of a payload (R46, R110) -/

section
variable {s : State} {block : Nat} {x : ShadowSt} {e : Epoch} {b : EpochBlk} (hx : s.job.shadowOf block = some (x, e))
  (hb : s.job.blockOf block = some b) (hv : x.verified = false)
include hx hb hv

theorem payloadEffect_good (hc : crc32c x.payload = e.crc) (hp : payloadOk b x.payload = true) : payloadEffect block s =
    (s.sadLine 1).setJob { s.job with shadows := s.job.shadows.map fun y => if y.order = x.order then { y with verified := true } else y } := by
  simp only [payloadEffect, hx, hb, hv, hc, hp, and_self, if_true, Bool.false_eq_true, if_false]

theorem payloadEffect_bad (h : ¬ (crc32c x.payload = e.crc ∧ payloadOk b x.payload = true)) :
    payloadEffect block s = (s.sadLine 1).discard s.time.ftb 0x0108 0x12 e := by
  simp only [payloadEffect, hx, hb, hv, h, if_false, Bool.false_eq_true]

end

/-! ## O22 -/

/-- Settles O22: each clause is the rule of its command. That line 1 rises as a copy ends is the model's choice (log 85), and that the
payload is read as the copy starts (log 53). -/
theorem epochsAreCopiedCheckedAndSwitched : Obligations.EpochsAreCopiedCheckedAndSwitched := by
  unfold Obligations.EpochsAreCopiedCheckedAndSwitched
  refine ⟨fun n s ha hn => ⟨?quiet, ?switched⟩, ?copied, ?unreadable, ?verified, ?discarded⟩
  case quiet =>
    intro hc
    have hreach := reach_only s (s.job.anchor n)
    refine ⟨_, rfl, ?_⟩
    rw [anchorEffect_eq ha hn, hc, List.foldl_nil]
    refine ⟨?_, ?_, ?_, Only.left hreach ((anchored_only _ _).mono (by simp)) (by simp)⟩
    · rw [anchored_job, reach_job, ← hc]
    · rw [anchored_only _ n .time (by simp)]
      exact le_reach s _
    · rw [anchored_stamp, reach_stamp]
  case switched =>
    intro b x e v hc hb hx he
    generalize hu : s.reach (s.job.anchor n) = u
    have hreach : Only [.time, .mem, .log, .host, .misc] s u := hu ▸ reach_only s _
    have hjob : u.job = s.job := hreach .job (by simp)
    have hstamp : u.stamp = s.stamp := hreach .stamp (by simp)
    obtain ⟨hlan, hwick⟩ := switchBlock_congr (hreach .lan (by simp)) (hreach .wick (by simp)) hjob (hreach .rel (by simp)) b
    have heq := switchEpoch_eq (s := u) (n := n) (b := b) (x := x) (v := v) (e := e) (by rw [hjob]; exact hb) (by rw [hjob]; exact hx)
      (by rw [hjob]; exact he)
    generalize hw : ((u.switchBlock b).setJob { u.job with
      front := (u.job.front.filter fun p => p.1 != b.id) ++ [(b.id, x.payload)] }).setStamp
        { u.stamp with digests := putDigest u.stamp.digests b.id (sha512 x.payload) } = w at heq
    have hend := endEpoch_only w e 0 n
    have hanch := anchored_only (w.endEpoch e 0 n) n
    have honly : Only [.job, .stamp, .lan, .wick] u w := by
      rw [← hw]
      exact Only.left (switchBlock_only u b) (((setJob_only _ _).mono (by simp)).step ((setStamp_only _ _).mono (by simp))) (by simp)
    refine ⟨_, rfl, ?_⟩
    rw [anchorEffect_eq ha hn, hc, List.foldl_cons, List.foldl_nil, hu, heq]
    refine ⟨rfl, rfl, ?_, ?_, ?_, ?_, ?_⟩
    · rw [anchored_job, endEpoch_job, JobBlk.dropEpoch_front, ← hw, State.setStamp_job, State.setJob_job, hjob]
    · rw [anchored_stamp, hend .stamp (by simp), ← hw, State.setStamp_stamp, hstamp]
    · rw [hanch .lan (by simp), hend .lan (by simp), ← hlan, ← hw, State.setStamp_lan, State.setJob_lan]
    · rw [hanch .wick (by simp), hend .wick (by simp), ← hwick, ← hw, State.setStamp_wick, State.setJob_wick]
    · exact Only.left hreach (Only.left honly (Only.left hend (hanch.mono (by simp)) (by simp)) (by simp)) (by simp)
  case copied =>
    intro block e b s he hb hc hs ho hk
    have hsee := seeHbm_only s 0x82 e.source e.length
    have hlan : (s.seeHbm 0x82 e.source e.length).lan = s.lan := hsee .lan (by simp)
    refine ⟨_, rfl, ?_⟩
    rw [stageEffect_first he hb hc hs ho, shadowWrite_records _ _ hk]
    refine ⟨rfl, fun n => ?_, ?_⟩
    · simp only [State.setJob_lan, hlan, Fin.getElem_fin, Vector.getElem_map, shadowRecords, and_self]
    · exact Only.left hsee (Only.left (setJob_only _ _) ((withLan_only _ _).mono (by simp)) (by simp)) (by simp)
  case unreadable =>
    intro block e b s he hb hc hm ho
    exact ⟨_, rfl, stageEffect_unreadable he hb hc hm ho⟩
  case verified =>
    intro block x e b s hx hb hv hc hp
    exact ⟨_, rfl, payloadEffect_good hx hb hv hc hp⟩
  case discarded =>
    intro block x e b s hx hb hv h
    exact ⟨_, rfl, payloadEffect_bad hx hb hv h⟩

end Sys2Proof.Machine
end

section
/-! PROOFS. Crossings, and the writes that the credits of a region guard (R38–R40, R170–R174), and O25 from their rules. -/
namespace Sys2Proof.Machine

/-! ## The advance of the FTB -/

/-- As the FTB reaches a count nothing of the time block changes but the count and the pin of PPS_OUT. -/
theorem reach_time (s : State) (n : Nat) :
    (s.reach n).time = { s.time with ftb := max s.time.ftb n, pps := (s.reach n).time.pps } := by
  unfold State.reach
  split
  case isTrue h => rw [max_eq_left h]
  case isFalse h => simp only [drain_time, max_eq_right (Nat.le_of_not_le h)]

/-! ## Crossings (R38–R40) -/

theorem outsideLimits_congr {s t : State} (h : t.mgmt = s.mgmt) (src dst : Nat) : t.outsideLimits src dst = s.outsideLimits src dst := by
  simp only [State.outsideLimits, h]

section
variable {s : State} {src dst : Nat} {c : Crossing} {it : XItem} {rest : List XItem}
  (hc : (s.fab.cross.find? fun c => c.src == src && c.dst == dst) = some c) (hi : c.items = it :: rest)
include hc hi

/-- The items that entered up to the oldest one's interval are consumed at its epoch tick. -/
theorem crossingEffect_release {r : Bool} (h : r = true ∨ it.slipped = true ∨ s.outsideLimits src dst = false) :
    crossingEffect src dst r s = (s.reach (10 * (it.tick + 1))).setFab { s.fab with cross := s.fab.cross.map fun d =>
      if d.src == src && d.dst == dst then
        { d with items := d.items.drop (c.items.takeWhile fun x => decide (x.tick ≤ it.tick)).length
                 taken := d.taken ++ c.items.takeWhile fun x => decide (x.tick ≤ it.tick) } else d } := by
  unfold crossingEffect
  simp only [hc, hi, reach_fab, outsideLimits_congr (reach_mgmt s _)]
  exact if_pos (by simpa [or_assoc] using h)

/-- Outside the limits of R39 an item that has not slipped yet is consumed one tick later. -/
theorem crossingEffect_slip (hs : it.slipped = false) (ho : s.outsideLimits src dst = true) :
    crossingEffect src dst false s = (((s.reach (10 * (it.tick + 1))).setTime { (s.reach (10 * (it.tick + 1))).time with
        slipCount := satInc (s.reach (10 * (it.tick + 1))).time.slipCount }).setFab { s.fab with cross := s.fab.cross.map fun d =>
      if d.src == src && d.dst == dst then
        { d with items := d.items.map fun x => if x.tick = it.tick then { x with tick := x.tick + 1, slipped := true } else x } else d }).logEv
      0x0105 0 0 [(2, src + 256 * dst)] := by
  unfold crossingEffect
  simp only [hc, hi, reach_fab, outsideLimits_congr (reach_mgmt s _)]
  exact if_neg (by simp [hs, ho])

end

/-! ## Credits (R171) -/

theorem takeCredits_only (s : State) (i : Nat) (wr : RowWrite) : Only [.fab] s (s.takeCredits i wr).1 := by
  unfold State.takeCredits
  split
  · exact setFab_only _ _
  · exact Only.refl _ _

/-- Credits are taken from the regions alone: writes that wait or are held stay. -/
theorem takeCredits_waits (s : State) (i : Nat) (wr : RowWrite) :
    (s.takeCredits i wr).1.fab.waits = s.fab.waits ∧ (s.takeCredits i wr).1.fab.held = s.fab.held := by
  unfold State.takeCredits
  split
  · exact ⟨rfl, rfl⟩
  · exact ⟨rfl, rfl⟩

section
variable {s : State} {i : Nat} {wr : RowWrite} {g : Region} {r : RegionSt} (hg : s.regionList[i]? = some g) (hr : s.fab.regions[i]? = some r)
include hg hr

/-- The write may proceed where the credits held meet its need. -/
theorem takeCredits_ok : (s.takeCredits i wr).2 = decide (r.need g.granules (s.granuleOf i wr.addr) ≤ r.credits) := by
  simp only [State.takeCredits, hg, hr]

theorem takeCredits_region : (s.takeCredits i wr).1.fab.regions[i]? = some (r.take (r.need g.granules (s.granuleOf i wr.addr))) := by
  obtain ⟨hlt, hget⟩ := List.getElem?_eq_some_iff.1 hr
  simp only [State.takeCredits, hg, hr, State.setFab_fab, FabBlk.updRegion, FabBlk.rowsFresh, List.getElem?_map,
    List.getElem?_range hlt, Option.map_some, if_true, List.getD_eq_getElem?_getD, Option.getD_some]

end

/-! ## A write of the fabric (R170–R174) -/

/-- Rows of an ingress engine carry tag 0 (R124). -/
theorem ingressTag_eq (wr : RowWrite) : ingressTag wr = { wr with tag := if 92 ≤ wr.port ∧ wr.port < 96 then 0 else wr.tag } := by
  unfold ingressTag
  split <;> rfl

theorem execFabricRowWrite_eq {s : State} {wr : RowWrite} (eng : EngineUse) (hm : s.moving wr.addr = false)
    (hp : s.portWaits wr.addr 512 true = false) : exec (.fabricRowWrite wr eng) s =
      .next (if (s.fabricWrite (ingressTag wr) eng).2 then (s.fabricWrite (ingressTag wr) eng).1
        else (s.fabricWrite (ingressTag wr) eng).1.emit (.fabricError wr.port wr.addr)) :=
  congrArg Host.Outcome.next (if_neg (by simp [hm, hp]))

/-- No port and no lock stands before a Lantern's memory. -/
theorem portWaits_lan (s : State) {a n o : Nat} (len : Nat) (w : Bool) (h : place a = .lan n o) : s.portWaits a len w = false := by
  simp only [State.portWaits, h]

theorem memNo_lan {a n o : Nat} (h : place a = .lan n o) : ∃ m, memNo a = some m := by
  simp only [memNo, h, Option.some.injEq, exists_eq']

section
variable {s : State} {wr : RowWrite} {m : Nat} (eng : EngineUse) (hm : memNo wr.addr = some m) (ha : s.job.state = .armed)
  (hf : firmwareWrite wr = false)
include hm ha hf

theorem fabricWrite_refused (hw : s.mayWrite wr = false) : s.fabricWrite wr eng =
    (s.logEv 0x0404 (memUnit wr.addr).1 (memUnit wr.addr).2 [(1, m), (8, wr.addr), (1, wr.port)], false) := by
  simp [State.fabricWrite, hm, ha, hf, hw]

variable {i : Nat} (hw : s.mayWrite wr = true) (hs : s.job.stopping = false) (hi : s.regionAt wr.addr = some i) (hq : s.writerWaits wr = false)
include hw hs hi hq

/-- With its credits a write is presented to its memory; without, it takes those there are and waits (R171). -/
theorem fabricWrite_guarded : s.fabricWrite wr eng =
    (if (s.takeCredits i wr).2 then (s.takeCredits i wr).1.presentWrite wr eng
     else (s.takeCredits i wr).1.setFab { (s.takeCredits i wr).1.fab with
       waits := (s.takeCredits i wr).1.fab.waits ++ [⟨i, wr, (s.takeCredits i wr).1.time.ftb, false, (s.takeCredits i wr).1.time.ftb⟩] }, true) := by
  rcases htake : s.takeCredits i wr with ⟨t, ok⟩
  cases ok <;> simp [State.fabricWrite, hm, ha, hf, hw, hs, hi, hq, htake]

end

theorem acceptWrite_lan (s : State) {wr : RowWrite} {n o : Nat} (h : place wr.addr = .lan n o) :
    s.acceptWrite wr = s.writeRow wr.addr wr.mask wr.data wr.tag wr.poison := by
  simp only [State.acceptWrite, h]

/-- A collision with the engine holds the write (R163). -/
theorem presentWrite_held (s : State) (wr : RowWrite) {eng : EngineUse} (h : eng ≠ .none) : s.presentWrite wr eng =
    (s.setFab { s.fab with held := s.fab.held ++ [wr] }).updCtr ((memNo wr.addr).getD 0) fun c => { c with collision := satInc c.collision } := by
  cases eng with
  | none => exact absurd rfl h
  | read => rfl
  | write => rfl

/-! ## The end of a wait (R171, R173) -/

theorem acceptedAt_only (s : State) (wr : RowWrite) (t : Nat) : Only [.dma] s (s.acceptedAt wr t) := by
  unfold State.acceptedAt
  split
  · exact setEng_only _ _ _
  · exact Only.refl _ _

section
variable {s : State} {region : Nat} {c : CreditWait} (eng : EngineUse) (hn : s.fab.nextWait region = some c)
include hn

/-- A write to a unit under a move waits on. -/
theorem creditWaitEnd_moving (hm : s.moving c.write.addr = true) : creditWaitEndEffect region eng s = s := by
  simp [creditWaitEndEffect, hn, hm]

variable {n o : Nat} (hl : place c.write.addr = .lan n o) (hfree : s.freely = false) (hm : s.moving c.write.addr = false) {u : State}
include hl hfree hm

theorem creditWaitEnd_short (ht : s.takeCredits region c.write = (u, false)) : creditWaitEndEffect region eng s = u := by
  simp [creditWaitEndEffect, hn, hm, hfree, ht, portWaits_lan s 512 true hl]

/-- With its credits the write leaves the waits and is presented to its memory. -/
theorem creditWaitEnd_presented (ht : s.takeCredits region c.write = (u, true)) : creditWaitEndEffect region eng s =
    (((u.setFab { u.fab with waits := u.fab.waits.erase c }).countWait c.write.addr c.counted).presentWrite c.write eng).acceptedAt c.write
      (mCycle s.time.ftb) := by
  simp [creditWaitEndEffect, hn, hm, hfree, ht, portWaits_lan s 512 true hl]

end

/-! ## Stalls (R173) -/

section
variable {s : State} {region : Nat}

theorem creditStall_write {c : CreditWait} (h : (s.fab.waits.find? fun c => c.region == region && !c.logged) = some c) :
    creditStallEffect region s = ((s.reach (c.since + 1000000)).setFab { s.fab with
      waits := s.fab.waits.map fun d => if d == c then { d with logged := true } else d }).logStall region c.write.addr c.write.port := by
  simp only [creditStallEffect, h, reach_fab]

theorem creditStall_mailbox {i : Fin 16} {w : IbWait} (h : (s.fab.waits.find? fun c => c.region == region && !c.logged) = none)
    (hc : s.waitingChan region = none) (hw : s.waitingIb region = some (i, w)) :
    creditStallEffect region s = ((s.reach (w.since + 1000000)).updIb i fun b =>
      { b with waiting := b.waiting.map fun v => if v == w then { v with logged := true } else v }).logStall region mapBase 100 := by
  simp only [creditStallEffect, h, hc, hw]

end

theorem logStall_only (s : State) (region a port : Nat) : Only [.log, .sad] s (s.logStall region a port) := logEv_only _ _ _ _ _

theorem newest_logStall (s : State) (region a port : Nat) : (s.logStall region a port).newest =
    some ⟨(s.logStall region a port).time.ftb, 0x0403, (memUnit a).1, (memUnit a).2, detail [(1, (memNo a).getD 0), (4, region), (1, port)]⟩ := by
  rw [show (s.logStall region a port).time = s.time from logStall_only s region a port .time (by simp)]
  exact newest_logEv _ _ _ _ _

theorem memUnit_mapBase : memUnit mapBase = (9, 0) := rfl
theorem memNo_mapBase : memNo mapBase = some 160 := rfl

/-! ## O25 -/

/-- Settles O25: each clause is the rule of its command; the wait of a write follows from the credits it takes. -/
theorem crossingsReleaseAndCreditsGuard : Obligations.CrossingsReleaseAndCreditsGuard := by
  unfold Obligations.CrossingsReleaseAndCreditsGuard
  refine ⟨⟨?release, ?slip⟩, ?refused, ?short, ?written, ?waitWritten, ?waitHeld, ?waitOn, ?stall, ?stallMailbox⟩
  case release =>
    intro src dst r c it rest s hc hi h
    refine ⟨_, rfl, ?_⟩
    rw [crossingEffect_release hc hi h]
    refine ⟨?_, ?_, rfl, Only.left (reach_only s _) ((setFab_only _ _).mono (by simp)) (by simp)⟩
    · rw [State.setFab_time]
      exact le_reach s _
    · rw [State.setFab_time, reach_time]
  case slip =>
    intro src dst c it rest s hc hi hs ho
    refine ⟨_, rfl, ?_⟩
    rw [crossingEffect_slip hc hi hs ho]
    generalize hu : s.reach (10 * (it.tick + 1)) = u
    refine ⟨hu ▸ le_reach s _, ?_, newest_logEv _ _ _ _ _, rfl, ?_⟩
    · rw [logEv_only _ _ _ _ _ .time (by simp), State.setFab_time, State.setTime_time, ← hu, reach_time]
    · refine Only.left (hu ▸ reach_only s _) ?_ (by simp)
      exact Only.left (setTime_only _ _) (Only.left (setFab_only _ _) ((logEv_only _ _ _ _ _).mono (by simp)) (by simp)) (by simp)
  case refused =>
    intro wr m eng s hm hmov hport ha hf hw
    refine ⟨_, execFabricRowWrite_eq eng hmov hport, ?_⟩
    rw [ingressTag_eq, fabricWrite_refused (wr := { wr with tag := if 92 ≤ wr.port ∧ wr.port < 96 then 0 else wr.tag }) eng hm ha hf hw,
      if_neg Bool.false_ne_true]
    exact ⟨rfl, rfl, Only.left (logEv_only _ _ _ _ _) ((emit_only _ _).mono (by simp)) (by simp)⟩
  case short =>
    intro wr n o i eng g r s hl hmov ha hs hf hw hi hq hg hr hshort
    obtain ⟨m, hm⟩ := memNo_lan hl
    refine ⟨_, execFabricRowWrite_eq eng hmov (portWaits_lan s _ _ hl), ?_⟩
    rw [ingressTag_eq]
    generalize ht : ({ wr with tag := if 92 ≤ wr.port ∧ wr.port < 96 then 0 else wr.tag } : RowWrite) = v
    have haddr : v.addr = wr.addr := ht ▸ rfl
    have htime : (s.takeCredits i v).1.time = s.time := takeCredits_only s i v .time (by simp)
    have hwait : (s.takeCredits i v).2 = false := by
      rw [takeCredits_ok hg hr, haddr]
      simpa using hshort
    have hregion := takeCredits_region (wr := v) hg hr
    rw [fabricWrite_guarded (wr := v) (i := i) (m := m) eng (haddr ▸ hm) ha (ht ▸ hf) (ht ▸ hw) hs (haddr ▸ hi) (ht ▸ hq), hwait]
    simp only [Bool.false_eq_true, if_false, if_true, State.setFab_fab, htime]
    refine ⟨?_, ?_, (takeCredits_only s i v).step (setFab_only _ _)⟩
    · rw [(takeCredits_waits s i v).1]
    · rw [hregion, haddr, RegionSt.take, min_eq_right hshort.le, Nat.sub_self]
  case written =>
    intro wr n o i g r s hl hmov ha hs hf hw hi hq hg hr henough
    obtain ⟨m, hm⟩ := memNo_lan hl
    refine ⟨_, execFabricRowWrite_eq .none hmov (portWaits_lan s _ _ hl), ?_⟩
    rw [ingressTag_eq]
    generalize ht : ({ wr with tag := if 92 ≤ wr.port ∧ wr.port < 96 then 0 else wr.tag } : RowWrite) = v
    have haddr : v.addr = wr.addr := ht ▸ rfl
    have hmem : (s.takeCredits i v).1.mem = s.mem := takeCredits_only s i v .mem (by simp)
    have hgo : (s.takeCredits i v).2 = true := by
      rw [takeCredits_ok hg hr, haddr]
      simpa using henough
    have hregion := takeCredits_region (wr := v) hg hr
    rw [fabricWrite_guarded (wr := v) (i := i) (m := m) .none (haddr ▸ hm) ha (ht ▸ hf) (ht ▸ hw) hs (haddr ▸ hi) (ht ▸ hq), hgo]
    have hacc : (s.takeCredits i v).1.presentWrite v .none = _ := acceptWrite_lan (s.takeCredits i v).1 (wr := v) (haddr ▸ hl)
    simp only [if_true, hacc, State.writeRow, hmem, State.setMem_mem, State.setMem_fab]
    refine ⟨ht ▸ rfl, (takeCredits_waits s i v).1, ?_, ?_⟩
    · rw [hregion, haddr, RegionSt.take, min_eq_left henough]
    · exact Only.left (takeCredits_only s i v) ((setMem_only _ _).mono (by simp)) (by simp)
  case waitWritten =>
    intro region n o c u s hn hfree hmov ht hl
    have honly : Only [.fab] s u := by
      have h := takeCredits_only s region c.write
      rwa [ht] at h
    have hwaits : u.fab.waits = s.fab.waits := by
      have h := (takeCredits_waits s region c.write).1
      rwa [ht] at h
    refine ⟨_, rfl, ?_⟩
    dsimp only
    rw [creditWaitEnd_presented .none hn hl hfree hmov ht]
    generalize hv : (u.setFab { u.fab with waits := u.fab.waits.erase c }).countWait c.write.addr c.counted = v
    have huv : Only [.fab] u v := hv ▸ (setFab_only _ _).step (countWait_only _ _ _)
    have hacc := acceptedAt_only (v.presentWrite c.write .none) c.write (mCycle s.time.ftb)
    have hpres : v.presentWrite c.write .none = _ := acceptWrite_lan v hl
    have hmem : v.mem = s.mem := (huv .mem (by simp)).trans (honly .mem (by simp))
    refine ⟨?_, ?_, ?_, ?_⟩
    · rw [hacc .mem (by simp), hpres, State.writeRow, State.setMem_mem, hmem]
    · rw [hacc .fab (by simp), hpres, State.writeRow, State.setMem_fab, ← hv, ← hwaits]
      rfl
    · rw [hacc .fab (by simp), hpres, State.writeRow, State.setMem_fab, ← hv]
      rfl
    · refine Only.left honly (Only.left huv (Only.right ?_ hacc (by simp)) (by simp)) (by simp)
      rw [hpres]
      exact (setMem_only _ _).mono (by simp)
  case waitHeld =>
    intro region n o c eng u s hn hfree hmov ht hl heng
    have honly : Only [.fab] s u := by
      have h := takeCredits_only s region c.write
      rwa [ht] at h
    obtain ⟨hwaits, hheld⟩ : u.fab.waits = s.fab.waits ∧ u.fab.held = s.fab.held := by
      have h := takeCredits_waits s region c.write
      rwa [ht] at h
    refine ⟨_, rfl, ?_⟩
    dsimp only
    rw [creditWaitEnd_presented eng hn hl hfree hmov ht]
    generalize hv : (u.setFab { u.fab with waits := u.fab.waits.erase c }).countWait c.write.addr c.counted = v
    have huv : Only [.fab] u v := hv ▸ (setFab_only _ _).step (countWait_only _ _ _)
    have hacc := acceptedAt_only (v.presentWrite c.write eng) c.write (mCycle s.time.ftb)
    have hpres := presentWrite_held v c.write heng
    refine ⟨?_, ?_, ?_, ?_⟩
    · rw [hacc .fab (by simp), hpres, ← hheld, ← hv]
      rfl
    · rw [hacc .fab (by simp), hpres, ← hwaits, ← hv]
      rfl
    · rw [hacc .fab (by simp), hpres, ← hv]
      rfl
    · refine Only.left honly (Only.left huv (Only.right ?_ hacc (by simp)) (by simp)) (by simp)
      rw [hpres]
      exact ((setFab_only _ _).step (setFab_only _ _)).mono (by simp)
  case waitOn =>
    intro region n o c eng u s hn hfree hl
    refine ⟨fun hmov => ⟨_, rfl, creditWaitEnd_moving eng hn hmov⟩, fun hmov ht => ⟨_, rfl, creditWaitEnd_short eng hn hl hfree hmov ht, ?_⟩⟩
    have h := takeCredits_only s region c.write
    rw [ht] at h
    exact (creditWaitEnd_short eng hn hl hfree hmov ht).symm ▸ h
  case stall =>
    intro region c s h
    refine ⟨_, rfl, ?_⟩
    rw [creditStall_write h]
    have hle := le_reach s (c.since + 1000000)
    have honly := reach_only s (c.since + 1000000)
    generalize hu : s.reach (c.since + 1000000) = u at hle honly ⊢
    refine ⟨?_, ?_, newest_logStall _ _ _ _, ?_⟩
    · rw [logStall_only _ _ _ _ .time (by simp), State.setFab_time]
      exact hle
    · rw [logStall_only _ _ _ _ .fab (by simp), State.setFab_fab]
    exact Only.left honly (Only.left (setFab_only _ _) ((logStall_only _ _ _ _).mono (by simp)) (by simp)) (by simp)
  case stallMailbox =>
    intro region i w s h hc hw
    refine ⟨_, rfl, ?_⟩
    rw [creditStall_mailbox h hc hw]
    have hle := le_reach s (w.since + 1000000)
    have honly := reach_only s (w.since + 1000000)
    generalize hu : s.reach (w.since + 1000000) = u at hle honly ⊢
    have happ : u.app = s.app := honly .app (by simp)
    refine ⟨?_, ?_, ?_, ?_⟩
    · rw [logStall_only _ _ _ _ .time (by simp), State.updIb, State.setApp_time]
      exact hle
    · rw [logStall_only _ _ _ _ .app (by simp), State.updIb, State.setApp_app, upd_get_self, happ]
    · rw [newest_logStall, memUnit_mapBase, memNo_mapBase, Option.getD_some]
    · exact Only.left honly (Only.left (updIb_only _ _ _) ((logStall_only _ _ _ _).mono (by simp)) (by simp)) (by simp)

end Sys2Proof.Machine
end

section
/-! PROOFS. The checks of RRS packets (R369, R370, R373, R374), and O54 from their rules. -/
namespace Sys2Proof.Machine

/-! ## Stream slots -/

theorem setSlot_only (s : State) (k : Fin 32) (f : Stream → Stream) : Only [.net] s (s.setSlot k f) := setNet_only _ _

@[simp] theorem setSlot_same (s : State) (k : Fin 32) (f : Stream → Stream) : (s.setSlot k f).net.slots[k] = f s.net.slots[k] :=
  upd_get_self _ _ _

theorem setSlot_other (s : State) {k j : Fin 32} (f : Stream → Stream) (h : j ≠ k) : (s.setSlot k f).net.slots[j] = s.net.slots[j] :=
  upd_get_ne _ _ (Ne.symm h)

/-! ## What the count of SEQ leaves (R373) -/

section
variable (s : State) (k : Fin 32) (path : Bool) (seq : Nat)

theorem countSeq_only : Only [.net] s (s.countSeq k path seq) := setSlot_only _ _ _

theorem countSeq_assembly : ((s.countSeq k path seq).net.slots[k]).assembly = (s.net.slots[k]).assembly := by
  rw [State.countSeq, setSlot_same]

theorem countSeq_backlog : ((s.countSeq k path seq).net.slots[k]).backlog = (s.net.slots[k]).backlog := by
  rw [State.countSeq, setSlot_same]

theorem countSeq_packets : ((s.countSeq k path seq).net.slots[k]).ctr.pktA = (s.net.slots[k]).ctr.pktA ∧
    ((s.countSeq k path seq).net.slots[k]).ctr.pktB = (s.net.slots[k]).ctr.pktB := by
  rw [State.countSeq, setSlot_same]
  exact ⟨rfl, rfl⟩

end

/-! ## The checks of R369 in their order -/

/-- The checks from the third on, after SEQ has been counted. -/
def State.rrsPlaced (u : State) (k : Fin 32) (path : Bool) (p : List Byte) (b : StreamBind) : State :=
  if !b.geometry p then u.updCnt k fun c => { c with malformed := satInc c.malformed }
  else
    match u.job.rrsFrame u.time.ftb b.d (befld p 8 4) with
    | none => u.updCnt k fun c => { c with late := satInc c.late }
    | some n =>
      if u.isReleased k n (rrsRow p / b.stripeH) then u.updCnt k fun c => { c with late := satInc c.late }
      else if (((u.net.slots[k]).assemblyOf n (rrsRow p / b.stripeH)).fresh p).isEmpty then u.updCnt k fun c => { c with dup := satInc c.dup }
      else if !u.bufferFree b n (rrsRow p / b.stripeH) || (!((u.net.slots[k]).assembly.any fun a => a.frame == n && a.stripe == rrsRow p / b.stripeH) &&
          decide (16777216 < u.storeUsed b.portA + b.stripeBytes (rrsRow p / b.stripeH))) then u.backlog k b n (rrsRow p / b.stripeH)
      else u.accept k b path n p

/-- A packet on a path of an ingress stream of an armed job goes through the checks. -/
theorem rrsEffect_eq {s : State} {k : Fin 32} {path : Bool} {b : StreamBind} (h : RrsIn s k path b) (p : List Byte) :
    rrsEffect k path p s =
      if !rrsShape p then s.updCnt k fun c => { c with malformed := satInc c.malformed }
      else if !rrsCrc p then s.updCnt k fun c => { c with crc := satInc c.crc }
      else (s.countSeq k path (rrsSeq p)).rrsPlaced k path p b := by
  obtain ⟨hb, hdir, harmed, hpath⟩ := h
  unfold rrsEffect
  rw [hb]
  exact if_neg (by simpa [hdir, harmed] using hpath)

section
variable {u : State} {k : Fin 32} {path : Bool} {p : List Byte} {b : StreamBind}

theorem rrsPlaced_geometry (h : b.geometry p = false) :
    u.rrsPlaced k path p b = u.updCnt k fun c => { c with malformed := satInc c.malformed } := if_pos (by simp [h])

theorem rrsPlaced_frame (hg : b.geometry p = true) (hf : u.job.rrsFrame u.time.ftb b.d (befld p 8 4) = none) :
    u.rrsPlaced k path p b = u.updCnt k fun c => { c with late := satInc c.late } := by
  simp [State.rrsPlaced, hg, hf]

variable {n : Nat} (hg : b.geometry p = true) (hf : u.job.rrsFrame u.time.ftb b.d (befld p 8 4) = some n)
include hg hf

theorem rrsPlaced_released (hr : u.isReleased k n (rrsRow p / b.stripeH) = true) :
    u.rrsPlaced k path p b = u.updCnt k fun c => { c with late := satInc c.late } := by
  simp [State.rrsPlaced, hg, hf, hr]

variable (hr : u.isReleased k n (rrsRow p / b.stripeH) = false)
include hr

theorem rrsPlaced_duplicate (hd : ((u.net.slots[k]).assemblyOf n (rrsRow p / b.stripeH)).fresh p = []) :
    u.rrsPlaced k path p b = u.updCnt k fun c => { c with dup := satInc c.dup } := by
  simp [-Fin.getElem_fin, State.rrsPlaced, hg, hf, hr, hd]

variable (hd : ((u.net.slots[k]).assemblyOf n (rrsRow p / b.stripeH)).fresh p ≠ [])
include hd

theorem rrsPlaced_backlog (hb : u.bufferFree b n (rrsRow p / b.stripeH) = false) :
    u.rrsPlaced k path p b = u.backlog k b n (rrsRow p / b.stripeH) := by
  simp [-Fin.getElem_fin, State.rrsPlaced, hg, hf, hr, hd, hb]

theorem rrsPlaced_accepted (hb : u.bufferFree b n (rrsRow p / b.stripeH) = true)
    (hs : u.storeUsed b.portA + b.stripeBytes (rrsRow p / b.stripeH) ≤ 16777216) : u.rrsPlaced k path p b = u.accept k b path n p := by
  simp [-Fin.getElem_fin, State.rrsPlaced, hg, hf, hr, hd, hb, Nat.not_lt.2 hs]

end

/-! ## A packet whose buffer is not free (R43) -/

section
variable (u : State) (k : Fin 32) (b : StreamBind) (n stripe : Nat)

theorem backlog_once (h : (n, stripe) ∈ (u.net.slots[k]).backlog) : u.backlog k b n stripe =
    u.setSlot k fun t => { t with ctr := { t.ctr with late := satInc t.ctr.late } } := by
  simp only [State.backlog, List.contains_iff_mem, h, if_true]

theorem backlog_first (h : (n, stripe) ∉ (u.net.slots[k]).backlog) : u.backlog k b n stripe =
    (u.setSlot k fun t => { t with ctr := { t.ctr with late := satInc t.ctr.late }, backlog := (n, stripe) :: t.backlog }).logEv
      0x010C 5 b.portA [(1, k.1), (2, stripe), (8, n)] := by
  simp only [State.backlog, List.contains_iff_mem, h, if_false]

theorem backlog_only : Only [.net, .log, .sad] u (u.backlog k b n stripe) := by
  by_cases h : (n, stripe) ∈ (u.net.slots[k]).backlog
  · rw [backlog_once u k b n stripe h]
    exact (setSlot_only _ _ _).mono (by simp)
  · rw [backlog_first u k b n stripe h]
    exact Only.left (setSlot_only _ _ _) ((logEv_only _ _ _ _ _).mono (by simp)) (by simp)

/-- The packet counts as late, its stripe stands in the backlog, and its assembly stays. -/
theorem backlog_slot : ((u.backlog k b n stripe).net.slots[k]).ctr = { (u.net.slots[k]).ctr with late := satInc (u.net.slots[k]).ctr.late } ∧
    ((u.backlog k b n stripe).net.slots[k]).assembly = (u.net.slots[k]).assembly ∧
    (n, stripe) ∈ ((u.backlog k b n stripe).net.slots[k]).backlog := by
  by_cases h : (n, stripe) ∈ (u.net.slots[k]).backlog
  · rw [backlog_once u k b n stripe h, setSlot_same]
    exact ⟨rfl, rfl, h⟩
  · rw [backlog_first u k b n stripe h, logEv_only _ _ _ _ _ .net (by simp), setSlot_same]
    exact ⟨rfl, rfl, List.mem_cons_self⟩

end

/-! ## An accepted packet (R370, R393) -/

theorem delivered_ctr (t : Stream) (path : Bool) (now : Option Nat) : (t.delivered path now).ctr = t.ctr := by
  cases path <;> rfl

theorem accept_slot (u : State) (k : Fin 32) (b : StreamBind) (path : Bool) (n : Nat) (p : List Byte) :
    (((u.net.slots[k]).assemblyOf n (rrsRow p / b.stripeH)).add b.width p ∈ ((u.accept k b path n p).net.slots[k]).assembly) ∧
    ((u.accept k b path n p).net.slots[k]).ctr.pktA = (if path = true then (u.net.slots[k]).ctr.pktA else satInc (u.net.slots[k]).ctr.pktA) ∧
    ((u.accept k b path n p).net.slots[k]).ctr.pktB = (if path = true then satInc (u.net.slots[k]).ctr.pktB else (u.net.slots[k]).ctr.pktB) := by
  unfold State.accept
  rw [setSlot_same]
  simp only [delivered_ctr, List.mem_append, List.mem_singleton, or_true, and_self]

/-! ## O54 -/

/-- Settles O54: each clause is the rule of the first check of R369 that fails, or of an accepted packet. -/
theorem rrsPacketsPassTheirChecks : Obligations.RrsPacketsPassTheirChecks := by
  unfold Obligations.RrsPacketsPassTheirChecks
  refine ⟨?shape, ?crc, ?placed⟩
  case shape =>
    intro k path p b s h hs
    exact ⟨_, rfl, (rrsEffect_eq h p).trans (if_pos (by simp [hs]))⟩
  case crc =>
    intro k path p b s h hs hc
    exact ⟨_, rfl, (rrsEffect_eq h p).trans (by simp [hs, hc])⟩
  case placed =>
    intro k path p b u s h hs hc hu
    have heq : exec (.rrsPacket k path p) s = .next (u.rrsPlaced k path p b) := by
      refine congrArg Host.Outcome.next ((rrsEffect_eq h p).trans ?_)
      rw [hu]
      simp only [hs, hc, Bool.not_true, Bool.false_eq_true, if_false]
      rfl
    have honly : Only [.net] s u := hu ▸ countSeq_only s k path _
    have hjob : u.job = s.job := honly .job (by simp)
    have htime : u.time = s.time := honly .time (by simp)
    have hassembly : (u.net.slots[k]).assembly = (s.net.slots[k]).assembly := hu ▸ countSeq_assembly s k path _
    have hbacklog : (u.net.slots[k]).backlog = (s.net.slots[k]).backlog := hu ▸ countSeq_backlog s k path _
    obtain ⟨hpktA, hpktB⟩ : (u.net.slots[k]).ctr.pktA = (s.net.slots[k]).ctr.pktA ∧ (u.net.slots[k]).ctr.pktB = (s.net.slots[k]).ctr.pktB :=
      hu ▸ countSeq_packets s k path _
    rw [← hjob, ← htime]
    refine ⟨fun hg => ⟨_, heq, rrsPlaced_geometry hg⟩, fun hg hf => ⟨_, heq, rrsPlaced_frame hg hf⟩, fun n stripe hg hf hstripe => ?_⟩
    subst hstripe
    refine ⟨fun hr => ⟨_, heq, rrsPlaced_released hg hf hr⟩, fun hr hd => ⟨_, heq, rrsPlaced_duplicate hg hf hr hd⟩,
      fun hr hd hb => ⟨_, heq, ?_⟩, fun hr hd hb hstore => ⟨_, heq, ?_⟩⟩
    · obtain ⟨hctr, hasm, hmem⟩ := backlog_slot u k b n (befld p 12 2 / b.stripeH)
      rw [rrsPlaced_backlog hg hf hr hd hb]
      refine ⟨hctr, hasm.trans hassembly, hmem, Only.left honly (backlog_only _ _ _ _ _) (by simp), fun hnot => ?_, fun hin => ?_⟩
      · rw [← hbacklog] at hnot
        rw [rrsRow, backlog_first u k b n _ hnot, newest_logEv]
        rfl
      · rw [← hbacklog] at hin
        rw [rrsRow, backlog_once u k b n _ hin, setSlot_only _ _ _ .log (by simp)]
        exact honly .log (by simp)
    · obtain ⟨hasm, hA, hB⟩ := accept_slot u k b path n p
      rw [rrsPlaced_accepted hg hf hr hd hb hstore]
      refine ⟨?_, hA.trans (by rw [hpktA]), hB.trans (by rw [hpktB]), fun j hj => ?_, honly.step (setSlot_only _ _ _)⟩
      · rwa [Stream.assemblyOf, hassembly] at hasm
      · rw [State.accept, setSlot_other _ _ hj, hu, State.countSeq, setSlot_other _ _ hj]

end Sys2Proof.Machine
end

section
/-! PROOFS. Released stripes (R51, R52, R371, R375, R376, R475), and O55 from their rules. -/
namespace Sys2Proof.Machine

theorem setHbms_only (s : State) (h : Vector HbmCtl 4) : Only [.hbm] s { s with hbm := h } := by
  intro g hg
  cases g with
  | hbm => exact absurd (List.mem_singleton_self _) hg
  | _ => rfl

/-! ## Write requests that reach their controllers (R359) -/

section
variable (s : State) (st : Nat) (r : HbmReq)

theorem logMiss_only (pc recIx port : Nat) : Only [.hbm, .log, .sad] s (s.logMiss st pc recIx port) :=
  Only.left (setHbms_only _ _) ((logEv_only _ _ _ _ _).mono (by simp)) (by simp)

theorem hbmArrive_only : Only [.hbm, .log, .sad] s (s.hbmArrive st r) := by
  unfold State.hbmArrive
  dsimp only
  split
  · exact Only.left (setHbms_only _ _) (logMiss_only _ _ _ _ _) (by simp)
  · exact (setHbms_only _ _).mono (by simp)

/-- Nothing leaves the log of a request's arrival. -/
theorem hbmArrive_log {e : Event} (h : e ∈ s.log.all) : e ∈ (s.hbmArrive st r).log.all := by
  unfold State.hbmArrive
  dsimp only
  split
  · exact List.mem_cons_of_mem _ h
  · exact h

variable {s} in
/-- What an arrival makes of the controllers depends on them and the count alone. -/
theorem hbmArrive_congr {t : State} (hh : t.hbm = s.hbm) (ht : t.time = s.time) : (t.hbmArrive st r).hbm = (s.hbmArrive st r).hbm := by
  unfold State.hbmArrive
  simp only [hh, ht]
  split <;> rfl

end

section
variable (l : List (Nat × HbmReq))

theorem sendWrites_only (s : State) : Only [.hbm, .log, .sad] s (s.sendWrites l) := by
  refine Only.foldl _ (fun t p => ?_) l s
  exact hbmArrive_only t p.1 p.2

theorem sendWrites_log {s : State} {e : Event} (h : e ∈ s.log.all) : e ∈ (s.sendWrites l).log.all := by
  induction l generalizing s with
  | nil => exact h
  | cons p rest ih => exact ih (hbmArrive_log s p.1 p.2 h)

theorem sendWrites_congr {s t : State} (hh : t.hbm = s.hbm) (ht : t.time = s.time) : (t.sendWrites l).hbm = (s.sendWrites l).hbm := by
  induction l generalizing s t with
  | nil => exact hh
  | cons p rest ih =>
    have harrive (u : State) : (u.hbmArrive p.1 p.2).time = u.time := hbmArrive_only u p.1 p.2 .time (by simp)
    exact ih (hbmArrive_congr p.1 p.2 hh ht) (by rw [harrive, harrive, ht])

end

/-! ## A stripe's frame buffer (R376) -/

theorem bufferFree_congr {s t : State} (h : t.job = s.job) (b : StreamBind) (n k : Nat) : t.bufferFree b n k = s.bufferFree b n k := by
  simp only [State.bufferFree, State.releaseInst, State.done, State.entryOf, h]

/-! ## The contents of a released stripe (R51, R371) -/

section
variable (s : State) {b : StreamBind} {a : Assembly}

theorem stripeContents_complete (h : b.rowsOf a.stripe * (b.width / 8) ≤ a.groups.length) :
    (s.stripeContents b a).1 = a.bytes b ∧ (s.stripeContents b a).2.1 = 0 := by
  simp [State.stripeContents, Assembly.complete, h]

theorem stripeContents_filled (h : a.groups.length < b.rowsOf a.stripe * (b.width / 8)) (hf : a.frame = 0) :
    (s.stripeContents b a).1 = (List.replicate (b.stripeBytes a.stripe / 2) (leBytes 2 (b.fill % 4096))).flatten ∧
    (s.stripeContents b a).2.1 = 2 := by
  simp [State.stripeContents, Assembly.complete, Nat.not_le.2 h, hf, List.flatMap_def, List.map_const']

theorem stripeContents_substituted (h : a.groups.length < b.rowsOf a.stripe * (b.width / 8)) (hf : a.frame ≠ 0) :
    (s.stripeContents b a).1 = s.mem.bytes (b.stripeAddr ((a.frame - 1) % b.d) a.stripe) (b.stripeBytes a.stripe) ∧
    (s.stripeContents b a).2.1 = 1 := by
  simp [State.stripeContents, Assembly.complete, Nat.not_le.2 h, hf]

end

/-! ## The release (R52, R375, R475) -/

/-- The state in which the contents of a stripe have been read: those of the previous frame through the correction. -/
def State.afterContents (s : State) (b : StreamBind) (n k how len : Nat) : State :=
  if how = 1 then s.seeHbm (92 + b.portA) (b.stripeAddr ((n - 1) % b.d) k) len else s

/-- A substitution or a fill is logged (R52). -/
def State.logFormed (s : State) (slot : Fin 32) (b : StreamBind) (n k at_ how : Nat) : State :=
  if how = 0 then s else s.logAt at_ 0x0106 5 b.portA [(1, slot.1), (2, k), (8, n)]

/-- The stripe is fixed: it waits for its hash lane, and its release is recorded with the writes that wait for its buffer. -/
def State.fixStripe (s : State) (slot : Fin 32) (n k how : Nat) (l : List Byte) (kept : List (Nat × Nat × List (Nat × HbmReq))) : State :=
  (s.setStamp { s.stamp with waiting := s.stamp.waiting ++ [⟨slot.1, n, k, leafDigest slot.1 k l, leafTicks l.length⟩] }).setSlot slot fun t =>
    { t with released := t.released ++ [⟨n, k, how⟩], unwritten := t.unwritten ++ kept }

section
variable (s : State) (slot : Fin 32) (b : StreamBind) (n k at_ how : Nat) (l : List Byte) (kept : List (Nat × Nat × List (Nat × HbmReq)))

theorem afterContents_only : Only [.hbm, .log, .sad] s (s.afterContents b n k how l.length) := by
  unfold State.afterContents
  split
  · exact seeHbm_only _ _ _ _
  · exact Only.refl _ _

theorem logFormed_only : Only [.log, .sad] s (s.logFormed slot b n k at_ how) := by
  unfold State.logFormed
  split
  · exact Only.refl _ _
  · exact logAt_only _ _ _ _ _ _

theorem logFormed_log (h : how ≠ 0) :
    (⟨at_, 0x0106, 5, b.portA, detail [(1, slot.1), (2, k), (8, n)]⟩ : Event) ∈ (s.logFormed slot b n k at_ how).log.all := by
  rw [State.logFormed, if_neg h]
  exact List.mem_cons_self

theorem fixStripe_only : Only [.stamp, .net] s (s.fixStripe slot n k how l kept) :=
  Only.left (setStamp_only _ _) ((setSlot_only _ _ _).mono (by simp)) (by simp)

theorem fixStripe_waiting : (s.fixStripe slot n k how l kept).stamp.waiting =
    s.stamp.waiting ++ [⟨slot.1, n, k, leafDigest slot.1 k l, leafTicks l.length⟩] := rfl

theorem fixStripe_slot : (s.fixStripe slot n k how l kept).net.slots[slot] =
    { s.net.slots[slot] with released := (s.net.slots[slot]).released ++ [⟨n, k, how⟩], unwritten := (s.net.slots[slot]).unwritten ++ kept } :=
  setSlot_same _ _ _

variable {b s n k how l}

/-- A release fixes the stripe, and requests its writes where the buffer is free. -/
theorem releaseStripe_eq {bad : Nat → Bool} (hc : s.stripeContents b ((s.net.slots[slot]).assemblyOf n k) = (l, how, bad)) :
    s.releaseStripe slot b n k at_ =
      if s.bufferFree b n k then
        (((s.afterContents b n k how l.length).logFormed slot b n k at_ how).fixStripe slot n k how l []).sendWrites (s.stripeWrites b n k l bad)
      else ((s.afterContents b n k how l.length).logFormed slot b n k at_ how).fixStripe slot n k how l [(n, k, s.stripeWrites b n k l bad)] := by
  have hfree (x : StampBlk) : (((s.afterContents b n k how l.length).logFormed slot b n k at_ how).setStamp x).bufferFree b n k =
      s.bufferFree b n k := by
    refine bufferFree_congr ?_ b n k
    rw [State.setStamp_job, logFormed_only _ _ _ _ _ _ _ .job (by simp), afterContents_only s b n k how l .job (by simp)]
  unfold State.afterContents State.logFormed at hfree
  simp only [State.releaseStripe, State.afterContents, State.logFormed, State.fixStripe, hc, hfree]
  cases s.bufferFree b n k
  · rfl
  · simp only [if_true, List.append_nil]

end

/-! ## INGRESS_RELEASE (R371, R376) -/

section
variable {s : State} {i : Inst} {e : TtEntry} {k : Fin 32} {b : StreamBind}

/-- The first INGRESS_RELEASE of an entry's turn starts it and releases its stripe. -/
theorem ingressReleaseEffect_first (hs : Starts s i 0x10 e) (hk : e.unit = k.1) (hb : s.streamAt k = some b) (hd : b.dir = 0)
    (hn : s.job.started.contains i = false) :
    ingressReleaseEffect i s = (s.startOf e i).releaseStripe k b i.frame (e.arg i.inst) (s.job.placed e i) := by
  obtain ⟨he, hkind, hcan⟩ := hs
  have hplaced : (s.startOf e i).job.placed e i = s.job.placed e i := by
    rw [startOf_job]
    exact JobBlk.SameRun.placed ⟨rfl, rfl, rfl⟩ e i
  unfold ingressReleaseEffect
  simp only [he, hk, toFin?_val, Option.bind_some, hb, Option.map_some, hd, hn, Bool.false_eq_true, and_false, if_false, ne_eq,
    not_true_eq_false]
  rw [startInst_eq s i 0x10 e _ ⟨he, hkind, hcan⟩, hplaced]

/-- A later one writes what a release has kept. -/
theorem ingressReleaseEffect_later (he : s.entryOf i = some e) (hkind : e.kind = 0x10) (hk : e.unit = k.1) (hb : s.streamAt k = some b)
    (hd : b.dir = 0) (hn : s.job.started.contains i = true) :
    ingressReleaseEffect i s = s.writeHeld k b i.frame (e.arg i.inst) := by
  unfold ingressReleaseEffect
  simp only [he, hk, toFin?_val, Option.bind_some, hb, Option.map_some, hkind, hd, hn, and_self, if_true]

end

theorem writeHeld_free {s : State} {k : Fin 32} {b : StreamBind} {n stripe : Nat} {x : Nat × Nat × List (Nat × HbmReq)}
    (hx : ((s.net.slots[k]).unwritten.find? fun u => u.1 == n && u.2.1 == stripe) = some x) (hf : s.bufferFree b n stripe = true) :
    s.writeHeld k b n stripe = (s.setSlot k fun t => { t with
      unwritten := t.unwritten.filter fun y => !(y.1 == n && y.2.1 == stripe) }).sendWrites x.2.2 := by
  simp only [State.writeHeld, hx, hf, if_true]

/-! ## O55 -/

/-- Settles O55: a release and the writes it has kept follow their rules; that the fill code is cut to 12 bits is log 48. -/
theorem releasedStripesAreFixedHashedAndWritten : Obligations.ReleasedStripesAreFixedHashedAndWritten := by
  unfold Obligations.ReleasedStripesAreFixedHashedAndWritten
  refine ⟨?release, ?contents, ?kept⟩
  case release =>
    intro i e k b u v a l how bad s hs hk hb hd hn hu ha hc hv
    have hstart := startOf_only s e i
    rw [← hu] at hstart
    have hslots : u.net = s.net := hstart .net (by simp)
    have hstamp : u.stamp = s.stamp := hstart .stamp (by simp)
    have hjob : u.job = s.job.start i := hu ▸ startOf_job s e i
    have hv' : v = u.afterContents b i.frame (e.arg i.inst) how l.length := hv
    have huv : Only [.hbm, .log, .sad] u v := hv' ▸ afterContents_only u b i.frame (e.arg i.inst) how l
    have heq : exec (.ingressRelease i) s = .next (u.releaseStripe k b i.frame (e.arg i.inst) (s.job.placed e i)) :=
      congrArg Host.Outcome.next ((ingressReleaseEffect_first hs hk hb hd hn).trans (by rw [hu]))
    have hcu : u.stripeContents b ((u.net.slots[k]).assemblyOf i.frame (e.arg i.inst)) = (l, how, bad) := by
      rw [hslots, ← ha]
      exact hc
    refine ⟨_, heq, ?_⟩
    rw [releaseStripe_eq k (s.job.placed e i) hcu, ← hv']
    have hform := logFormed_only v k b i.frame (e.arg i.inst) (s.job.placed e i) how
    have hlogged := logFormed_log v k b i.frame (e.arg i.inst) (s.job.placed e i) how
    generalize v.logFormed k b i.frame (e.arg i.inst) (s.job.placed e i) how = w at hform hlogged ⊢
    have huw : Only [.hbm, .log, .sad] u w := huv.right hform (by simp)
    have hcommon (kept : List (Nat × Nat × List (Nat × HbmReq))) (x : State)
        (hx : Only [.hbm, .log, .sad] (w.fixStripe k i.frame (e.arg i.inst) how l kept) x) (hlog : ∀ y ∈ w.log.all, y ∈ x.log.all) :
        i ∈ x.job.started ∧ (x.net.slots[k]).released = (s.net.slots[k]).released ++ [⟨i.frame, e.arg i.inst, how⟩] ∧
        (x.net.slots[k]).unwritten = (s.net.slots[k]).unwritten ++ kept ∧
        x.stamp.waiting = s.stamp.waiting ++ [⟨k.1, i.frame, e.arg i.inst, leafDigest k.1 (e.arg i.inst) l, leafTicks l.length⟩] ∧
        (how ≠ 0 → (⟨s.job.placed e i, 0x0106, 5, b.portA, detail [(1, k.1), (2, e.arg i.inst), (8, i.frame)]⟩ : Event) ∈ x.log.all) ∧
        Only [.job, .net, .stamp, .hbm, .time, .mem, .log, .host, .misc, .sad] s x := by
      have hfix := fixStripe_only w k i.frame (e.arg i.inst) how l kept
      rw [hx .job (by simp), hfix .job (by simp), huw .job (by simp), hjob, hx .stamp (by simp), fixStripe_waiting, huw .stamp (by simp), hstamp,
        hx .net (by simp), fixStripe_slot, huw .net (by simp), hslots]
      refine ⟨List.mem_cons_self, rfl, rfl, rfl, fun h => hlog _ (hlogged h), ?_⟩
      exact Only.left hstart (Only.left huw (Only.left hfix (hx.mono (by simp)) (by simp)) (by simp)) (by simp)
    cases u.bufferFree b i.frame (e.arg i.inst) with
    | true =>
      have hsend := sendWrites_only (u.stripeWrites b i.frame (e.arg i.inst) l bad) (w.fixStripe k i.frame (e.arg i.inst) how l [])
      obtain ⟨hstarted, hreleased, hkept, hwait, hevent, honly⟩ := hcommon [] _ hsend fun y hy => sendWrites_log _ hy
      refine ⟨hstarted, hreleased, hwait, hevent, fun _ => ⟨?_, hkept.trans (List.append_nil _)⟩, fun h => absurd h Bool.false_ne_true.symm, honly⟩
      refine sendWrites_congr _ ?_ ?_
      · rw [fixStripe_only _ _ _ _ _ _ _ .hbm (by simp), hform .hbm (by simp)]
      · rw [fixStripe_only _ _ _ _ _ _ _ .time (by simp), hform .time (by simp)]
    | false =>
      obtain ⟨hstarted, hreleased, hkept, hwait, hevent, honly⟩ := hcommon
        [(i.frame, e.arg i.inst, u.stripeWrites b i.frame (e.arg i.inst) l bad)] _ (Only.refl _ _) fun y hy => hy
      refine ⟨hstarted, hreleased, hwait, hevent, fun h => absurd h Bool.false_ne_true, fun _ => ⟨?_, hkept⟩, honly⟩
      rw [if_neg Bool.false_ne_true, fixStripe_only _ _ _ _ _ _ _ .hbm (by simp), hform .hbm (by simp)]
  case contents =>
    intro b a s
    exact ⟨stripeContents_complete s, stripeContents_filled s, stripeContents_substituted s⟩
  case kept =>
    intro i e k b x s he hkind hk hb hd hn hx hf
    have heq : exec (.ingressRelease i) s = .next ((s.setSlot k fun t => { t with
        unwritten := t.unwritten.filter fun y => !(y.1 == i.frame && y.2.1 == e.arg i.inst) }).sendWrites x.2.2) :=
      congrArg Host.Outcome.next ((ingressReleaseEffect_later he hkind hk hb hd hn).trans (writeHeld_free hx hf))
    refine ⟨_, heq, ?_, ?_, ?_⟩
    · exact sendWrites_congr _ rfl rfl
    · rw [sendWrites_only _ _ .net (by simp), setSlot_same]
      intro hmem
      have hfound := List.find?_some hx
      have hgone := (List.mem_filter.1 hmem).2
      rw [Bool.not_eq_true'] at hgone
      exact Bool.false_ne_true (hgone.symm.trans hfound)
    · exact Only.left (setSlot_only _ _ _) ((sendWrites_only _ _).mono (by simp)) (by simp)

end Sys2Proof.Machine
end

section
/-! PROOFS. Egress rows and packets (R42, R378–R381, R384, R389), and O56 from their rules. -/
namespace Sys2Proof.Machine

/-! ## What the start of a timetable entry leaves (R41) -/

section
variable (j : JobBlk) (i : Inst)

theorem start_sameRun : j.SameRun (j.start i) := ⟨rfl, rfl, rfl⟩
@[simp] theorem start_image : (j.start i).image = j.image := rfl
@[simp] theorem start_base : (j.start i).base = j.base := rfl
@[simp] theorem start_completed : (j.start i).completed = j.completed := rfl
@[simp] theorem start_num : (j.start i).num = j.num := rfl
@[simp] theorem start_den : (j.start i).den = j.den := rfl
@[simp] theorem start_placed (e : TtEntry) (x : Inst) : (j.start i).placed e x = j.placed e x := (start_sameRun j i).placed e x

@[simp] theorem start_cancelled (e : TtEntry) (x : Inst) : (j.start i).cancelled e x = j.cancelled e x := by
  rw [JobBlk.cancelled, JobBlk.cancelled, start_placed, show (j.start i).anchor = j.anchor from funext (start_sameRun j i).anchor,
    show (j.start i).frameF = j.frameF from funext (start_sameRun j i).frameF]
  rfl

end

section
variable {s t : State} {i : Inst} (h : t.job = s.job.start i)
include h

/-- A start makes nothing complete. -/
theorem predDone_start (e : TtEntry) (x : Inst) : t.predDone e x = s.predDone e x := by
  simp only [State.predDone, State.done, State.entryOf, h, start_image, start_base, start_completed, start_cancelled]

theorem slotPackets_start (b : StreamBind) (e : TtEntry) (x : Inst) (at_ from_ : Nat) :
    t.slotPackets b e x at_ from_ = s.slotPackets b e x at_ from_ := by
  simp only [State.slotPackets, State.lastSlot, State.egressSlots, State.slotSpan, h, start_image, start_num, start_den, start_placed]

end

/-! ## EGRESS_SLOT (R42, R380, R481) -/

section
variable {s : State} {i : Inst} {e : TtEntry} {k : Fin 32} {b : StreamBind}

/-- The state as an egress slot's count comes. -/
def State.slotCome (s : State) (e : TtEntry) (i : Inst) : State := (s.reach (s.job.placed e i)).setJob (s.job.start i)

theorem slotCome_only (s : State) (e : TtEntry) (i : Inst) : Only [.job, .time, .mem, .log, .host, .misc] s (s.slotCome e i) :=
  Only.left (reach_only _ _) ((setJob_only _ _).mono (by simp)) (by simp)

theorem slotCome_job (s : State) (e : TtEntry) (i : Inst) : (s.slotCome e i).job = s.job.start i := rfl

theorem placed_le_slotCome (s : State) (e : TtEntry) (i : Inst) : s.job.placed e i ≤ (s.slotCome e i).time.ftb := by
  rw [State.slotCome, State.setJob_time]
  exact le_reach _ _

/-- The count of an ST 2110-40 packet, packets that are due, or rows that are late. -/
theorem egressSlotEffect_eq (he : s.entryOf i = some e) (hk : e.unit = k.1) (hb : s.streamAt k = some b) (hc : s.slotComes e i = true) :
    egressSlotEffect i s =
      if b.dir = 2 then (s.slotCome e i).setStamp { s.stamp with t40 := s.stamp.t40 ++ [(k.1, i.frame, s.job.placed e i)] }
      else if s.predDone e i && (s.net.slots[k]).lateRows.isEmpty then
        (s.slotCome e i).setSlot k fun x => { x with due := x.due ++ s.slotPackets b e i (s.job.placed e i) (s.job.placed e i) }
      else (s.slotCome e i).setSlot k fun x => { x with lateRows := x.lateRows ++ [i] } := by
  have hjob : ((s.reach (s.job.placed e i)).setJob (s.job.start i)).job = s.job.start i := State.setJob_job _ _
  unfold egressSlotEffect
  simp only [he, hk, toFin?_val, Option.bind_some, hb, Option.map_some, hc, Bool.not_true, Bool.false_eq_true, if_false, reach_job,
    predDone_start hjob, slotPackets_start hjob, State.setJob_net, reach_net, State.setJob_stamp, reach_stamp]
  rfl

end

/-! ## EGRESS_LATE_SEND (R42) -/

theorem egressLateEffect_eq {s : State} {k : Fin 32} {b : StreamBind} {i : Inst} {rest : List Inst} {e : TtEntry}
    (hl : (s.net.slots[k]).lateRows = i :: rest) (hb : s.streamAt k = some b) (he : s.entryOf i = some e) (hp : s.predDone e i = true)
    (now : Nat) (hnow : now = max s.time.ftb ((((s.net.slots[k]).due.getLast?).map (·.due)).getD 0)) : egressLateEffect k s =
    (s.setSlot k fun x => { x with lateRows := rest, due := x.due ++ s.slotPackets b e i (s.job.placed e i) now }).logAt (s.job.placed e i)
      0x010B 5 b.portA [(1, k.1), (4, now - s.job.placed e i), (8, i.frame)] := by
  subst hnow
  simp only [egressLateEffect, hl, hb, he, hp, if_true]

/-! ## EGRESS_PACKET (R380, R381, R384, R389) -/

section
variable (s : State) (port a n : Nat)

theorem readEgressRow_only : Only [.hbm, .log, .sad] s (s.readEgressRow port a n) := by
  refine Only.foldl _ (fun t r => ?_) _ _
  exact checkBlock_only t r (96 + port) (List.range 8)

end

theorem rowPoison_congr {s t : State} (h : t.mem = s.mem) (a n : Nat) : t.rowPoison a n = s.rowPoison a n := by
  simp only [State.rowPoison, h]

theorem videoPayload_congr {s t : State} (hm : t.mem = s.mem) (hj : t.job = s.job) (b : StreamBind) (d : Option Binding) (p : EgPkt) (seq : Nat) :
    t.videoPayload b d p seq = s.videoPayload b d p seq := by
  simp only [State.videoPayload, hm, hj]

section
variable (s : State) (k : Fin 32) (b : StreamBind) (at_ : Nat) (l : List Byte)

theorem updCnt_only (f : StCounters → StCounters) : Only [.net] s (s.updCnt k f) := setSlot_only _ _ _

theorem sendBoth_only : Only [.net, .misc] s (s.sendBoth k b at_ l) := by
  have hsend (t : State) (o : Out) (f : StCounters → StCounters) : Only [.net, .misc] t ((t.emit o).updCnt k f) :=
    Only.left (emit_only _ _) ((updCnt_only _ _ _).mono (by simp)) (by simp)
  unfold State.sendBoth
  dsimp only
  split
  · exact hsend _ _ _
  · exact (hsend _ _ _).step (hsend _ _ _)

/-- The payload leaves on path A, and then on path B where the stream has one. -/
theorem sendBoth_out : (s.sendBoth k b at_ l).misc.out =
    (if b.portB = 0xFF then []
     else [Out.packet b.portB ((s.bindingAt k.1).getD default).subB at_ (((s.bindingAt k.1).getD default).b.frame b.portB l)]) ++
      .packet b.portA ((s.bindingAt k.1).getD default).subA at_ (((s.bindingAt k.1).getD default).a.frame b.portA l) :: s.misc.out := by
  unfold State.sendBoth
  dsimp only
  split <;> rfl

/-- Of a slot only the counters of its paths change. -/
theorem sendBoth_slot : ∃ c : StCounters, c.pktA = satInc (s.net.slots[k]).ctr.pktA ∧
    (s.sendBoth k b at_ l).net.slots[k] = { s.net.slots[k] with ctr := c } := by
  unfold State.sendBoth
  dsimp only
  split
  · refine ⟨_, ?_, setSlot_same _ _ _⟩
    rfl
  · refine ⟨{ (s.net.slots[k]).ctr with pktA := satInc (s.net.slots[k]).ctr.pktA, pktB := satInc (s.net.slots[k]).ctr.pktB }, rfl, ?_⟩
    rw [State.updCnt, setSlot_same, State.emit_net, State.updCnt, setSlot_same, State.emit_net]

end

/-- The state as a packet leaves: its row has been read, where it is the row's first (log 49). -/
def State.rowRead (u : State) (b : StreamBind) (p : EgPkt) : State :=
  if p.idx = 0 then u.readEgressRow b.portA (b.rowAddr p.frame p.row) (b.pixBytes b.width) else u

theorem rowRead_only (u : State) (b : StreamBind) (p : EgPkt) : Only [.hbm, .log, .sad] u (u.rowRead b p) := by
  unfold State.rowRead
  split
  · exact readEgressRow_only _ _ _ _
  · exact Only.refl _ _

/-- The first poisoned row of a frame (R381). -/
def State.firstPoison (u : State) (k : Fin 32) (b : StreamBind) (p : EgPkt) : Bool :=
  u.rowPoison (b.rowAddr p.frame p.row) (b.pixBytes b.width) && !((u.net.slots[k]).poisoned.any fun q => q.1 == p.frame)

theorem firstPoison_congr {s t : State} (hm : t.mem = s.mem) (hn : t.net = s.net) (k : Fin 32) (b : StreamBind) (p : EgPkt) :
    t.firstPoison k b p = s.firstPoison k b p := by
  rw [State.firstPoison, State.firstPoison, rowPoison_congr hm, hn]

/-- The event of the first poisoned row. -/
def State.logPoison (u : State) (k : Fin 32) (b : StreamBind) (p : EgPkt) (first : Bool) : State :=
  if first then u.logEv 0x0803 5 b.portA [(1, k.1), (8, p.frame), (2, p.row)] else u

theorem logPoison_only (u : State) (k : Fin 32) (b : StreamBind) (p : EgPkt) (first : Bool) : Only [.log, .sad] u (u.logPoison k b p first) := by
  unfold State.logPoison
  split
  · exact logEv_only _ _ _ _ _
  · exact Only.refl _ _

/-- What a packet that has left at a count leaves of its slot. -/
def packetGone (p : EgPkt) (rest : List EgPkt) (at_ : Nat) (first : Bool) (t : Stream) : Stream :=
  { t with
    due := rest, rtpSeq := t.rtpSeq + 1, sentFrames := if p.last then t.sentFrames ++ [(p.frame, at_)] else t.sentFrames
    poisoned := if first then t.poisoned ++ [(p.frame, p.row)] else t.poisoned }

section
variable {s : State} {k : Fin 32} {b : StreamBind} {p : EgPkt} {rest : List EgPkt} {delay : Nat}
  (hd : (s.net.slots[k]).due = p :: rest) (hb : s.streamAt k = some b)
include hd hb

theorem egressPacketEffect_ahead (h : s.rrscAhead k b (max (p.due + delay) s.time.ftb) = true) : egressPacketEffect k delay s = s := by
  simp [-Fin.getElem_fin, egressPacketEffect, hd, hb, h]

/-- The packet leaves from the state in which its row has been read and its poison logged. -/
theorem egressPacketEffect_reads (hdelay : delay ≤ 1000) (h : s.rrscAhead k b (max (p.due + delay) s.time.ftb) = false) (u w v : State)
    (hu : u = s.reach (p.due + delay)) (hw : w = u.rowRead b p) (hv : v = w.logPoison k b p (w.firstPoison k b p)) :
    egressPacketEffect k delay s = (v.sendBoth k b (max (p.due + delay) u.time.ftb)
      (v.videoPayload b (v.bindingAt k.1) p (v.net.slots[k]).rtpSeq.toNat)).setSlot k
        (packetGone p rest (max (p.due + delay) u.time.ftb) (w.firstPoison k b p)) := by
  unfold egressPacketEffect
  rw [hd, hb]
  subst hv hw hu
  exact if_neg (by simp [h, hdelay])

theorem egressPacketEffect_leaves (hdelay : delay ≤ 1000) (h : s.rrscAhead k b (max (p.due + delay) s.time.ftb) = false) (u v : State)
    (hu : u = s.reach (p.due + delay)) (hv : v = (u.rowRead b p).logPoison k b p (u.firstPoison k b p)) :
    egressPacketEffect k delay s = (v.sendBoth k b (max (p.due + delay) s.time.ftb)
      (u.videoPayload b (s.bindingAt k.1) p (s.net.slots[k]).rtpSeq.toNat)).setSlot k
        (packetGone p rest (max (p.due + delay) s.time.ftb) (u.firstPoison k b p)) := by
  have hread := rowRead_only u b p
  have hfirst : (u.rowRead b p).firstPoison k b p = u.firstPoison k b p := firstPoison_congr (hread .mem (by simp)) (hread .net (by simp)) k b p
  have hlog := logPoison_only (u.rowRead b p) k b p (u.firstPoison k b p)
  rw [← hv] at hlog
  have huv : Only [.hbm, .log, .sad] u v := hread.right hlog (by simp)
  have hjob : v.job = s.job := (huv .job (by simp)).trans (hu ▸ reach_job s _)
  have hnet : v.net = s.net := (huv .net (by simp)).trans (hu ▸ reach_net s _)
  have hat : max (p.due + delay) u.time.ftb = max (p.due + delay) s.time.ftb := by
    rw [hu, reach_ftb]; omega
  rw [egressPacketEffect_reads hd hb hdelay h u _ v hu rfl (by rw [hfirst]; exact hv), hfirst, hat, hnet,
    videoPayload_congr (huv .mem (by simp)) (huv .job (by simp)), State.bindingAt, hjob]
  rfl

end

/-! ## O56 -/

/-- Settles O56: each clause is the rule of its command. That a packet carries its row as stored when it leaves, and that late rows follow
rows already due, is the model's choice (log 49). -/
theorem egressRowsLeaveInOrder : Obligations.EgressRowsLeaveInOrder := by
  unfold Obligations.EgressRowsLeaveInOrder
  refine ⟨?slot, ?late, ?leaves, ?ahead⟩
  case slot =>
    intro i e k b s he hk hb hc
    have hcome := slotCome_only s e i
    have hnet : (s.slotCome e i).net = s.net := hcome .net (by simp)
    have hstamp : (s.slotCome e i).stamp = s.stamp := hcome .stamp (by simp)
    have hle := placed_le_slotCome s e i
    have hjob := slotCome_job s e i
    refine ⟨_, rfl, ?_⟩
    rw [egressSlotEffect_eq he hk hb hc]
    generalize s.slotCome e i = u at hcome hnet hstamp hle hjob ⊢
    have hrows (f : Stream → Stream) (hdir : b.dir ≠ 2) : i ∈ (u.setSlot k f).job.started ∧ s.job.placed e i ≤ (u.setSlot k f).time.ftb ∧
        Only [.job, .net, .stamp, .time, .mem, .log, .host, .misc] s (u.setSlot k f) ∧
        (b.dir = 2 → (u.setSlot k f).stamp.t40 = s.stamp.t40 ++ [(k.1, i.frame, s.job.placed e i)] ∧ (u.setSlot k f).net = s.net) ∧
        (u.setSlot k f).stamp = s.stamp ∧ (∀ j : Fin 32, j ≠ k → (u.setSlot k f).net.slots[j] = s.net.slots[j]) := by
      have hset := setSlot_only u k f
      refine ⟨?_, ?_, Only.left hcome (hset.mono (by simp)) (by simp), fun h => absurd h hdir, ?_, fun j hj => ?_⟩
      · rw [hset .job (by simp), hjob]
        exact List.mem_cons_self
      · rw [hset .time (by simp)]
        exact hle
      · rw [hset .stamp (by simp), hstamp]
      · rw [setSlot_other _ _ hj, hnet]
    by_cases hdir : b.dir = 2
    · rw [if_pos hdir]
      refine ⟨?_, hle, Only.left hcome ((setStamp_only _ _).mono (by simp)) (by simp), fun _ => ⟨rfl, hnet⟩, fun h => absurd hdir h⟩
      rw [State.setStamp_job, hjob]
      exact List.mem_cons_self
    · rw [if_neg hdir]
      by_cases hready : s.predDone e i = true ∧ (s.net.slots[k]).lateRows = []
      · obtain ⟨hstarted, hat, honly, h40, hst, hother⟩ := hrows
          (fun x => { x with due := x.due ++ s.slotPackets b e i (s.job.placed e i) (s.job.placed e i) }) hdir
        rw [if_pos (by simpa using hready)]
        refine ⟨hstarted, hat, honly, h40, fun _ => ⟨hst, hother, fun _ => ?_, fun hnot => ?_⟩⟩
        · rw [setSlot_same, hnet]
          exact ⟨rfl, hready.2⟩
        · obtain hpred | hlate := hnot
          · exact absurd hready.1 (by simp [hpred])
          · exact absurd hready.2 hlate
      · obtain ⟨hstarted, hat, honly, h40, hst, hother⟩ := hrows (fun x => { x with lateRows := x.lateRows ++ [i] }) hdir
        rw [if_neg (by simpa using hready)]
        refine ⟨hstarted, hat, honly, h40, fun _ => ⟨hst, hother, fun h => absurd h hready, fun _ => ?_⟩⟩
        rw [setSlot_same, hnet]
        exact ⟨rfl, rfl⟩
  case late =>
    intro k b i e rest now s hl hb he hp hnow
    refine ⟨_, rfl, ?_⟩
    rw [egressLateEffect_eq hl hb he hp now hnow]
    have hlog (t : State) := logAt_only t (s.job.placed e i) 0x010B 5 b.portA [(1, k.1), (4, now - s.job.placed e i), (8, i.frame)]
    refine ⟨?_, ?_, newest_logAt _ _ _ _ _ _, Only.left (setSlot_only _ _ _) ((hlog _).mono (by simp)) (by simp)⟩
    · rw [hlog _ .net (by simp), setSlot_same]
    · rw [hlog _ .net (by simp), setSlot_same]
  case leaves =>
    intro k b p rest delay u s hd hb hdelay hahead hu
    have hreach := reach_only s (p.due + delay)
    have hle := le_reach s (p.due + delay)
    rw [← hu] at hreach hle
    have hread := rowRead_only u b p
    generalize hv : (u.rowRead b p).logPoison k b p (u.firstPoison k b p) = v
    have hlog := logPoison_only (u.rowRead b p) k b p (u.firstPoison k b p)
    rw [hv] at hlog
    have huv : Only [.hbm, .log, .sad] u v := hread.right hlog (by simp)
    have hvs : v.net = s.net := (huv .net (by simp)).trans (hreach .net (by simp))
    have hvjob : v.job = s.job := (huv .job (by simp)).trans (hreach .job (by simp))
    have hsend (l : List Byte) := sendBoth_only v k b (max (p.due + delay) s.time.ftb) l
    have hgone (t : State) := setSlot_only t k (packetGone p rest (max (p.due + delay) s.time.ftb) (u.firstPoison k b p))
    refine ⟨_, rfl, ?_⟩
    rw [egressPacketEffect_leaves hd hb hdelay hahead u v hu hv.symm]
    generalize hl : u.videoPayload b (s.bindingAt k.1) p (s.net.slots[k]).rtpSeq.toNat = l
    obtain ⟨c, hc, hslot⟩ := sendBoth_slot v k b (max (p.due + delay) s.time.ftb) l
    rw [hvs] at hc hslot
    rw [setSlot_same, hslot]
    refine ⟨rfl, rfl, ?_, hc, ?_, ?_, ?_, ?_⟩
    · rw [hgone _ .time (by simp), hsend l .time (by simp), huv .time (by simp)]
      exact hle
    · rw [packetGone]
      cases p.last <;> simp
    · exact Only.left hreach (Only.left huv (Only.left (hsend l) ((hgone _).mono (by simp)) (by simp)) (by simp)) (by simp)
    · intro d l' hd' hl'
      rw [hl', hd', hgone _ .misc (by simp), sendBoth_out, huv .misc (by simp), State.bindingAt, hvjob]
      rfl
    · intro hpoison hnone
      have hfirst : u.firstPoison k b p = true := by
        rw [State.firstPoison, hpoison, hreach .net (by simp)]
        simpa using hnone
      rw [packetGone, hfirst, if_pos rfl]
      refine ⟨?_, rfl⟩
      rw [hfirst] at hv hgone
      rw [State.newest, hgone _ .log (by simp), hsend l .log (by simp), hgone _ .time (by simp), hsend l .time (by simp), ← hv]
      exact newest_logEv _ _ _ _ _
  case ahead =>
    intro k b p rest delay s hd hb hahead
    exact ⟨_, rfl, egressPacketEffect_ahead hd hb hahead⟩

end Sys2Proof.Machine
end

section
/-! PROOFS. Memories read through their correction (R167, R232, R321): counters, poison, an event and a targeted test. -/
namespace Sys2Proof.Machine

theorem targetLn_only (s : State) (n : LnId) (line : Option (Bool × Nat)) : Only [.lan] s (s.targetLn n line) := by
  unfold State.targetLn
  split
  · exact Only.refl _ s
  · exact setLan_only s n _

theorem targetWk_only (s : State) (w : WkId) : Only [.wick] s (s.targetWk w) := by
  unfold State.targetWk
  split
  · exact Only.refl _ s
  · exact setWick_only s w _

theorem targetOwner_only (s : State) (a : Nat) : Only [.lan, .wick] s (s.targetOwner a) := by
  unfold State.targetOwner
  split
  · split
    · exact (targetLn_only s _ none).mono (by simp)
    · exact Only.refl _ s
  iterate 4
    split
    · exact (targetWk_only s _).mono (by simp)
    · exact Only.refl _ s
  exact Only.refl _ s

theorem updCtr_only (s : State) (m : Nat) (f : MemCtr → MemCtr) : Only [.fab] s (s.updCtr m f) := setFab_only s _

/-- An uncorrectable row: its memory and counter change, it is logged, and its owner is tested. -/
theorem rowError_only (s : State) (x : MemBlk) (m : Nat) (f : MemCtr → MemCtr) (code k n row : Nat) (d : List (Nat × Nat)) :
    Only [.mem, .fab, .log, .sad, .lan, .wick] s ((((s.setMem x).updCtr m f).logEv code k n d).targetOwner row) :=
  ((((setMem_only s x).mono (by simp)).right (updCtr_only _ m f) (by simp)).right (logEv_only _ code k n d) (by simp)).right
    (targetOwner_only _ row) (by simp)

theorem checkRow_only (s : State) (row : Nat) (secs : List Nat) : Only [.mem, .fab, .log, .sad, .lan, .wick] s (s.checkRow row secs) := by
  have hce (n m : Nat) (f : MemCtr → MemCtr) : Only [.mem, .fab, .log, .sad, .lan, .wick] s (if n = 0 then s else s.updCtr m f) := by
    split
    · exact Only.refl _ s
    · exact (updCtr_only s m f).mono (by simp)
  unfold State.checkRow
  extract_lets m e sb ce t u v
  have hv : Only [.mem, .fab, .log, .sad, .lan, .wick] s v := by
    have ht : Only [.mem, .fab, .log, .sad, .lan, .wick] s t := hce ce m _
    refine ht.step ?_
    clear_value t
    unfold v
    split
    · exact Only.refl _ t
    · exact rowError_only t _ m _ 0x0401 u.1 u.2 row _
  split
  · exact hv.step (rowError_only v _ m _ 0x0402 u.1 u.2 row _)
  · exact hv

theorem checkLine_only (s : State) (w : WkId) (off access : Nat) : Only [.wick, .log, .sad] s (s.checkLine w off access).1 := by
  unfold State.checkLine
  dsimp only
  split
  · exact (setWick_only s w _).mono (by simp)
  · split
    · exact (((setWick_only s w _).mono (by simp)).right (logEv_only _ _ _ _ _) (by simp)).right (targetWk_only _ w) (by simp)
    · exact Only.refl _ s

theorem checkElem_only (s : State) (w : WkId) (y : Bool) (elem reader : Nat) : Only [.wick, .log, .sad] s (s.checkElem w y elem reader).1 := by
  unfold State.checkElem
  extract_lets a e
  split
  · exact (setWick_only s w _).mono (by simp)
  · split
    · exact (((setWick_only s w _).mono (by simp)).right (logEv_only _ _ _ _ _) (by simp)).right (targetWk_only _ w) (by simp)
    · exact Only.refl _ s

theorem localRead_only (s : State) (w : WkId) (off n : Nat) : Only [.wick, .log, .sad] s (s.localRead w off n).1 := by
  unfold State.localRead
  split
  · exact List.foldlRecOn (motive := fun a : State × Bool => Only [.wick, .log, .sad] s a.1) _ _ (Only.refl _ s)
      fun a ha _ _ => ha.step (checkLine_only a.1 w _ 2)
  · exact List.foldlRecOn (motive := fun a : State × Bool => Only [.wick, .log, .sad] s a.1) _ _ (Only.refl _ s)
      fun a ha _ _ => ha.step (checkElem_only a.1 w _ _ 2)

/-- The memories that a snapshot records, read through their correction. -/
theorem snapReads_only (s : State) (im : JobImage) : Only [.mem, .fab, .log, .sad, .lan, .wick] s (s.snapReads im) := by
  unfold State.snapReads
  dsimp only
  refine Only.step (Only.foldl _ (fun t r => ?_) _ s) (Only.foldl _ (fun t w => ?_) _ _)
  · exact checkRow_only t r allSectors
  · exact (((localRead_only t w _ _).step (localRead_only _ w _ _)).step (localRead_only _ w _ _)).mono (by simp)

theorem outerRead_only (s : State) (a n : Nat) : Only [.hbm, .log, .sad] s (s.outerRead a n).1 := seeHbm_only s 0x82 a n

theorem outerRead_bytes (s : State) (a n : Nat) : (s.outerRead a n).2 = s.mem.bytes a n := by
  rw [State.outerRead, seeHbm_only _ _ _ _ .mem (by simp)]

theorem outerWrite_only (s : State) (a : Nat) (l : List Byte) : Only [.mem] s (s.outerWrite a l) := setMem_only s _

end Sys2Proof.Machine
end

section
/-! PROOFS. SNAPSHOT, its point, and RESUME (R56, R57, R203, R214, R215, R219), and O19 from their rules. -/
namespace Sys2Proof.Machine

/-! ## SNAPSHOT -/

section
variable {s : State} {im : JobImage} {io : IoFail} {c : Taken} {k : Fin 64}

theorem exec_snapshot (h : Turn s k io 5 [(8, 24)]) : exec (.snapshot k io) s = .next (snapshotRun io (s.afterTake k) (s.headCmd k)) :=
  congrArg Host.Outcome.next (takeCommand_eq s k io _ 5 _ _ h rfl)

theorem snapshotRun_queued (ha : s.job.state = .armed) (hi : s.job.image = some im) (hp : im.hasPoint = true)
    (hsize : im.snapSize ≤ fld c.entry 0x18 8) (hd : io.dest = false) (hok : s.outerOk (fld c.entry 0x10 8) im.snapSize = true) :
    snapshotRun io s c =
      (s.setJob { s.job with snap := some ⟨c.ring, c.tag, max (fld c.entry 8 8) (s.job.nextCommit s.time.ftb), fld c.entry 0x10 8⟩ }).setHost
        { s.host with held := s.host.held ++ [⟨5, c.ring, c.tag, c.ep, 0⟩] } := by
  simp only [snapshotRun, ha, hi, hp, hd, hok, Nat.not_lt.mpr hsize, Bool.not_true, Bool.or_self, Bool.false_eq_true, if_false]
  rfl

theorem snapshotRun_noSpace (ha : s.job.state = .armed) (hi : s.job.image = some im) (hp : im.hasPoint = true)
    (hsize : fld c.entry 0x18 8 < im.snapSize) : snapshotRun io s c = s.finish c 0x0F 0 im.snapSize io := by
  simp only [snapshotRun, ha, hi, hp, hsize, Bool.not_true, Bool.false_eq_true, if_false, if_true]

end

/-! ## The snapshot point -/

theorem takeSnapshot_job (s : State) (im : JobImage) (r : SnapReq) (point : Nat) : (s.takeSnapshot im r point).job = s.job.halt := by
  unfold State.takeSnapshot
  dsimp only
  generalize State.snapRecord _ im r.frame point = l
  have h : ((s.snapReads im).outerWrite r.dest l).job = s.job :=
    (outerWrite_only _ r.dest l .job (by simp)).trans (snapReads_only s im .job (by simp))
  rw [stopped_job]
  split
  · rw [completeHeld_only _ _ _ _ _ .job (by simp), logEv_only _ _ _ _ _ .job (by simp), h]
  · rw [logEv_only _ _ _ _ _ .job (by simp), h]

theorem takeSnapshot_time (s : State) (im : JobImage) (r : SnapReq) (point : Nat) : (s.takeSnapshot im r point).time = s.time := by
  unfold State.takeSnapshot
  dsimp only
  generalize State.snapRecord _ im r.frame point = l
  have h : ((s.snapReads im).outerWrite r.dest l).time = s.time :=
    (outerWrite_only _ r.dest l .time (by simp)).trans (snapReads_only s im .time (by simp))
  rw [stopped_only _ .time (by simp)]
  split
  · rw [completeHeld_only _ _ _ _ _ .time (by simp), logEv_only _ _ _ _ _ .time (by simp), h]
  · rw [logEv_only _ _ _ _ _ .time (by simp), h]

/-- A point before which all is done is reached: it starts and completes, and the snapshot is taken, the job goes on, or it stops. -/
theorem snapPointEffect_cases {s : State} {i : Inst} {e : TtEntry} {im : JobImage} (he : s.entryOf i = some e) (hi : s.job.image = some im)
    (hk : e.kind = 9) (hc : s.canStart e i = true)
    (hr : ((s.upTo (i.frame + 4)).all (fun p => !s.job.before p.1 p.2 e i || s.done p.2) && !s.job.moves.any fun m => m.endM != 0) = true)
    (hl : ∀ w : WkId, s.wick[w].taper.loader = none) (u : State)
    (hu : u = (s.reach (s.job.placed e i)).setJob (((s.reach (s.job.placed e i)).job.start i).complete i)) :
    (∃ r, snapPointEffect i s = u.takeSnapshot im r i.entry) ∨ snapPointEffect i s = u.tryStop := by
  have hidle : (s.wick.toList.any fun k => k.taper.loader.isSome) = false := by
    rw [List.any_eq_false]
    intro k hmem
    obtain ⟨w, hw, rfl⟩ := Vector.mem_iff_getElem.mp (Vector.mem_toList_iff.mp hmem)
    simpa using hl ⟨w, hw⟩
  simp only [snapPointEffect, he, hi, hk, hc, hr, hidle, ne_eq, not_true_eq_false, Bool.true_eq_false, Bool.false_eq_true, or_self, if_false]
  rw [← hu]
  split
  · split
    · exact Or.inl ⟨_, rfl⟩
    · exact Or.inr rfl
  · exact Or.inr rfl

/-! ## RESUME -/

/-- Nothing of a run's start changes: its state, first job frame and launch count. -/
def JobBlk.SameStart (j j' : JobBlk) : Prop := j'.state = j.state ∧ j'.base = j.base ∧ j'.launch = j.launch

theorem JobBlk.SameStart.refl (j : JobBlk) : j.SameStart j := ⟨rfl, rfl, rfl⟩

theorem JobBlk.SameStart.of_eq {j j' : JobBlk} (h : j' = j) : j.SameStart j' := h ▸ .refl j

theorem JobBlk.SameStart.trans {j j' j'' : JobBlk} (h : j.SameStart j') (h' : j'.SameStart j'') : j.SameStart j'' :=
  ⟨h'.1.trans h.1, h'.2.1.trans h.2.1, h'.2.2.trans h.2.2⟩

/-- A chunk restores memories, units and what the job has in progress, never the start of its run. -/
theorem putChunk_sameStart (s : State) (im : JobImage) (n : Nat) (c : Chunk) (b : List Byte) : s.job.SameStart (s.putChunk im n c b).job := by
  unfold State.putChunk
  split
  · split
    · exact .of_eq (State.setMem_job _ _)
    · exact .refl _
  · split
    · exact .of_eq (State.setLan_job _ _ _)
    · exact .refl _
  · split
    · exact .of_eq (State.setMem_job _ _)
    · exact .refl _
  · split
    · exact .of_eq (State.setWick_job _ _ _)
    · exact .refl _
  · exact .of_eq (State.setMem_job _ _)
  · exact .refl _
  · exact .of_eq (State.setFab_job _ _)
  · exact ⟨rfl, rfl, rfl⟩
  · exact List.foldlRecOn (motive := fun a : Nat × State => s.job.SameStart a.2.job) _ _ (.refl _) fun a ha _ _ => ha
  · exact ⟨rfl, rfl, rfl⟩
  · exact .refl _

theorem putChunks_sameStart (im : JobImage) (n : Nat) (b : List Byte) (l : List (Chunk × Nat)) (s : State) :
    s.job.SameStart (l.foldl (fun (s : State) c => s.putChunk im n c.1 (slice b c.2 c.1.size)) s).job :=
  List.foldlRecOn (motive := fun t => s.job.SameStart t.job) l _ (.refl _) fun t ht c _ => ht.trans (putChunk_sameStart t im n c.1 _)

theorem resumeFrom_stamp (s : State) (im : JobImage) (b : List Byte) (l : Nat) :
    (s.resumeFrom im b l).stamp.resumed = true ∧ (s.resumeFrom im b l).stamp.head = some (slice b 0x68 64) := by
  unfold State.resumeFrom
  dsimp only
  rw [State.setStamp_stamp]
  exact ⟨rfl, rfl⟩

/-- The run that RESUME arms starts at its launch count with the frame of the record. -/
theorem resumeFrom_start (s : State) (im : JobImage) (b : List Byte) (l : Nat) :
    (s.resumeFrom im b l).job.state = .armed ∧ (s.resumeFrom im b l).job.base = fld b 0x18 8 ∧ (s.resumeFrom im b l).job.launch = l := by
  unfold State.resumeFrom
  extract_lets n kept t f u v order
  have ht : t.job.state = .armed ∧ t.job.base = n ∧ t.job.launch = l := by
    have h : t.job = { (s.dropUnrecorded kept).job.startRun l n with armedAt := (s.dropUnrecorded kept).time.ftb } :=
      startRun_job (s.dropUnrecorded kept) l n
    rw [h]
    exact ⟨rfl, rfl, rfl⟩
  clear_value t
  obtain ⟨hstate, hbase, hlaunch⟩ : t.job.SameStart v.job := putChunks_sameStart im n b im.placedChunks u
  rw [State.setStamp_job, State.setJob_job]
  clear_value v
  exact ⟨hstate.trans ht.1, hbase.trans ht.2.1, hlaunch.trans ht.2.2⟩

section
variable {s : State} {im : JobImage} {io : IoFail} {c : Taken} {k : Fin 64}

theorem exec_resume (h : Turn s k io 6 [(8, 16)]) : exec (.resume k io) s = .next (resumeRun io (s.afterTake k) (s.headCmd k)) :=
  congrArg Host.Outcome.next (takeCommand_eq s k io _ 6 _ _ h rfl)

section
variable (hst : s.job.state = .loaded ∨ s.job.state = .stopped) (hi : s.job.image = some im) (hs : io.source = false)
  (hok : s.outerOk (fld c.entry 8 8) 256 = true)
include hst hi hs hok

theorem resumeRun_badHead (hh : (s.mem.bytes (fld c.entry 8 8) 256).take 8 ≠ ascii "RQ9SNAPS" ∨ fld (s.mem.bytes (fld c.entry 8 8) 256) 8 2 ≠ 1) :
    resumeRun io s c = (s.logEv 0x0E23 7 s.firmwarePair [(1, 0x0C), (4, 0)]).finish c 0x0C (fld c.entry 0x10 8) 0 io := by
  obtain h | h := hst <;> simp only [resumeRun, h, hi, hs, hok, hh, Bool.not_true, Bool.or_self, Bool.false_eq_true, if_false, if_true]

variable (hm : (s.mem.bytes (fld c.entry 8 8) 256).take 8 = ascii "RQ9SNAPS") (hv : fld (s.mem.bytes (fld c.entry 8 8) 256) 8 2 = 1)
  (hok' : s.outerOk (fld c.entry 8 8) (fld (s.mem.bytes (fld c.entry 8 8) 256) 0x10 8) = true)
  {u : State} {b : List Byte} (hub : (u, b) = s.outerRead (fld c.entry 8 8) (fld (s.mem.bytes (fld c.entry 8 8) 256) 0x10 8))
include hm hv hok' hub

theorem resumeRun_refused {st n : Nat} (hc : resumeCheck u im b = some (st, n)) :
    resumeRun io s c = (u.logEv 0x0E23 7 u.firmwarePair [(1, st), (4, n)]).finish c st (fld c.entry 0x10 8) n io := by
  obtain h | h := hst <;> simp only [resumeRun, h, hi, hs, hok, hm, hv, hok', ← hub, hc, ne_eq, not_true_eq_false, or_self, Bool.not_true,
    Bool.or_self, Bool.false_eq_true, if_false]

theorem resumeRun_accepted (hc : resumeCheck u im b = none) (hb : u.job.allBound im = true) (ho : u.launchOk (fld c.entry 0x10 8) = true) :
    resumeRun io s c = ((u.resumeFrom im b (fld c.entry 0x10 8)).logEv 0x010E 0 0 [(8, fld b 0x18 8), (8, fld c.entry 0x10 8)]).finish c 0
      (fld c.entry 0x10 8) 0 io := by
  obtain h | h := hst <;> simp only [resumeRun, h, hi, hs, hok, hm, hv, hok', ← hub, hc, hb, ho, ne_eq, not_true_eq_false, or_self, Bool.not_true,
    Bool.or_self, Bool.false_eq_true, if_false]

end

end

theorem resumeCheck_congr {s t : State} (h : t.rel = s.rel) (im : JobImage) (b : List Byte) : resumeCheck t im b = resumeCheck s im b := by
  have hu : t.unitsOk im.hdr = s.unitsOk im.hdr := by simp only [State.unitsOk, h]
  unfold resumeCheck
  rw [hu]

theorem length_bytes (m : MemBlk) (a n : Nat) : (m.bytes a n).length = n := by simp [MemBlk.bytes, Sparse.read]

theorem take_bytes (m : MemBlk) (a n k : Nat) : (m.bytes a n).take k = m.bytes a (min k n) := by
  simp [MemBlk.bytes, Sparse.read, ← List.map_take, List.take_range]

theorem fld_take (l : List Byte) {o n k : Nat} (h : o + n ≤ k) : fld (l.take k) o n = fld l o n := by
  simp only [fld, slice, List.drop_take, List.take_take]
  congr 2
  omega

/-- A record that passes its checks has at least its trailer, and its first bytes are the magic and the version. -/
theorem head_of_resumeCheck {s : State} {im : JobImage} {m : MemBlk} {a n : Nat} (h : resumeCheck s im (m.bytes a n) = none) :
    (m.bytes a 256).take 8 = ascii "RQ9SNAPS" ∧ fld (m.bytes a 256) 8 2 = 1 := by
  unfold resumeCheck at h
  dsimp only at h
  split at h
  · exact absurd h (by simp)
  · next hn =>
    push Not at hn
    obtain ⟨hmagic, hversion, hsize, hlength, -⟩ := hn
    rw [length_bytes] at hlength
    have hn : 64 ≤ n := by omega
    have hfirst : (m.bytes a 256).take 64 = (m.bytes a n).take 64 := by
      rw [take_bytes, take_bytes, min_eq_left hn]
      rfl
    refine ⟨?_, ?_⟩
    · rw [← hmagic, take_bytes, take_bytes]
      congr 1
      omega
    · rw [← hversion, ← fld_take _ (show 8 + 2 ≤ 64 by omega), hfirst, fld_take _ (by omega)]

/-! ## O19 -/

/-- Settles O19: each clause is the rule of its command; that RESULT0 of NO_SPACE is 0 is the model's choice (log 54). -/
theorem snapshotAndResume : Obligations.SnapshotAndResume := by
  unfold Obligations.SnapshotAndResume
  refine ⟨?queued, ?noSpace, ?resumed, ?refused, ?badHead, ?point⟩
  case queued =>
    intro k io im s ht ha hi hp hsize hd hok
    refine ⟨_, exec_snapshot ht, ?_⟩
    rw [snapshotRun_queued (s := s.afterTake k) (c := s.headCmd k) ha hi hp hsize hd hok, (sameRun_afterTake s k).nextCommit, afterTake_time,
      headCmd_entry]
    exact ⟨rfl, ha, afterTake_mem s k⟩
  case noSpace =>
    intro k io im s ht ha hi hp hsize
    refine ⟨_, exec_snapshot ht, ?_⟩
    rw [snapshotRun_noSpace (s := s.afterTake k) (c := s.headCmd k) ha hi hp hsize]
    exact ⟨rfl, finish_job _ _ _ _ _ _⟩
  case resumed =>
    intro k io im b s ht hst hi hs hok hok' hb hc hall ho
    rw [hb] at hc
    obtain ⟨hmagic, hversion⟩ := head_of_resumeCheck hc
    rw [← hb] at hc
    have hmem := afterTake_mem s k
    generalize hu : ((s.afterTake k).outerRead (fld (s.sqEntry k) 8 8) (fld (s.mem.bytes (fld (s.sqEntry k) 8 8) 256) 0x10 8)).1 = u
    have hub : Only [.hbm, .log, .sad] (s.afterTake k) u := by
      rw [← hu]
      exact outerRead_only _ _ _
    have hread : (u, b) = (s.afterTake k).outerRead (fld (s.sqEntry k) 8 8) (fld (s.mem.bytes (fld (s.sqEntry k) 8 8) 256) 0x10 8) := by
      rw [Prod.eq_iff_fst_eq_snd_eq]
      refine ⟨hu.symm, ?_⟩
      rw [hb, outerRead_bytes, hmem]
    rw [← hmem] at hread hmagic hversion hok'
    refine ⟨_, exec_resume ht, ?_⟩
    rw [resumeRun_accepted (s := s.afterTake k) (c := s.headCmd k) hst hi hs hok hmagic hversion hok' hread
      ((resumeCheck_congr (hub .rel (by simp)) im b).trans hc) ?_ ?_, headCmd_entry]
    · obtain ⟨hresumed, hhead⟩ := resumeFrom_stamp u im b (fld (s.sqEntry k) 0x10 8)
      obtain ⟨hstate, hbase, hlaunch⟩ := resumeFrom_start u im b (fld (s.sqEntry k) 0x10 8)
      rw [finish_job, finish_stamp, logEv_only _ _ _ _ _ .job (by simp), logEv_only _ _ _ _ _ .stamp (by simp)]
      exact ⟨hresumed, hhead, hstate, hbase, hlaunch⟩
    · have hjob : u.job = (s.afterTake k).job := hub .job (by simp)
      rw [hjob]
      exact hall
    · have htime : u.time = s.time := (hub .time (by simp)).trans (afterTake_time s k)
      rw [State.launchOk, htime]
      exact ho
  case refused =>
    intro k io im b st n u s ht hst hi hs hok hmagic hversion hok' hread hc
    have hmem := afterTake_mem s k
    rw [← hmem] at hread hmagic hversion hok'
    refine ⟨_, exec_resume ht, ?_⟩
    rw [resumeRun_refused (s := s.afterTake k) (c := s.headCmd k) hst hi hs hok hmagic hversion hok' hread hc, headCmd_entry]
    refine ⟨rfl, ?_⟩
    rw [finish_job]
    exact logEv_only _ _ _ _ _ .job (by simp)
  case badHead =>
    intro k io im s ht hst hi hs hok hh
    rw [← afterTake_mem s k] at hh
    refine ⟨_, exec_resume ht, ?_⟩
    rw [resumeRun_badHead (s := s.afterTake k) (c := s.headCmd k) hst hi hs hok hh, headCmd_entry]
    refine ⟨rfl, ?_⟩
    rw [finish_job]
    exact logEv_only _ _ _ _ _ .job (by simp)
  case point =>
    intro i e im s he hi hk hc hr hl
    refine ⟨_, rfl, ?_⟩
    have hle := le_reach s (s.job.placed e i)
    generalize hu : (s.reach (s.job.placed e i)).setJob (((s.reach (s.job.placed e i)).job.start i).complete i) = u
    have htime : u.time = (s.reach (s.job.placed e i)).time := hu ▸ State.setJob_time _ _
    have hdone : i ∈ u.job.started ∧ i ∈ u.job.completed := by
      rw [← hu, State.setJob_job]
      exact ⟨List.mem_cons_self, List.mem_cons_self⟩
    rw [← htime] at hle
    obtain ⟨r, h⟩ | h := snapPointEffect_cases he hi hk hc hr hl u hu.symm
    · rw [h]
      dsimp only
      rw [takeSnapshot_time, takeSnapshot_job]
      exact ⟨hle, hdone⟩
    · rw [h]
      dsimp only
      rw [tryStop_only u .time (by simp)]
      refine ⟨hle, ?_⟩
      obtain hstop | hstop := tryStop_cases u
      · rw [hstop]
        exact hdone
      · rw [hstop, stopped_job]
        exact hdone

end Sys2Proof.Machine
end

section
/-! PROOFS. The servo (R29, R31, R32): what an exchange that has measured an offset comes to. -/
namespace Sys2Proof.Machine

theorem clampInt_bounds {lo hi : Int} (h : lo ≤ hi) (v : Int) : lo ≤ clampInt lo hi v ∧ clampInt lo hi v ≤ hi := by
  unfold clampInt
  omega

/-! ## The time block -/

/-- The FTB, its pull and the offsets are as they were. -/
def TimeBlk.SameClock (t t' : TimeBlk) : Prop := t'.ftb = t.ftb ∧ t'.pull = t.pull ∧ t'.ptpOffset = t.ptpOffset ∧ t'.urOffset = t.urOffset

namespace TimeBlk

section
variable (t : TimeBlk)

theorem SameClock.refl : t.SameClock t := ⟨rfl, rfl, rfl, rfl⟩

variable {t} in
theorem SameClock.trans {t' t'' : TimeBlk} (h : t.SameClock t') (h' : t'.SameClock t'') : t.SameClock t'' := by
  obtain ⟨hf, hp, ho, hu⟩ := h
  obtain ⟨hf', hp', ho', hu'⟩ := h'
  exact ⟨hf'.trans hf, hp'.trans hp, ho'.trans ho, hu'.trans hu⟩

theorem acquire_sameClock : t.SameClock t.acquire := by
  unfold acquire
  split
  · exact ⟨rfl, rfl, rfl, rfl⟩
  · exact .refl t

theorem trackOut_sameClock (band offset : Int) : t.SameClock (t.trackOut band offset) := by
  unfold trackOut
  dsimp only
  split
  · exact ⟨rfl, rfl, rfl, rfl⟩
  · split <;> exact ⟨rfl, rfl, rfl, rfl⟩

theorem calm_sameClock (limit offset : Int) : t.SameClock (t.calm limit offset) := by
  unfold calm
  split
  · exact ⟨rfl, rfl, rfl, rfl⟩
  · exact .refl t

@[simp] theorem calm_servo (limit offset : Int) : (t.calm limit offset).servo = t.servo := by
  unfold calm
  split <;> rfl

theorem acquire_servo : t.acquire.servo = if t.servo = .free ∨ t.servo = .holdover then .acquiring else t.servo := by
  unfold acquire
  split <;> rfl

/-- After an exchange a servo that is not locked acquires. -/
theorem acquire_servo_of_ne_locked (h : t.servo ≠ .locked) : t.acquire.servo = .acquiring := by
  rw [acquire_servo]
  cases hs : t.servo <;> simp_all

theorem track_inBand (band offset : Int) : (t.track band offset).inBand.isSome = true ↔ -band ≤ offset ∧ offset ≤ band := by
  unfold track
  dsimp only
  split
  · next h => exact iff_of_true rfl h
  · next h => exact iff_of_false (by simp) h

theorem nextPull_bounds (offset : Int) : -50000 ≤ t.nextPull none offset ∧ t.nextPull none offset ≤ 50000 := clampInt_bounds (by omega) _

/-- The pull of an armed job's servo stays within 100 ppb of the present one. -/
theorem nextPull_armed (n : Nat) (offset : Int) : t.pull - 100 ≤ t.nextPull (some n) offset ∧ t.nextPull (some n) offset ≤ t.pull + 100 :=
  clampInt_bounds (by omega) _

end

end TimeBlk

/-! ## A step of the FTB -/

section
variable (s : State) (d : Int)

theorem stepFtb_time : (s.stepFtb d).time = s.time.step d := by
  rw [State.stepFtb, logEv_only _ _ _ _ _ .time (by simp), State.setTime_time, drain_time]

theorem stepFtb_newest : (s.stepFtb d).newest = some ⟨(s.stepFtb d).time.ftb, 0x0101, 0, 0, detail [(8, sdet 8 d)]⟩ := by
  rw [stepFtb_time, State.stepFtb, newest_logEv, State.setTime_time, drain_time]

theorem stepFtb_only : Only [.time, .mem, .log, .host, .misc, .sad] s (s.stepFtb d) :=
  Only.left (drain_only s) (Only.left (setTime_only s.drain _) ((logEv_only _ _ _ _ _).mono (by simp)) (by simp)) (by simp)

end

/-! ## A measured offset -/

/-- The time block at a measured offset, before the step or the pull. -/
def State.measuring (s : State) (offset : Int) : TimeBlk :=
  (if s.isRoot then s.time.acquire else s.time.acquire.trackOut s.lockBand offset).calm (if s.isRoot then 1000000 else 16) offset

section
variable (s : State) (offset : Int)

/-- The offset is beyond 1,000 ns and the servo may step. -/
def State.steps (s : State) (offset : Int) : Prop :=
  (s.measuring offset).servo = .acquiring ∧ (s.job.state == .armed) = false ∧ (offset < -1000 ∨ 1000 < offset)

theorem measuring_sameClock : s.time.SameClock (s.measuring offset) := by
  refine TimeBlk.SameClock.trans ?_ (TimeBlk.calm_sameClock _ _ _)
  split
  · exact TimeBlk.acquire_sameClock _
  · exact (TimeBlk.acquire_sameClock _).trans (TimeBlk.trackOut_sameClock _ _ _)

theorem measuring_servo (hr : s.isRoot = true) : (s.measuring offset).servo = s.time.acquire.servo := by
  rw [State.measuring, TimeBlk.calm_servo, if_pos hr]

variable {s offset}

theorem measured_steps (h : s.steps offset) : s.measured offset = (s.setTime (s.measuring offset)).stepFtb (-offset) := if_pos h

theorem measured_pulls (h : ¬ s.steps offset) : s.measured offset = s.setTime (((s.measuring offset).track s.lockBand offset).setPull
    (((s.measuring offset).track s.lockBand offset).nextPull (if s.job.state == .armed then some s.job.armedAt else none) offset)) := if_neg h

variable (s offset)

theorem measured_only : Only [.time, .mem, .log, .host, .misc, .sad] s (s.measured offset) := by
  by_cases h : s.steps offset
  · rw [measured_steps h]
    exact Only.left (setTime_only s _) (stepFtb_only _ _) (by simp)
  · rw [measured_pulls h]
    exact (setTime_only s _).mono (by simp)

theorem measured_offsets : (s.measured offset).time.ptpOffset = s.time.ptpOffset ∧ (s.measured offset).time.urOffset = s.time.urOffset := by
  obtain ⟨-, -, hp, hu⟩ := measuring_sameClock s offset
  by_cases h : s.steps offset
  · rw [measured_steps h, stepFtb_time, State.setTime_time]
    exact ⟨hp, hu⟩
  · rw [measured_pulls h, State.setTime_time]
    exact ⟨hp, hu⟩

end

end Sys2Proof.Machine
end

section
/-! PROOFS. PTP, lock, holdover and excess offsets (R32, R33, R390, R391, R406, R407), and O26 from their rules. -/
namespace Sys2Proof.Machine

theorem fresh_only (s : State) (n : Nat) : Only [.misc] s (s.fresh n) := by
  intro g hg
  cases g with
  | misc => exact absurd (List.mem_singleton_self _) hg
  | _ => rfl

/-! ## The port followed -/

theorem follow_only (s : State) : Only [.time, .log, .sad] s s.follow := by
  have hset (t : State) (x : TimeBlk) : Only [.time, .log, .sad] t (t.setTime x) := (setTime_only t x).mono (by simp)
  unfold State.follow
  extract_lets b r c t x
  have ht : Only [.time, .log, .sad] s t := by
    unfold t
    split
    · exact Only.refl _ s
    · exact (hset s _).right (logEv_only _ _ _ _ _) (by simp)
  clear_value t
  split
  · exact ht
  · dsimp only
    split
    · exact ht.step ((hset t _).right (logEv_only _ _ _ _ _) (by simp))
    · exact ht.step (hset t _)

/-- Only the port followed and its grandmaster are chosen anew. -/
theorem follow_time (s : State) : ∃ b g, s.follow.time = { s.time with followB := b, gm := g } := by
  unfold State.follow
  extract_lets b r c t x
  have ht : ∃ b, t.time = { s.time with followB := b } := by
    unfold t
    split
    · exact ⟨_, rfl⟩
    · exact ⟨b, logEv_only _ _ _ _ _ .time (by simp)⟩
  clear_value t
  obtain ⟨b', hb⟩ := ht
  change x = _ at hb
  split
  · exact ⟨b', _, hb⟩
  · next m _ =>
    refine ⟨b', some m.gm, ?_⟩
    dsimp only
    split
    · rw [logEv_only _ _ _ _ _ .time (by simp), State.setTime_time, hb]
    · rw [State.setTime_time, hb]

/-! ## Messages -/

section
variable {p : Fin 4} {s : State}

theorem setPtp_time (f : PtpPort → PtpPort) : (s.setPtp p f).time = { s.time with ptp := upd s.time.ptp p f } := State.setTime_time s _

theorem setPtp_only (f : PtpPort → PtpPort) : Only [.time] s (s.setPtp p f) := setTime_only s _

/-- A port whose masters change, and the choice of the port followed. -/
theorem setPtp_follow (f : PtpPort → PtpPort) : (s.setPtp p f).follow.time.ptp = upd s.time.ptp p f ∧
    (s.setPtp p f).follow.time.pull = s.time.pull ∧ (s.setPtp p f).follow.time.ftb = s.time.ftb ∧
    Only [.time, .log, .sad] s (s.setPtp p f).follow := by
  obtain ⟨b, g, h⟩ := follow_time (s.setPtp p f)
  refine ⟨?_, ?_, ?_, Only.left (setPtp_only f) (follow_only _) (by simp)⟩
  all_goals rw [h, setPtp_time]

section
variable {sfd : Nat} {mac ip b : List Byte} (hp : s.ptpPort p.1 = true)
include hp

theorem ptpEffect_discarded (h : ptpIn s.ptpDomain mac ip b = none) : ptpEffect p (.received sfd mac ip b) s = s := by
  simp only [ptpEffect, hp, h, Bool.not_true, Bool.false_eq_true, if_false, Option.elim_none]

theorem ptpEffect_received {m : PtpIn} (h : ptpIn s.ptpDomain mac ip b = some m) :
    ptpEffect p (.received sfd mac ip b) s = s.ptpTake p sfd m := by
  simp only [ptpEffect, hp, h, Bool.not_true, Bool.false_eq_true, if_false, Option.elim_some]

theorem ptpEffect_delayReq : ptpEffect p .delayReq s = s.sendDelayReq p := by
  simp only [ptpEffect, hp, Bool.not_true, Bool.false_eq_true, if_false]

theorem ptpEffect_timeout : ptpEffect p .announceTimeout s = (s.setPtp p fun x =>
    { x with masters := x.masters.filter fun y => some y.sender != x.best.map (·.sender), sync := none, dreq := none }).follow := by
  simp only [ptpEffect, hp, Bool.not_true, Bool.false_eq_true, if_false]

end

theorem ptpEffect_noPort (hp : s.ptpPort p.1 = false) (m : PtpMsg) : ptpEffect p m s = s := by
  simp only [ptpEffect, hp, Bool.not_false, if_true]

section
variable {m : PtpMaster} (hb : (s.time.ptp[p]).best = some m)
include hb

theorem ptpTake_sync (sfd seq t1 : Nat) (two : Bool) (corr : Int) : s.ptpTake p sfd (.sync m.sender seq two t1 corr) =
    s.setPtp p fun x => { x with sync := some ⟨seq, if two then none else some t1, s.rxStamp p sfd, corr⟩ } := by
  simp only [State.ptpTake, hb, Option.any_some, beq_self_eq_true, if_true]

theorem ptpTake_followUp (sfd seq t1 : Nat) (corr : Int) : s.ptpTake p sfd (.followUp m.sender seq t1 corr) =
    s.setPtp p fun x => { x with sync := x.sync.map fun y =>
      if y.seq = seq ∧ y.t1 = none then { y with t1 := some t1, corr := y.corr + corr } else y } := by
  simp only [State.ptpTake, hb, Option.any_some, beq_self_eq_true, if_true]

/-- The Delay_Resp that answers the port's Delay_Req makes an exchange. -/
theorem ptpTake_delayResp {q seq t1 : Nat} {t2 c2 t3 : Int} (hs : (s.time.ptp[p]).sync = some ⟨q, some t1, t2, c2⟩)
    (hd : (s.time.ptp[p]).dreq = some (seq, t3)) (sfd t4 : Nat) (c4 : Int) :
    s.ptpTake p sfd (.delayResp m.sender seq (Config.ptpIdentity p.1).toNat t4 c4) =
      (s.setPtp p fun x => { x with dreq := none }).exchanged p (ptpOffsetOf t1 t2 c2 t3 t4 c4) := by
  simp only [State.ptpTake, hb, hs, hd, Option.any_some, beq_self_eq_true, Bool.and_self, if_true]

theorem sendDelayReq_eq : s.sendDelayReq p =
    (s.setPtp p fun x => { x with dreq := some (x.nextSeq.toNat, s.txStamp p), nextSeq := x.nextSeq + 1 }).emit
      (.packet p.1 0 s.time.ftb (s.delayReqFrame p m)) := by
  simp only [State.sendDelayReq, hb]

end

/-! ## Exchanges -/

theorem exchanged_notFollowed (h : s.isRoot = false ∨ p.1 ≠ s.followed) (offset : Int) : s.exchanged p offset = s :=
  if_neg (by obtain h | h := h <;> simp [h])

theorem exchanged_followed (hr : s.isRoot = true) (hf : p.1 = s.followed) (offset : Int) :
    s.exchanged p offset = (s.setTime { s.time with ptpOffset := offset }).measured offset := if_pos (by simp [hr, hf])

end

section
variable {s : State} {offset : Int} (hr : s.isRoot = true)
include hr

/-- With no step the exchange holds its offset's band and changes the pull. -/
theorem measured_held (h : ¬ s.steps offset) : (s.measured offset).time.ftb = s.time.ftb ∧ (s.measured offset).time.lastValid = s.time.ftb ∧
    (s.measured offset).time.servo = s.time.acquire.servo ∧
    ((s.measured offset).time.inBand.isSome = true ↔ -100 ≤ offset ∧ offset ≤ 100) ∧ Only [.time] s (s.measured offset) := by
  obtain ⟨hf, -, -, -⟩ := measuring_sameClock s offset
  have hband : s.lockBand = 100 := if_pos hr
  have hin := TimeBlk.track_inBand (s.measuring offset) 100 offset
  have hservo := measuring_servo s offset hr
  rw [measured_pulls h, hband]
  exact ⟨hf, hf, hservo, hin, setTime_only s _⟩

omit hr in
theorem measured_pull_bounds (h : ¬ s.steps offset) (ha : s.job.state ≠ .armed) :
    -50000 ≤ (s.measured offset).time.pull ∧ (s.measured offset).time.pull ≤ 50000 := by
  rw [measured_pulls h, if_neg (by simpa using ha)]
  exact TimeBlk.nextPull_bounds _ offset

omit hr in
theorem measured_pull_armed (h : ¬ s.steps offset) (ha : s.job.state = .armed) :
    s.time.pull - 100 ≤ (s.measured offset).time.pull ∧ (s.measured offset).time.pull ≤ s.time.pull + 100 := by
  obtain ⟨-, hp, -, -⟩ := measuring_sameClock s offset
  rw [measured_pulls h, if_pos (by simpa using ha), ← hp]
  exact TimeBlk.nextPull_armed _ _ offset

theorem not_steps (h : s.job.state = .armed ∨ s.time.servo = .locked ∨ (-1000 ≤ offset ∧ offset ≤ 1000)) : ¬ s.steps offset := by
  rintro ⟨hservo, harmed, hbeyond⟩
  obtain h | h | h := h
  · simp [h] at harmed
  · rw [measuring_servo s offset hr, TimeBlk.acquire_servo, h] at hservo
    simp at hservo
  · omega

/-- Beyond 1,000 ns a servo that is neither locked nor an armed job's steps the FTB. -/
theorem steps_of_beyond (ha : s.job.state ≠ .armed) (hl : s.time.servo ≠ .locked) (ho : offset < -1000 ∨ 1000 < offset) : s.steps offset :=
  ⟨(measuring_servo s offset hr).trans (TimeBlk.acquire_servo_of_ne_locked _ hl), by simpa using ha, ho⟩

end

/-! ## Lock and holdover -/

theorem ptpLockedEffect_locks {s : State} {n : Nat} (hs : s.time.servo = .acquiring) (hn : s.time.inBand = some n)
    (hv : n + 7 * second < s.time.lastValid) (u : State) (hu : u = s.reach (n + 10 * second)) : ptpLockedEffect s =
      ((u.setTime { u.time with servo := .locked }).logEv 0x0102 0 0 [(1, u.portDetail)]).fresh 1 := by
  have hlt : n + 10 * second < s.time.lastValid + 3 * second := by omega
  simp only [ptpLockedEffect, hn, hs, hlt, and_self, if_true]
  rw [← hu]

theorem ptpHoldoverEffect_holds {s : State} (hs : s.time.servo = .acquiring ∨ s.time.servo = .locked) (u : State)
    (hu : u = s.reach (s.time.lastValid + 3 * second)) (p : Int) (hp : p = u.time.meanPull ((Config.freeWord u.misc.fresh).getLsbD 0)) :
    ptpHoldoverEffect s = ((u.setTime { (u.time.setPull p) with servo := .holdover, inBand := none, outBand := none }).logEv 0x0103 0 0
      [(4, sdet 4 p)]).fresh 1 := by
  unfold ptpHoldoverEffect
  dsimp only
  rw [if_pos hs, ← hu, ← hp]

/-- A logged change of the servo: the event carries the FTB count, and a free value may be used. -/
theorem setTime_log_only (s : State) (x : TimeBlk) (code k n : Nat) (d : List (Nat × Nat)) :
    Only [.time, .log, .sad] s ((s.setTime x).logEv code k n d) :=
  Only.left (setTime_only s x) ((logEv_only _ code k n d).mono (by simp)) (by simp)

theorem setTime_log_time (s : State) (x : TimeBlk) (code k n : Nat) (d : List (Nat × Nat)) : ((s.setTime x).logEv code k n d).time = x := by
  rw [logEv_only _ _ _ _ _ .time (by simp), State.setTime_time]

theorem setTime_log_newest (s : State) (x : TimeBlk) (code k n : Nat) (d : List (Nat × Nat)) :
    ((s.setTime x).logEv code k n d).newest = some ⟨x.ftb, code, k, n, detail d⟩ := by
  rw [newest_logEv, State.setTime_time]

theorem newest_congr {s t : State} (h : t.log = s.log) : t.newest = s.newest := by rw [State.newest, State.newest, h]

/-- A change of the servo at a count that the FTB has reached, logged, with a free value used. -/
theorem servo_change {s u : State} {n : Nat} (hle : n ≤ u.time.ftb) (honly : Only [.time, .mem, .log, .host, .misc] s u) (x : TimeBlk)
    (hx : x.ftb = u.time.ftb) (code : Nat) (d : List (Nat × Nat)) :
    (((u.setTime x).logEv code 0 0 d).fresh 1).time = x ∧ n ≤ x.ftb ∧
    (((u.setTime x).logEv code 0 0 d).fresh 1).newest = some ⟨x.ftb, code, 0, 0, detail d⟩ ∧
    Only [.time, .mem, .log, .host, .misc, .sad] s (((u.setTime x).logEv code 0 0 d).fresh 1) := by
  have hfresh := fresh_only ((u.setTime x).logEv code 0 0 d) 1
  refine ⟨?_, hx ▸ hle, ?_, Only.left honly (Only.left (setTime_log_only u x code 0 0 d) (hfresh.mono (by simp)) (by simp)) (by simp)⟩
  · rw [hfresh .time (by simp), setTime_log_time]
  · rw [newest_congr (hfresh .log (by simp)), setTime_log_newest]

/-! ## Offsets beyond their limit -/

/-- The event of an excess offset, at least a second after the last. -/
theorem excessLog_logs (code k n : Nat) (offset : Int) (s : State) :
    (excessLog code k n offset s).newest = some ⟨(excessLog code k n offset s).time.ftb, code, k, n, detail [(8, sdet 8 offset)]⟩ ∧
    (excessLog code k n offset s).time.lastExcess = some (excessLog code k n offset s).time.ftb ∧
    (∀ m, s.time.lastExcess = some m → m + second ≤ (excessLog code k n offset s).time.ftb) ∧
    Only [.time, .mem, .log, .host, .misc, .sad] s (excessLog code k n offset s) := by
  have hle := le_reach s s.time.nextExcess
  have hreach := reach_only s s.time.nextExcess
  unfold excessLog
  dsimp only
  generalize s.reach s.time.nextExcess = u at hle hreach ⊢
  rw [setTime_log_newest, setTime_log_time]
  refine ⟨rfl, rfl, fun m hm => ?_, Only.left hreach ((setTime_log_only u _ _ _ _ _).mono (by simp)) (by simp)⟩
  rw [TimeBlk.nextExcess, hm] at hle
  exact hle

theorem ptpOffsetExcessEffect_logs {s : State} (hs : s.slewing = true) (hr : s.isRoot = true)
    (ho : s.time.ptpOffset < -1000000 ∨ 1000000 < s.time.ptpOffset) : ptpOffsetExcessEffect s = excessLog 0x0104 0 0 s.time.ptpOffset s :=
  if_pos (by simpa [hs, hr] using ho.symm)

theorem urlanFtbOffsetEffect_logs {s : State} (hs : s.slewing = true) (hr : s.isRoot = false)
    (ho : s.time.urOffset < -16 ∨ 16 < s.time.urOffset) :
    urlanFtbOffsetEffect s = excessLog 0x0906 6 (bits s.ur.gcfg.toNat 7 5) s.time.urOffset s := if_pos (by simpa [hs, hr] using ho.symm)

/-! ## The uplink -/

theorem uplinkTimeEffect_eq {s : State} {u : Fin 6} {f : Flit} {b : List Byte} (hu : bits s.ur.gcfg.toNat 7 5 = u.1)
    (hl : (s.ur.links[u]).state = .up) (hf : flitOf 3 b = some f) (offset : Int)
    (ho : offset = (s.time.ftb : Int) - (beNat (f.body.take 8) + (s.ur.links[u]).lat : Nat)) :
    uplinkTimeEffect b s = ((s.updLink u fun l => l.header f).setTime { s.time with urOffset := offset }).measured offset := by
  have hlink : ((s.ur.links[u]).state != .up) = false := by simp [-Fin.getElem_fin, hl]
  unfold uplinkTimeEffect
  rw [hu, toFin?_val]
  dsimp only
  rw [hlink, hf, if_neg Bool.false_ne_true, ho]
  rfl

/-! ## O26 -/

/-- Settles O26: each clause is the rule of its command. That FTB_STEPPED is stamped with the new count, that the masters are the senders of
Announce, and that an exchange counts on the port followed only, is the model's choice (log 44), as are the PTP message fields (log 10). -/
theorem studioTimeIsFollowed : Obligations.StudioTimeIsFollowed := by
  unfold Obligations.StudioTimeIsFollowed
  refine ⟨⟨?noPort, ?discarded, ?announce, ?sync, ?followUp, ?delayReq, ?timeout, ?delayResp, ?locked, ?holdover, ?uplink⟩, ?ptpExcess, ?urExcess⟩
  case noPort => exact fun p m s hp => ⟨_, rfl, ptpEffect_noPort hp m⟩
  case discarded => exact fun p sfd mac ip b s hp hm => ⟨_, rfl, ptpEffect_discarded hp hm⟩
  case announce =>
    intro p sfd mac ip b m s hp hm
    refine ⟨_, rfl, ?_⟩
    rw [ptpEffect_received hp hm]
    exact setPtp_follow _
  case sync =>
    intro p sfd seq t1 two corr mac ip b m s hp hb hm
    refine ⟨_, rfl, ?_⟩
    rw [ptpEffect_received hp hm, ptpTake_sync hb]
    exact ⟨setPtp_time _, setPtp_only _⟩
  case followUp =>
    intro p sfd seq t1 t2 c2 corr mac ip b m s hp hb hs hm
    refine ⟨_, rfl, ?_⟩
    rw [ptpEffect_received hp hm, ptpTake_followUp hb]
    dsimp only
    rw [setPtp_time]
    refine ⟨?_, rfl, setPtp_only _⟩
    dsimp only
    rw [upd_self]
    dsimp only
    rw [hs, Option.map_some, if_pos ⟨rfl, rfl⟩]
  case delayReq =>
    intro p m s hp hb
    refine ⟨_, rfl, ?_⟩
    rw [ptpEffect_delayReq hp, sendDelayReq_eq hb]
    exact ⟨setPtp_time _, rfl, Only.left (setPtp_only _) ((emit_only _ _).mono (by simp)) (by simp)⟩
  case timeout =>
    intro p s hp
    refine ⟨_, rfl, ?_⟩
    rw [ptpEffect_timeout hp]
    obtain ⟨hptp, -, hftb, honly⟩ := setPtp_follow (p := p) (s := s)
      fun x => { x with masters := x.masters.filter fun y => some y.sender != x.best.map (·.sender), sync := none, dreq := none }
    exact ⟨hptp, hftb, honly⟩
  case delayResp =>
    intro p sfd seq t1 t4 t2 t3 c2 c4 o q mac ip b m s hp hb hs hd hm ho
    have heff : ptpEffect p (.received sfd mac ip b) s = (s.setPtp p fun x => { x with dreq := none }).exchanged p o := by
      rw [ptpEffect_received hp hm, ptpTake_delayResp hb hs hd, ho]
    have htime := setPtp_time (p := p) (s := s) fun x => { x with dreq := none }
    have honly := setPtp_only (p := p) (s := s) fun x => { x with dreq := none }
    have hroot : (s.setPtp p fun x => { x with dreq := none }).isRoot = s.isRoot := rfl
    have hport : (s.setPtp p fun x => { x with dreq := none }).followed = s.followed := rfl
    generalize (s.setPtp p fun x => { x with dreq := none }) = u at heff htime honly hroot hport
    generalize hv : u.setTime { u.time with ptpOffset := o } = v
    have hfollowed (hr : s.isRoot = true) (hf : p.1 = s.followed) : ptpEffect p (.received sfd mac ip b) s = v.measured o := by
      rw [heff, exchanged_followed (hroot.trans hr) (hf.trans hport.symm), hv]
    have hvtime : v.time = { u.time with ptpOffset := o } := by rw [← hv, State.setTime_time]
    have hvroot : v.isRoot = s.isRoot := by rw [← hroot, ← hv, State.isRoot, State.setTime_ur, State.isRoot]
    have hvonly : Only [.time] s v := honly.step (hv ▸ setTime_only u _)
    have hstate : v.job.state = s.job.state := congrArg JobBlk.state (hvonly .job (by simp))
    have hftb : v.time.ftb = s.time.ftb := by rw [hvtime, htime]
    have hservo : v.time.servo = s.time.servo := by rw [hvtime, htime]
    have hpull : v.time.pull = s.time.pull := by rw [hvtime, htime]
    have hoffset : (v.measured o).time.ptpOffset = o := by rw [(measured_offsets v o).1, hvtime]
    refine ⟨fun h => ?_, fun hr hf ha hin => ?_, fun hr hf ha => ?_, fun hr hf ha hl hbeyond => ?_⟩
    · refine ⟨_, rfl, ?_⟩
      rw [heff, exchanged_notFollowed (by rwa [hroot, hport])]
      exact ⟨htime, honly⟩
    · have hn : ¬ v.steps o := not_steps (hvroot.trans hr) (by rw [hservo]; exact Or.inr hin)
      obtain ⟨hf', hvalid, hs', hband, honly'⟩ := measured_held (hvroot.trans hr) hn
      obtain ⟨hlo, hhi⟩ := measured_pull_bounds hn (by rwa [hstate])
      refine ⟨_, rfl, ?_⟩
      rw [hfollowed hr hf]
      rw [TimeBlk.acquire_servo, hservo] at hs'
      exact ⟨hoffset, hf'.trans hftb, hvalid.trans hftb, hlo, hhi, hs', hband, hvonly.step honly'⟩
    · have hn : ¬ v.steps o := not_steps (hvroot.trans hr) (Or.inl (hstate.trans ha))
      obtain ⟨hf', hvalid, -, -, honly'⟩ := measured_held (hvroot.trans hr) hn
      obtain ⟨hlo, hhi⟩ := measured_pull_armed hn (hstate.trans ha)
      rw [hpull] at hlo hhi
      refine ⟨_, rfl, ?_⟩
      rw [hfollowed hr hf]
      exact ⟨hoffset, hf'.trans hftb, hvalid.trans hftb, hlo, hhi, hvonly.step honly'⟩
    · have hstep : v.steps o := steps_of_beyond (hvroot.trans hr) (by rwa [hstate]) (by rwa [hservo]) hbeyond
      have hclock : (v.measuring o).ftb = v.time.ftb := (measuring_sameClock v o).1
      have honly' := measured_only v o
      refine ⟨_, rfl, ?_⟩
      rw [hfollowed hr hf]
      rw [measured_steps hstep] at hoffset honly' ⊢
      refine ⟨hoffset, ?_, ?_, stepFtb_newest _ _, Only.left hvonly honly' (by simp)⟩
      · rw [stepFtb_time, State.setTime_time]
        exact hstep.1
      · rw [stepFtb_time, State.setTime_time, ← hftb, ← hclock]
        rfl
  case locked =>
    intro n s hs hn hv
    obtain ⟨u, hu⟩ : ∃ u, u = s.reach (n + 10 * second) := ⟨_, rfl⟩
    have hle := le_reach s (n + 10 * second)
    have hreach := reach_only s (n + 10 * second)
    rw [← hu] at hle hreach
    obtain ⟨htime, hat, hnewest, honly⟩ := servo_change hle hreach { u.time with servo := .locked } rfl 0x0102 [(1, u.portDetail)]
    refine ⟨_, rfl, ?_⟩
    rw [ptpLockedEffect_locks hs hn hv u hu]
    dsimp only
    rw [hnewest, htime]
    exact ⟨rfl, hat, rfl, honly⟩
  case holdover =>
    intro s hs
    obtain ⟨u, hu⟩ : ∃ u, u = s.reach (s.time.lastValid + 3 * second) := ⟨_, rfl⟩
    have hle := le_reach s (s.time.lastValid + 3 * second)
    have hreach := reach_only s (s.time.lastValid + 3 * second)
    rw [← hu] at hle hreach
    obtain ⟨p, hp⟩ : ∃ p, p = u.time.meanPull ((Config.freeWord u.misc.fresh).getLsbD 0) := ⟨_, rfl⟩
    obtain ⟨htime, hat, hnewest, honly⟩ := servo_change hle hreach
      { (u.time.setPull p) with servo := .holdover, inBand := none, outBand := none } rfl 0x0103 [(4, sdet 4 p)]
    refine ⟨_, rfl, ?_⟩
    rw [ptpHoldoverEffect_holds hs u hu p hp]
    dsimp only
    rw [hnewest, htime]
    exact ⟨rfl, hat, rfl, honly⟩
  case uplink =>
    intro u f b s hu hl hf
    refine ⟨_, rfl, ?_⟩
    rw [uplinkTimeEffect_eq hu hl hf _ rfl]
    generalize (s.time.ftb : Int) - (beNat (f.body.take 8) + (s.ur.links[u]).lat : Nat) = o
    have hlink : Only [.ur] s (s.updLink u fun l => l.header f) := setUr_only s _
    generalize (s.updLink u fun l => l.header f) = v at hlink ⊢
    have hset := setTime_only v { s.time with urOffset := o }
    have hm := measured_only (v.setTime { s.time with urOffset := o }) o
    refine ⟨?_, ?_, Only.left hlink (Only.left hset (hm.mono (by simp)) (by simp)) (by simp)⟩
    · rw [(measured_offsets _ o).2, State.setTime_time]
    · rw [hm .ur (by simp), State.setTime_ur]
  case ptpExcess =>
    intro s hs hr ho
    refine ⟨_, rfl, ?_⟩
    rw [ptpOffsetExcessEffect_logs hs hr ho]
    exact excessLog_logs _ _ _ _ s
  case urExcess =>
    intro s hs hr ho
    refine ⟨_, rfl, ?_⟩
    rw [urlanFtbOffsetEffect_logs hs hr ho]
    exact excessLog_logs _ _ _ _ s

end Sys2Proof.Machine
end

section
/-! PROOFS. The Lantern array: what its reads, counts, faults and writes can change (R104, R160, R167, R171, R454, R457, R462). -/
namespace Sys2Proof.Machine

/-! ## What the start of a timetable entry leaves (R41) -/

section
variable (s : State) (e : TtEntry) (i : Inst)

@[simp] theorem startOf_lan : (s.startOf e i).lan = s.lan := startOf_only s e i .lan (by simp)
@[simp] theorem startOf_rel : (s.startOf e i).rel = s.rel := startOf_only s e i .rel (by simp)

/-- A unit's work starts no earlier than asked, nor than its placed L-cycle and CYCLE. -/
theorem le_startCycle (n : LnId) (start : Nat) : start ≤ s.startCycle n e i start ∧
    s.lFrom (n.1 / 9) (s.job.placed e i) + e.cycle ≤ s.startCycle n e i start :=
  ⟨le_max_left _ _, le_max_of_le_right (le_max_left _ _)⟩

end

/-! ## One Lantern (R462) -/

section
variable (s : State)

@[simp] theorem setLan_self (n : LnId) (f : Lantern → Lantern) : (s.setLan n f).lan[n] = f s.lan[n] := upd_get_self _ n f

theorem setLan_other {n m : LnId} (f : Lantern → Lantern) (h : n ≠ m) : (s.setLan n f).lan[m] = s.lan[m] := upd_get_ne _ f h

theorem targetLn_other {n m : LnId} (line : Option (Bool × Nat)) (h : n ≠ m) : (s.targetLn n line).lan[m] = s.lan[m] := by
  unfold State.targetLn
  split
  · rfl
  · exact setLan_other s _ h

/-- Of a Lantern a targeted test changes the test state alone. -/
theorem targetLn_tst (n m : LnId) (line : Option (Bool × Nat)) : ∃ t, (s.targetLn n line).lan[m] = { s.lan[m] with tst := t } := by
  by_cases h : n = m
  · subst m
    unfold State.targetLn
    split
    · exact ⟨_, rfl⟩
    · exact ⟨_, setLan_self s n _⟩
  · exact ⟨_, targetLn_other s line h⟩

end

/-! ## Counts and faults (R104, R454, R457) -/

section
variable (s : State) (n : LnId)

theorem accOverflow_only (first : Option (Nat × Nat)) (k : Nat) (logIt : Bool) (idx : Nat) :
    Only [.lan, .log, .sad] s (s.accOverflow n first k logIt idx) := by
  unfold State.accOverflow
  split
  · exact Only.refl _ s
  · dsimp only
    split
    · exact Only.left (setLan_only s n _) ((logEv_only _ _ _ _ _).mono (by simp)) (by simp)
    · exact (setLan_only s n _).mono (by simp)

theorem classify_only (kind num cls code line : Nat) : Only [.rel, .log, .sad] s (s.classify kind num cls code line) := by
  unfold State.classify
  refine Only.right ?_ (logEv_only _ _ _ _ _) (by simp)
  split
  · exact Only.refl _ s
  · intro g hg
    cases g with
    | rel => simp at hg
    | _ => rfl

theorem residueLn_only (part : Nat) (bad : Bool) : Only [.lan, .log, .sad, .rel] s (s.residueLn n part bad) := by
  unfold State.residueLn
  refine Only.right ?_ (targetLn_only _ n none) (by simp)
  refine Only.right ?_ (classify_only _ _ _ _ _ _) (by simp)
  exact Only.left (setLan_only s n _) ((logEv_only _ _ _ _ _).mono (by simp)) (by simp)

/-! ## Rows read (R160, R167) -/

theorem readRow_only (row : Nat) : Only [.mem, .fab, .log, .sad, .lan, .wick] s (s.readRow row).1 := checkRow_only s row allSectors

theorem readBefore_only (base : Nat → Nat) (stop : Nat) (l : List (Nat × Nat)) :
    Only [.mem, .fab, .log, .sad, .lan, .wick] s (s.readBefore base stop l).1 := by
  unfold State.readBefore
  exact List.foldlRecOn (motive := fun a : State × Option (Nat × Nat) => Only [.mem, .fab, .log, .sad, .lan, .wick] s a.1) _ _ (Only.refl _ s)
    fun a ha x _ => ha.step (readRow_only a.1 (base x.1))

/-! ## Rows written (R159–R174, R199) -/

theorem presentWrite_only (wr : RowWrite) (eng : EngineUse) : Only [.mem, .fab] s (s.presentWrite wr eng) := by
  have hheld (x : FabBlk) (m : Nat) (f : MemCtr → MemCtr) : Only [.mem, .fab] s ((s.setFab x).updCtr m f) :=
    ((setFab_only s x).step (updCtr_only _ m f)).mono (by simp)
  cases eng with
  | none => exact acceptWrite_only s wr
  | read => exact hheld _ _ _
  | write => exact hheld _ _ _

theorem fabricWrite_only (wr : RowWrite) (eng : EngineUse) : Only [.mem, .fab, .log, .sad] s (s.fabricWrite wr eng).1 := by
  unfold State.fabricWrite
  split
  · exact Only.refl _ s
  split
  · exact (presentWrite_only s wr eng).mono (by simp)
  split
  · exact (logEv_only s _ _ _ _).mono (by simp)
  split
  · exact (presentWrite_only s wr eng).mono (by simp)
  extract_lets i wait
  split
  · exact (setFab_only s _).mono (by simp)
  have htake : Only [.mem, .fab, .log, .sad] s (s.takeCredits i wr).1 := (takeCredits_only s i wr).mono (by simp)
  split
  · next heq =>
    rw [heq] at htake
    exact htake.right (presentWrite_only _ wr eng) (by simp)
  · next heq =>
    rw [heq] at htake
    exact htake.right (setFab_only _ _) (by simp)

theorem writeRow_only (row : Nat) (mask : BitVec 16) (d : Row) (tag : Byte) (p : Bool) : Only [.mem] s (s.writeRow row mask d tag p) :=
  setMem_only s _

theorem writeRows_only (l : List (Nat × Row × Bool)) (tag : Byte) : Only [.mem] s (s.writeRows l tag) :=
  Only.foldl _ (fun t _ => writeRow_only t _ _ _ _ _) l s

theorem rqWrite_only (map : Bool) (row : Nat) (mask : BitVec 16) (d : Row) (tag : Nat) (p : Bool) :
    Only [.mem, .fab, .log, .sad] s (s.rqWrite n map row mask d tag p) := by
  unfold State.rqWrite
  split
  · exact fabricWrite_only s _ _
  · exact (writeRow_only s _ _ _ _ _).mono (by simp)

end

end Sys2Proof.Machine
end

section
/-! PROOFS. Chains of the Lantern array (R41, R66, R69, R77, R78, R126, R456, R550), and O29 from their rules. -/
namespace Sys2Proof.Machine

/-! ## Poisoned destination rows (R78) -/

/-- A write of all sectors of a row sets the poison of that row. -/
theorem MemBlk.writeRow_poison (m : MemBlk) (row : Nat) {mask : BitVec 16} (hmask : mask = 0xFFFF) (d : Row) (tag : Byte) (p : Bool) :
    (m.writeRow row mask d tag p).poison = (m.setPoison row p).poison := by
  have hsectors (l : List Nat) (x : MemBlk) : (l.foldl (fun (y : MemBlk) i => if mask.getLsbD i then
      (y.write (row + 32 * i) (slice (rowBytes d) (32 * i) 32)).setEcc (row + 32 * i) 0 else y) x).poison = x.poison := by
    induction l generalizing x with
    | nil => rfl
    | cons i t ih =>
      rw [List.foldl_cons, ih]
      split <;> rfl
  have hm := hsectors allSectors m
  unfold MemBlk.writeRow
  dsimp only
  generalize allSectors.foldl _ m = y at hm
  rw [if_pos hmask, MemBlk.setPoison, MemBlk.setPoison, ← hm]
  rfl

/-- A row written whole takes the poison of the write, and every other row keeps its own. -/
theorem MemBlk.poisoned_writeRow_full {m : MemBlk} (h : m.wf) (row q : Nat) (d : Row) (tag : Byte) (p : Bool) :
    (m.writeRow row 0xFFFF d tag p).poisoned q = if q = row then p else m.poisoned q := by
  rw [← poisoned_setPoison h, MemBlk.poisoned, MemBlk.poisoned, writeRow_poison m row rfl]

section
variable (t : List (Nat × Option Row)) (tag : Byte)

theorem poisonRows_only (s : State) : Only [.mem] s (s.poisonRows t tag) := by
  refine Only.foldl _ (fun u r => ?_) t s
  split
  · exact writeRow_only u _ _ _ _ _
  · exact setMem_only u _

theorem poisonRows_cons_some (s : State) (row : Nat) (d : Row) :
    s.poisonRows ((row, some d) :: t) tag = (s.writeRow row 0xFFFF d tag true).poisonRows t tag := by
  simp only [State.poisonRows, List.foldl_cons]

/-- Every row of the list is poisoned at the end, and none loses its poison. -/
theorem poisonRows_poisoned {s : State} (h : s.mem.wf) {r : Nat} (hr : r ∈ t.map Prod.fst ∨ s.mem.poisoned r = true) :
    (s.poisonRows t tag).mem.poisoned r = true := by
  induction t generalizing s with
  | nil => exact hr.resolve_left (by simp)
  | cons x t ih =>
    rw [List.map_cons, List.mem_cons, or_assoc] at hr
    have hrest (m : MemBlk) (hp : m.poisoned r = if r = x.1 then true else s.mem.poisoned r) :
        r ∈ t.map Prod.fst ∨ m.poisoned r = true := by
      obtain rfl | hin | hold := hr
      · exact .inr (hp.trans (if_pos rfl))
      · exact .inl hin
      · exact .inr (by rw [hp, hold, ite_self])
    obtain ⟨row, _ | d⟩ := x
    · exact ih (s := s.setMem _) (MemBlk.setPoison_wf h row true) (hrest _ (MemBlk.poisoned_setPoison h row r true))
    · rw [poisonRows_cons_some]
      have hmem : (s.writeRow row 0xFFFF d tag true).mem = s.mem.writeRow row 0xFFFF d tag true := State.setMem_mem s _
      refine ih ?_ (hrest _ ?_)
      · rw [hmem]
        exact MemBlk.writeRow_wf h row _ d tag true
      · rw [hmem]
        exact MemBlk.poisoned_writeRow_full h row r d tag true

end

/-! ## The end of R78 -/

/-- What an abort leaves of its Lantern. -/
structure Lantern.Ended (l : Lantern) (inst : Inst) (a : Abort) (end_ : Nat) : Prop where
  mode : l.mode = .halted
  err : l.err.getLsbD 0 = true
  active : l.active = []
  shadow : l.shadow = []
  isolated : l.isolated = true
  arrInst : l.arrInst = some inst
  drainEnd : l.drainEnd = end_
  occEnd : l.occEnd = if a.again then none else some end_
  failed : a.again = true → l.failed.isSome = true

/-- An abort of the work of `inst` on Lantern n leads from one state to another. -/
structure State.Ends (s t : State) (n : LnId) (inst : Inst) (a : Abort) (dest : List (Nat × Option Row)) (end_ : Nat) : Prop where
  lantern : t.lan[n].Ended inst a end_
  others : ∀ m : LnId, m ≠ n → t.lan[m] = s.lan[m]
  mem : t.mem = (s.poisonRows dest s.freeTag).mem
  newest : t.newest = some ⟨max t.time.ftb (t.lFtb (n.1 / 9) a.at_), a.code, 1, n.1, detail a.items⟩
  only : Only [.mem, .misc, .lan, .log, .sad] s t

theorem lFtb_congr {s t : State} (ht : t.time = s.time) (hm : t.mgmt = s.mgmt) (q c : Nat) : t.lFtb q c = s.lFtb q c := by
  simp only [State.lFtb, State.perTick, ht, hm]

section
variable {s t : State} {n : LnId} {inst : Inst} {a : Abort} {dest : List (Nat × Option Row)} {end_ : Nat}

/-- A targeted test after an abort leaves what the abort has left. -/
theorem State.Ends.targetLn (h : s.Ends t n inst a dest end_) (line : Option (Bool × Nat)) : s.Ends (t.targetLn n line) n inst a dest end_ := by
  have honly := targetLn_only t n line
  have htime : (t.targetLn n line).time = t.time := honly .time (by simp)
  refine ⟨?_, fun m hm => (targetLn_other t line hm.symm).trans (h.others m hm), (honly .mem (by simp)).trans h.mem, ?_,
    h.only.right honly (by simp)⟩
  · obtain ⟨x, hx⟩ := targetLn_tst t n n line
    rw [hx]
    obtain ⟨hmode, herr, hactive, hshadow, hisolated, harr, hdrain, hocc, hfailed⟩ := h.lantern
    exact ⟨hmode, herr, hactive, hshadow, hisolated, harr, hdrain, hocc, hfailed⟩
  · rw [newest_congr (honly .log (by simp)), h.newest, htime, lFtb_congr htime (honly .mgmt (by simp))]

theorem endChain_ends (s : State) (n : LnId) (inst : Inst) (a : Abort) (dest : List (Nat × Option Row)) (streamed end_ : Nat) :
    s.Ends (s.endChain n inst a dest streamed end_) n inst a dest end_ := by
  unfold State.endChain
  extract_lets u v w
  have hrows : Only [.mem, .misc] s u := Only.left (poisonRows_only dest s.freeTag s) ((fresh_only _ 1).mono (by simp)) (by simp)
  have hw : s.Ends w n inst a dest end_ := by
    refine ⟨?_, fun m hm => ?_, rfl, rfl, ?_⟩
    · show v.lan[n].Ended inst a end_
      refine (setLan_self u n _).symm ▸ ⟨rfl, ?_, rfl, rfl, rfl, rfl, rfl, rfl, fun hagain => ?_⟩
      · simp
      · rw [hagain]
        rcases a.loc with _ | ⟨_, _, _⟩ <;> rfl
    · exact (setLan_other u _ hm.symm).trans (congrArg (·[m]) (hrows .lan (by simp)))
    · exact ((hrows.mono (by simp)).right (setLan_only u n _) (by simp)).right (logAt_only v _ _ _ _ _) (by simp)
  split
  · exact hw.targetLn _
  · exact hw

end

/-! ## Passes and chains (R66, R69) -/

/-- A pass changes the machine by its reads, its counts and events, and its faults. -/
theorem ChainRun.pass_only (c : ChainRun) (n : LnId) (zps : List Int) (x : PassAt) (flt : List LnFault) :
    Only [.mem, .fab, .log, .sad, .lan, .wick, .rel] c.st (c.pass n zps x flt).st := by
  unfold ChainRun.pass
  extract_lets far atEnd s abft par wList rows issue data bank wsh need
  split
  · exact Only.refl _ c.st
  split
  next fList miss _ =>
  extract_lets got vs abort stop hits
  split
  next s1 wPoison h1 =>
  split
  next s2 fPoison h2 =>
  split
  next s3 pPoison h3 =>
  extract_lets old poison s4 raw ovs s5 s6 sums
  have hweights := readBefore_only s (weightRow n.1) stop wList
  have hfetches := readBefore_only s1 (actRow n.1) stop fList
  have hsums := readBefore_only s2 (psumRow n.1) stop (need.map fun k => (x.p.destRow + k, x.s + 256 + k / 4))
  rw [h1] at hweights
  rw [h2] at hfetches
  rw [h3] at hsums
  have hpoison : Only [.lan, .log, .sad] s3 s4 := by
    unfold s4
    clear_value poison
    split
    · exact Only.left (setLan_only s3 n _) ((logAt_only _ _ _ _ _ _).mono (by simp)) (by simp)
    · exact Only.refl _ s3
  have hover : Only [.lan, .log, .sad] s4 s5 := accOverflow_only s4 n _ _ _ _
  have hfaults : Only [.lan, .log, .sad, .rel] s5 s6 := Only.foldl _ (fun t f => residueLn_only t n 2 _) hits s5
  exact (((hweights.step hfetches).step hsums).mono (by simp)).step (((hpoison.step hover).mono (by simp)).step (hfaults.mono (by simp)))

/-- A Lantern whose chain of k passes has drained. -/
def Lantern.drained (l : Lantern) (inst : Inst) (run : ChainRun) (drain k : Nat) : Lantern :=
  { l with
    mode := .idle, active := run.bank, shadow := run.old, drainEnd := drain, lastStream := run.last, isolated := false, arrInst := some inst
    passCount := l.passCount + BitVec.ofNat 64 k }

section
variable (s : State) (n : LnId) (inst : Inst) (im : JobImage) (ps : List (Nat × PassDesc)) (ls ss preload : Nat) (flt : List LnFault)

/-- After its passes a chain ends by R78, or writes its rows and leaves its Lantern drained. -/
theorem runChain_cases : ∃ st, Only [.mem, .fab, .log, .sad, .lan, .wick, .rel] s st ∧
    ((∃ a dest streamed end_, s.runChain n inst im ps ls ss preload flt = (st.endChain n inst a dest streamed end_, some a)) ∨
      ∃ rows run drain k, s.runChain n inst im ps ls ss preload flt =
        (((st.writeRows rows st.freeTag).fresh 1).setLan n fun l => l.drained inst run drain k, none)) := by
  unfold State.runChain
  extract_lets descs xs run drain dest spans st streamed
  have hpasses : Only [.mem, .fab, .log, .sad, .lan, .wick, .rel] s run.st :=
    List.foldlRecOn (motive := fun c : ChainRun => Only [.mem, .fab, .log, .sad, .lan, .wick, .rel] s c.st) _ _ (Only.refl _ s)
      fun c hc x _ => hc.step (c.pass_only n im.zps _ _)
  refine ⟨st, hpasses.right (setLan_only run.st n _) (by simp), ?_⟩
  split
  · exact .inl ⟨_, _, _, _, rfl⟩
  · exact .inr ⟨_, run, drain, ps.length, rfl⟩

variable {s n inst im ps ls ss preload flt} {u : State}

theorem runChain_only {o : Option Abort} (h : s.runChain n inst im ps ls ss preload flt = (u, o)) :
    Only [.mem, .fab, .log, .sad, .lan, .wick, .rel, .misc] s u := by
  obtain ⟨st, hst, ⟨a, dest, streamed, end_, heq⟩ | ⟨rows, run, drain, k, heq⟩⟩ := runChain_cases s n inst im ps ls ss preload flt
  · obtain ⟨rfl, -⟩ := Prod.mk.inj (h.symm.trans heq)
    exact (hst.mono (by simp)).right (endChain_ends st n inst a dest streamed end_).only (by simp)
  · obtain ⟨rfl, -⟩ := Prod.mk.inj (h.symm.trans heq)
    exact (((hst.mono (by simp)).right (writeRows_only st _ _) (by simp)).right (fresh_only _ 1) (by simp)).right (setLan_only _ n _) (by simp)

theorem runChain_drained (h : s.runChain n inst im ps ls ss preload flt = (u, none)) :
    ∃ l run drain k, u.lan[n] = Lantern.drained l inst run drain k := by
  obtain ⟨st, -, ⟨a, dest, streamed, end_, heq⟩ | ⟨rows, run, drain, k, heq⟩⟩ := runChain_cases s n inst im ps ls ss preload flt
  · cases h.symm.trans heq
  · obtain ⟨rfl, -⟩ := Prod.mk.inj (h.symm.trans heq)
    exact ⟨_, run, drain, k, setLan_self _ n _⟩

theorem runChain_aborted {a : Abort} (h : s.runChain n inst im ps ls ss preload flt = (u, some a)) :
    ∃ st dest end_, State.Ends st u n inst a dest end_ := by
  obtain ⟨st, -, ⟨a', dest, streamed, end_, heq⟩ | ⟨rows, run, drain, k, heq⟩⟩ := runChain_cases s n inst im ps ls ss preload flt
  · obtain ⟨rfl, ha⟩ := Prod.mk.inj (h.symm.trans heq)
    cases ha
    exact ⟨st, dest, end_, endChain_ends st n inst a dest streamed end_⟩
  · cases h.symm.trans heq

end

/-! ## The commands -/

section
variable {s : State} {i : Inst} {e : TtEntry} {n : LnId} {im : JobImage} (hs : Starts s i 1 e) (hn : s.rel.lnPhys e.unit = some n)
  (hi : s.job.image = some im)
include hs hn hi

theorem chainEffect_eq (start : Nat) (flt : List LnFault) {c : Nat} (hc : c = (s.startOf e i).startCycle n e i start) :
    chainEffect i start flt s = ((s.startOf e i).runChain n i im (im.chainPasses (e.arg i.inst) e.arg1) (s.lan[n].loadStart c)
      (max (s.lan[n].loadStart c + 256) s.lan[n].drainEnd) (s.lan[n].preload c) flt).1 := by
  subst hc
  unfold chainEffect
  rw [startInst_eq s i 1 e _ hs]
  simp only [startOf_rel, startOf_job, start_image, startOf_lan, hn, hi]

/-- A hang is the abort of its chain at the end of the allowance of R456. -/
theorem lanternHangEffect_ends (start pass : Nat) {c x : Nat} (hc : c = (s.startOf e i).startCycle n e i start)
    (hx : x = max (s.lan[n].loadStart c + 256) s.lan[n].drainEnd + streamLen ((im.chainPasses (e.arg i.inst) e.arg1).map (·.2)) + 256 + 4096) :
    ∃ (u : State) (a : Abort) (dest : List (Nat × Option Row)), u.Ends (lanternHangEffect i start pass s) n i a dest x ∧
      (a.at_ = x ∧ a.code = 0x0B0D ∧ a.again = true ∧
        a.items = [(4, ((im.chainPasses (e.arg i.inst) e.arg1)[pass]?.map (·.1)).getD (e.arg i.inst)), (4, 4096)]) ∧
      dest.map Prod.fst = destRows n ((im.chainPasses (e.arg i.inst) e.arg1).map (·.2)) ∧
      Only [.lan, .misc] (s.startOf e i) u ∧ ∀ m : LnId, m ≠ n → u.lan[m] = s.lan[m] := by
  unfold lanternHangEffect
  rw [startInst_eq s i 1 e _ hs]
  simp only [startOf_rel, startOf_job, start_image, startOf_lan, hn, hi, ← hc, ← hx]
  refine ⟨_, _, _, endChain_ends _ n i _ _ 0 x, ⟨rfl, rfl, rfl, rfl⟩, ?_, ?_, fun m hm => ?_⟩
  · rw [List.map_map]
    exact List.map_snd_zip (by simp)
  · exact Only.left (setLan_only _ n _) ((fresh_only _ _).mono (by simp)) (by simp)
  · rw [State.fresh_lan, setLan_other _ _ hm.symm, startOf_lan]

end

/-- A HALTED Lantern is IDLE once its placed occupancy has ended. -/
theorem haltedEndEffect_eq {s : State} {n : LnId} {x : Nat} (hm : s.lan[n].mode = .halted) (hx : s.lan[n].occEnd = some x) :
    haltedEndEffect n s = (s.reach (s.lFtb (n.1 / 9) x)).setLan n fun l => { l with mode := .idle, occEnd := none } := by
  simp only [haltedEndEffect, hm, hx]

/-! ## O29 -/

/-- Settles O29: a run of a chain drains or ends by R78, and a hang is such an end. That LANTERN_HANG names the pass by its descriptor
index is log 55, its 4,096 in a field of 32 bits log 59. -/
theorem chainsDrainOrHalt : Obligations.ChainsDrainOrHalt := by
  unfold Obligations.ChainsDrainOrHalt
  refine ⟨?drains, ?aborts, ?occupancyEnds, ?hangs⟩
  case drains =>
    intro i start c flt e n im u s hs hn hi hc hrun
    refine ⟨_, rfl, ?_⟩
    rw [chainEffect_eq hs hn hi start flt hc, hrun]
    obtain ⟨l, run, drain, k, hl⟩ := runChain_drained hrun
    obtain ⟨hstart, hplaced⟩ := le_startCycle (s.startOf e i) e i n start
    rw [startOf_job, start_placed, ← hc] at hplaced
    refine ⟨rfl, ?_, ?_, ?_, hplaced, hc ▸ hstart, ?_⟩
    · rw [hl, Lantern.drained]
    · rw [hl, Lantern.drained]
    · rw [hl, Lantern.drained]
    · exact ((startOf_only s e i).mono (by simp)).right (runChain_only hrun) (by simp)
  case aborts =>
    intro i start c flt e n im u a s hs hn hi hc hrun
    refine ⟨_, rfl, ?_⟩
    rw [chainEffect_eq hs hn hi start flt hc, hrun]
    obtain ⟨st, dest, end_, hends⟩ := runChain_aborted hrun
    obtain ⟨hmode, herr, hactive, hshadow, -, -, -, -, hfailed⟩ := hends.lantern
    exact ⟨rfl, hmode, herr, hactive, hshadow, hfailed, hends.newest⟩
  case occupancyEnds =>
    intro n x s hm hx
    refine ⟨_, rfl, ?_⟩
    rw [haltedEndEffect_eq hm hx]
    refine ⟨?_, ?_, ?_⟩
    · rw [State.setLan_lan, reach_lan]
    · rw [State.setLan_time]
      exact le_reach s _
    · exact ((reach_only s _).mono (by simp)).right (setLan_only _ n _) (by simp)
  case hangs =>
    intro i start pass c x e n im s hs hn hi hwf hc hx
    obtain ⟨u, a, dest, hends, ⟨hat, hcode, hagain, hitems⟩, hdest, hu, hothers⟩ := lanternHangEffect_ends hs hn hi start pass hc hx
    obtain ⟨hmode, -, -, -, -, -, hdrain, hocc, hfailed⟩ := hends.lantern
    refine ⟨_, rfl, hmode, hfailed hagain, ?_, hdrain, fun r hr => ?_, ?_, fun m hm => (hends.others m hm).trans (hothers m hm)⟩
    · rw [hocc, hagain, if_pos rfl]
    · rw [hends.mem]
      exact poisonRows_poisoned dest u.freeTag (by rw [hu .mem (by simp)]; exact hwf) (.inl (hdest ▸ hr))
    · rw [hends.newest, hat, hcode, hitems]

end Sys2Proof.Machine
end

section
/-! PROOFS. The requantiser and the global-average unit (R41, R86, R88, R89), and O30 from their rules. -/
namespace Sys2Proof.Machine

/-! ## Operating modes and channel records under row accesses (R116, R167, R462) -/

/-- The operating mode and the channel records of each Lantern. -/
def State.setUps (s : State) (n : LnId) : LnMode × List (Nat × ChanRec) := (s.lan[n].mode, s.lan[n].params)

theorem setUps_congr {s t : State} (h : t.lan = s.lan) : t.setUps = s.setUps := by
  funext n
  rw [State.setUps, State.setUps, h]

theorem setLan_setUps (s : State) (n : LnId) {f : Lantern → Lantern} (hmode : ∀ l, (f l).mode = l.mode) (hparams : ∀ l, (f l).params = l.params) :
    (s.setLan n f).setUps = s.setUps := by
  funext m
  rw [State.setUps, State.setUps]
  by_cases h : n = m
  · subst m
    rw [setLan_self, hmode, hparams]
  · rw [setLan_other s f h]

section
variable (s : State)

theorem targetLn_setUps (n : LnId) (line : Option (Bool × Nat)) : (s.targetLn n line).setUps = s.setUps := by
  funext m
  obtain ⟨t, ht⟩ := targetLn_tst s n m line
  rw [State.setUps, State.setUps, ht]

theorem targetOwner_setUps (a : Nat) : (s.targetOwner a).setUps = s.setUps := by
  have hwick (w : WkId) : (s.targetWk w).setUps = s.setUps := setUps_congr (targetWk_only s w .lan (by simp))
  unfold State.targetOwner
  split
  · split
    · exact targetLn_setUps s _ none
    · rfl
  iterate 4
    split
    · exact hwick _
    · rfl
  rfl

theorem checkRow_setUps (row : Nat) (secs : List Nat) : (s.checkRow row secs).setUps = s.setUps := by
  have herror (t : State) (x : MemBlk) (m : Nat) (f : MemCtr → MemCtr) (code k n : Nat) (d : List (Nat × Nat)) :
      ((((t.setMem x).updCtr m f).logEv code k n d).targetOwner row).setUps = t.setUps :=
    (targetOwner_setUps _ row).trans (setUps_congr rfl)
  unfold State.checkRow
  extract_lets m e sb ce t u v
  have ht : t.setUps = s.setUps := by
    unfold t
    split <;> rfl
  have hv : v.setUps = s.setUps := by
    rw [← ht]
    clear_value t
    unfold v
    split
    · rfl
    · exact herror t _ m _ _ _ _ _
  split
  · exact (herror v _ m _ _ _ _ _).trans hv
  · exact hv

theorem readRows_setUps (l : List Nat) : (s.readRows l).1.setUps = s.setUps := by
  unfold State.readRows
  exact List.foldlRecOn (motive := fun a : State × List RowData => a.1.setUps = s.setUps) _ _ rfl
    fun a ha r _ => (checkRow_setUps a.1 r allSectors).trans ha

theorem accOverflow_setUps (n : LnId) (first : Option (Nat × Nat)) (k : Nat) (logIt : Bool) (idx : Nat) :
    (s.accOverflow n first k logIt idx).setUps = s.setUps := by
  unfold State.accOverflow
  split
  · rfl
  · dsimp only
    split
    · exact (setUps_congr rfl).trans (setLan_setUps s n (fun _ => rfl) fun _ => rfl)
    · exact setLan_setUps s n (fun _ => rfl) fun _ => rfl

end

/-! ## Runs (R86, R88, R89) -/

/-- A Lantern whose requantiser works for `inst` over `len` L-cycles up to `end_`. -/
def Lantern.requantised (l : Lantern) (inst : Inst) (els : List Elem) (len end_ : Nat) : Lantern :=
  { l with rq := l.rq.addAll els, occupancy := len, rqInst := some inst, rqEnd := end_ }

/-- A Lantern after a global-average operation whose occupancy ends at `end_`. -/
structure Lantern.Averaged (l : Lantern) (inst : Inst) (end_ : Nat) : Prop where
  mode : l.mode = .idle ∨ l.mode = .halted
  isolated : l.isolated = true
  arrInst : l.arrInst = some inst
  drainEnd : l.drainEnd = end_

section
variable (s : State) (n : LnId) (inst : Inst) (im : JobImage) (idx start : Nat)

/-- Without faults a requantiser operation takes its source rows and 12 L-cycles on a Lantern of unchanged mode and channel records. -/
theorem runRequant_lantern (op : RqOp) : ∃ u els, State.setUps u = s.setUps ∧ (s.runRequant n inst im idx start op []).lan[n] =
    u.lan[n].requantised inst els ((sourceRows op).length + 12) (start + ((sourceRows op).length + 12)) := by
  unfold State.runRequant
  extract_lets src hits add rec_ count tag len
  split
  next s1 ds hread =>
  extract_lets got row raw ovs sums s2 s3
  split
  next els0 shifts _ =>
  extract_lets els s4 s5 s6 s7 lost s8
  have h1 : s1.setUps = s.setUps := by
    have hrows := readRows_setUps s (src.map fun r => psumRow n.1 r)
    rwa [hread] at hrows
  have h2 : s2.setUps = s1.setUps := by
    unfold s2
    clear_value got
    split <;> rfl
  have h3 : s3.setUps = s2.setUps := accOverflow_setUps s2 n _ _ _ _
  have h4 : Only [.mem, .fab, .log, .sad] s3 s4 := Only.foldl _ (fun t c => Only.foldl _ (fun t r => rqWrite_only t n _ _ _ _ _ _) _ t) _ s3
  have h5 : Only [.mem, .fab, .log, .sad] s4 s5 := Only.foldl _ (fun t g => Only.foldl _ (fun t r => rqWrite_only t n _ _ _ _ _ _) _ t) _ s4
  have h6 : Only [.mem, .fab, .log, .sad] s5 s6 := by
    unfold s6
    split
    · exact Only.foldl _ (fun t r => rqWrite_only t n _ _ _ _ _ _) _ s5
    · exact Only.refl _ s5
  have hwrites : s6.lan = s3.lan := ((h4.step h5).step h6) .lan (by simp)
  have hlog : s8.lan = s7.lan := by
    unfold s8
    split <;> rfl
  refine ⟨s6, els0, ((setUps_congr hwrites).trans h3).trans (h2.trans h1), ?_⟩
  show s8.lan[n] = _
  rw [hlog]
  exact setLan_self s6 n _

/-- Without faults a global-average operation averages or ends by R78. -/
theorem runGavg_lantern (o : GavgOp) : ((s.runGavg n inst im idx start o []).lan[n]).Averaged inst (start + o.occupancy) := by
  unfold State.runGavg
  extract_lets g s1 dest spans hits ovs s2 means bad s3 s4 len
  split
  · next a _ =>
    obtain ⟨hmode, -, -, -, hisolated, harr, hdrain, -, -⟩ :=
      (endChain_ends (s1.setLan n fun l => spans l a.at_) n inst a (dest.map fun r => (r, none)) 0 (start + o.occupancy)).lantern
    exact ⟨.inr hmode, hisolated, harr, hdrain⟩
  · exact (setLan_self s4 n _).symm ▸ ⟨.inl rfl, rfl, rfl, rfl⟩

end

/-! ## The commands -/

section
variable {s : State} {i : Inst} {e : TtEntry} {n : LnId} {im : JobImage} (hn : s.rel.lnPhys e.unit = some n) (hi : s.job.image = some im)
include hn hi

theorem requantEffect_eq (hs : Starts s i 2 e) {op : RqOp} (ho : im.rqops[e.arg i.inst]? = some op) (start : Nat) (flt : List LnFault) :
    requantEffect i start flt s =
      (s.startOf e i).runRequant n i im (e.arg i.inst) ((s.startOf e i).startCycle n e i start) op flt := by
  unfold requantEffect
  rw [startInst_eq s i 2 e _ hs]
  simp only [startOf_rel, startOf_job, start_image, hn, hi, ho]

theorem gavgEffect_eq (hs : Starts s i 3 e) {o : GavgOp} (ho : im.gavgs[e.arg i.inst]? = some o) (start : Nat) (flt : List LnFault) :
    gavgEffect i start flt s =
      (s.startOf e i).runGavg n i im (e.arg i.inst) (max ((s.startOf e i).startCycle n e i start) s.lan[n].drainEnd) o flt := by
  unfold gavgEffect
  rw [startInst_eq s i 3 e _ hs]
  simp only [startOf_rel, startOf_job, start_image, startOf_lan, hn, hi, ho]

end

/-! ## O30 -/

/-- Settles O30: each operation is the run of its descriptor, and the run leaves its length and its end in the Lantern. -/
theorem requantiserAndAverageUnitRun : Obligations.RequantiserAndAverageUnitRun := by
  unfold Obligations.RequantiserAndAverageUnitRun
  refine ⟨?requant, ?gavg⟩
  case requant =>
    intro i start c e n im op s hs hn hi ho hc
    refine ⟨_, rfl, ?_⟩
    rw [requantEffect_eq hn hi hs ho, ← hc]
    obtain ⟨u, els, hsetUps, hl⟩ := runRequant_lantern (s.startOf e i) n i im (e.arg i.inst) c op
    have hkept := congrFun (hsetUps.trans (setUps_congr (startOf_lan s e i))) n
    obtain ⟨hmode, hparams⟩ := Prod.mk.inj hkept
    rw [hl]
    exact ⟨rfl, rfl, rfl, (Nat.add_assoc _ _ _).symm, hmode, hparams⟩
  case gavg =>
    intro i start c e n im o s hs hn hi ho hc
    refine ⟨_, rfl, ?_⟩
    rw [gavgEffect_eq hn hi hs ho, ← hc]
    obtain ⟨hmode, hisolated, harr, hdrain⟩ := runGavg_lantern (s.startOf e i) n i im (e.arg i.inst) c o
    exact ⟨rfl, hmode, hisolated, harr, hdrain.trans (Nat.add_assoc _ _ _).symm⟩

end Sys2Proof.Machine
end

section
/-! PROOFS. The requantiser's rounding, codes and block shift (R112, R113, R117, R118, R128), and O32 from their rules. -/
namespace Sys2Proof.Machine

/-! ## Rounding to nearest, ties away from zero (R112, R128) -/

/-- q is nearest to v / d, and of two nearest the one farther from zero. -/
def NearestAway (v d q : Int) : Prop := 2 * (v - d * q).natAbs ≤ d ∧ (2 * (v - d * q).natAbs = d → v.natAbs < (d * q).natAbs)

theorem roundDiv_of_nonneg {v : Int} (hv : 0 ≤ v) (d : Nat) : roundDiv v d = (2 * v + d) / (2 * d) := by
  rw [roundDiv, if_neg (not_lt.2 hv)]
  push_cast
  rw [abs_of_nonneg hv]

theorem roundDiv_of_neg {v : Int} (hv : v < 0) (d : Nat) : roundDiv v d = -roundDiv (-v) d := by
  rw [roundDiv, roundDiv, if_pos hv, if_neg (by omega), Int.natAbs_neg]

/-- Twice the error is d less the remainder of 2v + d by 2d; that remainder is 0 at a tie, and there the quotient lies above v / d. -/
theorem roundDiv_nearestAway_of_nonneg {v : Int} (hv : 0 ≤ v) {d : Nat} (hd : 0 < d) : NearestAway v d (roundDiv v d) := by
  have hdown := Int.mul_ediv_self_le (x := 2 * v + d) (k := 2 * d) (by omega)
  have hup := Int.lt_mul_ediv_self_add (x := 2 * v + d) (k := 2 * d) (by omega)
  rw [← roundDiv_of_nonneg hv, mul_assoc] at hdown hup
  unfold NearestAway
  omega

theorem NearestAway.neg {v d q : Int} (h : NearestAway v d q) : NearestAway (-v) d (-q) := by
  unfold NearestAway at h ⊢
  rwa [mul_neg, ← neg_sub', Int.natAbs_neg, Int.natAbs_neg, Int.natAbs_neg]

theorem roundDiv_nearestAway (v : Int) {d : Nat} (hd : 0 < d) : NearestAway v d (roundDiv v d) := by
  obtain hv | hv := lt_or_ge v 0
  · have h := (roundDiv_nearestAway_of_nonneg (neg_nonneg.2 hv.le) hd).neg
    rwa [← roundDiv_of_neg hv, neg_neg] at h
  · exact roundDiv_nearestAway_of_nonneg hv hd

theorem roundShift_eq_roundDiv_of_nonneg {v : Int} (hv : 0 ≤ v) (sh : Nat) : roundShift v sh = roundDiv v (2 ^ sh) := by
  rw [roundDiv_of_nonneg hv]
  cases sh with
  | zero =>
    rw [roundShift, if_pos rfl]
    omega
  | succ k =>
    have hdouble : 2 * v + ((2 ^ (k + 1) : Nat) : Int) = 2 * (v + 2 ^ k) := by
      push_cast
      ring
    rw [roundShift, if_neg k.succ_ne_zero, if_pos hv, hdouble, Int.mul_ediv_mul_of_pos _ _ two_pos]
    push_cast
    rfl

theorem roundShift_of_neg {v : Int} (hv : v < 0) (sh : Nat) : roundShift v sh = -roundShift (-v) sh := by
  rw [roundShift, roundShift, if_neg (not_le.2 hv), if_pos (neg_nonneg.2 hv.le)]
  split
  · exact (neg_neg v).symm
  · rfl

/-- The rounding shift is the rounding divider at a power of two. -/
theorem roundShift_eq_roundDiv (v : Int) (sh : Nat) : roundShift v sh = roundDiv v (2 ^ sh) := by
  obtain hv | hv := lt_or_ge v 0
  · rw [roundShift_of_neg hv, roundDiv_of_neg hv, roundShift_eq_roundDiv_of_nonneg (neg_nonneg.2 hv.le)]
  · exact roundShift_eq_roundDiv_of_nonneg hv sh

theorem roundShift_nearestAway (v : Int) (sh : Nat) : NearestAway v (2 ^ sh) (roundShift v sh) := by
  rw [roundShift_eq_roundDiv]
  exact_mod_cast roundDiv_nearestAway v (Nat.two_pow_pos sh)

/-! ## Codes (R113, R118) -/

section
variable {lo hi v : Int}

theorem plainCode_of_mem (hlo : lo ≤ v) (hhi : v ≤ hi) : plainCode lo hi v = (v, .none) := by
  rw [plainCode, if_neg (not_lt.2 hhi), if_neg (not_lt.2 hlo)]

theorem plainCode_of_gt (h : hi < v) : plainCode lo hi v = (hi, .hi) := if_pos h

theorem plainCode_of_lt (hle : lo ≤ hi) (h : v < lo) : plainCode lo hi v = (lo, .lo) := by
  rw [plainCode, if_neg (not_lt.2 (h.le.trans hle)), if_pos h]

theorem plainCode_mem (hle : lo ≤ hi) (v : Int) : (plainCode lo hi v).1 ∈ Set.Icc lo hi := by
  obtain h | hlo := lt_or_ge v lo
  · rw [plainCode_of_lt hle h]
    exact Set.left_mem_Icc.2 hle
  obtain h | hhi := lt_or_ge hi v
  · rw [plainCode_of_gt h]
    exact Set.right_mem_Icc.2 hle
  · rw [plainCode_of_mem hlo hhi]
    exact ⟨hlo, hhi⟩

/-- A captured code is the escape code, of a value with an entry free and in the entry's range, or a code above it and at most qmax. -/
theorem captureCode_cases (h : lo < hi) (v : Int) (held cap : Nat) :
    (captureCode lo hi v held cap = (lo, .escape) ∧ held < cap ∧ -(2 ^ 31) + 1 ≤ v ∧ v ≤ 2 ^ 31 - 1) ∨
    (lo < (captureCode lo hi v held cap).1 ∧ (captureCode lo hi v held cap).1 ≤ hi ∧ (captureCode lo hi v held cap).2 ≠ .escape) := by
  have hsat : lo < (if hi < v then hi else lo + 1) ∧ (if hi < v then hi else lo + 1) ≤ hi := by
    split <;> omega
  unfold captureCode
  extract_lets sat
  split
  case isTrue hin => exact .inr ⟨hin.1, hin.2, nofun⟩
  split
  case isTrue => exact .inr ⟨hsat.1, hsat.2, nofun⟩
  case isFalse hrange =>
    split
    case isTrue => exact .inr ⟨hsat.1, hsat.2, nofun⟩
    case isFalse hheld =>
      rw [not_or, not_lt, not_lt] at hrange
      exact .inl ⟨rfl, not_le.1 hheld, hrange.1, hrange.2⟩

end

/-! ## The shift of a block (R117) -/

/-- The test of R117: every mantissa of the block fits eight bits at shift k. -/
def blockFits (l : List (Int × Nat)) (k : Nat) : Bool :=
  l.all fun x => decide (-128 ≤ roundShift x.1 (x.2 + k) ∧ roundShift x.1 (x.2 + k) ≤ 127)

theorem blockFits_iff (l : List (Int × Nat)) (k : Nat) :
    blockFits l k = true ↔ ∀ x ∈ l, -128 ≤ roundShift x.1 (x.2 + k) ∧ roundShift x.1 (x.2 + k) ≤ 127 := by
  simp only [blockFits, List.all_eq_true, decide_eq_true_eq]

theorem blockShift_eq_find (l : List (Int × Nat)) : blockShift l = ((List.range 32).find? (blockFits l)).getD 31 := rfl

theorem blockShift_isLeast {l : List (Int × Nat)} {k : Nat} (hk : k < 32) (hfits : blockFits l k = true) :
    IsLeast {s | blockFits l s = true} (blockShift l) := by
  rw [blockShift_eq_find]
  cases hfind : (List.range 32).find? (blockFits l) with
  | none =>
    have hmisfit := (Bool.not_eq_true' _).mp (List.find?_range_eq_none.1 hfind k hk)
    exact absurd (hmisfit.symm.trans hfits) Bool.false_ne_true
  | some s =>
    obtain ⟨hs, -, hbelow⟩ := List.find?_range_eq_some.1 hfind
    refine ⟨hs, fun j hj => not_lt.1 fun hlt => ?_⟩
    have hmisfit := (Bool.not_eq_true' _).mp (hbelow j hlt)
    exact Bool.false_ne_true (hmisfit.symm.trans hj)

/-! ## O32 -/

/-- Settles O32: the shift and the divider round alike, and each code follows the rule of its side. -/
theorem requantiserRoundsAndSaturates : Obligations.RequantiserRoundsAndSaturates := by
  unfold Obligations.RequantiserRoundsAndSaturates
  refine ⟨?value, ?ties, ?plain, ?captured, ?block, ?divider⟩
  case value =>
    intro r zp acc
    have h := (roundShift_nearestAway ((acc + r.bias) * r.m) r.sh).1
    rw [requantValue, add_sub_cancel_right]
    exact_mod_cast h
  case ties =>
    intro v sh _ htie
    exact (roundShift_nearestAway v sh).2 (by exact_mod_cast htie)
  case plain =>
    intro lo hi v hle
    obtain ⟨hlo, hhi⟩ := plainCode_mem hle v
    exact ⟨hlo, hhi, plainCode_of_mem, plainCode_of_gt, plainCode_of_lt hle⟩
  case captured =>
    intro lo hi v held cap h
    obtain ⟨heq, hvalue⟩ | ⟨hlo, hhi, hmoved⟩ := captureCode_cases h v held cap
    · rw [heq]
      exact ⟨le_rfl, h.le, iff_of_true rfl rfl, fun _ => hvalue⟩
    · exact ⟨hlo.le, hhi, iff_of_false hlo.ne' hmoved, fun he => absurd he hmoved⟩
  case block =>
    intro l k hk hfits
    have hfits := (blockFits_iff l k).2 hfits
    obtain ⟨hfit, hleast⟩ := blockShift_isLeast hk hfits
    exact ⟨hleast hfits, (blockFits_iff l _).1 hfit⟩
  case divider =>
    intro v d hd
    obtain ⟨hnear, htie⟩ := roundDiv_nearestAway v hd
    exact ⟨by exact_mod_cast hnear, fun h => htie (by exact_mod_cast h)⟩

end Sys2Proof.Machine
end

section
/-! PROOFS. The Winograd identity of R150. The 4 × 4 transform is the transform of one axis applied along the rows and along the
columns, so the identity of one axis, used once for each, gives the whole. -/
namespace Sys2Proof.Machine

/-! ## Sums against a matrix row -/

/-- The sum of n values, each times its coefficient in a row of a transform matrix. -/
def rowSum (row : List Int) (n : Nat) (f : Nat → Int) : Int := ∑ k ∈ Finset.range n, row.getD k 0 * f k

theorem rowSum_congr {row : List Int} {n : Nat} {f f' : Nat → Int} (h : ∀ k < n, f k = f' k) : rowSum row n f = rowSum row n f' :=
  Finset.sum_congr rfl fun k hk => by rw [h k (Finset.mem_range.1 hk)]

theorem rowSum_mul_sum (row : List Int) (n m : Nat) (c : Int) (f : Nat → Nat → Int) :
    rowSum row n (fun k => c * ∑ l ∈ Finset.range m, f k l) = c * ∑ l ∈ Finset.range m, rowSum row n fun k => f k l := by
  simp only [rowSum, Finset.mul_sum]
  rw [Finset.sum_comm]
  exact Finset.sum_congr rfl fun l _ => Finset.sum_congr rfl fun k _ => mul_left_comm _ _ _

/-- A matrix between two rows is the sum along its second axis of the sums along its first. -/
theorem sum_sum_eq_rowSum (r s : List Int) (m n : Nat) (f : Nat → Nat → Int) :
    (∑ a ∈ Finset.range m, ∑ b ∈ Finset.range n, r.getD a 0 * s.getD b 0 * f a b) =
      rowSum s n fun b => rowSum r m fun a => f a b := by
  simp only [rowSum, Finset.mul_sum]
  rw [Finset.sum_comm]
  exact Finset.sum_congr rfl fun b _ => Finset.sum_congr rfl fun a _ => by ring

/-! ## The transforms of R146, R147 and R149 -/

/-- The output transform sums along v and then along u of position ξ = 4u + v. -/
theorem winoOut_eq_rowSum (m : Nat → Int) (i j : Nat) :
    winoOut m i j = rowSum (atRow i) 4 fun u => rowSum (atRow j) 4 fun v => m (4 * u + v) := by
  simp only [winoOut, rowSum, List.range_succ, List.range_zero, List.foldl_append, List.foldl_cons, List.foldl_nil, List.nil_append,
    Finset.sum_range_succ, Finset.sum_range_zero, Nat.reduceDiv, Nat.reduceMod, Nat.reduceMul, Nat.reduceAdd]
  ring

/-- The identity of R150 along one axis: the products of the transformed filter and the transformed samples give, at each of the
two outputs, twice the direct sum of products, since 2G doubles the filter. -/
theorem rowSum_winograd_axis (g d : Nat → Int) {i : Nat} (hi : i < 2) :
    (rowSum (atRow i) 4 fun u => rowSum (twoG u) 3 g * rowSum (btRow u) 4 d) = 2 * ∑ a ∈ Finset.range 3, g a * d (i + a) := by
  match i, hi with
  | 0, _ | 1, _ =>
    simp only [rowSum, Finset.sum_range_succ, Finset.sum_range_zero, atRow, twoG, btRow, List.getD_cons_zero, List.getD_cons_succ,
      if_true, one_ne_zero, if_false]
    ring

/-! ## O33 -/

/-- Settles O33: the identity of one axis, along the columns and then along the rows. -/
theorem winogradIsTheDirectConvolution : Obligations.WinogradIsTheDirectConvolution := by
  unfold Obligations.WinogradIsTheDirectConvolution
  intro d g i j hi hj
  simp only [sum_sum_eq_rowSum]
  rw [winoOut_eq_rowSum]
  calc
    _ = rowSum (atRow i) 4 fun u => rowSum (atRow j) 4 fun v =>
          (rowSum (twoG v) 3 fun b => rowSum (twoG u) 3 fun a => g a b) * rowSum (btRow v) 4 fun q => rowSum (btRow u) 4 fun p => d p q :=
      rowSum_congr fun u _ => rowSum_congr fun v hv => by
        rw [show (4 * u + v) / 4 = u by omega, show (4 * u + v) % 4 = v by omega]
    _ = rowSum (atRow i) 4 fun u => 2 * ∑ b ∈ Finset.range 3,
          (rowSum (twoG u) 3 fun a => g a b) * rowSum (btRow u) 4 fun p => d p (j + b) :=
      rowSum_congr fun _ _ => rowSum_winograd_axis _ _ hj
    _ = 2 * ∑ b ∈ Finset.range 3, 2 * ∑ a ∈ Finset.range 3, g a b * d (i + a) (j + b) := by
      rw [rowSum_mul_sum]
      exact congrArg _ (Finset.sum_congr rfl fun _ _ => rowSum_winograd_axis _ _ hi)
    _ = 4 * ∑ a ∈ Finset.range 3, ∑ b ∈ Finset.range 3, g a b * d (i + a) (j + b) := by
      rw [← Finset.mul_sum, ← mul_assoc, Finset.sum_comm]
      rfl

end Sys2Proof.Machine
end

section
/-! # PROOFS. Every step keeps memory in its canonical form (O4). -/
namespace Sys2Proof.Machine

/-! ## Changes of memory -/

section
variable {m : MemBlk}

theorem MemBlk.storeOuter_wf (h : m.wf) (a : Nat) (l : List Byte) : (m.storeOuter a l).wf := by
  unfold MemBlk.storeOuter
  split
  · obtain ⟨hc, ht, hp, he, hs, hf⟩ := MemBlk.write_wf h a l
    exact ⟨hc, ht, Sparse.clear_wf hp _ _, Sparse.clear_wf he _ _, hs, hf⟩
  · exact MemBlk.write_wf h a l

theorem MemBlk.setEccIf_wf {c : Prop} [Decidable c] (h : m.wf) {a : Nat} {v : Byte} : (if c then m.setEcc a v else m).wf := by
  split
  · exact MemBlk.setEcc_wf h a v
  · exact h

theorem MemBlk.placed_wf {c : Prop} [Decidable c] (h : m.wf) {a b : Nat} {l : List Byte} :
    (if c then m.load a l else m.loadRows b l).wf := by
  split
  · exact MemBlk.load_wf h a l
  · exact MemBlk.loadRows_wf h b l

end

/-! ## What keeps memory canonical and the queue

`Keeps s t` goes from the innermost change of the state outwards: one lemma for each operation of the model, in the order of its files,
whose proof is the operation's own term, with a branch for each of its branches. -/

/-- From one state to another the queue is the same, and memory is in its canonical form if it was. -/
structure Keeps (s t : State) : Prop where
  pending : t.pending = s.pending
  wf : s.mem.wf → t.mem.wf

namespace Keeps
variable {s t u : State}

theorem refl (s : State) : Keeps s s := ⟨rfl, id⟩

/-- The other groups replaced. -/
theorem other {tm lg ln wk dm hb fb jb nt ur hs ap sd rl st se cf mg mi} (h : Keeps s t) :
    Keeps s ⟨t.pending, tm, lg, t.mem, ln, wk, dm, hb, fb, jb, nt, ur, hs, ap, sd, rl, st, se, cf, mg, mi⟩ :=
  ⟨h.pending, h.wf⟩

/-- Memory, and perhaps other groups, replaced. -/
theorem memory {m tm lg ln wk dm hb fb jb nt ur hs ap sd rl st se cf mg mi} (h : Keeps s t) (hm : t.mem.wf → m.wf) :
    Keeps s ⟨t.pending, tm, lg, m, ln, wk, dm, hb, fb, jb, nt, ur, hs, ap, sd, rl, st, se, cf, mg, mi⟩ :=
  ⟨h.pending, hm ∘ h.wf⟩

theorem setMem {m} (h : Keeps s t) (hm : t.mem.wf → m.wf) : Keeps s (t.setMem m) := .memory h hm

theorem ite {c : Prop} [Decidable c] (h : Keeps s t) (k : Keeps s u) : Keeps s (if c then t else u) := by
  split <;> assumption

theorem when {c : Prop} [Decidable c] (h : Keeps s t) (k : Keeps s t → Keeps s u) : Keeps s (if c then u else t) := .ite (k h) h

theorem otherwise {c : Prop} [Decidable c] (h : Keeps s t) (k : Keeps s t → Keeps s u) : Keeps s (if c then t else u) :=
  .ite h (k h)

theorem ite_fst {α : Type} {c : Prop} [Decidable c] {x y : State × α} (h : Keeps s x.1) (k : Keeps s y.1) :
    Keeps s (if c then x else y).1 := by
  split <;> assumption

theorem ite_run {c : Prop} [Decidable c] {x y : VRun} (h : Keeps s x.st) (k : Keeps s y.st) :
    Keeps s (if c then x else y).st := by
  split <;> assumption

theorem ok (h : Keeps s t) : Keeps s (VRun.ok t).st := h

theorem foldl {α : Type} {f : State → α → State} {l : List α} (h : Keeps s t) (hf : ∀ t x, Keeps s t → Keeps s (f t x)) :
    Keeps s (l.foldl f t) := by
  induction l generalizing t with
  | nil => exact h
  | cons x l ih => exact ih (hf t x h)

theorem foldl_fst {α β : Type} {f : State × β → α → State × β} {l : List α} {x : State × β} (h : Keeps s x.1)
    (hf : ∀ x a, Keeps s x.1 → Keeps s (f x a).1) : Keeps s (l.foldl f x).1 := by
  induction l generalizing x with
  | nil => exact h
  | cons a l ih => exact ih (hf x a h)

theorem of_fst {α : Type} {x : State × α} {a : α} (h : Keeps s x.1) (e : x = (t, a)) : Keeps s t := by rw [e] at h; exact h

/-! ### Sys2Proof.Machine.Ops -/

theorem setTime {x} (h : Keeps s t) : Keeps s (t.setTime x) := .other h
theorem setLan {n f} (h : Keeps s t) : Keeps s (t.setLan n f) := .other h
theorem setWick {n f} (h : Keeps s t) : Keeps s (t.setWick n f) := .other h
theorem setEng {n f} (h : Keeps s t) : Keeps s (t.setEng n f) := .other h
theorem setHbm {n f} (h : Keeps s t) : Keeps s (t.setHbm n f) := .other h
theorem setFab {x} (h : Keeps s t) : Keeps s (t.setFab x) := .other h
theorem setJob {x} (h : Keeps s t) : Keeps s (t.setJob x) := .other h
theorem setNet {x} (h : Keeps s t) : Keeps s (t.setNet x) := .other h
theorem setUr {x} (h : Keeps s t) : Keeps s (t.setUr x) := .other h
theorem setHost {x} (h : Keeps s t) : Keeps s (t.setHost x) := .other h
theorem setApp {x} (h : Keeps s t) : Keeps s (t.setApp x) := .other h
theorem setSad {p f} (h : Keeps s t) : Keeps s (t.setSad p f) := .other h
theorem setRel {x} (h : Keeps s t) : Keeps s (t.setRel x) := .other h
theorem setStamp {x} (h : Keeps s t) : Keeps s (t.setStamp x) := .other h
theorem setSec {x} (h : Keeps s t) : Keeps s (t.setSec x) := .other h
theorem setCfg {x} (h : Keeps s t) : Keeps s (t.setCfg x) := .other h
theorem setMgmt {x} (h : Keeps s t) : Keeps s (t.setMgmt x) := .other h
theorem setMisc {x} (h : Keeps s t) : Keeps s (t.setMisc x) := .other h
theorem emit {o} (h : Keeps s t) : Keeps s (t.emit o) := .other h
theorem fresh {n} (h : Keeps s t) : Keeps s (t.fresh n) := .other h
theorem msix {v} (h : Keeps s t) : Keeps s (t.msix v) := .ite (.other h) (.emit h)
theorem irqSource {n} (h : Keeps s t) : Keeps s (t.irqSource n) := .ite (.emit h) h
theorem sadLine {line} (h : Keeps s t) : Keeps s (t.sadLine line) := .other h
theorem logAt {ftb code kind num items} (h : Keeps s t) : Keeps s (t.logAt ftb code kind num items) := .other h
theorem logEv {code kind num items} (h : Keeps s t) : Keeps s (t.logEv code kind num items) := .logAt h

theorem putRecord {e} (h : Keeps s t) : Keeps s (t.putRecord e) :=
  have w {a l lg} : Keeps s { t with mem := t.mem.write a l, log := lg } := .memory h fun k => MemBlk.write_wf k a l
  .ite (.ite (.ite (.msix w) (.irqSource w)) w) (.other h)

theorem dropRecord (h : Keeps s t) : Keeps s t.dropRecord := .other h
theorem putOverflow (h : Keeps s t) : Keeps s t.putOverflow := .ite h (.putRecord (.other h))

theorem record {e} (h : Keeps s t) : Keeps s (t.record e) := by
  unfold State.record
  extract_lets _ u _ v
  have k : Keeps s u := .other h
  have k' : Keeps s v := .putOverflow k
  exact .ite (.ite (.other k) (.dropRecord k)) (.ite (.putRecord k') (.dropRecord k'))

theorem drain (h : Keeps s t) : Keeps s t.drain := .foldl (.other h) (fun _ _ k => .record k)
theorem reach {n} (h : Keeps s t) : Keeps s (t.reach n) := .ite h (.other (.drain h))
theorem tick (h : Keeps s t) : Keeps s t.tick := .reach h
theorem hbmTemp {st temp} (h : Keeps s t) : Keeps s (t.hbmTemp st temp) := .when (.setHbm h) .logEv
theorem anchorClocks (h : Keeps s t) : Keeps s t.anchorClocks := .other h

theorem follow (h : Keeps s t) : Keeps s t.follow := by
  dsimp only [State.follow]
  split
  · exact .ite h (.logEv (.setTime h))
  · exact .when (.setTime (.ite h (.logEv (.setTime h)))) .logEv

theorem ptpChanged (h : Keeps s t) : Keeps s t.ptpChanged := .when (.setTime h) .follow

theorem writeRow {row mask data tag poison} (h : Keeps s t) : Keeps s (t.writeRow row mask data tag poison) :=
  .setMem h fun k => MemBlk.writeRow_wf k _ _ _ _ _

theorem abandonChain {n} (h : Keeps s t) : Keeps s (t.abandonChain n) := by
  dsimp only [State.abandonChain]
  split
  · split
    · exact .ite (.fresh (.foldl h (fun _ _ k => .writeRow k))) h
    · exact h
  · exact h

theorem abandonChains (h : Keeps s t) : Keeps s t.abandonChains := .foldl h (fun _ _ k => .abandonChain k)

/-! ### Sys2Proof.Machine.Fabric -/

theorem targetLn {n line} (h : Keeps s t) : Keeps s (t.targetLn n line) := .ite h (.setLan h)
theorem targetWk {w} (h : Keeps s t) : Keeps s (t.targetWk w) := .ite h (.setWick h)

theorem targetOwner {a} (h : Keeps s t) : Keeps s (t.targetOwner a) := by
  dsimp only [State.targetOwner]
  split
  · split
    · exact .targetLn h
    · exact h
  · split
    · exact .targetWk h
    · exact h
  · split
    · exact .targetWk h
    · exact h
  · split
    · exact .targetWk h
    · exact h
  · split
    · exact .targetWk h
    · exact h
  · exact h

theorem updCtr {m' f} (h : Keeps s t) : Keeps s (t.updCtr m' f) := .setFab h

theorem checkRow {row secs} (h : Keeps s t) : Keeps s (t.checkRow row secs) := by
  unfold State.checkRow
  extract_lets m e sb ce t₁ u t₂
  have h₁ : Keeps s t₁ := .ite h (.updCtr h)
  have h₂ : Keeps s t₂ := by
    unfold t₂
    split
    · exact h₁
    · exact .targetOwner (.logEv (.updCtr (.setMem h₁ fun k => MemBlk.setPoison_wf k _ _)))
  exact .ite (.targetOwner (.logEv (.updCtr (.memory h₂ fun k =>
    MemBlk.setTag_wf (MemBlk.setSbEcc_wf (MemBlk.setPoison_wf k _ _) _ _) _ _)))) h₂

theorem readRow {row} (h : Keeps s t) : Keeps s (t.readRow row).1 := .checkRow h

theorem checkBlock {blk port cws} (h : Keeps s t) : Keeps s (t.checkBlock blk port cws).1 := by
  dsimp only [State.checkBlock]
  split
  · exact .ite (.logEv (.other h)) (.other h)
  · exact h

theorem readBlock {a port} (h : Keeps s t) : Keeps s (t.readBlock a port).1 := .checkBlock h
theorem outerWrite {a l} (h : Keeps s t) : Keeps s (t.outerWrite a l) := .setMem h fun k => MemBlk.storeOuter_wf k _ _

theorem seeHbm {port a n} (h : Keeps s t) : Keeps s (t.seeHbm port a n) := by
  dsimp only [State.seeHbm]
  split
  · exact .foldl h (fun _ _ k => .checkBlock k)
  · exact h

theorem outerRead {a n} (h : Keeps s t) : Keeps s (t.outerRead a n).1 := .seeHbm h

theorem localWrite {w off l} (h : Keeps s t) : Keeps s (t.localWrite w off l) :=
  .setMem h fun k => MemBlk.foldl_wf _ (fun _ _ k => MemBlk.write_wf k _ _) _ k

theorem checkLine {w off access} (h : Keeps s t) : Keeps s (t.checkLine w off access).1 :=
  .ite_fst (.setWick h) (.ite_fst (.targetWk (.logEv (.setWick h))) h)

theorem checkElem {w y elem reader} (h : Keeps s t) : Keeps s (t.checkElem w y elem reader).1 :=
  .ite_fst (.setWick h) (.ite_fst (.targetWk (.logEv (.setWick h))) h)

theorem readVecRow {w r} (h : Keeps s t) : Keeps s (t.readVecRow w r).1 := by
  dsimp only [State.readVecRow]
  exact .foldl h (fun _ _ k => .checkRow k)

theorem writeVecRow {w r mask data tag poison} (h : Keeps s t) : Keeps s (t.writeVecRow w r mask data tag poison) :=
  .ite (.writeRow h) (.foldl h (fun _ _ k => .ite k (.writeRow k)))

theorem countRow {a} (h : Keeps s t) : Keeps s (t.countRow a) := by
  dsimp only [State.countRow]
  split
  · exact h
  · split
    · exact h
    · exact .ite h (.setFab h)

theorem countWait {a from_} (h : Keeps s t) : Keeps s (t.countWait a from_) := .updCtr h

theorem acceptWrite {wr} (h : Keeps s t) : Keeps s (t.acceptWrite wr) := by
  dsimp only [State.acceptWrite]
  split
  · exact .setFab h
  · split
    · exact .writeVecRow h
    · exact h
  · exact .writeRow h
  · exact h

theorem presentWrite {wr eng} (h : Keeps s t) : Keeps s (t.presentWrite wr eng) := by
  dsimp only [State.presentWrite]
  split
  · exact .acceptWrite h
  · exact .updCtr (.setFab h)

theorem takeCredits {i wr} (h : Keeps s t) : Keeps s (t.takeCredits i wr).1 := by
  dsimp only [State.takeCredits]
  split
  · exact .setFab h
  · exact h

theorem fabricWrite {wr eng} (h : Keeps s t) : Keeps s (t.fabricWrite wr eng).1 := by
  dsimp only [State.fabricWrite]
  split
  · exact h
  · refine .ite_fst (.presentWrite h) (.ite_fst (.logEv h) (.ite_fst (.presentWrite h) (.ite_fst (.setFab h) ?_)))
    split
    · exact .presentWrite (.of_fst (.takeCredits h) ‹_›)
    · exact .setFab (.of_fst (.takeCredits h) ‹_›)

theorem cross {src dst tick chan a d} (h : Keeps s t) : Keeps s (t.cross src dst tick chan a d) := .setFab h

theorem fabricRead {port chan a tick} (h : Keeps s t) : Keeps s (t.fabricRead port chan a tick) := by
  dsimp only [State.fabricRead]
  split
  · exact .setFab h
  · exact .cross (.readRow h)
  · split
    · exact .cross (.readVecRow h)
    · exact h
  · exact h

theorem setChan {e c f} (h : Keeps s t) : Keeps s (t.setChan e c f) := .setEng h

theorem endCollision {wr} (h : Keeps s t) : Keeps s (t.endCollision wr) := by
  dsimp only [State.endCollision]
  split
  · exact .setChan h
  · exact h

theorem acceptedAt {wr t'} (h : Keeps s t) : Keeps s (t.acceptedAt wr t') := by
  dsimp only [State.acceptedAt]
  split
  · exact .setChan h
  · exact h

theorem heldRetryEffect {addr engineRead} (h : Keeps s t) : Keeps s (Machine.heldRetryEffect addr engineRead t) := by
  dsimp only [Machine.heldRetryEffect]
  split
  · exact h
  · exact .ite (.updCtr h) (.acceptedAt (.endCollision (.acceptWrite (.setFab h))))

theorem crossingEffect {src dst resolved} (h : Keeps s t) : Keeps s (Machine.crossingEffect src dst resolved t) := by
  dsimp only [Machine.crossingEffect]
  split
  · exact h
  · split
    · exact h
    · exact .ite (.setFab (.reach h)) (.logEv (.setFab (.other (.reach h))))

theorem localRead {w off n} (h : Keeps s t) : Keeps s (t.localRead w off n).1 :=
  .ite_fst (.foldl_fst h (fun _ _ k => .checkLine k)) (.foldl_fst h (fun _ _ k => .checkElem k))

theorem localPut {w off l} (h : Keeps s t) : Keeps s (t.localPut w off l) :=
  .ite (.setMem (.localWrite h) fun k => MemBlk.foldl_wf _ (fun _ _ k => MemBlk.setEccIf_wf k) _ k)
    (.setMem h fun k => MemBlk.foldl_wf _ (fun _ _ k => MemBlk.setEccIf_wf k) _ (MemBlk.write_wf k _ _))

theorem usePort {w off n} (h : Keeps s t) : Keeps s (t.usePort w off n) := .ite (.setWick h) h

theorem localFabric {w port off n write} (h : Keeps s t) : Keeps s (t.localFabric w port off n write).1 := by
  dsimp only [State.localFabric]
  split
  · exact .ite_fst (.logEv h) (.localPut (.usePort h))
  · exact .emit (.localRead (.usePort h))

theorem localFabricEffect {w port off n write} (h : Keeps s t) : Keeps s (Machine.localFabricEffect w port off n write t) :=
  .ite h (.otherwise (.localFabric h) .emit)

/-! ### Sys2Proof.Machine.Rings -/

theorem updRing {k f} (h : Keeps s t) : Keeps s (t.updRing k f) := .other h
theorem ringError {k cause} (h : Keeps s t) : Keeps s (t.ringError k cause) := .logEv (.updRing h)

theorem flushStartLog (h : Keeps s t) : Keeps s t.flushStartLog :=
  .putOverflow (.foldl (.other h) (fun _ _ k => .ite (.putRecord k) (.dropRecord k)))

theorem writeEvCfg {v} (h : Keeps s t) : Keeps s (t.writeEvCfg v) :=
  .ite (.ite h (.other h)) (.ite (.ite (.putOverflow (.other (.drain h))) (.flushStartLog (.other (.drain h)))) (.other h))

theorem writeRingCfg {r v} (h : Keeps s t) : Keeps s (t.writeRingCfg r v) := by
  dsimp only [State.writeRingCfg]
  split
  · exact .updRing h
  · exact .writeEvCfg h

theorem doorbellEffect {k value} (h : Keeps s t) : Keeps s (Machine.doorbellEffect k value t) :=
  .ite (.sadLine h) (.ite (.ringError (.sadLine h)) (.updRing (.sadLine h)))

theorem complete {k ep tag status r0 r1 fail} (h : Keeps s t) : Keeps s (t.complete k ep tag status r0 r1 fail) :=
  have w {a l f} : Keeps s (({ t with mem := t.mem.write a l } : State).updRing k f) := .updRing
      (.memory h fun k => MemBlk.write_wf k a l)
  .ite h (.ite (.ringError h) (.ite (.ite (.msix w) (.irqSource w)) w))

theorem completeHeld {h' status r0 r1} (h : Keeps s t) : Keeps s (t.completeHeld h' status r0 r1) := .complete (.other h)
theorem setSerial {l} (h : Keeps s t) : Keeps s (t.setSerial l) := .other h

theorem takeNew {k io op used run} (h : Keeps s t) (hf : ∀ t x, Keeps s t → Keeps s (run t x)) :
    Keeps s (t.takeNew k io op used run) := by
  unfold State.takeNew
  refine .ite h (.ite (.ringError h) (.ite h ?_))
  extract_lets _ u
  have k : Keeps s u := .setJob (.updRing (.seeHbm h))
  exact .ite (.complete k) (.ite (.setSerial k) (hf _ _ k))

theorem takeCommand {k io op used run} (h : Keeps s t) (hf : ∀ t x, Keeps s t → Keeps s (run t x)) :
    Keeps s (t.takeCommand k io op used run) := by
  dsimp only [State.takeCommand]
  split
  · exact .ite (hf _ _ (.setSerial h)) (.takeNew h (fun _ _ k => hf _ _ k))
  · exact .takeNew h (fun _ _ k => hf _ _ k)

theorem finish {c status r0 r1 io} (h : Keeps s t) : Keeps s (t.finish c status r0 r1 io) := .complete h

theorem ibWrite {i n} (h : Keeps s t) : Keeps s (t.ibWrite i n) := by
  dsimp only [State.ibWrite]
  split
  · exact h
  · split
    · exact .foldl (.setFab h) (fun _ _ k => .acceptWrite k)
    · exact h

theorem settleCredits (h : Keeps s t) : Keeps s t.settleCredits := .other (.foldl h (fun _ _ k => .countWait k))
theorem updIb {i f} (h : Keeps s t) : Keeps s (t.updIb i f) := .setApp h
theorem ibSendEffect {i value} (h : Keeps s t) : Keeps s (Machine.ibSendEffect i value t) :=
  .ite (.updIb h) (.ite (.updIb h) (.ibWrite h))

theorem ibSendCreditedEffect {i} (h : Keeps s t) : Keeps s (Machine.ibSendCreditedEffect i t) := by
  dsimp only [Machine.ibSendCreditedEffect]
  split
  · exact .ite h (.ibWrite (.updIb (.countWait h)))
  · exact h

/-! ### Sys2Proof.Machine.Start -/

theorem requestFence (h : Keeps s t) : Keeps s t.requestFence := .other h
theorem resetTo {k} (h : Keeps s t) : Keeps s (t.resetTo k) := .memory (.drain h) fun w => MemBlk.afterReset_wf w k
theorem loadSettings (h : Keeps s t) : Keeps s t.loadSettings := .otherwise (.other h) .logEv

theorem loadFence (h : Keeps s t) : Keeps s t.loadFence := by
  dsimp only [State.loadFence]
  exact .otherwise (.other h) .logEv

theorem startIdentity {sc} (h : Keeps s t) : Keeps s (t.startIdentity sc) := by
  dsimp only [State.startIdentity]
  split
  · exact .logEv (.when (.when (.other h) .logEv) .logEv)
  · exact .when (.when (.other h) .logEv) .logEv

theorem logSteer {n col used} (h : Keeps s t) : Keeps s (t.logSteer n col used) := .foldl h (fun _ _ k => .logEv k)
theorem startFenceLn {n} (h : Keeps s t) : Keeps s (t.startFenceLn n) := .logEv (.other h)
theorem startFenceWk {n} (h : Keeps s t) : Keeps s (t.startFenceWk n) := .logEv (.other h)

theorem startTestLn {f} (h : Keeps s t) : Keeps s (t.startTestLn f) := by
  dsimp only [State.startTestLn]
  refine .ite h (.ite (.startFenceLn h) ?_)
  split
  · refine .startFenceLn ?_
    split
    · exact .logEv h
    · exact h
  · exact .otherwise (.other (.logSteer (.logSteer (.setLan h)))) .startFenceLn

theorem startTestWk {w} (h : Keeps s t) : Keeps s (t.startTestWk w) := .ite h (.startFenceWk h)

theorem startTest {sc} (h : Keeps s t) : Keeps s (t.startTest sc) :=
  .otherwise (.foldl (.foldl h fun _ _ k => .startTestLn k) fun _ _ k => .startTestWk k) .requestFence

theorem trainHbm {sc} (h : Keeps s t) : Keeps s (t.trainHbm sc) := .foldl (.other h) (fun _ _ k => .ite (.logEv k) k)

theorem startFirmware (h : Keeps s t) : Keeps s t.startFirmware := by
  dsimp only [State.startFirmware]
  split
  · exact .memory h id
  · exact .logEv (.other h)

theorem startLibrary (h : Keeps s t) : Keeps s t.startLibrary := by
  dsimp only [State.startLibrary]
  split
  · exact .logEv (.memory h id)
  · exact .logEv (.logEv (.other h))

theorem unitStates (h : Keeps s t) : Keeps s t.unitStates := .other h
theorem startReady {k cause micros} (h : Keeps s t) : Keeps s (t.startReady k cause micros) :=
  .logEv (.logEv (.other (.unitStates h)))

theorem reportTrip (h : Keeps s t) : Keeps s t.reportTrip := by
  dsimp only [State.reportTrip]
  split
  · exact .logEv (.other h)
  · exact h

theorem startUp {k cause sc} (h : Keeps s t) : Keeps s (t.startUp k cause sc) :=
  have read : Keeps s ((t.resetTo k).reach (1000 * sc.micros)).loadSettings.loadFence := .loadFence (.loadSettings (.reach
      (.resetTo h)))
  .startReady (.other (.startLibrary (.startFirmware (.trainHbm (.startTest (.when (.reportTrip read) .startIdentity))))))

theorem warmUp {cause micros} (h : Keeps s t) : Keeps s (t.warmUp cause micros) :=
  .startReady (.startLibrary (.startFirmware (.reach (.resetTo (.anchorClocks (.abandonChains h))))))

theorem requestWarm {cause micros} (h : Keeps s t) : Keeps s (t.requestWarm cause micros) := .ite (.other h) (.warmUp h)

theorem askWarm {path} (h : Keeps s t) : Keeps s (t.askWarm path) := by
  dsimp only [State.askWarm]
  split
  · exact .otherwise (.fresh h) .other
  · exact .requestWarm (.fresh h)

theorem resetAfter {before} (h : Keeps s t) : Keeps s (t.resetAfter before) := by
  dsimp only [State.resetAfter]
  split
  · exact .ite (.warmUp (.other h)) h
  · exact h

theorem powerDown (h : Keeps s t) : Keeps s t.powerDown := .other (.resetTo h)
theorem trip {cause reading} (h : Keeps s t) : Keeps s (t.trip cause reading) := .other (.powerDown h)
theorem powerOnEffect {sc} (h : Keeps s t) : Keeps s (Machine.powerOnEffect sc t) := .ite h (.startUp (.other h))
theorem fundamentalEffect {sc} (h : Keeps s t) : Keeps s (Machine.fundamentalEffect sc t) := .ite (.startUp h) h
theorem warmResetEffect {value micros} (h : Keeps s t) : Keeps s (Machine.warmResetEffect value micros t) :=
  .ite (.requestWarm h) h
theorem vinRange {mv} (h : Keeps s t) : Keeps s (t.vinRange mv) := .logEv (.other h)

theorem configWriteStart (h : Keeps s t) : Keeps s (Machine.configWriteStart t) := by
  dsimp only [Machine.configWriteStart]
  split
  · exact .memory h fun k => MemBlk.program_wf k _ _
  · exact h

theorem configWriteEnd {r ok leftOver} (h : Keeps s t) : Keeps s (t.configWriteEnd r ok leftOver) :=
  .ite (.logEv (.memory h fun k => MemBlk.program_wf k _ _)) (.logEv (.memory h fun k => MemBlk.program_wf k _ _))

theorem configWriteDoneEffect {firstOk secondOk leftOver} (h : Keeps s t) :
    Keeps s (Machine.configWriteDoneEffect firstOk secondOk leftOver t) := by
  dsimp only [Machine.configWriteDoneEffect]
  split
  · exact h
  · split
    · exact .warmUp (.configWriteEnd h)
    · exact .configWriteEnd h

/-! ### Sys2Proof.Machine.Mgmt -/

theorem throttleRequestEffect {r active reading} (h : Keeps s t) :
    Keeps s (Machine.throttleRequestEffect r active reading t) := by
  dsimp only [Machine.throttleRequestEffect]
  refine .ite ?_ h
  split
  · exact .logEv (.other h)
  · exact .logEv (.other h)
  · exact .other h

theorem externalThrottleEffect {asserted} (h : Keeps s t) : Keeps s (Machine.externalThrottleEffect asserted t) :=
  .ite h (.logEv (.other h))

theorem stepBeginEffect {q} (h : Keeps s t) : Keeps s (Machine.stepBeginEffect q t) :=
  .ite (.other (.ite (.anchorClocks (.settleCredits (.reach h))) h)) h

theorem stepDoneEffect {q} (h : Keeps s t) : Keeps s (Machine.stepDoneEffect q t) := by
  dsimp only [Machine.stepDoneEffect]
  split
  · exact h
  · exact .logEv (.other (.anchorClocks (.settleCredits (.reach h))))

theorem telemetryEffect {t'} (h : Keeps s t) : Keeps s (Machine.telemetryEffect t' t) :=
  .ite h (.when (.foldl (.other h) (fun _ _ k => .hbmTemp k)) .logEv)

theorem managementSupplyEffect {mv} (h : Keeps s t) : Keeps s (Machine.managementSupplyEffect mv t) :=
  .ite (.other h) (.other (.powerDown h))

theorem ppsEffect (h : Keeps s t) : Keeps s (Machine.ppsEffect t) := .other (.reach h)

theorem smbusOk {pec act} (h : Keeps s t) (hf : ∀ t, Keeps s t → Keeps s (act t)) : Keeps s (t.smbusOk pec act) :=
  .ite h (.ite (hf _ (.drain h)) (.emit h))

theorem smbusEventRead (h : Keeps s t) : Keeps s (Machine.smbusEventRead t) := by
  dsimp only [Machine.smbusEventRead]
  split
  · exact .emit h
  · exact .emit (.other (.fresh h))

/-! ### Sys2Proof.Machine.Security -/

theorem buttonEffect {ms} (h : Keeps s t) : Keeps s (Machine.buttonEffect ms t) := .ite (.logEv (.other h)) h

theorem buttonExpiryEffect (h : Keeps s t) : Keeps s (Machine.buttonExpiryEffect t) := by
  dsimp only [Machine.buttonExpiryEffect]
  split
  · exact .other (.reach h)
  · exact h

theorem jumperEffect {fitted} (h : Keeps s t) : Keeps s (Machine.jumperEffect fitted t) :=
  .ite h (.when (.logEv (.other h)) .logEv)

theorem sealEffect {openReading} (h : Keeps s t) : Keeps s (Machine.sealEffect openReading t) := by
  unfold Machine.sealEffect
  extract_lets _ u
  have k : Keeps s u := .other h
  exact .ite h (.ite (.logEv (.other k)) k)

theorem privileged {op needJumper needSeal work effect} (h : Keeps s t) (hf : ∀ t, Keeps s t → Keeps s (effect t)) :
    Keeps s (t.privileged op needJumper needSeal work effect) :=
  .logEv (.other (.ite (hf _ h) h))

theorem secEffect {op flashOk srcOk} (h : Keeps s t) : Keeps s (Machine.secEffect op flashOk srcOk t) := by
  dsimp only [Machine.secEffect]
  split
  · exact .privileged h fun _ k => .memory k id
  · exact .privileged h fun _ k => .memory k id
  · exact .privileged h fun _ k => .other k
  · exact .privileged h fun _ k => .memory k fun w => MemBlk.program_wf w _ _
  · exact .privileged h fun _ k => .memory k fun w => MemBlk.program_wf w _ _
  · exact .privileged h fun _ k => .other k
  · exact .privileged h fun _ k => .other k
  · exact .other h

theorem secCmdEffect {v} (h : Keeps s t) : Keeps s (Machine.secCmdEffect v t) := .fresh (.secEffect h)
theorem startAttest (h : Keeps s t) : Keeps s t.startAttest := .ite (.other h) h
theorem attestGoEffect {value} (h : Keeps s t) : Keeps s (Machine.attestGoEffect value t) := .ite (.startAttest (.other h)) h

theorem attestDoneEffect (h : Keeps s t) : Keeps s (Machine.attestDoneEffect t) := by
  dsimp only [Machine.attestDoneEffect]
  refine .ite h ?_
  split
  · exact .other (.fresh (.reach h))
  · exact h
  · exact .startAttest h

/-! ### Sys2Proof.Machine.Regs -/

theorem regRead4 {path off} (h : Keeps s t) : Keeps s (t.regRead4 path off).1 := by
  dsimp only [State.regRead4]
  refine .ite_fst h (.ite_fst (.setMisc h) ?_)
  split
  · exact h
  · refine .ite_fst (.setMisc h) (.ite_fst ?_ h)
    split
    · exact .setMisc h
    · exact h

theorem regRead {path off size} (h : Keeps s t) : Keeps s (t.regRead path off size).1 :=
  .ite_fst (.regRead4 h) (.ite_fst (.ite_fst h (.regRead4 (.regRead4 h))) h)

theorem clearCounters {off} (h : Keeps s t) : Keeps s (t.clearCounters off) := by
  unfold State.clearCounters
  refine .ite (.setTime h) <| .ite ?_ ?_
  · split
    · exact .setLan h
    · exact h
  refine .ite (.updCtr (.settleCredits h)) <| .ite ?_ ?_
  · split
    · exact .ite (.setWick h) (.ite (.setWick h) h)
    · exact h
  refine .ite ?_ <| .ite ?_ ?_
  · split
    · exact .setEng h
    · exact h
  · split
    · exact .setHbm h
    · exact h
  exact .ite (.setNet h) <| .ite (.setUr h) <| .ite (.setRel h) <| .ite (.setMgmt h) h

theorem counterClearEffect {off value} (h : Keeps s t) : Keeps s (Machine.counterClearEffect off value t) :=
  .ite (.clearCounters h) h
theorem steeringEffect {n col value} (h : Keeps s t) : Keeps s (Machine.steeringEffect n col value t) := .ite (.setLan h) h
theorem ethCfgEffect {p value} (h : Keeps s t) : Keeps s (Machine.ethCfgEffect p value t) := .ite h (.setNet h)
theorem rrscCommitEffect {slot value} (h : Keeps s t) : Keeps s (Machine.rrscCommitEffect slot value t) := .ite (.setNet h) h
theorem sadSwi {p v} (h : Keeps s t) : Keeps s (t.sadSwi p v) := .setSad h

theorem regWrite32 {path off v} (h : Keeps s t) : Keeps s (t.regWrite32 path off v) := by
  unfold State.regWrite32
  refine .ite (.setMisc h) <| .ite (.ite (.setCfg h) h) <| .ite (.ite (.askWarm h) h) <| .ite ?_ ?_
  · split
    · exact h
    · split
      · exact .steeringEffect h
      · exact .steeringEffect h
      · exact .setLan h
      · exact .setLan h
      · exact h
  refine .ite ?_ ?_
  · split
    · exact .ite (.setWick h) h
    · exact h
  refine .ite ?_ ?_
  · split
    · exact .setEng h
    · exact h
  refine .ite ?_ ?_
  · split
    · exact .ethCfgEffect h
    · exact h
  refine .ite (.otherwise (.ptpChanged (.setNet h)) .other) <| .ite ?_ ?_
  · split
    · exact h
    · exact .ite (.setNet h) (.ite (.rrscCommitEffect h) h)
  refine .ite (.setUr h) <| .ite (.setUr h) <| .ite ?_ ?_
  · split
    · exact .doorbellEffect h
    · exact h
  refine .ite ?_ ?_
  · split
    · exact .writeRingCfg h
    · exact .updRing h
    · exact h
  refine .ite (.writeEvCfg h) <| .ite (.putOverflow (.other h)) <| .ite ?_ ?_
  · extract_lets i _ u
    have k : Keeps s u := .other h
    exact .ite (.emit (.other k)) k
  refine .ite ?_ ?_
  · split
    · exact .setRel h
    · exact .setRel h
    · exact .setRel h
    · exact .clearCounters h
  refine .ite (.ite (.setSec h) ?_) ?_
  · split
    · exact .secCmdEffect h
    · exact .setSec h
    · exact .attestGoEffect h
    · exact h
  refine .ite (.setMgmt h) <| .ite ?_ ?_
  · refine .ite (.setApp h) (.ite ?_ (.ite (.setApp h) (.ite (.setApp h) h)))
    split
    · exact .ite (.updIb h) h
    · exact .ibSendEffect h
    · exact h
  refine .ite ?_ ?_
  · split
    · split
      · exact .ite (.setSad h) h
      · exact .sadSwi h
      · exact .ite (.setSad h) h
      · exact h
    · exact h
  exact .ite (.clearCounters h) h

theorem regWrite64 {path off v} (h : Keeps s t) : Keeps s (t.regWrite64 path off v) := by
  unfold State.regWrite64
  refine .ite (.ite h (.setUr h)) <| .ite ?_ ?_
  · split
    · exact .updRing h
    · exact .updRing h
    · exact h
  refine .ite (.ite h (.other h)) <| .ite (.other h) <| .ite (.setRel h) <| .ite (.setSec h) <| .ite (.setApp h) <| .ite ?_ h
  split
  · exact .ite (.setSad h) h
  · exact h

theorem regWrite4 {path off v} (h : Keeps s t) : Keeps s (t.regWrite4 path off v) :=
  .ite h (.ite (.setMisc h) (.ite (.regWrite64 (.setMisc h)) (.regWrite32 h)))

theorem regWrite {path off size v} (h : Keeps s t) : Keeps s (t.regWrite path off size v) :=
  .ite (.regWrite4 h) (.ite (.ite (.regWrite64 h) (.regWrite4 (.regWrite4 h))) h)

/-! ### Sys2Proof.Machine.Access -/

theorem mergeRead {row secs} (h : Keeps s t) : Keeps s (t.mergeRead row secs) := .ite h (.checkRow h)

theorem readPiece {who a n} (h : Keeps s t) : Keeps s (t.readPiece who a n).1 := by
  dsimp only [State.readPiece]
  split
  · exact .checkBlock h
  · exact .checkRow h
  · exact .checkRow h
  · split
    · exact .foldl h (fun _ _ k => .checkRow k)
    · exact h
  · split
    · exact .localRead h
    · exact h
  · split
    · exact .localRead h
    · exact h
  · split
    · exact .localRead h
    · exact h
  · exact h
  · exact h

theorem writePiece {a l} (h : Keeps s t) : Keeps s (t.writePiece a l) := by
  dsimp only [State.writePiece]
  split
  · exact .setMem h fun k => MemBlk.writePart_wf k _ _ _
  · exact .setMem (.mergeRead h) fun k => MemBlk.merge_wf k _ _
  · exact .setMem (.mergeRead h) fun k => MemBlk.merge_wf k _ _
  · split
    · exact .foldl (.foldl h fun _ _ k => .checkRow k) fun _ _ k => .setMem k fun w => MemBlk.merge_wf w _ _
    · exact h
  · split
    · exact .localPut h
    · exact h
  · split
    · exact .localPut h
    · exact h
  · split
    · exact .localPut h
    · exact h
  · exact .setMem h fun k => MemBlk.write_wf k _ _
  · exact h

theorem logRefused {who a} (h : Keeps s t) : Keeps s (t.logRefused who a) := .logEv h

theorem logRefusedWrite {who a} (h : Keeps s t) : Keeps s (t.logRefusedWrite who a) := by
  dsimp only [State.logRefusedWrite]
  split
  · exact .logEv h
  · exact .logRefused h

theorem devRead {who a n} (h : Keeps s t) : Keeps s (t.devRead who a n).1 := by
  dsimp only [State.devRead]
  split
  · refine .logRefused (.foldl_fst h (fun _ _ k => ?_))
    split
    · exact .readPiece k
    · exact k
  · refine .foldl_fst h (fun _ _ k => ?_)
    split
    · exact .readPiece k
    · exact k

theorem devWrite {who a l} (h : Keeps s t) : Keeps s (t.devWrite who a l).1 := by
  dsimp only [State.devWrite]
  split
  · refine .logRefusedWrite (.foldl h (fun _ _ k => ?_))
    split
    · exact .writePiece k
    · exact k
  · refine .foldl h (fun _ _ k => ?_)
    split
    · exact .writePiece k
    · exact k

theorem regAccess {p off n write} (h : Keeps s t) : Keeps s (t.regAccess p off n write).1 := by
  dsimp only [State.regAccess]
  split
  · exact .regWrite h
  · exact .regRead h

theorem coreAccess {who p a n write} (h : Keeps s t) : Keeps s (t.coreAccess who p a n write).1 := by
  dsimp only [State.coreAccess]
  split
  · exact .regAccess h
  · exact .devWrite h
  · exact .devRead h

theorem bar2Effect {off n write} (h : Keeps s t) : Keeps s (Machine.bar2Effect off n write t) := by
  dsimp only [Machine.bar2Effect]
  split
  · exact .ite (.devWrite h) h
  · exact .ite (.emit (.devRead h)) h

theorem appCoreEffect {hart addr n write} (h : Keeps s t) : Keeps s (Machine.appCoreEffect hart addr n write t) :=
  .ite h (.ite (.emit (.coreAccess h)) (.when (.coreAccess h) .emit))

theorem configEffect {off write} (h : Keeps s t) : Keeps s (Machine.configEffect off write t) := by
  dsimp only [Machine.configEffect]
  refine .ite (.emit h) ?_
  split
  · exact .emit h
  · exact .setHost h

theorem hostResetEffect {kind} (h : Keeps s t) : Keeps s (Machine.hostResetEffect kind t) := .logEv (.sadLine (.other (.drain h)))

/-! ### Sys2Proof.Machine.Flags -/

theorem classify {kind num cls code line} (h : Keeps s t) : Keeps s (t.classify kind num cls code line) :=
  .logEv (.ite h (.setRel h))

/-! ### Sys2Proof.Machine.Wick -/

theorem faultThread {w t' cause addr at_ u} (h : Keeps s t) : Keeps s (t.faultThread w t' cause addr at_ u) := .logEv (.setWick h)

theorem raise {w t' cause addr at_ force u} (h : Keeps s t) : Keeps s (t.raise w t' cause addr at_ force u) :=
  .ite (.faultThread h) (.setWick h)

theorem poisonThread {w t' source where_} (h : Keeps s t) : Keeps s (t.poisonThread w t' source where_) :=
  .when (.setWick h) .logEv

theorem residueWk {w t' part res} (h : Keeps s t) : Keeps s (t.residueWk w t' part res) := by
  dsimp only [State.residueWk]
  split
  · exact h
  · exact .targetWk (.classify (.logEv (.when (.setWick h) .poisonThread)))

theorem drainEntry {w e} (h : Keeps s t) : Keeps s (t.drainEntry w e) :=
  .setMem (.localWrite (.checkLine h)) fun k => MemBlk.setEcc_wf k _ _

theorem drainOldest {w n} (h : Keeps s t) : Keeps s (t.drainOldest w n) := .foldl (.setWick h) (fun _ _ k => .drainEntry k)

theorem loadPart {w t' a n} (h : Keeps s t) : Keeps s (t.loadPart w t' a n).1 := by
  dsimp only [State.loadPart]
  split
  · exact h
  · exact .when (.checkLine h) .poisonThread

theorem loadLocal {w t' a n} (h : Keeps s t) : Keeps s (t.loadLocal w t' a n).1 :=
  .setWick (.foldl_fst (.ite h (.setWick (.drainOldest h))) (fun _ _ k => .loadPart k))

theorem storeLocal {w t' a l} (h : Keeps s t) : Keeps s (t.storeLocal w t' a l).1 := .setWick (.ite h (.setWick (.drainOldest h)))
theorem storeBufferDrainEffect {w} (h : Keeps s t) : Keeps s (Machine.storeBufferDrainEffect w t) :=
  .ite h (.setWick (.drainOldest h))

theorem refillEffect {w} (h : Keeps s t) : Keeps s (Machine.refillEffect w t) := by
  dsimp only [Machine.refillEffect]
  split
  · exact h
  · exact .ite (.logEv (.setWick (.checkLine (.setWick h)))) (.setWick (.checkLine (.setWick h)))

theorem issueWick {w t' res i h' run} (h : Keeps s t) (hf : ∀ t x, Keeps s t → Keeps s (run t x).st) :
    Keeps s (t.issueWick w t' res i h' run) := by
  dsimp only [State.issueWick]
  refine .ite h (.ite h ?_)
  split
  · exact .ite h (.setWick (.setWick h))
  · exact h
  · refine .ite h (.ite (.setWick (.setWick h)) ?_)
    split
    · exact .raise (hf _ _ (.setWick h))
    · exact .when (.setWick (hf _ _ (.setWick h))) .residueWk

theorem restartPair {p} (h : Keeps s t) : Keeps s (t.restartPair p) :=
  .ite (.setJob (.foldl (.other (.foldl (.setSad h) (fun _ _ k => .complete k))) (fun _ _ k => .completeHeld k))) (.setSad h)

theorem raiseSad {p cause addr} (h : Keeps s t) : Keeps s (t.raiseSad p cause addr) := .ite (.logEv (.restartPair h)) (.setSad h)

theorem issueSad {p i run} (h : Keeps s t) (hf : ∀ t x, Keeps s t → Keeps s (run t x).st) : Keeps s (t.issueSad p i run) := by
  dsimp only [State.issueSad]
  refine .ite h ?_
  split
  · exact h
  · refine .ite h (.ite (.setSad h) ?_)
    split
    · exact .raiseSad (hf _ _ h)
    · exact .resetAfter (.setSad (hf _ _ h))

theorem issue {x i h' run} (h : Keeps s t) (hf : ∀ t x, Keeps s t → Keeps s (run t x).st) : Keeps s (t.issue x i h' run) := by
  dsimp only [State.issue]
  split
  · exact .issueWick h (fun _ _ k => hf _ _ k)
  · exact .issueSad h (fun _ _ k => hf _ _ k)

theorem wickLoad {w c ea n uns r} (h : Keeps s t) (e : t.wickLoad w c ea n uns = .ok r) : Keeps s r.1 := by
  unfold State.wickLoad at e
  split at e
  · cases e
  · cases e
    exact h
  · cases e
    exact .loadLocal h

theorem wickStore {w c ea v n r} (h : Keeps s t) (e : t.wickStore w c ea v n = .ok r) : Keeps s r.1 := by
  unfold State.wickStore at e
  split at e
  · cases e
  · cases e
    exact .setWick h
  · cases e
    exact .storeLocal h

theorem sadLoad {p ea n uns r} (h : Keeps s t) (e : t.sadLoad p ea n uns = .ok r) : Keeps s r.1 := by
  unfold State.sadLoad at e
  split at e
  · cases e
  · cases e
    exact .coreAccess h

theorem sadStore {p ea v n r} (h : Keeps s t) (e : t.sadStore p ea v n = .ok r) : Keeps s r.1 := by
  unfold State.sadStore at e
  split at e
  · cases e
  · cases e
    exact .coreAccess h

theorem loadAt {x ea n uns r} (h : Keeps s t) (e : t.loadAt x ea n uns = .ok r) : Keeps s r.1 := by
  cases x with
  | wick => exact .wickLoad h e
  | sad => exact .sadLoad h e

theorem storeAt {x ea v n r} (h : Keeps s t) (e : t.storeAt x ea v n = .ok r) : Keeps s r.1 := by
  cases x with
  | wick => exact .wickStore h e
  | sad => exact .sadStore h e

theorem runLoad {x sz uns gd m gb c} (h : Keeps s t) : Keeps s (Machine.runLoad x sz uns gd m gb t c).st := by
  dsimp only [Machine.runLoad]
  split
  · exact h
  · split
    · exact h
    · rename_i e
      exact .loadAt h e

theorem runStore {x sz gs m gb c} (h : Keeps s t) : Keeps s (Machine.runStore x sz gs m gb t c).st := by
  dsimp only [Machine.runStore]
  split
  · exact h
  · rename_i e
    exact .storeAt h e

theorem storeEffect {x sz gs m' gb} (h : Keeps s t) : Keeps s (Machine.storeEffect x sz gs m' gb t) :=
  .issue h (fun _ _ k => .runStore k)
theorem pageStore {x off sz gs m' gb} (h : Keeps s t) : Keeps s (Machine.pageStore x off sz gs m' gb t) := .ite (.storeEffect h) h

theorem wickInterruptEffect {w t'} (h : Keeps s t) : Keeps s (Machine.wickInterruptEffect w t' t) := by
  dsimp only [Machine.wickInterruptEffect]
  split
  · exact h
  · exact .ite h (.setWick h)

theorem consume {w t'} (h : Keeps s t) : Keeps s (t.consume w t') := .setWick h

theorem wickExceptionEffect {w t'} (h : Keeps s t) : Keeps s (Machine.wickExceptionEffect w t' t) := by
  dsimp only [Machine.wickExceptionEffect]
  refine .ite h ?_
  split
  · exact .raise h
  · refine .ite h ?_
    split
    · exact .ite (.consume (.setWick h)) (.raise (.setWick h))
    · exact .ite h (.ite (.consume (.setWick h)) (.raise (.setWick h)))
    · exact h

theorem wickHangEffect {w t'} (h : Keeps s t) : Keeps s (Machine.wickHangEffect w t' t) := by
  dsimp only [Machine.wickHangEffect]
  split
  · exact h
  · exact .ite h (.targetWk (.faultThread (.setWick (.when (.reach h) .setWick))))

theorem rcwWaitEndEffect {w t'} (h : Keeps s t) : Keeps s (Machine.rcwWaitEndEffect w t' t) := by
  dsimp only [Machine.rcwWaitEndEffect]
  split
  · exact h
  · exact .ite (.setWick h) h

theorem rcwStallEffect {w t'} (h : Keeps s t) : Keeps s (Machine.rcwStallEffect w t' t) := by
  dsimp only [Machine.rcwStallEffect]
  split
  · exact h
  · exact .ite h (.logEv (.setWick (.reach h)))

/-! ### Sys2Proof.Machine.Base -/

theorem runAlu {gd f c} (h : Keeps s t) : Keeps s (Machine.runAlu gd f t c).st := h

theorem runDivide {gd ga gb f c} (h : Keeps s t) : Keeps s (Machine.runDivide gd ga gb f t c).st := by
  unfold Machine.runDivide
  split <;> exact h

theorem runJump {x tgt c} (h : Keeps s t) : Keeps s (Machine.runJump x tgt t c).st := by
  dsimp only [Machine.runJump]
  split
  · exact h
  · exact h

theorem runCall {x tgt c} (h : Keeps s t) : Keeps s (Machine.runCall x tgt t c).st := by
  unfold Machine.runCall
  split
  · exact h
  · split <;> exact h

theorem runRet {c} (h : Keeps s t) : Keeps s (Machine.runRet t c).st := by
  dsimp only [Machine.runRet]
  split
  · exact h
  · exact h

theorem runReti {c} (h : Keeps s t) : Keeps s (Machine.runReti t c).st := by
  unfold Machine.runReti
  split
  · exact h
  · split <;> exact h

theorem runDrain {x c} (h : Keeps s t) : Keeps s (Machine.runDrain x t c).st := by
  unfold Machine.runDrain
  split
  · exact .drainOldest h
  · exact h

/-! ### Sys2Proof.Machine.Hbm -/

theorem logMiss {st pc recIx port} (h : Keeps s t) : Keeps s (t.logMiss st pc recIx port) := .logEv (.other h)

theorem hbmArrive {st r} (h : Keeps s t) : Keeps s (t.hbmArrive st r) := by
  dsimp only [State.hbmArrive]
  split
  · exact .logMiss (.other h)
  · exact .other h

theorem txWrite {a frame data poison} (h : Keeps s t) : Keeps s (t.txWrite a frame data poison) := by
  dsimp only [State.txWrite]
  split
  · exact h
  · exact .ite (.logEv h) (.setUr h)

theorem serveWrite {a r w} (h : Keeps s t) : Keeps s (t.serveWrite a r w) :=
  have k : Keeps s (t.setMem (t.mem.writeSectors a w.1 w.2.1 w.2.2)) := .setMem h fun k => MemBlk.writeSectors_wf k _ _ _ _
  .ite (.txWrite k) k

theorem passSlot {st p} (h : Keeps s t) : Keeps s (t.passSlot st p) := .other h

theorem slotFor {st p t'} (h : Keeps s t) : Keeps s (t.slotFor st p t') := by
  have hr {u a port} (k : Keeps s u) : Keeps s (u.readBlock a port).1 := .readBlock k
  unfold State.slotFor
  -- An arbitrary function in place of the read, so that no comparison of terms evaluates it.
  obtain ⟨read, e⟩ : ∃ f, State.readBlock = f := ⟨_, rfl⟩
  rw [e] at hr ⊢
  extract_lets a fits
  split
  · exact .passSlot h
  · refine .ite ?_ (.ite h (.logMiss (.other h)))
    split
    · exact .serveWrite (.other h)
    · exact .other (hr (.other h))

theorem linkSlot {u m a slot} (h : Keeps s t) : Keeps s (t.linkSlot u m a slot) := by
  dsimp only [State.linkSlot]
  split
  · exact .ite (.setUr (.setMem h fun k => MemBlk.writeBlock_wf k _ _ _)) h
  · exact h

theorem hbmSlotEffect {st m' rep rec blk} (h : Keeps s t) : Keeps s (Machine.hbmSlotEffect st m' rep rec blk t) := by
  unfold Machine.hbmSlotEffect
  split
  · exact h
  · refine .ite h ?_
    extract_lets τ u a
    have k : Keeps s u := .reach h
    refine .ite (.setHbm k) (.ite ?_ (.ite (.readBlock k) (.ite ?_ (.slotFor k))))
    · split
      rename_i e
      exact .other (.of_fst (.readBlock k) e)
    · split
      · exact .linkSlot k
      · exact k

theorem hbmReadDataEffect {st} (h : Keeps s t) : Keeps s (Machine.hbmReadDataEffect st t) := by
  dsimp only [Machine.hbmReadDataEffect]
  split
  · exact h
  · exact .cross (.setHbm (.reach h))

theorem hbmOpenEffect {port addr n write} (h : Keeps s t) : Keeps s (Machine.hbmOpenEffect port addr n write t) := by
  dsimp only [Machine.hbmOpenEffect]
  refine .ite h (.ite ?_ ?_)
  · split
    · exact .when (.logRefused h) .emit
    · exact h
  · split
    · exact .setMem h fun k => MemBlk.writePart_wf k _ _ _
    · exact .emit (.checkBlock h)

/-! ### Sys2Proof.Machine.Timetable -/

theorem completeInst {i} (h : Keeps s t) : Keeps s (t.completeInst i) := .setJob h

theorem startInst {kind i run} (h : Keeps s t) (hf : ∀ t x, Keeps s t → Keeps s (run t x)) :
    Keeps s (t.startInst kind i run) := by
  dsimp only [State.startInst]
  split
  · exact .ite (hf _ _ (.setJob (.reach h))) h
  · exact h

theorem openHbm (h : Keeps s t) : Keeps s t.openHbm := .other h

theorem freeWaits (h : Keeps s t) : Keeps s t.freeWaits :=
  .foldl (.setFab (.foldl h (fun _ _ k => .countWait k))) (fun _ _ k => .acceptWrite k)

/-! ### Sys2Proof.Machine.Lantern -/

theorem residueLn {n part bad} (h : Keeps s t) : Keeps s (t.residueLn n part bad) := .targetLn (.classify (.logEv (.setLan h)))

theorem accOverflow {n first k logIt idx} (h : Keeps s t) : Keeps s (t.accOverflow n first k logIt idx) := by
  dsimp only [State.accOverflow]
  split
  · exact h
  · exact .when (.setLan h) .logEv

theorem readRows {l} (h : Keeps s t) : Keeps s (t.readRows l).1 := .foldl_fst h (fun _ _ k => .readRow k)
theorem readBefore {base stop l} (h : Keeps s t) : Keeps s (t.readBefore base stop l).1 := .foldl_fst h (fun _ _ k => .readRow k)

theorem chainPass {c : ChainRun} {n zps x flt} (h : Keeps s c.st) : Keeps s (c.pass n zps x flt).st := by
  unfold ChainRun.pass
  extract_lets far atEnd
  split
  · exact h
  · refine .foldl (.accOverflow ?_) fun _ _ k => .residueLn k
    split
    · exact .logAt (.setLan (.readBefore (.readBefore (.readBefore h))))
    · exact .readBefore (.readBefore (.readBefore h))

theorem writeRows {l tag} (h : Keeps s t) : Keeps s (t.writeRows l tag) := .foldl h (fun _ _ k => .writeRow k)

theorem poisonRows {l tag} (h : Keeps s t) : Keeps s (t.poisonRows l tag) := by
  dsimp only [State.poisonRows]
  refine .foldl h (fun _ _ k => ?_)
  split
  · exact .writeRow k
  · exact .setMem k fun w => MemBlk.setPoison_wf w _ _

theorem endChain {n inst a dest streamed occEnd} (h : Keeps s t) : Keeps s (t.endChain n inst a dest streamed occEnd) :=
  .when (.logAt (.setLan (.fresh (.poisonRows h)))) .targetLn

theorem runChain {n inst im ps ls ss preload flt} (h : Keeps s t) : Keeps s (t.runChain n inst im ps ls ss preload flt).1 := by
  unfold State.runChain
  extract_lets descs xs run drain dest spans st
  have k : Keeps s run.st := List.foldlRecOn (motive := fun c : ChainRun => Keeps s c.st) _ _ h fun _ k _ _ => .chainPass k
  have k' : Keeps s st := .setLan k
  split
  · exact .endChain k'
  · exact .setLan (.fresh (.writeRows k'))

theorem chainEffect {i start flt} (h : Keeps s t) : Keeps s (Machine.chainEffect i start flt t) := by
  dsimp only [Machine.chainEffect]
  refine .startInst h (fun _ _ k => ?_)
  split
  · exact .runChain k
  · exact k

theorem haltedEndEffect {n} (h : Keeps s t) : Keeps s (Machine.haltedEndEffect n t) := by
  dsimp only [Machine.haltedEndEffect]
  split
  · exact .setLan (.reach h)
  · exact h

theorem lanternHangEffect {i start pass} (h : Keeps s t) : Keeps s (Machine.lanternHangEffect i start pass t) := by
  dsimp only [Machine.lanternHangEffect]
  refine .startInst h (fun _ _ k => ?_)
  split
  · exact .endChain (.fresh (.setLan k))
  · exact k

/-! ### Sys2Proof.Machine.Requant -/

theorem rqWrite {n map row mask d tag poison} (h : Keeps s t) : Keeps s (t.rqWrite n map row mask d tag poison) :=
  .ite (.fabricWrite h) (.writeRow h)

theorem runRequant {n inst im idx start op flt} (h : Keeps s t) : Keeps s (t.runRequant n inst im idx start op flt) := by
  dsimp only [State.runRequant]
  have k {rows} : Keeps s (t.readRows rows).1 := .readRows h
  refine .foldl (.otherwise (.setLan (.when (.foldl (.foldl (.accOverflow ?_) fun _ _ k => .foldl k fun _ _ k => .rqWrite k)
    fun _ _ k => .foldl k fun _ _ k => .rqWrite k) fun k => .foldl k fun _ _ k => .rqWrite k)) .logEv) fun _ _ k => .residueLn k
  split
  · exact .logEv k
  · exact k

theorem requantEffect {i start flt} (h : Keeps s t) : Keeps s (Machine.requantEffect i start flt t) := by
  dsimp only [Machine.requantEffect]
  refine .startInst h (fun _ _ k => ?_)
  split
  · split
    · exact .runRequant k
    · exact k
  · exact k

theorem gavgRow {n zps o c r d} (h : Keeps s t) : Keeps s (t.gavgRow n zps o c r d).1 := by
  dsimp only [State.gavgRow]
  refine .foldl_fst h (fun _ _ k => ?_)
  split
  · exact k
  · refine .ite_fst ?_ k
    split
    · exact .readRow k
    · exact .readRow k

theorem gavgRunRow {g : GavgRun} {n zps o idx start c r} (h : Keeps s g.st) : Keeps s (g.row n zps o idx start c r).st := by
  unfold GavgRun.row
  split
  · exact h
  · extract_lets
    split
    rename_i e
    have k := Keeps.of_fst (.readRow h) e
    extract_lets
    split
    · exact k
    · split
      all_goals
        rename_i e
        exact .of_fst (.gavgRow k) e

theorem runGavg {n inst im idx start o flt} (h : Keeps s t) : Keeps s (t.runGavg n inst im idx start o flt) := by
  unfold State.runGavg
  extract_lets g u dest spans
  have k : Keeps s g.st := List.foldlRecOn (motive := fun g : GavgRun => Keeps s g.st) _ _ h fun g k _ _ =>
    List.foldlRecOn (motive := fun g : GavgRun => Keeps s g.st) _ _ k fun _ k _ _ => .gavgRunRow k
  have k' : Keeps s u := by
    unfold u
    split
    · exact .logEv (.setLan k)
    · exact k
  split
  · exact .endChain (.setLan k')
  · exact .setLan (.foldl (.fresh (.writeRows (.accOverflow k'))) fun _ _ k => .residueLn k)

theorem gavgEffect {i start flt} (h : Keeps s t) : Keeps s (Machine.gavgEffect i start flt t) := by
  dsimp only [Machine.gavgEffect]
  refine .startInst h (fun _ _ k => ?_)
  split
  · split
    · exact .runGavg k
    · exact k
  · exact k

/-! ### Sys2Proof.Machine.Recovery -/

theorem stopped (h : Keeps s t) : Keeps s t.stopped :=
  .foldl (.foldl (.other (.openHbm (.setJob h))) (fun _ _ k => .completeHeld k)) (fun _ _ k => .completeHeld k)

theorem stopAtOnce (h : Keeps s t) : Keeps s t.stopAtOnce := .ite (.stopped h) h

theorem tryStop (h : Keeps s t) : Keeps s t.tryStop := by
  dsimp only [State.tryStop]
  split
  · exact .ite (.stopped h) h
  · exact h

theorem setEntry {u f} (h : Keeps s t) : Keeps s (t.setEntry u f) := by
  dsimp only [State.setEntry]
  split
  · exact .setRel h
  · exact .setRel h

theorem setTst {u f} (h : Keeps s t) : Keeps s (t.setTst u f) := by
  dsimp only [State.setTst]
  split
  · exact .setLan h
  · exact .setWick h

theorem setFenceDue {u r} (h : Keeps s t) : Keeps s (t.setFenceDue u r) := by
  dsimp only [State.setFenceDue]
  split
  · exact .setLan h
  · exact .setWick h

theorem setIdle {u on} (h : Keeps s t) : Keeps s (t.setIdle u on) := by
  dsimp only [State.setIdle]
  split
  · exact .setLan h
  · exact .setWick h

theorem copyLantern {l p} (h : Keeps s t) : Keeps s (t.copyLantern l p) :=
  .setLan (.setMem (.foldl h fun _ _ k => .checkRow k) fun k => MemBlk.copyUnit_wf k _ _ _)

theorem copyWick {l p} (h : Keeps s t) : Keeps s (t.copyWick l p) :=
  .setWick (.setMem (.setMem (.foldl (.foldl (.drainOldest h) fun _ _ k => .ite (.checkLine k) (.checkElem k)) fun _ _ k =>
      .checkRow k)
    fun k => MemBlk.copyUnit_wf k _ _ _) fun k => MemBlk.foldl_wf _ (fun _ _ k => MemBlk.setEccIf_wf k) _ k)

theorem copyUnit {l p} (h : Keeps s t) : Keeps s (t.copyUnit l p) := by
  dsimp only [State.copyUnit]
  split
  · exact .copyLantern h
  · exact .copyWick h
  · exact h

theorem moveWaiting {u v} (h : Keeps s t) : Keeps s (t.moveWaiting u v) := .other h

theorem beginMove {u sp fence window} (h : Keeps s t) : Keeps s (t.beginMove u sp fence window) :=
  .setJob (.when (.setEntry (.setEntry (.moveWaiting (.copyUnit h)))) .setIdle)

theorem fenceUnit {u reason} (h : Keeps s t) : Keeps s (t.fenceUnit u reason) := by
  dsimp only [State.fenceUnit]
  refine .ite (.setFenceDue h) ?_
  split
  · exact .setIdle (.setEntry (.requestFence (.logEv (.setFenceDue h))))
  · exact .beginMove (.requestFence (.logEv (.setFenceDue h)))
  · exact .stopAtOnce (.logEv (.setIdle (.setEntry (.requestFence (.logEv (.setFenceDue h))))))

theorem endMove {m'} (h : Keeps s t) : Keeps s (t.endMove m') := by
  dsimp only [State.endMove]
  split
  · exact .setEntry (.setJob h)
  · exact .ite (.setRel (.setJob (.setEntry (.setJob h)))) (.setEntry (.setJob (.setEntry (.setJob h))))

theorem workEnd {a} (h : Keeps s t) : Keeps s (t.workEnd a) := by
  dsimp only [State.workEnd]
  split
  · exact .reach h
  · exact h

theorem unitMoveEffect {u} (h : Keeps s t) : Keeps s (Machine.unitMoveEffect u t) := by
  dsimp only [Machine.unitMoveEffect]
  refine .ite h ?_
  split
  · exact .fenceUnit (.workEnd h)
  · split
    · exact .logEv (.beginMove (.workEnd h))
    · exact .setJob (.workEnd h)
  · exact .workEnd h

theorem moveEndEffect {u} (h : Keeps s t) : Keeps s (Machine.moveEndEffect u t) := by
  dsimp only [Machine.moveEndEffect]
  split
  · exact .tryStop (.endMove (.reach h))
  · exact h

theorem spareShort {n isRow line} (h : Keeps s t) : Keeps s (t.spareShort n isRow line) := .ite h (.logEv h)

theorem testFences {u it} (h : Keeps s t) : Keeps s (t.testFences u it) := by
  dsimp only [State.testFences]
  refine .setFenceDue ?_
  split
  · exact .ite h (.spareShort h)
  · exact h

theorem noteLine {u it} (h : Keeps s t) : Keeps s (t.noteLine u it) := by
  dsimp only [State.noteLine]
  split
  · exact .setLan h
  · exact h

theorem targetItem {u it} (h : Keeps s t) : Keeps s (t.targetItem u it) := by
  dsimp only [State.targetItem]
  split
  · exact .targetLn h
  · exact .targetWk h

theorem testFailed {u idx it found} (h : Keeps s t) : Keeps s (t.testFailed u idx it found) := .logEv (.noteLine (.setRel h))

theorem itemPassed {u advance} (h : Keeps s t) : Keeps s (t.itemPassed u advance) :=
  .ite (.requestFence (.logEv (.setEntry (.setTst h)))) (.setTst h)

theorem itemDone {u src idx inPlace it run} (h : Keeps s t) : Keeps s (t.itemDone u src idx inPlace it run) := by
  dsimp only [State.itemDone]
  split
  · refine .ite (.testFences (.testFailed (.setTst h))) ?_
    split
    · exact .setLan (.classify (.setTst h))
    · exact .classify (.setTst h)
  · refine .ite ?_ (.when (.setTst h) .noteLine)
    split
    · exact .testFences (.logEv (.when (.setTst h) .noteLine))
    · exact .logEv (.when (.setTst h) .noteLine)
  · exact .ite (.setTst (.targetItem (.testFailed h))) (.itemPassed (.ite (.setTst h) h))

theorem runItems {u fuel budget runs} (h : Keeps s t) : Keeps s (t.runItems u fuel budget runs) := by
  induction fuel generalizing t budget runs with
  | zero => exact h
  | succ n ih =>
    unfold State.runItems
    split
    · exact h
    · split
      · exact h
      · exact .ite h (ih (.itemDone h))

theorem runWindow {u arg0 arg1 runs} (h : Keeps s t) : Keeps s (t.runWindow u arg0 arg1 runs) :=
  .ite h (.ite (.runItems h) (.runItems h))

theorem inTest {u inst start len passes on} (h : Keeps s t) : Keeps s (t.inTest u inst start len passes on) := by
  dsimp only [State.inTest]
  split
  · exact .setLan h
  · split
    · exact .setWick h
    · exact h

theorem testWindowEffect {i runs} (h : Keeps s t) : Keeps s (Machine.testWindowEffect i runs t) := by
  dsimp only [Machine.testWindowEffect]
  split
  · exact h
  · split
    · exact h
    · exact .ite h (.inTest (.runWindow (.when (.setJob (.reach h)) .logEv)))

theorem postponedEffect {i} (h : Keeps s t) : Keeps s (Machine.postponedEffect i t) := by
  dsimp only [Machine.postponedEffect]
  split
  · exact h
  · split
    · exact h
    · exact .ite h (.otherwise (.reach h) .setJob)

theorem vacatedTestEffect {u runs} (h : Keeps s t) : Keeps s (Machine.vacatedTestEffect u runs t) := by
  dsimp only [Machine.vacatedTestEffect]
  split
  · exact h
  · refine .ite (.inTest (.runWindow h)) ?_
    split
    · exact .fenceUnit (.setEntry (.setRel (.inTest (.runWindow h))))
    · exact .setEntry (.setRel (.inTest (.runWindow h)))

theorem spareRotationEffect {u run} (h : Keeps s t) : Keeps s (Machine.spareRotationEffect u run t) := by
  dsimp only [Machine.spareRotationEffect]
  refine .ite h ?_
  split
  · exact .fenceUnit (.inTest (.runItems h))
  · exact .inTest (.runItems h)

theorem noteSweep {u runs} (h : Keeps s t) : Keeps s (t.noteSweep u runs) := by
  dsimp only [State.noteSweep]
  refine .foldl h (fun _ _ k => ?_)
  split
  · exact .ite (.noteLine k) k
  · exact k

theorem inSweep {n} (h : Keeps s t) : Keeps s (t.inSweep n) := .inTest h

theorem fullSweepEffect {u runs} (h : Keeps s t) : Keeps s (Machine.fullSweepEffect u runs t) := by
  unfold Machine.fullSweepEffect
  split
  · exact .ite (.setWick h) h
  · refine .ite h (.ite (.noteSweep (.inSweep h)) ?_)
    extract_lets rows cols
    split
    · refine .noteSweep ?_
      split
      · exact .logEv (.inSweep h)
      · exact .inSweep h
    · rename_i l₁ ur uc _
      have k {n} : Keeps s (((((t.setLan n fun _ => l₁).logSteer n false ur).logSteer n true uc).requestFence).inSweep n) :=
        .inSweep (.requestFence (.logSteer (.logSteer (.setLan h))))
      exact .ite (.logEv (.setLan (.setEntry k))) (.noteSweep k)

theorem sequencerEffect {cu} (h : Keeps s t) : Keeps s (Machine.sequencerEffect cu t) := .stopAtOnce (.logEv h)
theorem captureRecord {n im f first} (h : Keeps s t) : Keeps s (t.captureRecord n im f first).1 := .readRows (.readRows h)

theorem writeOpen {a l} (h : Keeps s t) : Keeps s (t.writeOpen a l) :=
  .setMem h fun k => MemBlk.foldl_wf _ (fun _ _ k => MemBlk.writePart_wf k _ _ _) _ k

theorem capture {n im f first} (h : Keeps s t) : Keeps s (t.capture n im f first) :=
  .ite h (.ite (.logEv (.setRel (.writeOpen (.captureRecord (first := first) h)))) (.logEv h))

theorem replay {n im f ps flt} (h : Keeps s t) : Keeps s (t.replay n im f ps flt).1 := .runChain (.setLan h)
theorem unresolved {n f free} (h : Keeps s t) : Keeps s (t.unresolved n f free) := .classify (.setLan h)

theorem permanentChain {n im f ps flt reason} (h : Keeps s t) : Keeps s (t.permanentChain n im f ps flt reason) := by
  dsimp only [State.permanentChain]
  split
  · exact .fenceUnit (.setLan (.spareShort (.classify h)))
  · split
    · exact .endMove (.reach (.fenceUnit (.setLan (.spareShort (.classify h)))))
    · split
      · exact (.of_fst (.replay (.endMove (.reach (.fenceUnit (.setLan (.spareShort (.classify h))))))) ‹_›)
      · exact .unresolved (.of_fst (.replay (.endMove (.reach (.fenceUnit (.setLan (.spareShort (.classify h))))))) ‹_›)

theorem failedChainEffect {n replay1 replay2} (h : Keeps s t) : Keeps s (Machine.failedChainEffect n replay1 replay2 t) := by
  dsimp only [Machine.failedChainEffect]
  split
  · split
    · exact h
    · refine .ite (.permanentChain (.capture h)) ?_
      split
      · exact .setLan (.classify (.of_fst (.replay (.capture h)) ‹_›))
      · exact .ite (.permanentChain (.of_fst (.replay (.capture h)) ‹_›)) (.unresolved (.of_fst (.replay (.capture h)) ‹_›))
  · exact h

/-! ### Sys2Proof.Machine.Epochs -/

theorem endEpoch {e status r0} (h : Keeps s t) : Keeps s (t.endEpoch e status r0) := by
  dsimp only [State.endEpoch]
  split
  · exact .completeHeld (.setJob h)
  · exact .setJob h

theorem endEpochs (h : Keeps s t) : Keeps s t.endEpochs := .foldl h (fun _ _ k => .endEpoch k)
theorem logEpoch {ftb code e} (h : Keeps s t) : Keeps s (t.logEpoch ftb code e) := .logAt h
theorem discard {ftb code status e} (h : Keeps s t) : Keeps s (t.discard ftb code status e) := .endEpoch (.logEpoch (.setJob h))

theorem blockWrite {w code l} (h : Keeps s t) : Keeps s (t.blockWrite w code l) :=
  .ite (.localPut h) (.foldl h (fun _ _ k => .writeVecRow k))

theorem shadowWrite {b l} (h : Keeps s t) : Keeps s (t.shadowWrite b l) := .ite (.other h) (.foldl h (fun _ _ k => .blockWrite k))

theorem stageEffect {block} (h : Keeps s t) : Keeps s (Machine.stageEffect block t) := by
  dsimp only [Machine.stageEffect]
  split
  · refine .ite h (.ite (.endEpoch h) (.shadowWrite (.setJob (.outerRead ?_))))
    split
    · exact .ite (.discard h) h
    · exact h
  · exact h

theorem payloadEffect {block} (h : Keeps s t) : Keeps s (Machine.payloadEffect block t) := by
  dsimp only [Machine.payloadEffect]
  split
  · exact .ite h (.ite (.setJob (.sadLine h)) (.discard (.sadLine h)))
  · exact h

theorem decide_ {n c wins e} (h : Keeps s t) : Keeps s (t.decide_ n c wins e) :=
  .ite (.setJob h) (.ite (.discard h) (.ite (.discard h) (.logEpoch (.setJob h))))

theorem commitEffect {n} (h : Keeps s t) : Keeps s (Machine.commitEffect n t) :=
  .ite h (.ite (.reach h) (.foldl (.reach h) (fun _ _ k => .decide_ k)))

theorem switchBlock {b} (h : Keeps s t) : Keeps s (t.switchBlock b) := .ite (.other h) (.foldl h (fun _ _ k => .setWick k))

theorem switchEpoch {n c} (h : Keeps s t) : Keeps s (t.switchEpoch n c) := by
  dsimp only [State.switchEpoch]
  split
  · exact .endEpoch (.setStamp (.setJob (.switchBlock h)))
  · exact h

theorem anchorEffect {n} (h : Keeps s t) : Keeps s (Machine.anchorEffect n t) :=
  .ite h (.setStamp (.setJob (.foldl (.reach h) (fun _ _ k => .switchEpoch k))))

theorem updateRun {io c} (h : Keeps s t) : Keeps s (Machine.updateRun io t c) := by
  dsimp only [Machine.updateRun]
  refine .ite (.finish h) ?_
  split
  · exact .finish h
  · exact .ite (.finish h) (.ite (.finish h) (.ite (.finish (.logEpoch (.setJob h))) (.other h)))

/-! ### Sys2Proof.Machine.Load -/

theorem placeWeights {body p} (h : Keeps s t) : Keeps s (t.placeWeights body p) := by
  dsimp only [State.placeWeights]
  split
  · split
    · exact .setMem h fun k => MemBlk.loadRows_wf k _ _
    · exact h
  · exact .setMem h fun k => MemBlk.loadRows_wf k _ _
  · exact .setMem h fun k => MemBlk.loadRows_wf k _ _

theorem placeSeg {im body g} (h : Keeps s t) : Keeps s (t.placeSeg im body g) := by
  dsimp only [State.placeSeg]
  refine .foldl h (fun _ _ k => ?_)
  split
  · exact .setMem k fun w => MemBlk.load_wf w _ _
  · exact .setMem k fun w => MemBlk.load_wf w _ _
  · exact .setMem k fun w => MemBlk.load_wf w _ _
  · exact .setMem k fun w => MemBlk.loadRows_wf w _ _

theorem placeBlock {body im b} (h : Keeps s t) : Keeps s (t.placeBlock body im b) :=
  .ite h (.foldl h fun _ _ k => .setMem k fun w => MemBlk.placed_wf (MemBlk.placed_wf w))

theorem placeParams {im} (h : Keeps s t) : Keeps s (t.placeParams im) := by
  dsimp only [State.placeParams]
  refine .foldl h (fun _ _ k => ?_)
  split
  · exact .setLan k
  · exact k

theorem placeQueues {im} (h : Keeps s t) : Keeps s (t.placeQueues im) := .fresh (.setMem h fun k => MemBlk.loadRows_wf k _ _)

theorem placeImage {p} (h : Keeps s t) : Keeps s (t.placeImage p) :=
  .setStamp (.setFab (.placeQueues (.placeParams (.foldl (.foldl (.foldl (.other (.setJob h)) fun _ _ k => .placeWeights k)
    fun _ _ k => .placeSeg k) fun _ _ k => .placeBlock k))))

theorem discardImage (h : Keeps s t) : Keeps s t.discardImage := .setJob (.endEpochs h)
theorem rejectImage {c r io} (h : Keeps s t) : Keeps s (t.rejectImage c r io) := .finish (.logEv h)

theorem loadRun {io placeError c} (h : Keeps s t) : Keeps s (Machine.loadRun io placeError t c) := by
  dsimp only [Machine.loadRun]
  refine .ite (.finish h) ?_
  split
  · exact .rejectImage (.seeHbm h)
  · exact .ite (.rejectImage (.discardImage (.seeHbm h))) (.finish (.logEv (.placeImage (.discardImage (.seeHbm h)))))

/-! ### Sys2Proof.Machine.Job -/

theorem bindRun {io c} (h : Keeps s t) : Keeps s (Machine.bindRun io t c) := by
  dsimp only [Machine.bindRun]
  split
  · exact .finish h
  · exact .finish h
  · exact .ite (.finish h) (.ite (.finish (.setJob (.seeHbm h))) (.finish (.seeHbm h)))

theorem joinGroups (h : Keeps s t) : Keeps s t.joinGroups := .foldl (.setNet h) (fun _ _ k => .emit k)

theorem armLink {u} (h : Keeps s t) : Keeps s (t.armLink u) :=
  .when (.when (.setUr h) .logEv) .logEv

theorem startRun {l base} (h : Keeps s t) : Keeps s (t.startRun l base) :=
  .joinGroups (.foldl (.other (.setJob h)) (fun _ _ k => .armLink k))

theorem launchLate {l} (h : Keeps s t) : Keeps s (t.launchLate l) := .logEv h

theorem armRun {io c} (h : Keeps s t) : Keeps s (Machine.armRun io t c) := by
  dsimp only [Machine.armRun]
  split
  · exact .ite (.finish h) (.ite (.finish (.launchLate h)) (.finish (.logEv (.setFab (.startRun h)))))
  · exact .finish h
  · exact .finish h

theorem stopRun {io c} (h : Keeps s t) : Keeps s (Machine.stopRun io t c) := .ite (.other h) (.finish h)

theorem stopAnchorEffect (h : Keeps s t) : Keeps s (Machine.stopAnchorEffect t) := by
  dsimp only [Machine.stopAnchorEffect]
  split
  · exact h
  · exact .ite h (.tryStop (.freeWaits (.setJob (.reach h))))

/-! ### Sys2Proof.Machine.Run -/

theorem wickStartEffect {i} (h : Keeps s t) : Keeps s (Machine.wickStartEffect i t) := by
  dsimp only [Machine.wickStartEffect]
  split
  · exact h
  · exact .ite (.startInst h (fun _ _ k => .setWick k)) h

theorem releaseSome {region n total} (h : Keeps s t) : Keeps s (t.releaseSome region n total) := .setFab h

theorem creditSource {region} (h : Keeps s t) : Keeps s (t.creditSource region) := by
  dsimp only [State.creditSource]
  split
  · exact .irqSource h
  · exact h

theorem releaseStep {i e g} (h : Keeps s t) : Keeps s (t.releaseStep i e g) :=
  .ite (.tryStop (.completeInst (.setJob (.ite h (.creditSource (.releaseSome h)))))) (.setJob (.ite h (.creditSource
      (.releaseSome h))))

theorem releaseEffect {i} (h : Keeps s t) : Keeps s (Machine.releaseEffect i t) := by
  dsimp only [Machine.releaseEffect]
  split
  · split
    · exact h
    · exact .ite (.ite (.ite (.releaseStep h) h) (.startInst h (fun _ _ k => .releaseStep k))) h
  · exact h

theorem takeSlot {m' i count row n} (h : Keeps s t) : Keeps s (t.takeSlot m' i count row n) :=
  .setApp (.foldl h (fun _ _ k => .fabricRead k))

theorem mailRow {a b} (h : Keeps s t) : Keeps s (t.mailRow a b) := by
  dsimp only [State.mailRow]
  split
  · exact h
  · exact .ite (.tryStop (.completeInst (.setApp h))) (.setApp h)

theorem bankGrantEffect {bank} (h : Keeps s t) : Keeps s (Machine.bankGrantEffect bank t) := by
  dsimp only [Machine.bankGrantEffect]
  split
  · exact h
  · split
    · exact .acceptedAt (.countRow (.writeRow (.reach (.setFab h))))
    · exact .ite (.mailRow (.readRow (.reach (.setFab h)))) (.setFab (.readRow (.reach (.setFab h))))

theorem mailboxOutEffect {i} (h : Keeps s t) : Keeps s (Machine.mailboxOutEffect i t) := by
  dsimp only [Machine.mailboxOutEffect]
  refine .startInst h (fun _ _ k => ?_)
  split
  · exact k
  · exact .ite (.takeSlot k) (.tryStop (.completeInst (.logAt k)))

theorem recordWriteEffect (h : Keeps s t) : Keeps s (Machine.recordWriteEffect t) := by
  dsimp only [Machine.recordWriteEffect]
  split
  · exact h
  · exact .ite h (.irqSource (.ite (.setMem (.setApp h) fun k => MemBlk.storeOuter_wf (MemBlk.storeOuter_wf k _ _) _ _)
      (.setApp h)))

/-! ### Sys2Proof.Machine.Dma -/

theorem creditWaitEndEffect {region eng} (h : Keeps s t) : Keeps s (Machine.creditWaitEndEffect region eng t) := by
  dsimp only [Machine.creditWaitEndEffect]
  split
  · exact .ite h (.ite (.acceptedAt (.presentWrite (.countWait (.setFab (.ite_fst h (.takeCredits h)))))) (.ite_fst h
      (.takeCredits h)))
  · split
    · exact h
    · exact .ite (.setChan (.countWait h)) (.ite_fst h (.takeCredits h))

theorem logStall {region a port} (h : Keeps s t) : Keeps s (t.logStall region a port) := .logEv h

theorem creditStallEffect {region} (h : Keeps s t) : Keeps s (Machine.creditStallEffect region t) := by
  dsimp only [Machine.creditStallEffect]
  split
  · exact .logStall (.setFab (.reach h))
  · split
    · split
      · exact h
      · exact .logStall (.updIb (.reach h))
    · exact .ite h (.logStall (.setChan (.reach h)))

theorem makeCurrent {e c ix d first} (h : Keeps s t) : Keeps s (t.makeCurrent e c ix d first) := .setChan h

theorem dmaStartEffect {i} (h : Keeps s t) : Keeps s (Machine.dmaStartEffect i t) := by
  dsimp only [Machine.dmaStartEffect]
  split
  · exact h
  · refine .ite h (.startInst h (fun _ _ k => ?_))
    split
    · exact .tryStop (.completeInst k)
    · exact .makeCurrent (.setChan k)

theorem endOfCount {e c} (h : Keeps s t) : Keeps s (t.endOfCount e c) := .other (.setEng h)

theorem descriptorCompleteEffect {e c} (h : Keeps s t) : Keeps s (Machine.descriptorCompleteEffect e c t) := by
  dsimp only [Machine.descriptorCompleteEffect]
  refine .ite h ?_
  split
  · exact .makeCurrent (.ite (.endOfCount h) h)
  · split
    · exact .tryStop (.completeInst (.setChan (.setChan (.ite (.endOfCount h) h))))
    · exact .setChan (.ite (.endOfCount h) h)

theorem dmaRowWaitEndEffect {e c} (h : Keeps s t) : Keeps s (Machine.dmaRowWaitEndEffect e c t) := .ite (.setChan h) h
theorem dmaWaitStallEffect {e c} (h : Keeps s t) : Keeps s (Machine.dmaWaitStallEffect e c t) :=
  .ite h (.logEv (.setChan (.reach h)))

theorem chanRead {e c a} (h : Keeps s t) : Keeps s (t.chanRead e c a).1 := by
  have hr {k o} : Keeps s ((t.usePort k o 512).localRead k o 512).1 := .localRead (.usePort h)
  unfold State.chanRead
  -- An arbitrary function in place of the read, so that no comparison of terms evaluates it.
  obtain ⟨read, e⟩ : ∃ f, State.localRead = f := ⟨_, rfl⟩
  rw [e] at hr ⊢
  extract_lets port next
  split
  · exact .fabricRead h
  · exact .fabricRead h
  · exact .fabricRead h
  · split
    · exact .cross hr
    · exact h
  · split
    · exact .cross hr
    · exact h
  · split
    · exact .cross hr
    · exact h
  · exact .ite_fst (.hbmArrive h) (.cross (.readBlock h))
  · exact h

theorem ask {e c} (h : Keeps s t) : Keeps s (t.ask e c) := by
  dsimp only [State.ask]
  refine .ite (.setChan h) ?_
  split
  · exact .chanRead (.setChan h)
  · refine .ite h ?_
    split
    · exact (.of_fst (.chanRead (.setChan h)) ‹_›)
    · exact .setChan (.of_fst (.chanRead (.setChan h)) ‹_›)

theorem writeNeed {e c a} (h : Keeps s t) : Keeps s (t.writeNeed e c a).1 := by
  dsimp only [State.writeNeed]
  refine .ite_fst h ?_
  split
  · refine .ite_fst h ?_
    split
    · exact (.of_fst (.takeCredits h) ‹_›)
    · exact (.of_fst (.takeCredits h) ‹_›)
  · refine .ite_fst h ?_
    split
    · exact (.of_fst (.takeCredits h) ‹_›)
    · exact (.of_fst (.takeCredits h) ‹_›)
  · refine .ite_fst h ?_
    split
    · exact (.of_fst (.takeCredits h) ‹_›)
    · exact (.of_fst (.takeCredits h) ‹_›)
  · exact h
  · exact h
  · exact h

theorem localPieces {k : Fin 52} {port : Nat} {out : List (Nat × List (Byte × Byte × Bool))}
    {f : Nat × List (Byte × Byte × Bool) → Nat} (h : Keeps s t) :
    Keeps s (out.foldl (fun (r : State × Bool) o =>
      if r.2 then r.1.localFabric k port (f o) 0 (some (o.2.map (·.1))) else r) (t, true)).1 :=
  .foldl_fst h fun _ _ k => .ite_fst (.localFabric k) k

theorem dmaPut {e c eng blk out tag poison} (h : Keeps s t) : Keeps s (t.dmaPut e c eng blk out tag poison).1 := by
  unfold State.dmaPut
  extract_lets port data
  split
  · exact .fabricWrite h
  · exact .fabricWrite h
  · exact .fabricWrite h
  · split
    · exact .localPieces h
    · exact h
  · split
    · exact .localPieces h
    · exact h
  · split
    · exact .localPieces h
    · exact h
  · exact .ite_fst (.hbmArrive h) (.setMem h fun k => MemBlk.writeSectors_wf k _ _ _ _)
  · exact h

theorem copyPoison {e c a} (h : Keeps s t) : Keeps s (t.copyPoison e c a) := .ite h (.logEv (.setChan h))

theorem performBeats {e c eng} (h : Keeps s t) : Keeps s (t.performBeats e c eng) := by
  dsimp only [State.performBeats]
  split
  · exact .setChan h
  · split
    all_goals
      rename_i e
      have k := Keeps.of_fst (.writeNeed h) e
    · exact .setChan k
    · exact .setChan k
    · exact .setChan k
    · split
      all_goals
        rename_i e
        have k := Keeps.of_fst (.dmaPut k) e
      · exact .setChan k
      · exact .setChan (.when k .copyPoison)

theorem endWait {e c} (h : Keeps s t) : Keeps s (t.endWait e c) := by
  dsimp only [State.endWait]
  refine .setChan (.ite ?_ h)
  split
  · exact .countWait h
  · exact h

theorem dmaStepEffect {e eng} (h : Keeps s t) : Keeps s (Machine.dmaStepEffect e eng t) := by
  dsimp only [Machine.dmaStepEffect]
  split
  · exact h
  · split
    · exact h
    · exact .setEng (.when (.ask (.endWait (.setEng (.reach h)))) .performBeats)

theorem blockReturnedEffect {e c} (h : Keeps s t) : Keeps s (Machine.blockReturnedEffect e c t) := by
  dsimp only [Machine.blockReturnedEffect]
  split
  · exact h
  · exact .ite h (.setChan (.setFab (.setEng (.reach h))))

theorem busErrorEffect {e c write addr} (h : Keeps s t) : Keeps s (Machine.busErrorEffect e c write addr t) :=
  .ite h (.ite (.setChan (.setEng h)) (.logEv (.setChan h)))

theorem poisonRest {e c} (h : Keeps s t) : Keeps s (t.poisonRest e c) := .foldl h (fun _ _ k => .fabricWrite k)

theorem haltedCompletionEffect {e c} (h : Keeps s t) : Keeps s (Machine.haltedCompletionEffect e c t) := by
  dsimp only [Machine.haltedCompletionEffect]
  refine .ite h (.ite (.ite h (.setChan (.poisonRest h))) ?_)
  split
  · exact .tryStop (.completeInst (.setChan (.ite h (.setChan (.poisonRest h)))))
  · exact .setChan (.ite h (.setChan (.poisonRest h)))

/-! ### Sys2Proof.Machine.Time -/

theorem stepFtb {d} (h : Keeps s t) : Keeps s (t.stepFtb d) := .logEv (.setTime (.drain h))
theorem measured {offset} (h : Keeps s t) : Keeps s (t.measured offset) := .ite (.stepFtb (.setTime h)) (.setTime h)
theorem setPtp {p f} (h : Keeps s t) : Keeps s (t.setPtp p f) := .setTime h
theorem exchanged {p offset} (h : Keeps s t) : Keeps s (t.exchanged p offset) := .ite (.measured (.setTime h)) h

theorem ptpTake {p sfd m'} (h : Keeps s t) : Keeps s (t.ptpTake p sfd m') := by
  dsimp only [State.ptpTake]
  split
  · exact .follow (.setPtp h)
  · exact .ite (.setPtp h) h
  · exact .ite (.setPtp h) h
  · split
    · exact .ite (.exchanged (.setPtp h)) h
    · exact h

theorem sendDelayReq {p} (h : Keeps s t) : Keeps s (t.sendDelayReq p) := by
  dsimp only [State.sendDelayReq]
  split
  · exact h
  · exact .emit (.setPtp h)

theorem ptpEffect {p m} (h : Keeps s t) : Keeps s (Machine.ptpEffect p m t) := by
  unfold Machine.ptpEffect
  refine .ite h ?_
  split
  · rename_i sfd mac ip b
    cases ptpIn t.ptpDomain mac ip b with
    | none => exact h
    | some x => exact .ptpTake h
  · exact .sendDelayReq h
  · exact .follow (.setPtp h)

theorem ptpLockedEffect (h : Keeps s t) : Keeps s (Machine.ptpLockedEffect t) := by
  dsimp only [Machine.ptpLockedEffect]
  split
  · exact h
  · exact .ite (.fresh (.logEv (.setTime (.reach h)))) h

theorem ptpHoldoverEffect (h : Keeps s t) : Keeps s (Machine.ptpHoldoverEffect t) :=
  .ite (.fresh (.logEv (.setTime (.reach h)))) h

theorem excessLog {code kind num offset} (h : Keeps s t) : Keeps s (Machine.excessLog code kind num offset t) :=
  .logEv (.setTime (.reach h))

theorem ptpOffsetExcessEffect (h : Keeps s t) : Keeps s (Machine.ptpOffsetExcessEffect t) := .ite (.excessLog h) h
theorem urlanFtbOffsetEffect (h : Keeps s t) : Keeps s (Machine.urlanFtbOffsetEffect t) := .ite (.excessLog h) h

/-! ### Sys2Proof.Machine.Net -/

theorem setSlot {k f} (h : Keeps s t) : Keeps s (t.setSlot k f) := .setNet h
theorem updCnt {k f} (h : Keeps s t) : Keeps s (t.updCnt k f) := .setSlot h
theorem portLinkEffect {p sub up} (h : Keeps s t) : Keeps s (Machine.portLinkEffect p sub up t) := .ite h (.logEv (.setNet h))
theorem unmatched {p} (h : Keeps s t) : Keeps s (t.unmatched p) := .setNet h
theorem countSeq {k pathB seq} (h : Keeps s t) : Keeps s (t.countSeq k pathB seq) := .setSlot h
theorem accept {k b pathB n p} (h : Keeps s t) : Keeps s (t.accept k b pathB n p) := .setSlot h
theorem backlog {k b n stripe} (h : Keeps s t) : Keeps s (t.backlog k b n stripe) := .otherwise (.setSlot h) .logEv

theorem rrsEffect {k pathB p} (h : Keeps s t) : Keeps s (Machine.rrsEffect k pathB p t) := by
  dsimp only [Machine.rrsEffect]
  split
  · exact h
  · refine .ite h (.ite (.updCnt h) (.ite (.updCnt h) (.ite (.updCnt (.countSeq h)) ?_)))
    split
    · exact .updCnt (.countSeq h)
    · exact .ite (.updCnt (.countSeq h)) (.ite (.updCnt (.countSeq h)) (.ite (.backlog (.countSeq h)) (.accept (.countSeq h))))

theorem answerCtrl {p sub c} (h : Keeps s t) : Keeps s (t.answerCtrl p sub c) := by
  dsimp only [State.answerCtrl]
  split
  · exact .when (.sadLine h) .emit
  · exact .when (.sadLine h) .emit
  · exact .foldl (.sadLine h) (fun _ _ k => .emit k)
  · exact .sadLine h

theorem ethFrameEffect {p sub b} (h : Keeps s t) : Keeps s (Machine.ethFrameEffect p sub b t) := by
  dsimp only [Machine.ethFrameEffect]
  refine .ite h (.ite (.setNet h) (.ite h ?_))
  split
  · exact h
  · exact .answerCtrl h
  · exact .unmatched h
  · split
    · exact .rrsEffect h
    · exact .ite (.ptpEffect h) (.unmatched h)

theorem networkControlEffect {p sub b} (h : Keeps s t) : Keeps s (Machine.networkControlEffect p sub b t) := by
  dsimp only [Machine.networkControlEffect]
  refine .ite h ?_
  split
  · exact .answerCtrl h
  · exact h

theorem pathSilentEffect {k pathB n} (h : Keeps s t) : Keeps s (Machine.pathSilentEffect k pathB n t) := by
  dsimp only [Machine.pathSilentEffect]
  split
  · exact h
  · exact .ite h (.logEv (.setSlot (.reach h)))

theorem sendWrites {l} (h : Keeps s t) : Keeps s (t.sendWrites l) := .foldl h (fun _ _ k => .hbmArrive k)

theorem releaseStripe {slot b n k at_} (h : Keeps s t) : Keeps s (t.releaseStripe slot b n k at_) :=
  .when (.setSlot (.setStamp (.otherwise (.when h .seeHbm) .logAt))) .sendWrites

theorem writeHeld {slot b n k} (h : Keeps s t) : Keeps s (t.writeHeld slot b n k) := by
  dsimp only [State.writeHeld]
  split
  · exact .ite (.sendWrites (.setSlot h)) h
  · exact h

theorem ingressReleaseEffect {i} (h : Keeps s t) : Keeps s (Machine.ingressReleaseEffect i t) := by
  dsimp only [Machine.ingressReleaseEffect]
  split
  · exact h
  · split
    · exact h
    · exact .ite (.writeHeld h) (.ite h (.startInst h (fun _ _ k => .releaseStripe k)))

theorem egressSlotEffect {i} (h : Keeps s t) : Keeps s (Machine.egressSlotEffect i t) := by
  dsimp only [Machine.egressSlotEffect]
  split
  · exact h
  · split
    · exact h
    · exact .ite h (.ite (.setStamp (.setJob (.reach h))) (.ite (.setSlot (.setJob (.reach h))) (.setSlot (.setJob (.reach h)))))

theorem egressLateEffect {k} (h : Keeps s t) : Keeps s (Machine.egressLateEffect k t) := by
  dsimp only [Machine.egressLateEffect]
  split
  · split
    · exact .ite (.logAt (.setSlot h)) h
    · exact h
  · exact h

theorem sendBoth {k b at_ l} (h : Keeps s t) : Keeps s (t.sendBoth k b at_ l) :=
  .ite (.updCnt (.emit h)) (.updCnt (.emit (.updCnt (.emit h))))

theorem readEgressRow {port a n} (h : Keeps s t) : Keeps s (t.readEgressRow port a n) := .foldl h (fun _ _ k => .checkBlock k)

theorem egressPacketEffect {k delay} (h : Keeps s t) : Keeps s (Machine.egressPacketEffect k delay t) := by
  unfold Machine.egressPacketEffect
  split
  · exact .ite h (.setSlot (.sendBoth (.when (.when (.reach h) .readEgressRow) .logEv)))
  · exact h

theorem rrscLatchEffect {i} (h : Keeps s t) : Keeps s (Machine.rrscLatchEffect i t) := by
  dsimp only [Machine.rrscLatchEffect]
  split
  · exact h
  · exact .ite h (.setSlot (.reach h))

theorem missSlot {i k b t'} (h : Keeps s t) : Keeps s (t.missSlot i k b t') :=
  .tryStop (.completeInst (.logAt (.setSlot (.reach h))))

theorem sendSlot {i k b t' delay cmd} (h : Keeps s t) : Keeps s (t.sendSlot i k b t' delay cmd) :=
  .tryStop (.completeInst (.setSlot (.sendBoth (.when (.when (.reach h) .fresh) .logAt))))

theorem rrscSlotEffect {i delay} (h : Keeps s t) : Keeps s (Machine.rrscSlotEffect i delay t) := by
  dsimp only [Machine.rrscSlotEffect]
  split
  · exact h
  · split
    · exact h
    · exact .ite h (.ite (.startInst h (fun _ _ k => .missSlot k)) (.startInst h (fun _ _ k => .sendSlot k)))

theorem rrscMissedEffect {i} (h : Keeps s t) : Keeps s (Machine.rrscMissedEffect i t) := by
  dsimp only [Machine.rrscMissedEffect]
  split
  · exact h
  · exact .startInst h (fun _ _ k => .missSlot k)

/-! ### Sys2Proof.Machine.Complete -/

theorem freeStore {e i} (h : Keeps s t) : Keeps s (t.freeStore e i) := .ite (.setNet h) h

theorem reachEnd {e i} (h : Keeps s t) : Keeps s (t.reachEnd e i) := by
  unfold State.reachEnd
  split
  any_goals exact .foldl (.foldl h fun _ _ k => .when (.when k .reach) .reach) fun _ _ k => .ite (.setWick (.reach k)) k
  · split
    · exact .reach h
    · exact h
  · exact h

theorem instanceCompleteEffect {i} (h : Keeps s t) : Keeps s (Machine.instanceCompleteEffect i t) := by
  dsimp only [Machine.instanceCompleteEffect]
  split
  · exact .ite (.tryStop (.completeInst (.freeStore (.reachEnd h)))) h
  · exact h

/-! ### Sys2Proof.Machine.Saddler -/

theorem saddlerInterruptEffect {p} (h : Keeps s t) : Keeps s (Machine.saddlerInterruptEffect p t) := by
  dsimp only [Machine.saddlerInterruptEffect]
  refine .ite h ?_
  split
  · exact h
  · exact .setSad h

theorem saddlerTimerEffect (h : Keeps s t) : Keeps s (Machine.saddlerTimerEffect t) := .other (.sadLine (.reach h))

theorem saddlerExceptionEffect {p cause addr} (h : Keeps s t) : Keeps s (Machine.saddlerExceptionEffect p cause addr t) :=
  .ite h (.ite (.logEv (.restartPair h)) (.ite h (.ite (.setSad h) (.raiseSad h))))

theorem saddlerDivergenceEffect {p} (h : Keeps s t) : Keeps s (Machine.saddlerDivergenceEffect p t) :=
  .ite h (.logEv (.when (.setSad (.restartPair h)) .setSad))

theorem watchdogEffect {p} (h : Keeps s t) : Keeps s (Machine.watchdogEffect p t) := by
  dsimp only [Machine.watchdogEffect]
  split
  · exact h
  · exact .ite h (.logEv (.setSad (.restartPair (.reach h))))

/-! ### Sys2Proof.Machine.Snapshot -/

theorem snapReads {im} (h : Keeps s t) : Keeps s (t.snapReads im) :=
  .foldl (.foldl h (fun _ _ k => .checkRow k)) (fun _ _ k => .localRead (.localRead (.localRead k)))

theorem snapshotRun {io c} (h : Keeps s t) : Keeps s (Machine.snapshotRun io t c) := by
  dsimp only [Machine.snapshotRun]
  split
  · exact .ite (.finish h) (.ite (.finish h) (.ite (.finish h) (.other h)))
  · exact .finish h

theorem takeSnapshot {im r point} (h : Keeps s t) : Keeps s (t.takeSnapshot im r point) := by
  dsimp only [State.takeSnapshot]
  refine .stopped ?_
  split
  · exact .completeHeld (.logEv (.outerWrite (.snapReads h)))
  · exact .logEv (.outerWrite (.snapReads h))

theorem snapPointEffect {i} (h : Keeps s t) : Keeps s (Machine.snapPointEffect i t) := by
  dsimp only [Machine.snapPointEffect]
  split
  · refine .ite h ?_
    split
    · exact .ite (.takeSnapshot (.setJob (.reach h))) (.tryStop (.setJob (.reach h)))
    · exact .tryStop (.setJob (.reach h))
  · exact h

theorem putChunk {im n c b} (h : Keeps s t) : Keeps s (t.putChunk im n c b) := by
  unfold State.putChunk
  split
  · split
    · exact .setMem h fun k => MemBlk.putRows_wf k _ _
    · exact h
  · split
    · exact .setLan h
    · exact h
  · split
    · exact .setMem h fun k => MemBlk.putRows_wf (MemBlk.load_wf k _ _) _ _
    · exact h
  · split
    · exact .setWick h
    · exact h
  · exact .setMem h fun k => MemBlk.putRows_wf k _ _
  · exact .other h
  · exact .setFab h
  · exact .setJob h
  · exact List.foldlRecOn (motive := fun a : Nat × State => Keeps s a.2) _ _ h fun _ k _ _ => .setStamp (.setNet k)
  · exact .setFab (.setJob h)
  · exact h

theorem dropUnrecorded {kept} (h : Keeps s t) : Keeps s (t.dropUnrecorded kept) := .foldl h (fun _ _ k => .endEpoch k)

theorem resumeFrom {im b l} (h : Keeps s t) : Keeps s (t.resumeFrom im b l) :=
  .setStamp (.setJob (.foldl (.other (.startRun (.dropUnrecorded h))) (fun _ _ k => .putChunk k)))

theorem resumeRun {io c} (h : Keeps s t) : Keeps s (Machine.resumeRun io t c) := by
  dsimp only [Machine.resumeRun]
  split
  · exact .finish h
  · exact .finish h
  · exact .finish h
  · refine .ite (.finish h) (.ite (.finish (.logEv h)) (.ite (.finish h) ?_))
    split
    · exact .finish (.logEv (.outerRead h))
    · exact .ite (.finish (.outerRead h)) (.ite (.finish (.launchLate (.outerRead h))) (.finish (.logEv (.resumeFrom
        (.outerRead h)))))

theorem answerRecord {c io l r0 r1} (h : Keeps s t) : Keeps s (t.answerRecord c io l r0 r1) :=
  .ite (.finish h) (.finish (.outerWrite h))

/-! ### Sys2Proof.Machine.Stamp -/

theorem leafHashStartEffect {slot frame stripe} (h : Keeps s t) : Keeps s (Machine.leafHashStartEffect slot frame stripe t) := by
  dsimp only [Machine.leafHashStartEffect]
  split
  · exact .ite (.setStamp h) h
  · exact h

theorem leafHashDoneEffect {l} (h : Keeps s t) : Keeps s (Machine.leafHashDoneEffect l t) := by
  dsimp only [Machine.leafHashDoneEffect]
  split
  · exact .setStamp (.reach h)
  · exact h

theorem parentHashEffect {slot frame level idx} (h : Keeps s t) : Keeps s (Machine.parentHashEffect slot frame level idx t) := by
  dsimp only [Machine.parentHashEffect]
  split
  · refine .ite h ?_
    split
    · exact .setStamp (.reach h)
    · exact h
  · exact h

theorem recordFormEffect {slot m'} (h : Keeps s t) : Keeps s (Machine.recordFormEffect slot m' t) := by
  dsimp only [Machine.recordFormEffect]
  split
  · exact h
  · split
    · exact h
    · exact .ite h (.setStamp (.reach h))

theorem signatureDoneEffect (h : Keeps s t) : Keeps s (Machine.signatureDoneEffect t) := by
  dsimp only [Machine.signatureDoneEffect]
  split
  · exact .fresh (.setStamp (.reach h))
  · exact h

theorem ancPacketEffect {k} (h : Keeps s t) : Keeps s (Machine.ancPacketEffect k t) := by
  dsimp only [Machine.ancPacketEffect]
  split
  · exact h
  · split
    · exact h
    · exact .ite h (.when (.setStamp (.setSlot (.sendBoth (.reach h)))) .logAt)

/-! ### Sys2Proof.Machine.Vector -/

theorem runVec {x h' i len u at_ branch run} (h : Keeps s t) (hf : ∀ t x, Keeps s t → Keeps s (run t x).st) :
    Keeps s (t.runVec x h' i len u at_ branch run) := by
  dsimp only [State.runVec]
  refine .ite (.raise h) (.ite (.ite (.setWick h) h) ?_)
  split
  · exact .raise (.setWick (hf _ _ (.setWick h)))
  · split
    · exact .residueWk (.setWick (hf _ _ (.setWick h)))
    · exact .setWick (hf _ _ (.setWick h))

theorem issueVec {x i h' run} (h : Keeps s t) (hf : ∀ t x, Keeps s t → Keeps s (run t x).st) :
    Keeps s (t.issueVec x i h' run) := by
  dsimp only [State.issueVec]
  refine .ite ?_ (.ite h (.ite h ?_))
  · split
    · exact h
    · split
      · exact .ite (.runVec h (fun _ _ k => hf _ _ k)) h
      · exact h
  · split
    · exact .ite h (.setWick (.setWick h))
    · exact h
    · exact .ite h (.ite (.setWick (.setWick h)) (.runVec (.setWick h) (fun _ _ k => hf _ _ k)))

theorem updThr {x f} (h : Keeps s t) : Keeps s (t.updThr x f) := .setWick h
theorem putG {x l} (h : Keeps s t) : Keeps s (t.putG x l) := .updThr h

theorem runElems {x vd va b mk f n} (h : Keeps s t) : Keeps s (Machine.runElems x vd va b mk f t n).st := by
  unfold Machine.runElems
  extract_lets th
  split
  · exact h
  · exact .updThr h

theorem vecOp {x i vd va b mk f} (h : Keeps s t) : Keeps s (Machine.vecOp x i vd va b mk f t) :=
  .issueVec h (fun _ _ k => .runElems k)

theorem vecRead {x r} (h : Keeps s t) : Keeps s (t.vecRead x r).1 := by
  dsimp only [State.vecRead]
  exact .when (.readVecRow h) .poisonThread

theorem gatherStep {x ga idx e} {g : Gather} {k} (h : Keeps s g.st) : Keeps s (Machine.gatherStep x ga idx e g k).st := by
  unfold Machine.gatherStep
  split
  · exact h
  · extract_lets a
    split
    · exact h
    · split
      rename_i e
      exact .of_fst (.vecRead h) e

/-! ### Sys2Proof.Machine.Taper -/

theorem updTap {x f} (h : Keeps s t) : Keeps s (t.updTap x f) := .setWick h

theorem fetchElems {x y q p n} (h : Keeps s t) : Keeps s (t.fetchElems x y q p n).1 :=
  .foldl_fst h (fun _ _ k => .when (.checkElem k) .poisonThread)

theorem putAcc {x l j v} (h : Keeps s t) : Keeps s (t.putAcc x l j v) := .ite (.logEv (.updThr (.updTap h))) (.updTap h)

theorem tmacOnce {x a test clr px py gx gy} (h : Keeps s t) : Keeps s (t.tmacOnce x a test clr px py gx gy) := by
  unfold State.tmacOnce
  extract_lets
  split
  rename_i e
  have k := Keeps.of_fst (.fetchElems h) e
  split
  rename_i e
  have k := Keeps.of_fst (.fetchElems k) e
  exact .foldl k fun _ _ k => .when (.putAcc k) .updTap

theorem tmacRun {x a test px py n clr gx gy} (h : Keeps s t) : Keeps s (State.tmacRun x a test px py n clr gx gy t).1 := by
  induction n generalizing t clr gx gy with
  | zero =>
    have k : Keeps s (t.tmacOnce x a test clr px py gx gy) := .tmacOnce h
    exact k
  | succ n ih => exact ih (.tmacOnce h)

theorem runTmac {x a test n} (h : Keeps s t) : Keeps s (Machine.runTmac x a test n t).st := by
  unfold Machine.runTmac
  dsimp only
  split
  · exact h
  · split
    · exact h
    · exact h
    · exact .putG (.tmacRun h)

theorem loadElem {w d y i} (h : Keeps s t) : Keeps s (t.loadElem w d y i).1 :=
  .ite_fst (.when (.checkElem h) .poisonThread) h

theorem loadRows {w d} (h : Keeps s t) : Keeps s (t.loadRows w d) := by
  dsimp only [State.loadRows]
  exact .ite h (.foldl h (fun _ _ k => .when (.readVecRow k) .poisonThread))

theorem loadLine {w d j} (h : Keeps s t) : Keeps s (t.loadLine w d j) := by
  dsimp only [State.loadLine]
  refine .foldl h fun _ _ k => .setMem ?_ fun k => MemBlk.setEcc_wf (MemBlk.write_wf k _ _) _ _
  split
  · exact .loadElem k
  · exact k

theorem lineLoadDoneEffect {w} (h : Keeps s t) : Keeps s (Machine.lineLoadDoneEffect w t) := by
  dsimp only [Machine.lineLoadDoneEffect]
  split
  · exact h
  · exact .setWick (.foldl (.loadRows (.setWick h)) (fun _ _ k => .loadLine k))

/-! ### Sys2Proof.Machine.Urlan -/

theorem updLink {u f} (h : Keeps s t) : Keeps s (t.updLink u f) := .setUr h

theorem spareSwitch {u} (h : Keeps s t) : Keeps s (t.spareSwitch u) := by
  dsimp only [State.spareSwitch]
  split
  · exact h
  · exact .logEv (.updLink h)

theorem sendFlit {u kind flags seq frame index body} (h : Keeps s t) : Keeps s (t.sendFlit u kind flags seq frame index body) :=
  .emit (.updLink (.updLink h))

theorem sendCtrl {u nak} (h : Keeps s t) : Keeps s (t.sendCtrl u nak) := .sendFlit h
theorem sendData {u seq b} (h : Keeps s t) : Keeps s (t.sendData u seq b) := .sendFlit h
theorem resend {u} (h : Keeps s t) : Keeps s (t.resend u) := .foldl h (fun _ _ k => .sendData k)
theorem badFlit {u} (h : Keeps s t) : Keeps s (t.badFlit u) := .updLink h
theorem logLink {u} (h : Keeps s t) : Keeps s (t.logLink u) := .logEv h

theorem train {u peer} (h : Keeps s t) : Keeps s (t.train u peer) := by
  dsimp only [State.train]
  split
  · exact .resend (.updLink h)
  · exact .logEv (.updLink h)
  · exact .updLink h

theorem settleSpare {u} (h : Keeps s t) : Keeps s (t.settleSpare u) := by
  dsimp only [State.settleSpare]
  split
  · exact .spareSwitch h
  · exact .ite (.spareSwitch h) h
  · exact h

theorem linkTrainingEffect {u peer} (h : Keeps s t) : Keeps s (Machine.linkTrainingEffect u peer t) :=
  .ite (.settleSpare (.train h)) h

theorem linkRetrainEffect {u fecLost peer} (h : Keeps s t) : Keeps s (Machine.linkRetrainEffect u fecLost peer t) :=
  .ite h (.settleSpare (.when (.train h) .logLink))

theorem linkRetryEffect {u peer} (h : Keeps s t) : Keeps s (Machine.linkRetryEffect u peer t) :=
  .ite (.settleSpare (.when (.train (.reach h)) .logLink)) h

theorem dataSendEffect {u} (h : Keeps s t) : Keeps s (Machine.dataSendEffect u t) := by
  dsimp only [Machine.dataSendEffect]
  split
  · exact h
  · exact .ite h (.sendData (.updLink (.updLink h)))

theorem ackTimerEffect {u} (h : Keeps s t) : Keeps s (Machine.ackTimerEffect u t) := .ite (.sendCtrl (.reach h)) h
theorem timeSendEffect {u} (h : Keeps s t) : Keeps s (Machine.timeSendEffect u t) := .ite (.sendFlit (.reach h)) h
theorem nak {u} (h : Keeps s t) : Keeps s (t.nak u) := .ite h (.sendCtrl (.updLink h))
theorem takeData {u f} (h : Keeps s t) : Keeps s (t.takeData u f) := .when (.updLink (.updLink h)) .sendCtrl

theorem dataFlitEffect {u b} (h : Keeps s t) : Keeps s (Machine.dataFlitEffect u b t) := by
  dsimp only [Machine.dataFlitEffect]
  refine .ite h ?_
  split
  · exact .nak (.badFlit h)
  · exact .ite (.takeData (.updLink h)) (.nak (.updLink h))

theorem ctrlFlitEffect {u b} (h : Keeps s t) : Keeps s (Machine.ctrlFlitEffect u b t) := by
  dsimp only [Machine.ctrlFlitEffect]
  refine .ite h ?_
  split
  · exact .badFlit h
  · exact .ite (.resend (.updLink (.updLink h))) (.updLink h)

theorem uplinkTimeEffect {b} (h : Keeps s t) : Keeps s (Machine.uplinkTimeEffect b t) := by
  dsimp only [Machine.uplinkTimeEffect]
  split
  · exact h
  · refine .ite h ?_
    split
    · exact .badFlit h
    · exact .measured (.setTime (.updLink h))

theorem lateReleaseEffect {u st m' rep rec blk} (h : Keeps s t) : Keeps s (Machine.lateReleaseEffect u st m' rep rec blk t) := by
  dsimp only [Machine.lateReleaseEffect]
  split
  · exact h
  · exact .ite h (.ite (.logEv (.updLink (.setJob (.reach h)))) (.setJob (.reach h)))

theorem lateWriteEffect {u m ix} (h : Keeps s t) : Keeps s (Machine.lateWriteEffect u m ix t) := by
  dsimp only [Machine.lateWriteEffect]
  split
  · exact .ite (.setJob (.updLink (.setMem (.reach h) fun k => MemBlk.writeBlock_wf k _ _ _))) h
  · exact h

end Keeps

/-! ## O4 -/

/-- Every command answers a next state, which has the same queue, and memory in its canonical form if it was. -/
theorem exec_keeps (c : Instr) (s : State) : ∃ t, exec c s = .next t ∧ Keeps s t := by
  have h := Keeps.refl s
  cases c with
  | powerOnReset => exact ⟨_, rfl, .powerOnEffect h⟩
  | fundamentalReset => exact ⟨_, rfl, .fundamentalEffect h⟩
  | warmReset => exact ⟨_, rfl, .warmResetEffect h⟩
  | railOutOfRegulation => exact ⟨_, rfl, .ite (.other (.trip h)) h⟩
  | inputUndervoltage => exact ⟨_, rfl, .ite (.vinRange (.other (.powerDown h))) h⟩
  | inputOvervoltage => exact ⟨_, rfl, .ite (.vinRange (.other (.powerDown h))) h⟩
  | thermalTrip => exact ⟨_, rfl, .ite (.trip h) h⟩
  | saveSettings => exact ⟨_, rfl, .ite (.other h) h⟩
  | configRecordWrite => exact ⟨_, rfl, .configWriteStart h⟩
  | configWriteDone => exact ⟨_, rfl, .configWriteDoneEffect h⟩
  | serviceButtonPress => exact ⟨_, rfl, .buttonEffect h⟩
  | buttonWindowExpiry => exact ⟨_, rfl, .buttonExpiryEffect h⟩
  | debugJumper => exact ⟨_, rfl, .jumperEffect h⟩
  | sealBroken => exact ⟨_, rfl, .sealEffect h⟩
  | fwWrite => exact ⟨_, rfl, .secEffect h⟩
  | libWrite => exact ⟨_, rfl, .secEffect h⟩
  | rollbackCommit => exact ⟨_, rfl, .secEffect h⟩
  | configDefault => exact ⟨_, rfl, .secEffect h⟩
  | fenceClear => exact ⟨_, rfl, .secEffect h⟩
  | certWrite => exact ⟨_, rfl, .secEffect h⟩
  | identityZeroise => exact ⟨_, rfl, .secEffect h⟩
  | secBadOp => exact ⟨_, rfl, .ite h (.secEffect h)⟩
  | attestGo => exact ⟨_, rfl, .attestGoEffect h⟩
  | attestDone => exact ⟨_, rfl, .attestDoneEffect h⟩
  | throttleWindow => exact ⟨_, rfl, .other h⟩
  | throttleRequest => exact ⟨_, rfl, .throttleRequestEffect h⟩
  | externalThrottle => exact ⟨_, rfl, .externalThrottleEffect h⟩
  | throttleStepBegin => exact ⟨_, rfl, .stepBeginEffect h⟩
  | throttleStep => exact ⟨_, rfl, .stepDoneEffect h⟩
  | smbusRegRead => exact ⟨_, rfl, .smbusOk h (fun _ k => .emit k)⟩
  | smbusRegWrite => exact ⟨_, rfl, .smbusOk h (fun _ k => .emit (.other k))⟩
  | smbusEventRead => exact ⟨_, rfl, .smbusOk h (fun _ k => .smbusEventRead k)⟩
  | smbusWarmReset => exact ⟨_, rfl, .smbusOk h (fun _ k => .ite (.requestWarm (.emit k)) (.emit k))⟩
  | flr => exact ⟨_, rfl, .ite (.hostResetEffect h) h⟩
  | hotReset => exact ⟨_, rfl, .ite (.hostResetEffect h) h⟩
  | configRequest => exact ⟨_, rfl, .ite (.configEffect h) h⟩
  | bar2Access => exact ⟨_, rfl, .ite (.bar2Effect h) h⟩
  | appCoreAccess => exact ⟨_, rfl, .ite (.appCoreEffect h) h⟩
  | bar2BaseWrite =>
    refine ⟨_, rfl, .ite ?_ h⟩
    split
    · exact .regWrite4 h
    · exact .regWrite4 h
    · exact .regWrite64 h
  | registerWrite => exact ⟨_, rfl, .ite (.regWrite h) h⟩
  | registerLowerHalfRead => exact ⟨_, rfl, .ite (.emit (.regRead h)) h⟩
  | ftbCountLowRead =>
    refine ⟨_, rfl, .ite ?_ h⟩
    split
    rename_i e
    exact .emit (.of_fst (.regRead4 h) e)
  | counterClear => exact ⟨_, rfl, .ite (.counterClearEffect h) h⟩
  | steeringWrite => exact ⟨_, rfl, .ite (.steeringEffect h) h⟩
  | dbSqWrite => exact ⟨_, rfl, .doorbellEffect h⟩
  | ringEnable => exact ⟨_, rfl, .ite (.writeRingCfg h) h⟩
  | ringDisable => exact ⟨_, rfl, .ite h (.writeRingCfg h)⟩
  | loadImage => exact ⟨_, rfl, .takeCommand h (fun _ _ k => .loadRun k)⟩
  | bindStream => exact ⟨_, rfl, .takeCommand h (fun _ _ k => .bindRun k)⟩
  | arm => exact ⟨_, rfl, .takeCommand h (fun _ _ k => .armRun k)⟩
  | updateParams => exact ⟨_, rfl, .takeCommand h (fun _ _ k => .updateRun k)⟩
  | snapshot => exact ⟨_, rfl, .takeCommand h (fun _ _ k => .snapshotRun k)⟩
  | resume => exact ⟨_, rfl, .takeCommand h (fun _ _ k => .resumeRun k)⟩
  | stop => exact ⟨_, rfl, .takeCommand h (fun _ _ k => .stopRun k)⟩
  | query => exact ⟨_, rfl, .takeCommand h (fun _ _ k => .answerRecord k)⟩
  | fenceQuery => exact ⟨_, rfl, .takeCommand h (fun _ _ k => .answerRecord k)⟩
  | unknownCommand => exact ⟨_, rfl, .takeCommand h (fun _ _ k => .finish k)⟩
  | stopAtAnchor => exact ⟨_, rfl, .stopAnchorEffect h⟩
  | mailboxOut => exact ⟨_, rfl, .mailboxOutEffect h⟩
  | mailboxRecordWrite => exact ⟨_, rfl, .recordWriteEffect h⟩
  | ibSend => exact ⟨_, rfl, .ibSendEffect h⟩
  | ibSendCredited => exact ⟨_, rfl, .ibSendCreditedEffect h⟩
  | saddlerInterrupt => exact ⟨_, rfl, .saddlerInterruptEffect h⟩
  | saddlerTimerTick => exact ⟨_, rfl, .saddlerTimerEffect h⟩
  | saddlerException => exact ⟨_, rfl, .saddlerExceptionEffect h⟩
  | saddlerDivergence => exact ⟨_, rfl, .saddlerDivergenceEffect h⟩
  | watchdog => exact ⟨_, rfl, .watchdogEffect h⟩
  | cpIrqSwiWrite =>
    refine ⟨_, rfl, ?_⟩
    split
    · exact .setWick h
    · exact .sadSwi h
  | crossingRelease => exact ⟨_, rfl, .crossingEffect h⟩
  | ptpMessage => exact ⟨_, rfl, .ptpEffect h⟩
  | ptpLocked => exact ⟨_, rfl, .ptpLockedEffect h⟩
  | ptpHoldover => exact ⟨_, rfl, .ptpHoldoverEffect h⟩
  | ptpOffsetExcess => exact ⟨_, rfl, .ptpOffsetExcessEffect h⟩
  | uplinkTimeFlit => exact ⟨_, rfl, .uplinkTimeEffect h⟩
  | urlanFtbOffset => exact ⟨_, rfl, .urlanFtbOffsetEffect h⟩
  | commitPoint => exact ⟨_, rfl, .commitEffect h⟩
  | anchorSwitch => exact ⟨_, rfl, .anchorEffect h⟩
  | epochStageCopy => exact ⟨_, rfl, .stageEffect h⟩
  | epochPayloadComplete => exact ⟨_, rfl, .payloadEffect h⟩
  | chain => exact ⟨_, rfl, .chainEffect h⟩
  | requant => exact ⟨_, rfl, .requantEffect h⟩
  | gavg => exact ⟨_, rfl, .gavgEffect h⟩
  | haltedOccupancyEnd => exact ⟨_, rfl, .haltedEndEffect h⟩
  | lanternHang => exact ⟨_, rfl, .lanternHangEffect h⟩
  | failedChainHandling => exact ⟨_, rfl, .failedChainEffect h⟩
  | wickStart => exact ⟨_, rfl, .wickStartEffect h⟩
  | dmaStart => exact ⟨_, rfl, .dmaStartEffect h⟩
  | release => exact ⟨_, rfl, .releaseEffect h⟩
  | testWindow => exact ⟨_, rfl, .testWindowEffect h⟩
  | testWindowPostponed => exact ⟨_, rfl, .postponedEffect h⟩
  | unitMove => exact ⟨_, rfl, .unitMoveEffect h⟩
  | moveEnd => exact ⟨_, rfl, .moveEndEffect h⟩
  | fullSweep => exact ⟨_, rfl, .fullSweepEffect h⟩
  | sequencerDivergence => exact ⟨_, rfl, .sequencerEffect h⟩
  | snapshotPoint => exact ⟨_, rfl, .snapPointEffect h⟩
  | instanceComplete => exact ⟨_, rfl, .instanceCompleteEffect h⟩
  | fabricRowWrite => exact ⟨_, rfl, .ite h (.ite (.fabricWrite h) (.emit (.fabricWrite h)))⟩
  | fabricRowRead => exact ⟨_, rfl, .ite h (.fabricRead h)⟩
  | heldWriteRetry => exact ⟨_, rfl, .heldRetryEffect h⟩
  | mapStoreBankGrant => exact ⟨_, rfl, .bankGrantEffect h⟩
  | creditWaitEnd => exact ⟨_, rfl, .creditWaitEndEffect h⟩
  | creditStall => exact ⟨_, rfl, .creditStallEffect h⟩
  | wickInterruptEntry => exact ⟨_, rfl, .wickInterruptEffect h⟩
  | wickException => exact ⟨_, rfl, .wickExceptionEffect h⟩
  | wickHang => exact ⟨_, rfl, .wickHangEffect h⟩
  | storeBufferDrain => exact ⟨_, rfl, .storeBufferDrainEffect h⟩
  | instructionRefill => exact ⟨_, rfl, .refillEffect h⟩
  | localFabricAccess => exact ⟨_, rfl, .localFabricEffect h⟩
  | cpRcwWrite => exact ⟨_, rfl, .pageStore h⟩
  | rcwWaitEnd => exact ⟨_, rfl, .rcwWaitEndEffect h⟩
  | rcwStall => exact ⟨_, rfl, .rcwStallEffect h⟩
  | cpTaperOwnerWrite => exact ⟨_, rfl, .pageStore h⟩
  | cpRetWrite => exact ⟨_, rfl, .pageStore h⟩
  | addSub => exact ⟨_, rfl, .issue h (fun _ _ k => .runAlu k)⟩
  | andOrXor => exact ⟨_, rfl, .issue h (fun _ _ k => .runAlu k)⟩
  | shlShrSar => exact ⟨_, rfl, .issue h (fun _ _ k => .runAlu k)⟩
  | mul => exact ⟨_, rfl, .issue h (fun _ _ k => .runAlu k)⟩
  | mulhMulhu => exact ⟨_, rfl, .issue h (fun _ _ k => .runAlu k)⟩
  | divDivu => exact ⟨_, rfl, .issue h (fun _ _ k => .runDivide k)⟩
  | remRemu => exact ⟨_, rfl, .issue h (fun _ _ k => .runDivide k)⟩
  | immediateAlu => exact ⟨_, rfl, .issue h (fun _ _ k => .runAlu k)⟩
  | shiftImmediate => exact ⟨_, rfl, .issue h (fun _ _ k => .runAlu k)⟩
  | li => exact ⟨_, rfl, .issue h (fun _ _ k => .runAlu k)⟩
  | lis => exact ⟨_, rfl, .issue h (fun _ _ k => .runAlu k)⟩
  | crcs => exact ⟨_, rfl, .issue h (fun _ _ k => .runAlu k)⟩
  | par => exact ⟨_, rfl, .issue h (fun _ _ k => .runAlu k)⟩
  | brev => exact ⟨_, rfl, .issue h (fun _ _ k => .runAlu k)⟩
  | clz => exact ⟨_, rfl, .issue h (fun _ _ k => .runAlu k)⟩
  | load => exact ⟨_, rfl, .issue h (fun _ _ k => .runLoad k)⟩
  | store => exact ⟨_, rfl, .storeEffect h⟩
  | skip => exact ⟨_, rfl, .issue h (fun _ _ k => k)⟩
  | jmp => exact ⟨_, rfl, .issue h (fun _ _ k => .runJump k)⟩
  | call => exact ⟨_, rfl, .issue h (fun _ _ k => .runCall k)⟩
  | ret => exact ⟨_, rfl, .issue h (fun _ _ k => .runRet k)⟩
  | reti => exact ⟨_, rfl, .issue h (fun _ _ k => .runReti k)⟩
  | featr => exact ⟨_, rfl, .issue h (fun _ _ k => k)⟩
  | drain => exact ⟨_, rfl, .issue h (fun _ _ k => .runDrain k)⟩
  | halt => exact ⟨_, rfl, .issue h (fun _ _ k => k)⟩
  | nop => exact ⟨_, rfl, .issue h (fun _ _ k => k)⟩
  | vsetl => exact ⟨_, rfl, .issueVec h (fun _ _ k => .ite_run k (.putG (.updThr k)))⟩
  | vld =>
    refine ⟨_, rfl, .issueVec h fun _ _ k => .ite_run k ?_⟩
    split
    · exact k
    · refine .setWick (.putG (.foldl k fun _ _ k => ?_))
      split
      rename_i e
      exact .updThr (.of_fst (.vecRead k) e)
  | vst =>
    refine ⟨_, rfl, .issueVec h (fun _ _ k => .ite_run k ?_)⟩
    split
    · exact k
    · exact .setWick (.putG (.foldl k (fun _ _ k => .writeVecRow k)))
  | vaddVsub => exact ⟨_, rfl, .vecOp h⟩
  | vmulVmacc => exact ⟨_, rfl, .vecOp h⟩
  | vmulhVmulhu => exact ⟨_, rfl, .vecOp h⟩
  | vandVorVxor => exact ⟨_, rfl, .vecOp h⟩
  | vshlVshrVsar => exact ⟨_, rfl, .vecOp h⟩
  | vrsr => exact ⟨_, rfl, .vecOp h⟩
  | vminVmax => exact ⟨_, rfl, .vecOp h⟩
  | vsaddVssub => exact ⟨_, rfl, .vecOp h⟩
  | vcmp => exact ⟨_, rfl, .issueVec h (fun _ _ k => .ite_run k (.updThr k))⟩
  | vsel => exact ⟨_, rfl, .issueVec h (fun _ _ k => .ite_run k (.updThr k))⟩
  | vmvs => exact ⟨_, rfl, .issueVec h (fun _ _ k => .ite_run k (.updThr k))⟩
  | vmvx => exact ⟨_, rfl, .issueVec h (fun _ _ k => .ite_run k (.putG k))⟩
  | vslupVsldn => exact ⟨_, rfl, .issueVec h (fun _ _ k => .ite_run k (.updThr k))⟩
  | vwidsVwidu => exact ⟨_, rfl, .issueVec h (fun _ _ k => .ite_run k (.updThr k))⟩
  | vnrs => exact ⟨_, rfl, .issueVec h (fun _ _ k => .ite_run k (.updThr (.ite (.fresh k) k)))⟩
  | vreduction => exact ⟨_, rfl, .issueVec h (fun _ _ k => .ite_run k (.putG k))⟩
  | vmpop => exact ⟨_, rfl, .issueVec h (fun _ _ k => .putG k)⟩
  | vcrc =>
    refine ⟨_, rfl, .issueVec h (fun _ _ k => .ite_run (.putG (.fresh k)) ?_)⟩
    split
    · exact k
    · exact .setWick (.putG (.vecRead k))
  | vgth =>
    refine ⟨_, rfl, .issueVec h fun u _ k => ?_⟩
    have hg {x ga idx e v l} : Keeps s (List.foldl (gatherStep x ga idx e) ⟨u, v, none⟩ l).st :=
      List.foldlRecOn (motive := fun g : Gather => Keeps s g.st) _ _ k fun _ k _ _ => .gatherStep k
    exact .setWick (.updThr hg)
  | tclr => exact ⟨_, rfl, .issueVec h (fun _ _ k => .ok (.updTap k))⟩
  | tsync => exact ⟨_, rfl, .issueVec h (fun _ _ k => k)⟩
  | tstat => exact ⟨_, rfl, .issueVec h (fun _ _ k => .ok (.updTap (.putG k)))⟩
  | tload => exact ⟨_, rfl, .issueVec h (fun _ _ k => .ite_run k (.ite_run (.setWick (.setWick (.foldl k (fun _ _ k => .ite
      (.poisonThread (.checkLine k)) (.checkLine k))))) (.setWick (.foldl k (fun _ _ k => .ite (.poisonThread (.checkLine k))
          (.checkLine k))))))⟩
  | lineLoadDone => exact ⟨_, rfl, .lineLoadDoneEffect h⟩
  | trep => exact ⟨_, rfl, .issueVec h (fun _ _ k => .ite_run (.runTmac k) (.updThr (.runTmac k)))⟩
  | tsetc => exact ⟨_, rfl, .issueVec h (fun _ _ k => .ite_run (.ok (.updTap k)) k)⟩
  | tmac => exact ⟨_, rfl, .issueVec h (fun _ _ k => .runTmac k)⟩
  | tout => exact ⟨_, rfl, .issueVec h (fun _ _ k => .ite_run k (.ok (.updTap (.updThr k))))⟩
  | texp => exact ⟨_, rfl, .issueVec h (fun _ _ k => .updThr k)⟩
  | tnorm => exact ⟨_, rfl, .issueVec h (fun _ _ k => .foldl k (fun _ _ k => .ite k (.putAcc k)))⟩
  | tmacs => exact ⟨_, rfl, .issueVec h (fun _ _ k => .runTmac k)⟩
  | tsigr => exact ⟨_, rfl, .issueVec h (fun _ _ k => .ok (.updTap (.putG k)))⟩
  | dmaStep => exact ⟨_, rfl, .dmaStepEffect h⟩
  | dmaBlockReturned => exact ⟨_, rfl, .blockReturnedEffect h⟩
  | dmaDescriptorComplete => exact ⟨_, rfl, .descriptorCompleteEffect h⟩
  | dmaBusError => exact ⟨_, rfl, .busErrorEffect h⟩
  | haltedChannelCompletion => exact ⟨_, rfl, .haltedCompletionEffect h⟩
  | dmaRowWaitEnd => exact ⟨_, rfl, .dmaRowWaitEndEffect h⟩
  | dmaWaitStall => exact ⟨_, rfl, .dmaWaitStallEffect h⟩
  | hbmSlot => exact ⟨_, rfl, .hbmSlotEffect h⟩
  | hbmReadData => exact ⟨_, rfl, .hbmReadDataEffect h⟩
  | hbmOpenAccess => exact ⟨_, rfl, .hbmOpenEffect h⟩
  | hbmTempHigh => exact ⟨_, rfl, .hbmTemp h⟩
  | ethFrameReceived => exact ⟨_, rfl, .ethFrameEffect h⟩
  | rrsPacket => exact ⟨_, rfl, .rrsEffect h⟩
  | networkControlPacket => exact ⟨_, rfl, .networkControlEffect h⟩
  | portLink => exact ⟨_, rfl, .portLinkEffect h⟩
  | ethPortCfgWrite => exact ⟨_, rfl, .ite (.ethCfgEffect h) h⟩
  | ingressRelease => exact ⟨_, rfl, .ingressReleaseEffect h⟩
  | ingressPathSilent => exact ⟨_, rfl, .pathSilentEffect h⟩
  | egressSlot => exact ⟨_, rfl, .egressSlotEffect h⟩
  | egressPacket => exact ⟨_, rfl, .egressPacketEffect h⟩
  | egressLateSend => exact ⟨_, rfl, .egressLateEffect h⟩
  | stampAncPacket => exact ⟨_, rfl, .ancPacketEffect h⟩
  | rrscCommitGo => exact ⟨_, rfl, .ite (.rrscCommitEffect h) h⟩
  | rrscLatch => exact ⟨_, rfl, .rrscLatchEffect h⟩
  | rrscSlot => exact ⟨_, rfl, .rrscSlotEffect h⟩
  | rrscMissed => exact ⟨_, rfl, .rrscMissedEffect h⟩
  | linkTraining => exact ⟨_, rfl, .linkTrainingEffect h⟩
  | linkRetrain => exact ⟨_, rfl, .linkRetrainEffect h⟩
  | linkRetryTimer => exact ⟨_, rfl, .linkRetryEffect h⟩
  | urlanDataSend => exact ⟨_, rfl, .dataSendEffect h⟩
  | urlanDataFlit => exact ⟨_, rfl, .dataFlitEffect h⟩
  | urlanCtrlFlit => exact ⟨_, rfl, .ctrlFlitEffect h⟩
  | urlanAckTimer => exact ⟨_, rfl, .ackTimerEffect h⟩
  | urlanTimeSend => exact ⟨_, rfl, .timeSendEffect h⟩
  | urlanLateRelease => exact ⟨_, rfl, .lateReleaseEffect h⟩
  | urlanLateBlockWrite => exact ⟨_, rfl, .lateWriteEffect h⟩
  | urWindowWrite =>
    refine ⟨_, rfl, .ite ?_ h⟩
    split
    · exact .regWrite4 h
    · exact .regWrite4 h
    · exact .regWrite64 h
  | leafHashStart => exact ⟨_, rfl, .leafHashStartEffect h⟩
  | leafHashDone => exact ⟨_, rfl, .leafHashDoneEffect h⟩
  | parentHashDone => exact ⟨_, rfl, .parentHashEffect h⟩
  | stampRecordForm => exact ⟨_, rfl, .recordFormEffect h⟩
  | signatureDone => exact ⟨_, rfl, .signatureDoneEffect h⟩
  | telemetrySample => exact ⟨_, rfl, .telemetryEffect h⟩
  | managementSupply => exact ⟨_, rfl, .managementSupplyEffect h⟩
  | spareRotation => exact ⟨_, rfl, .spareRotationEffect h⟩
  | vacatedUnitTest => exact ⟨_, rfl, .vacatedTestEffect h⟩
  | ppsOut => exact ⟨_, rfl, .ite (.ppsEffect h) h⟩

/-- Settles O4: a tick, or the front command on the rest of the queue. That the lists rise in their keys and hold no default value is
the model's own form of memory, log 3. -/
theorem stepsKeepMemoryCanonical : Obligations.StepsKeepMemoryCanonical := by
  unfold Obligations.StepsKeepMemoryCanonical
  intro s t hs h
  unfold step at h
  split at h
  next e =>
    cases h
    have k : Keeps s s.tick := .tick (.refl s)
    exact ⟨k.wf hs, by rw [k.pending, e]; rfl⟩
  next c rest e =>
    obtain ⟨u, hu, k⟩ := exec_keeps c { s with pending := rest }
    cases hu.symm.trans h
    exact ⟨k.wf hs, by rw [k.pending, e]; rfl⟩

end Sys2Proof.Machine
end

section
/-! # PROOFS. What a row write stores (O9). -/
namespace Sys2Proof.Machine

/-! ## One sector (R168) -/

/-- The bytes of a selected sector are written, and its stored error is gone. -/
def MemBlk.putSector (row : Nat) (mask : BitVec 16) (b : List Byte) (m : MemBlk) (i : Nat) : MemBlk :=
  if mask.getLsbD i then (m.write (row + 32 * i) (slice b (32 * i) 32)).setEcc (row + 32 * i) 0 else m

/-- The memory of a row write before its tag and its poison. -/
def MemBlk.putSectors (m : MemBlk) (row : Nat) (mask : BitVec 16) (b : List Byte) : MemBlk :=
  allSectors.foldl (MemBlk.putSector row mask b) m

section
variable {m : MemBlk} {row : Nat} {mask : BitVec 16} {b : List Byte} {i : Nat}

theorem MemBlk.putSector_wf (h : m.wf) : (m.putSector row mask b i).wf := by
  unfold MemBlk.putSector
  split
  · exact MemBlk.setEcc_wf (MemBlk.write_wf h _ _) _ _
  · exact h

theorem MemBlk.byte_putSector (h : m.wf) (hb : b.length = 512) (hi : i < 16) (a : Nat) :
    (m.putSector row mask b i).byte a =
      if row ≤ a ∧ (a - row) / 32 = i ∧ mask.getLsbD i = true then b.getD (a - row) 0 else m.byte a := by
  unfold MemBlk.putSector
  split
  case isFalse hmask => rw [if_neg fun ⟨_, _, k⟩ => hmask k]
  case isTrue hmask =>
    have hlen : (slice b (32 * i) 32).length = 32 := by
      rw [slice, List.length_take, List.length_drop]
      omega
    have hbyte := MemBlk.byte_write h (row + 32 * i) a (slice b (32 * i) 32)
    rw [hlen] at hbyte
    refine Eq.trans hbyte ?_
    by_cases ha : row + 32 * i ≤ a ∧ a < row + 32 * i + 32
    · rw [if_pos ha, if_pos ⟨by omega, by omega, hmask⟩, slice, List.getD_eq_getElem?_getD, List.getD_eq_getElem?_getD,
        List.getElem?_take_of_lt (by omega), List.getElem?_drop, show 32 * i + (a - (row + 32 * i)) = a - row by omega]
    · rw [if_neg ha, if_neg fun ⟨_, _, _⟩ => ha (by omega)]

theorem MemBlk.eccAt_putSector (h : m.wf) (a : Nat) :
    (m.putSector row mask b i).eccAt a =
      if row ≤ a ∧ (a - row) % 32 = 0 ∧ (a - row) / 32 = i ∧ mask.getLsbD i = true then 0 else m.eccAt a := by
  unfold MemBlk.putSector
  split
  case isFalse hmask => rw [if_neg fun ⟨_, _, _, k⟩ => hmask k]
  case isTrue hmask =>
    obtain ⟨_, _, _, hecc, _, _⟩ := h
    refine (Sparse.get_set hecc (row + 32 * i) a 0).trans ?_
    by_cases ha : a = row + 32 * i
    · rw [if_pos ha, if_pos ⟨by omega, by omega, by omega, hmask⟩]
    · rw [if_neg ha, if_neg fun ⟨_, _, _, _⟩ => ha (by omega)]
      rfl

/-- A sector's bytes and stored error are all that it changes. -/
theorem MemBlk.putSector_rest : (m.putSector row mask b i).tags = m.tags ∧ (m.putSector row mask b i).poison = m.poison ∧
    (m.putSector row mask b i).flash = m.flash := by
  unfold MemBlk.putSector
  split <;> exact ⟨rfl, rfl, rfl⟩

/-! ## All sectors -/

theorem MemBlk.foldl_putSector_wf (h : m.wf) (l : List Nat) : (l.foldl (MemBlk.putSector row mask b) m).wf :=
  MemBlk.foldl_wf _ (fun _ _ k => MemBlk.putSector_wf k) l h

theorem MemBlk.byte_foldl_putSector (h : m.wf) (hb : b.length = 512) (a : Nat) {l : List Nat} (hl : ∀ i ∈ l, i < 16) :
    (l.foldl (MemBlk.putSector row mask b) m).byte a =
      if row ≤ a ∧ (a - row) / 32 ∈ l ∧ mask.getLsbD ((a - row) / 32) = true then b.getD (a - row) 0 else m.byte a := by
  induction l generalizing m with
  | nil => simp
  | cons i l ih =>
    rw [List.foldl_cons, ih (MemBlk.putSector_wf h) fun j hj => hl j (List.mem_cons_of_mem i hj),
      MemBlk.byte_putSector h hb (hl i List.mem_cons_self)]
    grind

theorem MemBlk.eccAt_foldl_putSector (h : m.wf) (a : Nat) (l : List Nat) :
    (l.foldl (MemBlk.putSector row mask b) m).eccAt a =
      if row ≤ a ∧ (a - row) % 32 = 0 ∧ (a - row) / 32 ∈ l ∧ mask.getLsbD ((a - row) / 32) = true then 0 else m.eccAt a := by
  induction l generalizing m with
  | nil => simp
  | cons i l ih =>
    rw [List.foldl_cons, ih (MemBlk.putSector_wf h), MemBlk.eccAt_putSector h]
    grind

theorem MemBlk.putSectors_rest : (m.putSectors row mask b).tags = m.tags ∧ (m.putSectors row mask b).poison = m.poison ∧
    (m.putSectors row mask b).flash = m.flash := by
  unfold MemBlk.putSectors
  refine List.foldlRecOn (motive := fun x : MemBlk => x.tags = m.tags ∧ x.poison = m.poison ∧ x.flash = m.flash) _ _ ⟨rfl, rfl, rfl⟩ ?_
  intro x ⟨htags, hpoison, hflash⟩ i _
  obtain ⟨ht, hp, hf⟩ := MemBlk.putSector_rest (m := x) (row := row) (mask := mask) (b := b) (i := i)
  exact ⟨ht.trans htags, hp.trans hpoison, hf.trans hflash⟩

theorem MemBlk.putSectors_wf (h : m.wf) : (m.putSectors row mask b).wf := MemBlk.foldl_putSector_wf h allSectors

theorem mem_allSectors : i ∈ allSectors ↔ i < 16 := List.mem_range

theorem MemBlk.byte_putSectors (h : m.wf) (hb : b.length = 512) (a : Nat) :
    (m.putSectors row mask b).byte a =
      if row ≤ a ∧ a < row + 512 ∧ mask.getLsbD ((a - row) / 32) = true then b.getD (a - row) 0 else m.byte a := by
  have hin : row ≤ a → ((a - row) / 32 < 16 ↔ a < row + 512) := fun _ => by omega
  rw [MemBlk.putSectors, MemBlk.byte_foldl_putSector h hb a fun _ => mem_allSectors.1]
  exact if_congr (and_congr_right fun k => and_congr_left fun _ => mem_allSectors.trans (hin k)) rfl rfl

theorem MemBlk.eccAt_putSectors (h : m.wf) (a : Nat) :
    (m.putSectors row mask b).eccAt a =
      if row ≤ a ∧ a < row + 512 ∧ (a - row) % 32 = 0 ∧ mask.getLsbD ((a - row) / 32) = true then 0 else m.eccAt a := by
  have hin : row ≤ a → ((a - row) / 32 < 16 ↔ a < row + 512) := fun _ => by omega
  rw [MemBlk.putSectors, MemBlk.eccAt_foldl_putSector h]
  refine if_congr (and_congr_right fun k => ?_) rfl rfl
  rw [mem_allSectors, hin k]
  exact and_left_comm

end

/-! ## The row -/

section
variable (m : MemBlk) (row : Nat) (mask : BitVec 16) (data : Row) (tag : Byte) (p : Bool)

/-- The sectors of a row write, then its tag and the sound sideband. -/
def MemBlk.putTagged : MemBlk :=
  let y := m.putSectors row mask (rowBytes data)
  { y.setTag row tag with sbEcc := Sparse.set 0 y.sbEcc row 0 }

theorem MemBlk.writeRow_eq : m.writeRow row mask data tag p =
    if mask = 0xFFFF then (m.putTagged row mask data tag).setPoison row p
    else if p then (m.putTagged row mask data tag).setPoison row true else m.putTagged row mask data tag := rfl

/-- Poison and tag aside, a row write stores what its sectors do. -/
theorem MemBlk.writeRow_stores : (m.writeRow row mask data tag p).cells = (m.putSectors row mask (rowBytes data)).cells ∧
    (m.writeRow row mask data tag p).ecc = (m.putSectors row mask (rowBytes data)).ecc ∧
    (m.writeRow row mask data tag p).tags = ((m.putSectors row mask (rowBytes data)).setTag row tag).tags ∧
    (m.writeRow row mask data tag p).flash = (m.putSectors row mask (rowBytes data)).flash := by
  rw [MemBlk.writeRow_eq]
  split
  · exact ⟨rfl, rfl, rfl, rfl⟩
  · split <;> exact ⟨rfl, rfl, rfl, rfl⟩

variable {m}

theorem MemBlk.poisoned_writeRow (h : m.wf) (r : Nat) : (m.writeRow row mask data tag p).poisoned r =
    if r = row then p || (decide (mask ≠ 0xFFFF) && m.poisoned r) else m.poisoned r := by
  have hwf : (m.putTagged row mask data tag).wf := MemBlk.setSbEcc_wf (MemBlk.setTag_wf (MemBlk.putSectors_wf h) row tag) row 0
  have hkept : (m.putTagged row mask data tag).poisoned r = m.poisoned r := by
    obtain ⟨_, hpoison, _⟩ := MemBlk.putSectors_rest (m := m) (row := row) (mask := mask) (b := rowBytes data)
    exact congrArg (fun l => Sparse.get 0 l r != 0) hpoison
  rw [MemBlk.writeRow_eq]
  split
  case isTrue hfull => rw [MemBlk.poisoned_setPoison hwf, hkept, decide_eq_false (not_not_intro hfull), Bool.false_and, Bool.or_false]
  case isFalse hpart =>
    rw [decide_eq_true hpart, Bool.true_and]
    cases p with
    | true => rw [if_pos rfl, MemBlk.poisoned_setPoison hwf, hkept, Bool.true_or]
    | false => rw [if_neg Bool.false_ne_true, hkept, Bool.false_or, ite_self]

end

/-! ## O9 -/

/-- Settles O9: bytes and stored errors by the sectors, the tag by its own write, the poison by R168's two cases. The canonical form
is the model's own, log 3. -/
theorem rowWritesReachTheirSectors : Obligations.RowWritesReachTheirSectors := by
  unfold Obligations.RowWritesReachTheirSectors
  intro m row mask data tag p h
  obtain ⟨hcells, hecc, htags, hflash⟩ := MemBlk.writeRow_stores m row mask data tag p
  obtain ⟨hkept, _, hflash'⟩ := MemBlk.putSectors_rest (m := m) (row := row) (mask := mask) (b := rowBytes data)
  refine ⟨fun a => ?_, fun r => ?_, MemBlk.poisoned_writeRow row mask data tag p h, fun a => ?_, hflash.trans hflash'⟩
  · rw [← MemBlk.byte_putSectors h (b := rowBytes data) (leBytes_length 512 _) a, MemBlk.byte, hcells]
    rfl
  · have ht := MemBlk.tag_setTag (MemBlk.putSectors_wf h (row := row) (mask := mask) (b := rowBytes data)) row r tag
    rw [MemBlk.tag, MemBlk.tag, hkept] at ht
    rw [MemBlk.tag, htags, ht]
    rfl
  · rw [← MemBlk.eccAt_putSectors h a (b := rowBytes data), MemBlk.eccAt, hecc]
    rfl

end Sys2Proof.Machine
end

section
/-! # PROOFS. Blocks returned, descriptors, waits, bus errors and halted transfers of the DMA engines (O50). -/
namespace Sys2Proof.Machine

section
variable (s : State) (e : Fin 4) (c : Fin 32)

/-! ## One engine and one channel -/

@[simp] theorem setEng_self (f : Engine → Engine) : (s.setEng e f).dma[e] = f s.dma[e] := upd_get_self _ e f

@[simp] theorem setChan_self (f : Chan → Chan) : (s.setChan e c f).dma[e].ch[c] = f s.dma[e].ch[c] := by
  rw [State.setChan, setEng_self]
  exact upd_get_self _ c f

@[simp] theorem setChan_mcyc (f : Chan → Chan) : (s.setChan e c f).dma[e].mcyc = s.dma[e].mcyc := by rw [State.setChan, setEng_self]
@[simp] theorem setChan_eocPend (f : Chan → Chan) : (s.setChan e c f).dma[e].eocPend = s.dma[e].eocPend := by
  rw [State.setChan, setEng_self]
@[simp] theorem setChan_retryCnt (f : Chan → Chan) : (s.setChan e c f).dma[e].retryCnt = s.dma[e].retryCnt := by
  rw [State.setChan, setEng_self]
@[simp] theorem setChan_job (f : Chan → Chan) : (s.setChan e c f).job = s.job := rfl
@[simp] theorem setChan_time (f : Chan → Chan) : (s.setChan e c f).time = s.time := rfl
@[simp] theorem setChan_fab (f : Chan → Chan) : (s.setChan e c f).fab = s.fab := rfl

theorem setChan_only (f : Chan → Chan) : Only [.dma] s (s.setChan e c f) := setEng_only s e _

@[simp] theorem completeInst_dma (i : Inst) : (s.completeInst i).dma = s.dma := rfl
@[simp] theorem completeInst_stopAt (i : Inst) : (s.completeInst i).job.stopAt = s.job.stopAt := rfl

theorem mem_completeInst (i : Inst) : i ∈ (s.completeInst i).job.completed := List.mem_cons_self

theorem completeInst_only (i : Inst) : Only [.job] s (s.completeInst i) := setJob_only s _

/-! ## Returned blocks (R338) -/

/-- M-cycles without a step change nothing of a channel but its pace. -/
theorem Engine.idleTo_ch (g : Engine) (m : Nat) : (g.idleTo m).ch[c] = { g.ch[c] with pace := ((g.idleTo m).ch[c]).pace } := by
  unfold Engine.idleTo
  split
  · simp only [Engine.toCycle, Fin.getElem_fin, Vector.getElem_map]
    split <;> rfl
  · rfl

theorem Engine.idleTo_mcyc (g : Engine) (m : Nat) : (g.idleTo m).mcyc = max g.mcyc m := by
  unfold Engine.idleTo
  split
  · exact (max_eq_right_of_lt ‹_›).symm
  · exact (max_eq_left (not_lt.1 ‹_›)).symm

end

section
variable {s : State} {e : Fin 4} {c : Fin 32}

/-- The channel's oldest requested block whose data has arrived, with the crossing and the data. -/
def State.returned (s : State) (e : Fin 4) (c : Fin 32) : Option (Block × Nat × XItem) :=
  (s.dma[e].ch[c]).blocks.findSome? fun b => if b.back || b.again then none else (s.fab.arrived (88 + e.1) c b.addr).map fun p => (b, p.1, p.2)

theorem blockReturnedEffect_early {b : Block} {src n : Nat} {x : XItem} (h : s.returned e c = some (b, src, x))
    (hn : s.nextCycle e = some n) (hlt : n < x.usableAt) : blockReturnedEffect e c s = s := by
  rw [State.returned] at h
  simp only [blockReturnedEffect, h, hn, Option.map_some, decide_eq_true hlt, if_true]

/-- The state after the return of a block. -/
def State.afterReturn (s : State) (e : Fin 4) (c : Fin 32) (b : Block) (src : Nat) (x : XItem) : State :=
  let u := (s.reach (x.usableAt * 10 / 13)).setEng e fun g => g.idleTo (x.usableAt - 1)
  (u.setFab (u.fab.takeItem src (88 + e.1) x)).setChan e c fun q =>
    { q with blocks := q.blocks.map fun k => if k.last = b.last then k.fill x else k }

theorem blockReturnedEffect_usable {b : Block} {src : Nat} {x : XItem} (h : s.returned e c = some (b, src, x))
    (hn : ∀ n, s.nextCycle e = some n → x.usableAt ≤ n) : blockReturnedEffect e c s = s.afterReturn e c b src x := by
  have hnot : ¬ ((s.nextCycle e).map fun n => decide (n < x.usableAt)) = some true := by
    cases hc : s.nextCycle e with
    | none => nofun
    | some n => simpa using hn n hc
  rw [State.returned] at h
  simp only [blockReturnedEffect, h, if_neg hnot]
  rfl

theorem afterReturn_only (b : Block) (src : Nat) (x : XItem) :
    Only [.dma, .fab, .time, .mem, .log, .host, .misc] s (s.afterReturn e c b src x) :=
  ((((reach_only s _).mono (by simp)).right (setEng_only _ e _) (by simp)).right (setFab_only _ _) (by simp)).right
    (setChan_only _ e c _) (by simp)

theorem afterReturn_ch (b : Block) (src : Nat) (x : XItem) :
    (s.afterReturn e c b src x).dma[e].ch[c] = { s.dma[e].ch[c] with
      blocks := (s.dma[e].ch[c]).blocks.map fun k =>
        if k.last = b.last then { k with back := true, data := x.data, tag := x.tag, poison := x.poison } else k
      pace := ((s.afterReturn e c b src x).dma[e].ch[c]).pace } := by
  simp only [State.afterReturn, setChan_self, State.setFab_dma, setEng_self, reach_dma]
  rw [Engine.idleTo_ch]
  rfl

theorem afterReturn_mcyc (b : Block) (src : Nat) (x : XItem) :
    (s.afterReturn e c b src x).dma[e].mcyc = max s.dma[e].mcyc (x.usableAt - 1) := by
  simp only [State.afterReturn, setChan_mcyc, State.setFab_dma, setEng_self, reach_dma, Engine.idleTo_mcyc]

theorem afterReturn_fab (b : Block) (src : Nat) (x : XItem) :
    (s.afterReturn e c b src x).fab = s.fab.takeItem src (88 + e.1) x := by
  simp only [State.afterReturn, setChan_fab, State.setFab_fab, State.setEng_fab, reach_fab]

theorem afterReturn_ftb (b : Block) (src : Nat) (x : XItem) : x.usableAt * 10 / 13 ≤ (s.afterReturn e c b src x).time.ftb := by
  simp only [State.afterReturn, setChan_time, State.setFab_time, State.setEng_time]
  exact le_reach s _

/-! ## Descriptors (R332, R345) -/

theorem endOfCount_only (s : State) (e : Fin 4) (c : Fin 32) : Only [.dma, .wick] s (s.endOfCount e c) := by
  intro g hg
  cases g with
  | dma | wick => simp at hg
  | _ => rfl

theorem endOfCount_job (s : State) (e : Fin 4) (c : Fin 32) : (s.endOfCount e c).job = s.job := endOfCount_only s e c .job (by simp)

theorem endOfCount_eocPend (s : State) (e : Fin 4) (c : Fin 32) :
    ((s.endOfCount e c).dma[e]).eocPend = s.dma[e].eocPend ||| BitVec.ofNat 32 (2 ^ c.1) := by
  simp only [State.endOfCount, setEng_self]

theorem endOfCount_ch (s : State) (e : Fin 4) (c : Fin 32) : (s.endOfCount e c).dma[e].ch[c] = s.dma[e].ch[c] := by
  simp only [State.endOfCount, setEng_self]

/-- The channel's descriptor is finished: its bytes are written, and every write of it accepted. -/
structure Finished (s : State) (e : Fin 4) (c : Fin 32) : Prop where
  running : (s.dma[e].ch[c]).state = .running
  written : (s.dma[e].ch[c]).cur.dstTotal ≤ (s.dma[e].ch[c]).dstDone
  accepted : s.writesAccepted e c = true

/-- DMA_DESCRIPTOR_COMPLETE acts. -/
theorem Finished.acts (h : Finished s e c) :
    ¬ ((s.dma[e].ch[c]).state != .running || decide ((s.dma[e].ch[c]).dstDone < (s.dma[e].ch[c]).cur.dstTotal) || !s.writesAccepted e c) = true := by
  rw [h.running, decide_eq_false (not_lt.2 h.written), h.accepted]
  decide

theorem Finished.next (h : Finished s e c) {d : DmaDesc} (hctrl : bit (s.dma[e].ch[c]).cur.ctrl 2 = false)
    (hd : s.descAt (s.dma[e].ch[c]).list ((s.dma[e].ch[c]).descIx + 1) = some d) :
    descriptorCompleteEffect e c s = s.makeCurrent e c ((s.dma[e].ch[c]).descIx + 1) d ((s.dma[e].ch[c]).accAt + 1) := by
  simp only [descriptorCompleteEffect, if_neg h.acts, hctrl, Bool.false_eq_true, if_false, hd]

/-- The end of count that a descriptor asks for. -/
def State.counted (s : State) (e : Fin 4) (c : Fin 32) : State := if bit (s.dma[e].ch[c]).cur.ctrl 2 then s.endOfCount e c else s

theorem counted_only (s : State) (e : Fin 4) (c : Fin 32) : Only [.dma, .wick] s (s.counted e c) := by
  unfold State.counted
  split
  · exact endOfCount_only s e c
  · exact Only.refl _ s

theorem counted_job (s : State) (e : Fin 4) (c : Fin 32) : (s.counted e c).job = s.job := counted_only s e c .job (by simp)

/-- The instance is complete, and its channel idle. -/
def State.afterList (s : State) (e : Fin 4) (c : Fin 32) (i : Inst) : State :=
  (((s.setChan e c fun x => { x with state := .idle, wait := .none, hold := [], blocks := [] }).setChan e c fun x =>
    { x with inst := none }).completeInst i)

theorem Finished.last (h : Finished s e c) {i : Inst}
    (hd : s.descAt (s.dma[e].ch[c]).list ((s.dma[e].ch[c]).descIx + 1) = none) (hi : (s.dma[e].ch[c]).inst = some i)
    (hstop : s.job.stopAt = none) : descriptorCompleteEffect e c s = (s.counted e c).afterList e c i := by
  have hnone : (s.counted e c).descAt (s.dma[e].ch[c]).list ((s.dma[e].ch[c]).descIx + 1) = none := by
    rw [State.descAt, counted_job]
    exact hd
  have hstop' : ((s.counted e c).afterList e c i).job.stopAt = none := (congrArg JobBlk.stopAt (counted_job s e c)).trans hstop
  rw [State.counted] at hnone
  simp only [descriptorCompleteEffect, if_neg h.acts, hnone, hi]
  exact tryStop_of_none hstop'

theorem afterList_only (s : State) (e : Fin 4) (c : Fin 32) (i : Inst) : Only [.dma, .job] s (s.afterList e c i) :=
  (((setChan_only s e c _).mono (by simp)).right (setChan_only _ e c _) (by simp)).right (completeInst_only _ i) (by simp)

theorem afterList_state (s : State) (e : Fin 4) (c : Fin 32) (i : Inst) : ((s.afterList e c i).dma[e].ch[c]).state = .idle := by
  simp only [State.afterList, completeInst_dma, setChan_self]

theorem afterList_eocPend (s : State) (e : Fin 4) (c : Fin 32) (i : Inst) : (s.afterList e c i).dma[e].eocPend = s.dma[e].eocPend := by
  simp only [State.afterList, completeInst_dma, setChan_eocPend]

/-! ## Row waits (R155, R342) -/

/-- A row wait of 1,000,000 ticks that has not been logged. -/
structure Stalled (s : State) (e : Fin 4) (c : Fin 32) : Prop where
  wait : (s.dma[e].ch[c]).wait = .rows
  unlogged : (s.dma[e].ch[c]).waitLog = false

/-- The FTB comes to n, and the row wait of the channel is logged. -/
def State.logWait (s : State) (e : Fin 4) (c : Fin 32) (n : Nat) : State :=
  ((s.reach n).setChan e c fun x => { x with waitLog := true }).logEv 0x0603 3 e.1
    [(1, c.1), (2, waitRegion (s.dma[e].ch[c]).cur.wait), (1, waitBuf (s.dma[e].ch[c]).cur.wait), (4, waitRow (s.dma[e].ch[c]).cur.wait)]

theorem logWait_ch (n : Nat) : (s.logWait e c n).dma[e].ch[c] = { s.dma[e].ch[c] with waitLog := true } :=
  (setChan_self _ e c _).trans (by rw [reach_dma])

theorem le_logWait (n : Nat) : n ≤ (s.logWait e c n).time.ftb := le_reach s n

theorem newest_logWait (n : Nat) : (s.logWait e c n).newest = some ⟨(s.logWait e c n).time.ftb, 0x0603, 3, e.1, detail
    [(1, c.1), (2, waitRegion (s.dma[e].ch[c]).cur.wait), (1, waitBuf (s.dma[e].ch[c]).cur.wait),
      (4, waitRow (s.dma[e].ch[c]).cur.wait)]⟩ := newest_logEv _ _ _ _ _

theorem logWait_only (n : Nat) : Only [.dma, .time, .mem, .log, .host, .misc, .sad] s (s.logWait e c n) :=
  (((reach_only s n).mono (by simp)).right (setChan_only _ e c _) (by simp)).right (logEv_only _ _ _ _ _) (by simp)

theorem Stalled.logs (h : Stalled s e c) : dmaWaitStallEffect e c s = s.logWait e c ((s.dma[e].ch[c]).waitSince + 1000000) := by
  have hnot : ¬ ((s.dma[e].ch[c]).wait != .rows || (s.dma[e].ch[c]).waitLog) = true := by
    rw [h.wait, h.unlogged]
    decide
  exact if_neg hnot

/-! ## Bus errors (R343) and halted transfers (R344) -/

/-- A running channel with a refused request whose error response comes. -/
structure Refused (s : State) (e : Fin 4) (c : Fin 32) (w : Bool) (a : Nat) : Prop where
  running : (s.dma[e].ch[c]).state = .running
  refused : (s.dma[e].ch[c]).refused = some (w, a)

theorem Refused.acts {w : Bool} {a : Nat} (h : Refused s e c w a) :
    ¬ ((s.dma[e].ch[c]).state != .running || !(s.dma[e].ch[c]).erred w a) = true := by
  rw [Chan.erred, h.running, h.refused, beq_self_eq_true, Bool.true_or]
  decide

theorem Refused.retries {w : Bool} {a : Nat} (h : Refused s e c w a) (hr : (s.dma[e].ch[c]).retries < (s.dma[e].ch[c]).cur.retry) :
    busErrorEffect e c w a s =
      (s.setEng e fun g => { g with retryCnt := satInc g.retryCnt }).setChan e c fun x => x.retry w a := by
  simp only [busErrorEffect, if_neg h.acts, if_pos hr]

theorem Refused.halts {w : Bool} {a : Nat} (h : Refused s e c w a) (hr : (s.dma[e].ch[c]).cur.retry ≤ (s.dma[e].ch[c]).retries) :
    busErrorEffect e c w a s =
      (s.setChan e c fun x => { x with state := .halted, wait := .none, refused := none, errAddr := a }).logEv 0x0601 3 e.1
        [(1, c.1), (4, (s.dma[e].ch[c]).list), (2, (s.dma[e].ch[c]).descIx), (1, if w then 1 else 0), (8, a)] := by
  simp only [busErrorEffect, if_neg h.acts, if_neg (not_lt.2 hr)]

/-- A channel whose halted transfer has been flushed. -/
structure Flushed (s : State) (e : Fin 4) (c : Fin 32) : Prop where
  halted : (s.dma[e].ch[c]).state = .halted
  flushed : (s.dma[e].ch[c]).flushed = true

theorem Flushed.acts (h : Flushed s e c) : ¬ ((s.dma[e].ch[c]).state != .halted) = true := by
  rw [h.halted]
  decide

theorem Flushed.waits (h : Flushed s e c) (ha : s.writesAccepted e c = false) : haltedCompletionEffect e c s = s := by
  simp only [haltedCompletionEffect, if_neg h.acts, h.flushed, if_true, ha, Bool.not_false]

/-- The halted transfer's instance is complete, and its channel idle. -/
def State.afterHalt (s : State) (e : Fin 4) (c : Fin 32) (i : Inst) : State :=
  (s.setChan e c fun x => { x with state := .idle, wait := .none, hold := [], blocks := [], flushed := false, inst := none }).completeInst i

theorem Flushed.completes (h : Flushed s e c) (ha : s.writesAccepted e c = true) {i : Inst} (hi : (s.dma[e].ch[c]).inst = some i)
    (hstop : s.job.stopAt = none) : haltedCompletionEffect e c s = s.afterHalt e c i := by
  simp only [haltedCompletionEffect, if_neg h.acts, h.flushed, if_true, ha, Bool.not_true, Bool.false_eq_true, if_false, hi]
  exact tryStop_of_none hstop

end

/-! ## O50 -/

/-- A command completes with a property of the state that its effect is. -/
theorem Completes.of_eq {i : Instr} {s u t : State} {P : State → Prop} (hx : exec i s = .next u) (hu : u = t) (ht : P t) : Completes i s P :=
  ⟨t, hu ▸ hx, ht⟩

/-- Settles O50. That a block's return changes nothing while the engine can step before the data is usable is the model's choice,
log 47. -/
theorem dmaTransfersRunWaitRetryAndEnd : Obligations.DmaTransfersRunWaitRetryAndEnd := by
  unfold Obligations.DmaTransfersRunWaitRetryAndEnd
  refine ⟨?returned, ?next, ?last, ?rows, ?error, ?halted, ?waits⟩
  case returned =>
    intro e c b src x s h
    refine ⟨fun hn => .of_eq rfl (blockReturnedEffect_usable h hn) ?_, fun n hn hlt => .of_eq rfl (blockReturnedEffect_early h hn hlt) rfl⟩
    exact ⟨afterReturn_ch b src x, afterReturn_mcyc b src x, afterReturn_ftb b src x, afterReturn_fab b src x, afterReturn_only b src x⟩
  case next =>
    intro e c d s hrun hdone hacc hctrl hd
    refine .of_eq rfl (Finished.next ⟨hrun, hdone, hacc⟩ hctrl hd) ⟨?_, setChan_only s e c _⟩
    rw [State.makeCurrent, setChan_self]
    rfl
  case last =>
    intro e c i s hrun hdone hacc hd hi hstop
    have hthis := afterList_only (s.counted e c) e c i
    refine .of_eq rfl (Finished.last ⟨hrun, hdone, hacc⟩ hd hi hstop) ⟨afterList_state _ e c i, mem_completeInst _ i, fun hctrl => ?_,
      fun hctrl => ?_, ((counted_only s e c).mono (by simp)).right hthis (by simp)⟩
    · rw [afterList_eocPend, State.counted, if_pos hctrl, endOfCount_eocPend]
    · rwa [State.counted, hctrl, if_neg Bool.false_ne_true] at hthis ⊢
  case rows =>
    rintro e c r b y s rfl rfl rfl hwait
    refine ⟨fun hy => .of_eq rfl (if_pos ⟨hwait, hy⟩) ⟨setChan_self s e c _, setChan_only s e c _⟩,
      fun hy => .of_eq rfl (if_neg fun k => absurd k.2 (not_lt.2 hy)) rfl, fun hlog =>
      .of_eq rfl (Stalled.logs ⟨hwait, hlog⟩) ⟨logWait_ch _, le_logWait _, newest_logWait _, logWait_only _⟩⟩
  case error =>
    intro e c w a s hrun href
    rcases lt_or_ge (s.dma[e].ch[c]).retries (s.dma[e].ch[c]).cur.retry with hr | hr
    · refine .of_eq rfl (Refused.retries ⟨hrun, href⟩ hr) ⟨fun _ => ?_, fun hle => absurd hr (not_lt.2 hle)⟩
      have honly := (setEng_only s e fun g => { g with retryCnt := satInc g.retryCnt }).step (setChan_only _ e c fun x => x.retry w a)
      rw [setChan_retryCnt, setChan_self, setEng_self]
      exact ⟨rfl, rfl, rfl, hrun, rfl, honly⟩
    · refine .of_eq rfl (Refused.halts ⟨hrun, href⟩ hr) ⟨fun hlt => absurd hr (not_le.2 hlt), fun _ => ⟨setChan_self s e c _, ?_, ?_⟩⟩
      · exact newest_logEv _ _ _ _ _
      · exact ((setChan_only s e c _).mono (by simp)).right (logEv_only _ _ _ _ _) (by simp)
  case halted =>
    intro e c i s hhalt hflush hacc hi hstop
    refine .of_eq rfl (Flushed.completes ⟨hhalt, hflush⟩ hacc hi hstop) ⟨?_, ?_, ?_, mem_completeInst _ i,
      ((setChan_only s e c _).mono (by simp)).right (completeInst_only _ i) (by simp)⟩
    all_goals simp only [State.afterHalt, completeInst_dma, setChan_self]
  case waits =>
    intro e c s hhalt hflush hacc
    exact .of_eq rfl (Flushed.waits ⟨hhalt, hflush⟩ hacc) rfl

end Sys2Proof.Machine
end

section
/-! # PROOFS. Rows of the fabric: writes, reads, collisions and the banks of the map store (O28). -/
namespace Sys2Proof.Machine

/-! ## The FTB advances apart from the fabric's state -/

section
variable {s t a b : State} {x : FabBlk}

theorem setFab_ite {c : Prop} [Decidable c] {a' b' : State} (ha : a.setFab x = a') (hb : b.setFab x = b') :
    (if c then a else b).setFab x = if c then a' else b' := by
  subst ha hb
  split <;> rfl

theorem setFab_msix {v : Nat} : (s.msix v).setFab x = (s.setFab x).msix v := setFab_ite rfl rfl
theorem setFab_irqSource {n : Nat} : (s.irqSource n).setFab x = (s.setFab x).irqSource n := setFab_ite rfl rfl

theorem setFab_putRecord {e : Event} : (s.putRecord e).setFab x = (s.setFab x).putRecord e :=
  setFab_ite (setFab_ite (setFab_ite setFab_msix setFab_irqSource) rfl) rfl

theorem setFab_putOverflow : s.putOverflow.setFab x = (s.setFab x).putOverflow := setFab_ite rfl setFab_putRecord

theorem setFab_putUnlessOff {u v : State} (h : u.setFab x = v) {e : Event} :
    (if ringOn u.log.evCfg && !u.log.full then u.putRecord e else u.dropRecord).setFab x =
      if ringOn v.log.evCfg && !v.log.full then v.putRecord e else v.dropRecord := by
  subst h
  exact setFab_ite setFab_putRecord rfl

theorem setFab_record {e : Event} : (s.record e).setFab x = (s.setFab x).record e :=
  setFab_ite (setFab_ite rfl rfl) (setFab_putUnlessOff setFab_putOverflow)

theorem setFab_drain : s.drain.setFab x = (s.setFab x).drain := by
  have hfold (l : List Event) (t : State) : (l.foldl State.record t).setFab x = l.foldl State.record (t.setFab x) := by
    induction l generalizing t with
    | nil => rfl
    | cons e l ih => rw [List.foldl_cons, ih, setFab_record, List.foldl_cons]
  exact hfold _ _

theorem setFab_reach {n : Nat} : (s.reach n).setFab x = (s.setFab x).reach n := by
  unfold State.reach
  rw [← setFab_drain]
  exact setFab_ite rfl rfl

end

/-! ## A row read passes through the correction (R166, R167) -/

/-- The bytes and the banks' queues. -/
def State.rowsAndQueues (s : State) : List Host.Cell × Vector (List BankReq) 64 := (s.mem.cells, s.fab.banks)

theorem checkRow_rowsAndQueues (s : State) (row : Nat) (secs : List Nat) :
    (s.checkRow row secs).rowsAndQueues = s.rowsAndQueues := by
  have herror (t : State) (y : MemBlk) (hy : y.cells = t.mem.cells) (m : Nat) (f : MemCtr → MemCtr) (code k n : Nat)
      (d : List (Nat × Nat)) :
      ((((t.setMem y).updCtr m f).logEv code k n d).targetOwner row).rowsAndQueues = t.rowsAndQueues := by
    have howner := targetOwner_only (((t.setMem y).updCtr m f).logEv code k n d) row
    have hmem := howner .mem (by simp)
    have hfab := howner .fab (by simp)
    rw [State.rowsAndQueues, hmem, hfab]
    exact congrArg (·, _) hy
  unfold State.checkRow
  extract_lets m e sb ce t u v
  have ht : t.rowsAndQueues = s.rowsAndQueues := by
    unfold t
    split <;> rfl
  have hv : v.rowsAndQueues = s.rowsAndQueues := by
    rw [← ht]
    clear_value t
    unfold v
    split
    · rfl
    · exact herror t (t.mem.setPoison row true) rfl m _ _ _ _ _
  split
  · exact (herror v (({ v.mem.setPoison row true with sbEcc := Sparse.set 0 v.mem.sbEcc row 0 } : MemBlk).setTag row 0) rfl m
      _ _ _ _ _).trans hv
  · exact hv

theorem readRow_cells (s : State) (row : Nat) : (s.readRow row).1.mem.cells = s.mem.cells :=
  congrArg Prod.fst (checkRow_rowsAndQueues s row allSectors)

theorem readRow_banks (s : State) (row : Nat) : (s.readRow row).1.fab.banks = s.fab.banks :=
  congrArg Prod.snd (checkRow_rowsAndQueues s row allSectors)

/-! ## Writes (R160, R163, R168, R212) -/

section
variable {s : State} {wr : RowWrite}

/-- With no job armed a write into a row memory is presented to it. -/
theorem fabricWrite_unarmed {m : Nat} (eng : EngineUse) (hm : memNo wr.addr = some m) (ha : s.job.state ≠ .armed) :
    s.fabricWrite wr eng = (s.presentWrite wr eng, true) := by
  simp [State.fabricWrite, hm, ha]

theorem fabricRowWrite_unarmed {m : Nat} (eng : EngineUse) (hm : memNo wr.addr = some m) (hmove : s.moving wr.addr = false)
    (hport : s.portWaits wr.addr 512 true = false) (ha : s.job.state ≠ .armed) :
    exec (.fabricRowWrite wr eng) s = .next (s.presentWrite (ingressTag wr) eng) := by
  have haddr : (ingressTag wr).addr = wr.addr := by rw [ingressTag_eq]
  rw [execFabricRowWrite_eq eng hmove hport, fabricWrite_unarmed eng (haddr ▸ hm) ha, if_pos rfl]

theorem fabricRowWrite_waits (eng : EngineUse) (h : s.moving wr.addr = true ∨ s.portWaits wr.addr 512 true = true) :
    exec (.fabricRowWrite wr eng) s = .next s :=
  congrArg Host.Outcome.next (if_pos (Bool.or_eq_true_iff.2 h))

theorem endCollision_only (s : State) (wr : RowWrite) : Only [.dma] s (s.endCollision wr) := by
  unfold State.endCollision
  split
  · exact setChan_only _ _ _ _
  · exact Only.refl _ _

theorem countRow_only (s : State) (a : Nat) : Only [.fab] s (s.countRow a) := by
  unfold State.countRow
  split
  · exact Only.refl _ _
  split
  · exact Only.refl _ _
  split
  · exact Only.refl _ _
  · exact setFab_only _ _

theorem countRow_banks (s : State) (a : Nat) : (s.countRow a).fab.banks = s.fab.banks ∧ (s.countRow a).fab.bankNext = s.fab.bankNext := by
  unfold State.countRow
  split
  · exact ⟨rfl, rfl⟩
  split
  · exact ⟨rfl, rfl⟩
  split <;> exact ⟨rfl, rfl⟩

end

/-! ## The retry of a held write and the mailbox path (R163, R441) -/

section
variable {s : State}

/-- A held write of a Lantern's row is written, and leaves the held writes. -/
theorem heldRetryEffect_lan {a n o : Nat} {w : RowWrite} (hfind : (s.fab.held.find? fun x => x.addr == a && !s.moving x.addr) = some w)
    (hplace : place w.addr = .lan n o) : heldRetryEffect a false s =
      ((((s.setFab { s.fab with held := s.fab.held.erase w }).writeRow w.addr w.mask w.data w.tag w.poison).endCollision w).acceptedAt w
        (mCycle s.time.ftb)) := by
  rw [← acceptWrite_lan _ hplace]
  unfold heldRetryEffect
  rw [hfind]
  rfl

theorem heldRetryEffect_collides {a : Nat} {w : RowWrite} (hfind : (s.fab.held.find? fun x => x.addr == a && !s.moving x.addr) = some w) :
    heldRetryEffect a true s = s.updCtr ((memNo w.addr).getD 0) fun c => { c with collision := satInc c.collision } := by
  unfold heldRetryEffect
  rw [hfind]
  rfl

/-- The bytes of a row go into the record that needs it; its instance is complete with its last row. -/
theorem mailRow_of_find {a o : Nat} {m : ObRec} {b : List Byte} (hstop : s.job.stopAt = none)
    (hfind : (s.app.path.findSome? fun m => (m.rows.find? fun x => x.1 == a).map fun x => (m, x.2)) = some (m, o)) :
    (s.mailRow a b).app.path = s.app.path.map (fun x => if x == m then
      { m with
        rows := m.rows.erase (a, o)
        payload := (m.payload.take o ++ b ++ m.payload.drop (o + b.length)).take m.payload.length } else x) ∧
    (m.rows.erase (a, o) = [] → m.inst ∈ (s.mailRow a b).job.completed) ∧ (s.mailRow a b).fab = s.fab := by
  unfold State.mailRow
  rw [hfind]
  dsimp only
  split
  · next hlast =>
    rw [tryStop_of_none]
    · exact ⟨rfl, fun _ => mem_completeInst _ m.inst, rfl⟩
    · exact hstop
  · next hmore => exact ⟨rfl, fun hlast => absurd hlast hmore, rfl⟩

end

/-! ## The grant of a bank (R165) -/

section
variable {s : State} {b : Fin 64} {r : BankReq} (hpick : bankPick s.fab.banks[b] (s.fab.grantAt b) = some r)
include hpick

/-- The state in which a granted request is served: the FTB has come to the grant. -/
theorem bankGrantEffect_write {w : RowWrite} (hw : r.write = some w) : bankGrantEffect b s =
    ((((s.reach (s.fab.grantAt b * 10 / 13)).setFab { s.fab with
      banks := upd s.fab.banks b fun q => q.erase r, bankNext := upd s.fab.bankNext b fun _ => s.fab.grantAt b + 1 }).writeRow
        w.addr w.mask w.data w.tag w.poison).countRow w.addr).acceptedAt w (s.fab.grantAt b) := by
  rw [setFab_reach]
  simp only [bankGrantEffect, hpick, hw]

variable (hr : r.write = none)
include hr

theorem bankGrantEffect_read {u : State} (hu : u = (s.setFab { s.fab with
      banks := upd s.fab.banks b fun q => q.erase r, bankNext := upd s.fab.bankNext b fun _ => s.fab.grantAt b + 1 }).reach
      (s.fab.grantAt b * 10 / 13)) : bankGrantEffect b s =
    if r.port = 100 then (u.readRow r.addr).1.mailRow r.addr (rowBytes (u.readRow r.addr).2.data)
    else (u.readRow r.addr).1.setFab ((u.readRow r.addr).1.fab.put 0x7F r.port
      ⟨(s.fab.grantAt b + 14) / 13, r.chan, r.addr, (u.readRow r.addr).2.data, (u.readRow r.addr).2.tag, (u.readRow r.addr).2.poison,
        s.fab.grantAt b + 14, false⟩) := by
  subst hu
  simp only [bankGrantEffect, hpick, hr]

end

/-- Settles O28: each access is one case of its effect. The M-cycle that a row read puts on its bank request and the tick of a grant are the
model's choice (log 23); a row write's collision with an engine is an operand of the command (log 90). -/
theorem fabricRowAccessesAct : Obligations.FabricRowAccessesAct := by
  refine ⟨?unarmed, ?held, ?waits, ?laneRead, ?mapRead, ?retried, ?collides, ?granted, ?bankRead⟩
  case unarmed =>
    intro wr n o s hplace hmove harmed
    obtain ⟨m, hm⟩ := memNo_lan hplace
    have hport := portWaits_lan s 512 true hplace
    have hwrite := acceptWrite_lan s (wr := ingressTag wr) (by rw [ingressTag_eq]; exact hplace)
    refine .of_eq (fabricRowWrite_unarmed .none hm hmove hport harmed) hwrite ?_
    rw [ingressTag_eq]
    rfl
  case held =>
    intro wr m eng s hm hmove hport harmed heng
    refine .of_eq (fabricRowWrite_unarmed eng hm hmove hport harmed) (presentWrite_held s _ heng) ⟨?_, rfl, rfl, ?_⟩
    · rw [ingressTag_eq]
      rfl
    · exact (setFab_only s _).right (updCtr_only _ _ _) (by simp)
  case waits => exact fun wr eng s h => ⟨s, fabricRowWrite_waits eng h, rfl⟩
  case laneRead =>
    intro a n o port s hmove hplace
    refine .of_eq (congrArg Host.Outcome.next (if_neg (by simp [hmove]))) (by simp only [State.fabricRead, hplace])
      ⟨rfl, rfl, fun x => ?_⟩
    exact congrArg (Sparse.get 0 · x) (readRow_cells s _)
  case mapRead =>
    intro a o port s hmove hplace
    exact .of_eq (congrArg Host.Outcome.next (if_neg (by simp [hmove]))) (by simp only [State.fabricRead, hplace]; rfl) rfl
  case retried =>
    intro a n o w s hfind hplace
    refine .of_eq rfl (heldRetryEffect_lan hfind hplace) ?_
    have hdma := ((endCollision_only _ w).right (acceptedAt_only _ w (mCycle s.time.ftb)) (fun _ h => h) :
      Only [.dma] ((s.setFab { s.fab with held := s.fab.held.erase w }).writeRow w.addr w.mask w.data w.tag w.poison) _)
    have hmem := hdma .mem (by simp)
    have hfab := hdma .fab (by simp)
    have hheld := (setFab_only s { s.fab with held := s.fab.held.erase w }).mono (c := [.mem, .fab, .dma]) (by simp)
    exact ⟨hmem, hfab, (hheld.step ((writeRow_only _ _ _ _ _ _).mono (by simp))).step (hdma.mono (by simp))⟩
  case collides => exact fun a w s hfind => .of_eq rfl (heldRetryEffect_collides hfind) rfl
  case granted =>
    intro b r w u s hpick hw hu
    refine .of_eq rfl (bankGrantEffect_write hpick hw) ?_
    subst hu
    set u := s.reach (s.fab.grantAt b * 10 / 13)
    set x : FabBlk := { s.fab with
      banks := upd s.fab.banks b fun q => q.erase r, bankNext := upd s.fab.bankNext b fun _ => s.fab.grantAt b + 1 }
    set v := (u.setFab x).writeRow w.addr w.mask w.data w.tag w.poison
    have hcount : Only [.fab] v (v.countRow w.addr) := countRow_only v w.addr
    have haccept : Only [.dma] (v.countRow w.addr) ((v.countRow w.addr).acceptedAt w (s.fab.grantAt b)) := acceptedAt_only _ _ _
    obtain ⟨hbanks, hnext⟩ := countRow_banks v w.addr
    have hfab := haccept .fab (by simp)
    have hwrite : Only [.mem, .fab, .dma] u v := ((setFab_only u x).mono (by simp)).step ((writeRow_only _ _ _ _ _ _).mono (by simp))
    have honly := (hwrite.step (hcount.mono (by simp))).step (haccept.mono (by simp))
    refine ⟨(haccept .mem (by simp)).trans (hcount .mem (by simp)), ?_, ?_, ?_, honly⟩
    · rw [hfab, hbanks]
      exact upd_get_self _ _ _
    · rw [hfab, hnext]
      exact upd_get_self _ _ _
    · rw [honly .time (by simp)]
      exact le_reach _ _
  case bankRead =>
    intro b r u s hpick hr hu
    have heq := bankGrantEffect_read hpick hr hu
    refine ⟨fun hport => .of_eq rfl (heq.trans (if_neg hport)) rfl,
      fun m o hport hstop hfind => .of_eq rfl (heq.trans (if_pos hport)) ?_⟩
    have hreach := reach_only (s.setFab { s.fab with
      banks := upd s.fab.banks b fun q => q.erase r, bankNext := upd s.fab.bankNext b fun _ => s.fab.grantAt b + 1 })
      (s.fab.grantAt b * 10 / 13)
    rw [← hu] at hreach
    have hread := readRow_only (s := u) r.addr
    have happ : (u.readRow r.addr).1.app = s.app := (hread .app (by simp)).trans (hreach .app (by simp))
    have hjob : (u.readRow r.addr).1.job = s.job := (hread .job (by simp)).trans (hreach .job (by simp))
    obtain ⟨hpath, hlast, hfab⟩ := mailRow_of_find (s := (u.readRow r.addr).1) (b := rowBytes (u.readRow r.addr).2.data)
      (by rw [hjob]; exact hstop) (by rw [happ]; exact hfind)
    refine ⟨?_, hlast, ?_⟩
    · rw [hpath, happ, rowBytes, leBytes_length]
    · rw [hfab, readRow_banks, hreach .fab (by simp)]
      exact upd_get_self _ _ _

end Sys2Proof.Machine
end

section
/-! # PROOFS. Starts, releases and completions of timetable instances (O27). -/
namespace Sys2Proof.Machine

/-! ## The start of a thread and of a channel (R224, R332) -/

/-- With all four threads at their halt the Wick's cycles come to the start cycle. -/
theorem le_catchUp_wcyc (k : Wick) (n : Nat) (h : ∀ r : Fin 4, k.reachedHalt r = true) : n ≤ (k.catchUp n).wcyc := by
  have hall : ((List.finRange 4).all fun t => k.reachedHalt t) = true := List.all_eq_true.2 fun r _ => h r
  obtain ⟨o, w, hpass⟩ := pass_eq k (n - k.wcyc) 0
  rw [Wick.catchUp, if_pos hall, hpass]
  dsimp only
  omega

theorem startThread_self (k : Wick) (q : Fin 4) (a0 a1 ftb : Nat) (i : Inst) :
    (k.startThread q a0 a1 ftb i).threads[q] = (k.threads[q]).startAt a0 a1 ftb i := upd_get_self _ q _

section
variable {s : State} {i : Inst} {e : TtEntry}

theorem startOf_placed : (s.startOf e i).job.placed e i = s.job.placed e i := by
  rw [startOf_job]
  rfl

theorem wickStartEffect_eq {w : WkId} {q : Fin 4} (h : Starts s i 4 e) (hw : s.rel.wkPhys e.unit = some w) (hq : e.thread = q.1)
    (hfree : s.threadFree w q = true) : wickStartEffect i s = (s.startOf e i).setWick w fun k =>
      (k.catchUp (max ((s.startOf e i).lFrom (w.1 / 13) (s.job.placed e i) + e.cycle) ((s.startOf e i).lNow (w.1 / 13)))).startThread q
        (e.arg i.inst) e.arg1 (s.startOf e i).time.ftb i := by
  have hwhere : ((s.entryOf i).bind fun e => (s.rel.wkPhys e.unit).bind fun w => (toFin? 4 e.thread).map fun t => (w, t)) =
      some (w, q) := by
    simp [h.1, hw, hq, toFin?_val]
  unfold wickStartEffect
  rw [hwhere]
  dsimp only
  rw [if_pos hfree, startInst_eq s i 4 e _ h, startOf_placed]

theorem dmaStartEffect_eq {g : Fin 4} {c : Fin 32} {d : DmaDesc} (h : Starts s i 5 e) (hunit : e.unit = 32 * g.1 + c.1)
    (hidle : s.dma[g].ch[c].state = .idle) (hd : s.descAt (e.arg i.inst) 0 = some d) : dmaStartEffect i s =
    ((s.startOf e i).setChan g c fun x =>
      { Chan.reset with state := .running, list := e.arg i.inst, inst := some i, errAddr := x.errAddr }).makeCurrent g c 0 d
        (13 * (s.job.placed e i / 10) + e.cycle) := by
  have hdesc : (s.startOf e i).descAt (e.arg i.inst) 0 = some d := by
    rw [← hd, State.descAt, startOf_job]
    rfl
  have hgroup : toFin? 4 (e.unit / 32) = some g := by
    rw [show e.unit / 32 = g.1 by omega, toFin?_val]
  have hchan : toFin? 32 (e.unit % 32) = some c := by
    rw [show e.unit % 32 = c.1 by omega, toFin?_val]
  have hwhere : ((s.entryOf i).bind fun t => (toFin? 4 (t.unit / 32)).bind fun e => (toFin? 32 (t.unit % 32)).map fun c => (e, c)) =
      some (g, c) := by
    simp [h.1, hgroup, hchan]
  unfold dmaStartEffect
  rw [hwhere]
  dsimp only
  rw [if_neg (by simp only [hidle, bne_self_eq_false, Bool.false_eq_true, not_false_eq_true]), startInst_eq s i 5 e _ h, hdesc, startOf_placed]

theorem setChan_other {g g' : Fin 4} (h : g' ≠ g) (c : Fin 32) (f : Chan → Chan) : (s.setChan g c f).dma[g'] = s.dma[g'] :=
  upd_get_ne _ _ h.symm

end

/-! ## A release (R172) -/

theorem updRegion_getElem (f : FabBlk) (k j : Nat) (g : RegionSt → RegionSt) :
    (f.updRegion k g).regions[j]? = (f.regions[j]?).map fun r => if j = k then g r else r := by
  by_cases hj : j < f.regions.length
  · simp [FabBlk.updRegion, hj]
  · simp [FabBlk.updRegion, hj]

theorem creditSource_only (s : State) (region : Nat) : Only [.misc] s (s.creditSource region) := by
  unfold State.creditSource
  split
  · exact irqSource_only s _
  · exact Only.refl _ _

section
variable {s : State} {i : Inst} {e : TtEntry} {g : Region}

theorem releaseEffect_eq {im : JobImage} (h : Starts s i 6 e) (him : s.job.image = some im) (hg : im.regions[e.arg i.inst]? = some g)
    (hreaders : s.readersDone im g e i = true) (hreleases : s.releasesDone e i = true) :
    releaseEffect i s = (s.startOf e i).releaseStep i e g := by
  have hnew : s.job.started.contains i = false := by
    have hcan := h.2.2
    simp only [State.canStart, Bool.and_eq_true, Bool.not_eq_true'] at hcan
    tauto
  unfold releaseEffect
  rw [him, h.1]
  dsimp only
  rw [hg]
  dsimp only
  rw [if_pos (by simp only [hreaders, hreleases, Bool.and_self]), if_neg (by simp only [hnew, Bool.false_eq_true, not_false_eq_true])]
  exact startInst_eq s i 6 e _ h

/-- An instance that has started no release yet, and whose granules the window holds, releases them all and completes. -/
theorem releaseStep_all {r : RegionSt} (hgone : s.job.released i = 0) (hr : s.fab.regions[e.arg i.inst]? = some r) (hlen : e.arg1 ≤ r.len)
    (hstop : s.job.stopAt = none) :
    (s.releaseStep i e g).fab.regions[e.arg i.inst]? = some ((List.range e.arg1).foldl (fun r _ => r.release g.granules) r) ∧
    (∀ j, j ≠ e.arg i.inst → (s.releaseStep i e g).fab.regions[j]? = s.fab.regions[j]?) ∧ i ∈ (s.releaseStep i e g).job.completed ∧
    Only [.job, .fab, .misc] s (s.releaseStep i e g) := by
  have hk : min (e.arg1 - s.job.released i) (s.windowLen (e.arg i.inst)) = e.arg1 := by
    simp only [hgone, State.windowLen, hr]
    omega
  unfold State.releaseStep
  extract_lets region gone k t
  have hk : k = e.arg1 := hk
  have hall : gone + k = e.arg1 := by
    rw [hk]
    exact (congrArg (· + e.arg1) hgone).trans (Nat.zero_add _)
  have ht : t.fab.regions[region]? = some ((List.range e.arg1).foldl (fun r _ => r.release g.granules) r) ∧
      (∀ j, j ≠ region → t.fab.regions[j]? = s.fab.regions[j]?) ∧ Only [.fab, .misc] s t := by
    unfold t
    split
    · next hzero =>
      rw [← hk, hzero]
      exact ⟨hr, fun _ _ => rfl, .refl _ s⟩
    · have hcredit := creditSource_only (s.releaseSome region k g.granules) region
      rw [hcredit .fab (by simp), ← hk]
      refine ⟨?_, fun j hj => ?_, ((setFab_only s _).mono (by simp)).step (hcredit.mono (by simp))⟩
      · rw [State.releaseSome, State.setFab_fab, updRegion_getElem, hr, Option.map_some, if_pos rfl, min_eq_left (hk.trans_le hlen)]
      · rw [State.releaseSome, State.setFab_fab, updRegion_getElem]
        simp only [hj, if_false, Option.map_id']
  obtain ⟨hwindow, hothers, honly⟩ := ht
  rw [if_pos hall, tryStop_of_none]
  · refine ⟨hwindow, hothers, mem_completeInst _ i, ?_⟩
    exact ((honly.mono (by simp)).step ((setJob_only t _).mono (by simp))).step ((completeInst_only _ i).mono (by simp))
  · rw [completeInst_stopAt]
    exact (congrArg JobBlk.stopAt (honly .job (by simp))).trans hstop

end

/-! ## The end of an instance's work (R37, R53, R186) -/

/-- Time has gone on: the Lanterns and the clocks of the quadrants are as before, and the FTB is no earlier. -/
def Later (s t : State) : Prop := t.lan = s.lan ∧ (∀ q c, t.lFtb q c = s.lFtb q c) ∧ s.time.ftb ≤ t.time.ftb

/-- The FTB reaches the end of what Lantern n does for an instance. -/
def State.reachLantern (i : Inst) (s : State) (n : LnId) : State :=
  let s := if s.lan[n].arrInst = some i then s.reach (s.lFtb (n.1 / 9) s.lan[n].drainEnd) else s
  if s.lan[n].rqInst = some i then s.reach (s.lFtb (n.1 / 9) s.lan[n].rqEnd) else s

/-- The FTB reaches the end of the instance's window on Wick w, which leaves the test state. -/
def State.reachWindow (i : Inst) (s : State) (w : WkId) : State :=
  if s.wick[w].winInst = some i then
    (s.reach (s.lFtb (w.1 / 13) s.wick[w].winEnd)).setWick w fun k =>
      { k with mode := if k.mode = .test then .idle else k.mode, winInst := none }
  else s

theorem reachEnd_units (s : State) {e : TtEntry} (i : Inst) (h : e.kind = 1 ∨ e.kind = 2 ∨ e.kind = 3 ∨ e.kind = 8) :
    s.reachEnd e i = (List.finRange 52).foldl (State.reachWindow i) ((List.finRange 36).foldl (State.reachLantern i) s) := by
  obtain h | h | h | h := h <;> (unfold State.reachEnd; rw [h]; rfl)

theorem Later.refl (s : State) : Later s s := ⟨rfl, fun _ _ => rfl, le_rfl⟩

theorem Later.trans {s t u : State} (h : Later s t) (h' : Later t u) : Later s u := by
  obtain ⟨hlan, hclock, hftb⟩ := h
  obtain ⟨hlan', hclock', hftb'⟩ := h'
  exact ⟨hlan'.trans hlan, fun q c => (hclock' q c).trans (hclock q c), hftb.trans hftb'⟩

theorem later_reach (s : State) (n : Nat) : Later s (s.reach n) := by
  have hat : (s.reach n).time.lAt = s.time.lAt := by rw [reach_time]
  have hbase : (s.reach n).time.lBase = s.time.lBase := by rw [reach_time]
  refine ⟨reach_lan s n, fun q c => ?_, ?_⟩
  · simp only [State.lFtb, State.perTick, reach_mgmt, hat, hbase]
  · rw [reach_ftb]
    exact le_max_left _ _

section
variable (i : Inst) (s : State)

theorem later_reachLantern (n : LnId) : Later s (s.reachLantern i n) := by
  have hstep (u : State) (c : Prop) [Decidable c] (x : Nat) : Later u (if c then u.reach x else u) := by
    split
    · exact later_reach u x
    · exact .refl u
  exact (hstep s _ _).trans (hstep _ _ _)

theorem later_reachWindow (w : WkId) : Later s (s.reachWindow i w) := by
  unfold State.reachWindow
  split
  · exact later_reach s _
  · exact .refl s

theorem reachLantern_ends (n : LnId) :
    (s.lan[n].arrInst = some i → s.lFtb (n.1 / 9) s.lan[n].drainEnd ≤ (s.reachLantern i n).time.ftb) ∧
    (s.lan[n].rqInst = some i → s.lFtb (n.1 / 9) s.lan[n].rqEnd ≤ (s.reachLantern i n).time.ftb) := by
  have hstep (u : State) (c : Prop) [Decidable c] (x : Nat) : Later u (if c then u.reach x else u) ∧
      (c → x ≤ (if c then u.reach x else u).time.ftb) := by
    split
    · exact ⟨later_reach u x, fun _ => le_reach u x⟩
    · next h => exact ⟨.refl u, fun hc => absurd hc h⟩
  unfold State.reachLantern
  extract_lets u
  obtain ⟨⟨hlan, hclock, -⟩, harr⟩ := hstep s (s.lan[n].arrInst = some i) (s.lFtb (n.1 / 9) s.lan[n].drainEnd)
  obtain ⟨⟨-, -, hftb⟩, hrq⟩ := hstep u (u.lan[n].rqInst = some i) (u.lFtb (n.1 / 9) u.lan[n].rqEnd)
  have hlan : u.lan = s.lan := hlan
  have hclock (q c : Nat) : u.lFtb q c = s.lFtb q c := hclock q c
  refine ⟨fun h => (harr h).trans hftb, fun h => ?_⟩
  rw [← hlan] at h ⊢
  rw [← hclock]
  exact hrq h

theorem reachWindow_other {w x : WkId} (h : x ≠ w) : (s.reachWindow i x).wick[w] = s.wick[w] := by
  unfold State.reachWindow
  split
  · exact (upd_get_ne _ _ h).trans (congrArg (·[w]) (reach_wick s _))
  · rfl

theorem reachWindow_ends {w : WkId} (h : s.wick[w].winInst = some i) :
    s.lFtb (w.1 / 13) s.wick[w].winEnd ≤ (s.reachWindow i w).time.ftb ∧ ((s.reachWindow i w).wick[w]).winInst = none ∧
    ((s.reachWindow i w).wick[w]).mode ≠ .test := by
  rw [State.reachWindow, if_pos h, State.setWick_wick, upd_get_self, State.setWick_time]
  refine ⟨le_reach _ _, rfl, ?_⟩
  dsimp only
  split
  · decide
  · assumption

theorem later_foldl {α : Type} {f : State → α → State} (hf : ∀ u x, Later u (f u x)) (l : List α) : Later s (l.foldl f s) := by
  induction l generalizing s with
  | nil => exact .refl s
  | cons x l ih => exact (hf s x).trans (ih (f s x))

/-- As the Lanterns take their turns, each of them finds its clocks and its times as at the start. -/
theorem le_foldl_reachLantern (n : LnId) :
    (s.lan[n].arrInst = some i → s.lFtb (n.1 / 9) s.lan[n].drainEnd ≤ ((List.finRange 36).foldl (State.reachLantern i) s).time.ftb) ∧
    (s.lan[n].rqInst = some i → s.lFtb (n.1 / 9) s.lan[n].rqEnd ≤ ((List.finRange 36).foldl (State.reachLantern i) s).time.ftb) := by
  obtain ⟨before, after, hsplit⟩ := List.append_of_mem (List.mem_finRange n)
  obtain ⟨hlan, hclock, -⟩ := later_foldl s (later_reachLantern i) before
  obtain ⟨-, -, hend⟩ := later_foldl ((before.foldl (State.reachLantern i) s).reachLantern i n) (later_reachLantern i) after
  rw [hsplit, List.foldl_append, List.foldl_cons, ← hlan, ← hclock, ← hclock]
  have hturn := reachLantern_ends i (before.foldl (State.reachLantern i) s) n
  exact ⟨fun h => (hturn.1 h).trans hend, fun h => (hturn.2 h).trans hend⟩

theorem foldl_reachWindow_other {w : WkId} {l : List WkId} (h : w ∉ l) : (l.foldl (State.reachWindow i) s).wick[w] = s.wick[w] := by
  induction l generalizing s with
  | nil => rfl
  | cons x l ih =>
    obtain ⟨hx, hl⟩ := not_or.1 (mt List.mem_cons.2 h)
    rw [List.foldl_cons, ih _ hl]
    exact reachWindow_other i s (Ne.symm hx)

theorem le_foldl_reachWindow {w : WkId} (h : s.wick[w].winInst = some i) :
    s.lFtb (w.1 / 13) s.wick[w].winEnd ≤ ((List.finRange 52).foldl (State.reachWindow i) s).time.ftb ∧
    (((List.finRange 52).foldl (State.reachWindow i) s).wick[w]).winInst = none ∧
    (((List.finRange 52).foldl (State.reachWindow i) s).wick[w]).mode ≠ .test := by
  obtain ⟨before, after, hsplit⟩ := List.append_of_mem (List.mem_finRange w)
  have hnodup := List.nodup_middle.1 (hsplit ▸ List.nodup_finRange 52)
  obtain ⟨hbefore, hafter⟩ := not_or.1 (mt List.mem_append.2 (List.nodup_cons.1 hnodup).1)
  obtain ⟨-, hclock, -⟩ := later_foldl s (later_reachWindow i) before
  have hwick := foldl_reachWindow_other i s hbefore
  obtain ⟨-, -, hend⟩ := later_foldl ((before.foldl (State.reachWindow i) s).reachWindow i w) (later_reachWindow i) after
  rw [← hwick] at h
  obtain ⟨hftb, hnone, hmode⟩ := reachWindow_ends i _ h
  rw [hsplit, List.foldl_append, List.foldl_cons, foldl_reachWindow_other i _ hafter, ← hwick, ← hclock]
  exact ⟨hftb.trans hend, hnone, hmode⟩

theorem reachLantern_only (n : LnId) : Only [.time, .mem, .log, .host, .misc] s (s.reachLantern i n) := by
  have hstep (u : State) (c : Prop) [Decidable c] (x : Nat) :
      Only [.time, .mem, .log, .host, .misc] u (if c then u.reach x else u) := by
    split
    · exact reach_only u x
    · exact .refl _ u
  exact (hstep s _ _).step (hstep _ _ _)

theorem reachWindow_only (w : WkId) : Only [.time, .mem, .log, .host, .misc, .wick] s (s.reachWindow i w) := by
  unfold State.reachWindow
  split
  · exact ((reach_only s _).mono (by simp)).step ((setWick_only _ w _).mono (by simp))
  · exact .refl _ s

theorem reachEnd_only (e : TtEntry) : Only [.time, .mem, .log, .host, .misc, .wick] s (s.reachEnd e i) := by
  by_cases h : e.kind = 1 ∨ e.kind = 2 ∨ e.kind = 3 ∨ e.kind = 8
  · rw [reachEnd_units s i h]
    exact ((Only.foldl _ (reachLantern_only i) _ s).mono (by simp)).step (Only.foldl _ (reachWindow_only i) _ _)
  · unfold State.reachEnd
    split
    case h_1 hkind | h_2 hkind | h_3 hkind | h_4 hkind => simp [hkind] at h
    · split
      · exact (reach_only s _).mono (by simp)
      · exact .refl _ s
    · exact .refl _ s

/-- The FTB comes to the end of every array, requantiser and window of the instance. -/
theorem reachEnd_ends {e : TtEntry} (h : e.kind = 1 ∨ e.kind = 2 ∨ e.kind = 3 ∨ e.kind = 8) :
    (∀ n : LnId, (s.lan[n].arrInst = some i → s.lFtb (n.1 / 9) s.lan[n].drainEnd ≤ (s.reachEnd e i).time.ftb) ∧
      (s.lan[n].rqInst = some i → s.lFtb (n.1 / 9) s.lan[n].rqEnd ≤ (s.reachEnd e i).time.ftb)) ∧
    ∀ w : WkId, s.wick[w].winInst = some i → s.lFtb (w.1 / 13) s.wick[w].winEnd ≤ (s.reachEnd e i).time.ftb ∧
      ((s.reachEnd e i).wick[w]).winInst = none ∧ ((s.reachEnd e i).wick[w]).mode ≠ .test := by
  rw [reachEnd_units s i h]
  have hlantern := le_foldl_reachLantern i s
  obtain ⟨-, hclock, -⟩ := later_foldl s (later_reachLantern i) (List.finRange 36)
  have hwick : ((List.finRange 36).foldl (State.reachLantern i) s).wick = s.wick := Only.foldl _ (reachLantern_only i) _ s .wick (by simp)
  generalize (List.finRange 36).foldl (State.reachLantern i) s = u at hlantern hclock hwick ⊢
  obtain ⟨-, -, hftb⟩ := later_foldl u (later_reachWindow i) (List.finRange 52)
  refine ⟨fun n => ⟨fun hn => ((hlantern n).1 hn).trans hftb, fun hn => ((hlantern n).2 hn).trans hftb⟩, fun w hw => ?_⟩
  rw [← hwick] at hw ⊢
  rw [← hclock]
  exact le_foldl_reachWindow i u hw

/-- The FTB comes to the cycles of the Wick on which an instance's thread runs. -/
theorem reachEnd_thread {e : TtEntry} {w : WkId} (h : e.kind = 4) (hw : s.rel.wkPhys e.unit = some w) :
    s.reachEnd e i = s.reach (s.lFtb (w.1 / 13) s.wick[w].wcyc) := by
  simp only [State.reachEnd, h, hw]

theorem freeStore_only (e : TtEntry) : Only [.net] s (s.freeStore e i) := by
  unfold State.freeStore
  split
  · exact setNet_only s _
  · exact .refl _ s

theorem freeStore_eq_self {e : TtEntry} (h : e.kind ≠ 0x10) : s.freeStore e i = s := if_neg h

/-- An instance whose unit has ended completes at the end of the unit's work. -/
theorem instanceCompleteEffect_ended {e : TtEntry} (he : s.entryOf i = some e) (hstarted : s.job.started.contains i = true)
    (hdone : s.done i = false) (hended : s.ended e i = true) (hstop : s.job.stopAt = none) :
    instanceCompleteEffect i s = ((s.reachEnd e i).freeStore e i).completeInst i := by
  have hjob : ((s.reachEnd e i).freeStore e i).job = s.job :=
    (freeStore_only i _ e .job (by simp)).trans (reachEnd_only i s e .job (by simp))
  unfold instanceCompleteEffect
  rw [he]
  dsimp only
  rw [if_pos (by simp only [hstarted, hdone, hended, Bool.not_false, Bool.and_self]), tryStop_of_none]
  rw [completeInst_stopAt, hjob]
  exact hstop

end

/-- Settles O27: each start is the run of its unit on the started state, and a completion the end of its unit's work. That a Wick's
cycles come to the start cycle holds where all four of its threads are at their halt (log 61), in the cycle numbers of log 33. -/
theorem instancesStartTheirUnits : Obligations.InstancesStartTheirUnits := by
  refine ⟨?wick, ?dma, ?release, ?complete⟩
  case wick =>
    intro i e w q n s hs hw hq hfree hn
    have hwick : (s.startOf e i).wick = s.wick := startOf_only s e i .wick (by simp)
    have hself (f : Wick → Wick) : ((s.startOf e i).setWick w f).wick[w] = f s.wick[w] := by
      rw [State.setWick_wick, hwick]
      exact upd_get_self _ _ _
    refine .of_eq rfl (wickStartEffect_eq hs hw hq hfree) ?_
    rw [← hn, hself, startThread_self]
    refine ⟨?_, fun h => le_catchUp_wcyc _ n h, rfl, rfl, rfl, rfl, rfl⟩
    rw [State.setWick_wick, hwick]
  case dma =>
    intro i e g c d s hs hunit hidle hd
    have hdma : (s.startOf e i).dma = s.dma := startOf_only s e i .dma (by simp)
    refine .of_eq rfl (dmaStartEffect_eq hs hunit hidle hd) ?_
    rw [State.makeCurrent, setChan_self, setChan_self]
    refine ⟨rfl, rfl, rfl, rfl, rfl, rfl, rfl, rfl, fun g' hg => ?_, rfl⟩
    rw [setChan_other hg, setChan_other hg, hdma]
  case release =>
    intro i e im g r s hs him hg hreaders hreleases hstop hgone hr hlen
    have hjob := startOf_job s e i
    have hstart := startOf_only s e i
    refine .of_eq rfl (releaseEffect_eq hs him hg hreaders hreleases) ?_
    obtain ⟨hwindow, hothers, hcompleted, honly⟩ := releaseStep_all (s := s.startOf e i) (g := g) (by rw [hjob]; exact hgone)
      (by rw [startOf_fab]; exact hr) hlen (by rw [hjob]; exact hstop)
    rw [startOf_fab] at hothers
    refine ⟨hwindow, hothers, hcompleted, ?_, (hstart.mono (by simp)).step (honly.mono (by simp))⟩
    rw [honly .time (by simp)]
    exact placed_le_startOf s e i
  case complete =>
    intro i e s he hstarted hdone hended hstop
    have hreach := reachEnd_only i s e
    have hstore := freeStore_only i (s.reachEnd e i) e
    have htime : ((s.reachEnd e i).freeStore e i).time = (s.reachEnd e i).time := hstore .time (by simp)
    have hwick : ((s.reachEnd e i).freeStore e i).wick = (s.reachEnd e i).wick := hstore .wick (by simp)
    refine .of_eq rfl (instanceCompleteEffect_ended i s he hstarted hdone hended hstop)
      ⟨?_, ?_, fun hkind => ?_, fun w hkind hw => ?_, ?_⟩
    · rw [State.completeInst, State.setJob_job, hstore .job (by simp), hreach .job (by simp)]
      rfl
    · rintro (hkind | hkind) <;> rw [freeStore_eq_self i _ (by omega), State.reachEnd, hkind] <;> rfl
    · rw [State.completeInst, State.setJob_time, State.setJob_wick, htime, hwick]
      exact reachEnd_ends i s hkind
    · rw [State.completeInst, State.setJob_time, State.setJob_wick, htime, hwick, reachEnd_thread i s hkind hw]
      exact ⟨le_reach s _, reach_wick s _⟩
    · exact ((hreach.mono (by simp)).step (hstore.mono (by simp))).step ((completeInst_only _ i).mono (by simp))

end Sys2Proof.Machine
end

section
/-! # PROOFS. Loading a job image and binding its streams (R203, R204, R430, R432), and O17 from their rules. -/
namespace Sys2Proof.Machine

/-! ## What each part of a placement changes (R195, R197, R200, R201, R204) -/

section
variable (s : State) (im : JobImage) (body : List Byte)

theorem placeWeights_only (p : WeightPl) : Only [.mem] s (s.placeWeights body p) := by
  unfold State.placeWeights
  dsimp only
  split
  · split
    · exact setMem_only s _
    · exact .refl _ s
  · exact setMem_only s _
  · exact setMem_only s _

theorem placeSeg_only (g : WickSeg) : Only [.mem] s (s.placeSeg im body g) := by
  refine Only.foldl _ (fun t w => ?_) _ s
  dsimp only
  split <;> exact setMem_only t _

theorem placeBlock_only (b : EpochBlk) : Only [.mem] s (s.placeBlock body im b) := by
  unfold State.placeBlock
  split
  · exact .refl _ s
  · exact Only.foldl _ (fun t _ => setMem_only t _) _ s

theorem placeParams_only : Only [.lan] s (s.placeParams im) := by
  refine Only.foldl _ (fun t l => ?_) _ s
  split
  · exact setLan_only t _ _
  · exact .refl _ t

theorem placeQueues_only : Only [.mem, .misc] s (s.placeQueues im) :=
  ((setMem_only s _).mono (by simp)).right (fresh_only _ _) (by simp)

end

/-- Placed, the job has the new image, and nothing of it has started; its bindings are those of before. -/
theorem placeImage_job (s : State) (p : Parsed) :
    (s.placeImage p).job.state = .loaded ∧ (s.placeImage p).job.image = some p.im ∧ (s.placeImage p).job.bindings = s.job.bindings ∧
    (s.placeImage p).job.started = [] := by
  unfold State.placeImage
  extract_lets im front j t u weights segs blocks queues
  have hjob : queues.job = t.job :=
    calc queues.job = blocks.job := placeQueues_only blocks im .job (by simp)
      _ = (im.blocks.foldl (fun (s : State) b => s.placeBlock (p.body 7) im b) segs).job := placeParams_only _ im .job (by simp)
      _ = segs.job := Only.foldl _ (fun t b => placeBlock_only t im (p.body 7) b) _ _ .job (by simp)
      _ = weights.job := Only.foldl _ (fun t g => placeSeg_only t im (p.body 3) g) _ _ .job (by simp)
      _ = u.job := Only.foldl _ (fun t g => placeWeights_only t (p.body 5) g) _ _ .job (by simp)
  rw [State.setStamp_job, State.setFab_job, hjob]
  exact ⟨rfl, rfl, rfl, rfl⟩

/-! ## LOAD_IMAGE (R204, R430) -/

theorem discardImage_bindings (s : State) : s.discardImage.job.bindings = [] := rfl

section
variable {s : State} {k : Fin 64} {io : IoFail} {c : Taken}

theorem exec_loadImage (placeError : Bool) (h : Turn s k io 1 [(8, 16)]) :
    exec (.loadImage k io placeError) s = .next (loadRun io placeError (s.afterTake k) (s.headCmd k)) :=
  congrArg Host.Outcome.next (takeCommand_eq s k io _ 1 _ _ h rfl)

theorem loadRun_accepted {p : Parsed} (h : s.job.state ≠ .armed)
    (hc : s.checkImage (fld c.entry 8 8) (fld c.entry 0x10 8) io = .ok p) :
    loadRun io false s c = ((((s.seeHbm 0x82 (fld c.entry 8 8) (fld c.entry 0x10 8)).discardImage.placeImage p).logEv 0x0E20 7
      (s.seeHbm 0x82 (fld c.entry 8 8) (fld c.entry 0x10 8)).discardImage.firmwarePair [(8, leNat (p.im.digest.take 8))]).finish c 0
      (leNat (p.im.digest.take 8)) 0 io) := by
  simp only [loadRun, h, hc, if_false, Bool.false_eq_true]

/-- An accepted image leaves the job LOADED with it, unbound, and with nothing started (R203, R430). -/
theorem loadRun_loads {p : Parsed} (h : s.job.state ≠ .armed) (hc : s.checkImage (fld c.entry 8 8) (fld c.entry 0x10 8) io = .ok p) :
    (loadRun io false s c).job.state = .loaded ∧ (loadRun io false s c).job.image = some p.im ∧ (loadRun io false s c).job.bindings = [] ∧
    (loadRun io false s c).job.started = [] := by
  rw [loadRun_accepted h hc, finish_job, logEv_only _ _ _ _ _ .job (by simp)]
  generalize s.seeHbm 0x82 (fld c.entry 8 8) (fld c.entry 0x10 8) = t
  rw [← discardImage_bindings t]
  exact placeImage_job t.discardImage p

theorem loadRun_rejected (placeError : Bool) {r : Rej} (h : s.job.state ≠ .armed)
    (hc : s.checkImage (fld c.entry 8 8) (fld c.entry 0x10 8) io = .error r) :
    loadRun io placeError s c = (s.seeHbm 0x82 (fld c.entry 8 8) (fld c.entry 0x10 8)).rejectImage c r io := by
  simp only [loadRun, h, hc, if_false]

theorem rejectImage_job (r : Rej) : (s.rejectImage c r io).job = s.job := by
  rw [State.rejectImage, finish_job, logEv_only _ _ _ _ _ .job (by simp)]

/-! ## BIND_STREAM (R432) -/

theorem exec_bindStream (h : Turn s k io 2 [(8, 8)]) : exec (.bindStream k io) s = .next (bindRun io (s.afterTake k) (s.headCmd k)) :=
  congrArg Host.Outcome.next (takeCommand_eq s k io _ 2 _ _ h rfl)

/-- Whether a binding is acceptable depends on the image and the ports alone. -/
theorem bindingOk_congr {t : State} (hj : t.job = s.job) (hn : t.net = s.net) (b : Binding) : t.bindingOk b = s.bindingOk b := by
  unfold State.bindingOk
  rw [hj, hn]

theorem bindRun_bound {b : Binding} (hst : s.job.state = .loaded ∨ s.job.state = .stopped) (hs : io.source = false)
    (hok : s.outerOk (fld c.entry 8 8) 256 = true) (hb : b = bindingOf (s.mem.bytes (fld c.entry 8 8) 256)) (hbind : s.bindingOk b = true) :
    bindRun io s c = ((s.seeHbm 0x82 (fld c.entry 8 8) 256).setJob
      { s.job with bindings := (s.job.bindings.filter fun x => x.slot != b.slot) ++ [b] }).finish c 0 0 0 io := by
  have hread := seeHbm_only s 0x82 (fld c.entry 8 8) 256
  have hjob : (s.seeHbm 0x82 (fld c.entry 8 8) 256).job = s.job := hread .job (by simp)
  have hbind' := (bindingOk_congr hjob (hread .net (by simp)) b).trans hbind
  unfold bindRun
  obtain h | h := hst <;>
    simp only [h, hs, hok, ← hb, hbind', hjob, Bool.not_true, Bool.or_self, Bool.false_eq_true, if_false, if_true]

end

/-! ## O17 -/

/-- Settles O17: each clause is the rule of its command; that LOAD_IMAGE ends the bindings of the image before it is R430. -/
theorem loadAndBindPrepareAJob : Obligations.LoadAndBindPrepareAJob := by
  unfold Obligations.LoadAndBindPrepareAJob
  refine ⟨?loaded, ?rejected, ?bound⟩
  case loaded =>
    intro k io p s ht ha hc
    exact ⟨_, exec_loadImage false ht, loadRun_loads (s := s.afterTake k) (c := s.headCmd k) ha hc⟩
  case rejected =>
    intro k io b r s ht ha hc
    refine .of_eq (exec_loadImage b ht) (loadRun_rejected (s := s.afterTake k) (c := s.headCmd k) b ha hc) ⟨rfl, ?_⟩
    rw [rejectImage_job]
    exact seeHbm_only _ _ _ _ .job (by simp)
  case bound =>
    intro k io b s ht hst hs hok hb hbind
    rw [← afterTake_mem s k] at hb
    refine .of_eq (exec_bindStream ht) (bindRun_bound (s := s.afterTake k) (c := s.headCmd k) hst hs hok hb hbind) ?_
    rw [finish_job, State.setJob_job, afterTake_job]

end Sys2Proof.Machine
end

section
/-! # PROOFS. Test windows, spare rotations and postponed windows (R209–R211, R458–R462), and O34 from their rules. -/
namespace Sys2Proof.Machine

/-! ## The test state of a unit -/

section
variable {s t : State} (u : UnitId)

theorem tst_congr (hl : t.lan = s.lan) (hw : t.wick = s.wick) : t.tst u = s.tst u := by
  cases u <;> simp only [State.tst, hl, hw]

theorem fenceDue_congr (hl : t.lan = s.lan) (hw : t.wick = s.wick) : t.fenceDue u = s.fenceDue u := by
  cases u <;> simp only [State.fenceDue, hl, hw]

theorem entry_congr (h : t.rel = s.rel) : t.entry u = s.entry u := by
  cases u <;> simp only [State.entry, h]

theorem freeSpareOf_congr (h : t.rel = s.rel) (wick : Bool) : t.freeSpareOf wick = s.freeSpareOf wick := by
  simp only [State.freeSpareOf, h]

variable (s)

theorem setTst_only (f : TestSt → TestSt) : Only [.lan, .wick] s (s.setTst u f) := by
  cases u with
  | lantern n => exact (setLan_only s n _).mono (by simp)
  | wick w => exact (setWick_only s w _).mono (by simp)

@[simp] theorem setTst_tst (f : TestSt → TestSt) : (s.setTst u f).tst u = f (s.tst u) := by
  cases u with
  | lantern n => exact (congrArg Lantern.tst (setLan_self s n _)).trans rfl
  | wick w => exact (congrArg Wick.tst (upd_get_self s.wick w _)).trans rfl

@[simp] theorem setTst_fenceDue (f : TestSt → TestSt) : (s.setTst u f).fenceDue u = s.fenceDue u := by
  cases u with
  | lantern n => exact (congrArg Lantern.fenceDue (setLan_self s n _)).trans rfl
  | wick w => exact (congrArg Wick.fenceDue (upd_get_self s.wick w _)).trans rfl

theorem setTst_passCount (f : TestSt → TestSt) (n : LnId) : (s.setTst u f).lan[n].passCount = s.lan[n].passCount := by
  cases u with
  | lantern m =>
    by_cases h : m = n
    · subst h
      exact (congrArg Lantern.passCount (setLan_self s m _)).trans rfl
    · exact (congrArg Lantern.passCount (setLan_other s _ h)).trans rfl
  | wick w => rfl

theorem setEntry_eq (f : FenceEntry → FenceEntry) : s.setEntry u f = { s with rel := (s.setEntry u f).rel } := by
  cases u <;> rfl

theorem setEntry_entry (f : FenceEntry → FenceEntry) : (s.setEntry u f).entry u = f (s.entry u) := by
  cases u with
  | lantern n => exact upd_get_self s.rel.ln n f
  | wick w => exact upd_get_self s.rel.wk w f

theorem setEntry_vacated (f : FenceEntry → FenceEntry) : (s.setEntry u f).rel.vacated = s.rel.vacated := by
  cases u <;> rfl

end

/-! ## A unit in test (R68, R90, R209, R459) -/

section
variable (s : State) (inst : Option Inst) (start len passes : Nat) (on : Bool)

theorem inTest_only (u : UnitId) : Only [.lan, .wick] s (s.inTest u inst start len passes on) := by
  cases u with
  | lantern n => exact (setLan_only s n _).mono (by simp)
  | wick w =>
    cases inst with
    | some i => exact (setWick_only s w _).mono (by simp)
    | none => exact .refl _ s

@[simp] theorem inTest_tst (u : UnitId) : (s.inTest u inst start len passes on).tst u = s.tst u := by
  cases u with
  | lantern n => exact (congrArg Lantern.tst (setLan_self s n _)).trans rfl
  | wick w =>
    cases inst with
    | some i => exact (congrArg Wick.tst (upd_get_self s.wick w _)).trans rfl
    | none => rfl

@[simp] theorem inTest_fenceDue (u : UnitId) : (s.inTest u inst start len passes on).fenceDue u = s.fenceDue u := by
  cases u with
  | lantern n => exact (congrArg Lantern.fenceDue (setLan_self s n _)).trans rfl
  | wick w =>
    cases inst with
    | some i => exact (congrArg Wick.fenceDue (upd_get_self s.wick w _)).trans rfl
    | none => rfl

/-- A test occupies a Lantern to its end, and takes its weights. -/
theorem inTest_lantern (n : LnId) (i : Inst) :
    let t := s.inTest (.lantern n) (some i) start len passes on
    t.lan[n].drainEnd = start + len ∧ t.lan[n].active = [] ∧ t.lan[n].isolated = true ∧ t.lan[n].arrInst = some i := by
  dsimp only [State.inTest]
  rw [setLan_self]
  exact ⟨rfl, rfl, rfl, rfl⟩

/-- A Lantern counts the passes of its test. -/
theorem inTest_passCount (n : LnId) :
    ((s.inTest (.lantern n) inst start len passes true).lan[n]).passCount = s.lan[n].passCount + BitVec.ofNat 64 passes := by
  dsimp only [State.inTest]
  rw [setLan_self]
  rfl

/-- A window occupies a Wick to its end, in the test state where items run. -/
theorem inTest_wick (w : WkId) (i : Inst) :
    let t := s.inTest (.wick w) (some i) start len passes on
    t.wick[w].winEnd = start + len ∧ t.wick[w].winInst = some i ∧ (on = true → t.wick[w].mode = .test) := by
  dsimp only [State.inTest]
  rw [State.setWick_wick, upd_get_self]
  exact ⟨rfl, rfl, fun h => if_pos h⟩

end

theorem runWindow_off {s : State} (u : UnitId) (arg0 arg1 : Nat) (runs : List TestRun) (h : bit s.rel.ctrl.toNat 1 = false) :
    s.runWindow u arg0 arg1 runs = s := by
  simp only [State.runWindow, h, Bool.not_false, if_true]

/-! ## TEST_WINDOW and TEST_WINDOW_POSTPONED (R210, R211) -/

/-- Quadrant of a unit (R522). -/
def quadrant : UnitId → Nat
  | .lantern n => n.1 / 9
  | .wick w => w.1 / 13

section
variable {s : State} {i : Inst} {e : TtEntry} {u : UnitId} (he : s.entryOf i = some e) (hu : s.windowPhys e = some u) (hk : e.kind = 8)
include he hu hk

theorem testWindowEffect_inTime (runs : List TestRun) (hs : s.canStart e i = true) (hidle : s.unitIdle u = true)
    (htime : s.time.ftb ≤ s.job.placed e i + 50000000) :
    testWindowEffect i runs s = ((s.startOf e i).runWindow u (e.arg i.inst) e.arg1 runs).inTest u (some i)
      (max ((s.startOf e i).freeCycle u) ((s.startOf e i).lFrom (quadrant u) (s.job.placed e i) + e.cycle)) (e.arg i.inst) e.arg1
      (bit s.rel.ctrl.toNat 1) := by
  have hlate : ¬ s.job.placed e i + 50000000 < max (s.job.placed e i) s.time.ftb := by omega
  unfold testWindowEffect
  simp only [he, hu, hk, hs, hidle, hlate, decide_false, Bool.false_eq_true, Bool.true_eq_false, ne_eq, not_true_eq_false, false_and,
    or_self, if_false]
  rw [← startOf_rel s e i]
  cases u <;> rfl

theorem postponedEffect_spare (ha : s.job.state = .armed) (hn : s.job.started.contains i = false) (hc : s.job.cancelled e i = false)
    (hm : (s.job.moves.any fun m => m.left == u) = false) (hf : (s.freeSpareOf (unitWick u)).isSome = true) :
    postponedEffect i s = (s.reach (s.job.placed e i + 50000000)).setJob { s.job with moves := s.job.moves ++ [⟨u, u, some i, 0⟩] } := by
  have hfree : ((s.reach (s.job.placed e i + 50000000)).freeSpareOf (unitWick u)).isNone = false := by
    rw [freeSpareOf_congr (reach_rel s _)]
    simpa using hf
  unfold postponedEffect
  simp only [he, hu, hk, ha, hn, hc, hm, hfree, Bool.false_eq_true, ne_eq, not_true_eq_false, or_self, if_false, reach_job]

end

/-! ## Items (R459–R462) -/

section
variable (s : State) (u : UnitId) (it : LibItem)

theorem noteLine_only : Only [.lan] s (s.noteLine u it) := by
  cases u with
  | lantern n => exact setLan_only s n _
  | wick w => exact .refl _ s

theorem noteLine_fenceDue : (s.noteLine u it).fenceDue u = s.fenceDue u := by
  cases u with
  | lantern n =>
    dsimp only [State.noteLine, State.fenceDue]
    rw [setLan_self]
    split <;> rfl
  | wick w => rfl

theorem targetItem_only : Only [.lan, .wick] s (s.targetItem u it) := by
  cases u with
  | lantern n => exact (targetLn_only s n _).mono (by simp)
  | wick w => exact (targetWk_only s w).mono (by simp)

theorem targetItem_fenceDue : (s.targetItem u it).fenceDue u = s.fenceDue u := by
  cases u with
  | lantern n =>
    obtain ⟨t, ht⟩ := targetLn_tst s n n (if it.lineK = 0 then none else some (it.lineK == 1, it.line))
    exact (congrArg Lantern.fenceDue ht).trans rfl
  | wick w =>
    dsimp only [State.targetItem, State.targetWk]
    split
    · rfl
    · exact (congrArg Wick.fenceDue (upd_get_self s.wick w _)).trans rfl

theorem testFailed_only (idx : Nat) (found : W32) : Only [.rel, .lan, .log, .sad] s (s.testFailed u idx it found) := by
  refine Only.right ?_ (logEv_only _ _ _ _ _) (by simp)
  refine Only.right ?_ (noteLine_only _ u it) (by simp)
  intro g hg
  cases g with
  | rel => simp at hg
  | _ => rfl

theorem testFailed_rel (idx : Nat) (found : W32) : (s.testFailed u idx it found).rel = { s.rel with testFail := satInc s.rel.testFail } :=
  noteLine_only _ u it .rel (by simp)

theorem testFailed_newest (idx : Nat) (found : W32) : (s.testFailed u idx it found).newest =
    some ⟨s.time.ftb, 0x0B04, unitKind u, unitNum u, detail [(2, idx), (4, it.expect.toNat), (4, found.toNat)]⟩ := by
  rw [State.testFailed, newest_logEv, noteLine_only _ u it .time (by simp), State.setRel_time]

theorem testFailed_fenceDue (idx : Nat) (found : W32) : (s.testFailed u idx it found).fenceDue u = s.fenceDue u := by
  exact (fenceDue_congr u rfl rfl).trans ((noteLine_fenceDue _ u it).trans (fenceDue_congr u rfl rfl))

end

/-- The test state after item idx of a rotation of len items has failed: the item is due again (R461). -/
def TestSt.rotationFailed (t : TestSt) (idx len : Nat) : TestSt := { t with repeatDue := some idx, clean := 0, pos := (t.pos + 1) % len }

/-- The test state after an item of a rotation of len items has passed (R460). -/
def TestSt.rotationPassed (t : TestSt) (len : Nat) : TestSt :=
  { t with
    pos := (t.pos + 1) % len, clean := t.clean + 1
    rotations := if t.pos + 1 = len then t.rotations + 1 else t.rotations }

section
variable {s : State} {u : UnitId} {it : LibItem} {run : TestRun} (idx : Nat)

/-- A rotation item that fails is logged and counted, targets a test, and is due again (R461, R462). -/
theorem itemDone_failed (h : itemFails it (unitWick u) run = true) :
    s.itemDone u .rotation idx false it run = ((s.testFailed u idx it run.sig).targetItem u it).setTst u fun t =>
      t.rotationFailed idx (max 1 (s.rel.rotation (unitWick u)).length) := by
  unfold State.itemDone
  simp only [h, if_true, Bool.false_eq_true, if_false]
  rfl

/-- A rotation item that passes outside probation advances the rotation (R460). -/
theorem itemDone_passed (h : itemFails it (unitWick u) run = false) (hp : (s.entry u).prob = false) :
    s.itemDone u .rotation idx false it run = s.setTst u fun t => t.rotationPassed (max 1 (s.rel.rotation (unitWick u)).length) := by
  have hentry (f : TestSt → TestSt) : (s.setTst u f).entry u = s.entry u := entry_congr u (setTst_only s u f .rel (by simp))
  unfold State.itemDone State.itemPassed
  simp only [h, hentry, hp, Bool.false_and, Bool.false_eq_true, if_false, Bool.not_false, if_true, Bool.true_and, beq_iff_eq]
  rfl

end

/-! ## SPARE_ROTATION (R450, R458) -/

section
variable {s : State} {u : UnitId} {idx : Nat} {it : LibItem} (run : TestRun)

/-- The budget of a spare's turn is enough for one item. -/
theorem runItems_one (hn : (s.tst u).next s.rel (unitWick u) = some (.rotation, idx, false)) (hi : s.rel.items[idx]? = some it)
    (hlen : it.length ≤ 65536) :
    s.runItems u 1 (if unitWick u then 65536 else 1) [run] = s.itemDone u .rotation idx false it run := by
  have hcost : ¬ (if unitWick u then 65536 else 1) < (if unitWick u then it.length else 1) := by
    split <;> omega
  unfold State.runItems
  simp only [hn, hi, hcost, if_false]
  rfl

/-- A unit that no job uses runs its next item, and one that comes out with no fence due stays as it is. -/
theorem spareRotationEffect_item (hon : bit s.rel.ctrl.toNat 1 = true) (hu : s.inUse u = false) (hb : (s.entry u).st ≠ .busy)
    (hn : (s.tst u).next s.rel (unitWick u) = some (.rotation, idx, false)) (hi : s.rel.items[idx]? = some it) (hlen : it.length ≤ 65536)
    (hf : (s.itemDone u .rotation idx false it run).fenceDue u = none) :
    spareRotationEffect u run s = (s.itemDone u .rotation idx false it run).inTest u none (s.freeCycle u) 788 1 true := by
  have hbusy : ((s.entry u).st == .busy) = false := beq_eq_false_iff_ne.2 hb
  unfold spareRotationEffect
  simp only [hon, hu, hbusy, runItems_one run hn hi hlen, inTest_fenceDue, hf, Bool.not_true, Bool.or_self, Bool.false_eq_true, if_false]

end

/-! ## VACATED_UNIT_TEST (R211) -/

theorem vacatedTestEffect_passed {u : UnitId} {runs : List TestRun} {i : Inst} {e : TtEntry} {w s : State}
    (hv : (s.rel.vacated.find? fun v => v.1 == u) = some (u, some i)) (he : s.entryOf i = some e)
    (hw : w = (s.runWindow u (e.arg i.inst) e.arg1 runs).inTest u none (s.freeCycle u) (e.arg i.inst) e.arg1 (bit s.rel.ctrl.toNat 1))
    (hr : (w.tst u).repeatDue = none) (hf : w.fenceDue u = none) :
    vacatedTestEffect u runs s =
      (w.setRel { w.rel with vacated := w.rel.vacated.erase (u, some i) }).setEntry u fun e => { e with st := .spare } := by
  have hf' (x : RelBlk) : (w.setRel x).fenceDue u = none := (fenceDue_congr u rfl rfl).trans hf
  unfold vacatedTestEffect
  simp only [hv, he, Option.bind_some, Option.map_some, ← hw, hr, hf', Option.isSome_none, Bool.false_eq_true, if_false]

/-! ## O34 -/

/-- Settles O34: each clause is the rule of its command. That a passed item counts a pass of the Lantern is the model's choice (log 72), and
that a window's items run from the unit's first free cycle on is log 58. -/
theorem testItemsRunAndAreCounted : Obligations.TestItemsRunAndAreCounted := by
  unfold Obligations.TestItemsRunAndAreCounted
  refine ⟨?window, ?failed, ?passed, ?postponed, ?vacated⟩
  case window =>
    intro i runs e u q x v s he hu hk hs hidle htime hv hq hx
    have hquad : q = quadrant u := by
      rw [hq]
      cases u <;> rfl
    subst hv hquad
    refine .of_eq rfl (testWindowEffect_inTime he hu hk runs hs hidle htime) ?_
    rw [← hx]
    refine ⟨rfl, fun n hn => ?_, fun w hw => ?_, fun hoff => ?_⟩
    · subst hn
      exact inTest_lantern _ x _ _ _ n i
    · subst hw
      exact inTest_wick _ x _ _ _ w i
    · rw [runWindow_off _ _ _ _ (by rwa [startOf_rel])]
      generalize bit s.rel.ctrl.toNat 1 = on
      have hin := inTest_only (s.startOf e i) (some i) x (e.arg i.inst) e.arg1 on u
      refine ⟨(hin .job (by simp)).trans (startOf_job s e i), (hin .rel (by simp)).trans (startOf_rel s e i), ?_⟩
      rw [hin .time (by simp)]
      exact placed_le_startOf s e i
  case failed =>
    intro u run idx it s hon hu hb hf hn hi hlen hfail
    have hdone := itemDone_failed (s := s) idx hfail
    have hbad := testFailed_only s u it idx run.sig
    have htarget := targetItem_only (s.testFailed u idx it run.sig) u it
    have hfence : (s.itemDone u .rotation idx false it run).fenceDue u = none := by
      rw [hdone, setTst_fenceDue, targetItem_fenceDue, testFailed_fenceDue, hf]
    refine .of_eq rfl (spareRotationEffect_item run hon hu hb hn hi hlen hfence) ?_
    generalize s.freeCycle u = c
    rw [hdone, inTest_tst, setTst_tst]
    have hafter := htarget.step ((setTst_only _ u fun t => t.rotationFailed idx (max 1 (s.rel.rotation (unitWick u)).length)).step
      (inTest_only _ none c 788 1 true u))
    refine ⟨?_, ?_, rfl, rfl, ?_⟩
    · rw [newest_congr (hafter .log (by simp)), testFailed_newest]
    · rw [hafter .rel (by simp), testFailed_rel]
    · exact (hbad.mono (by simp)).right hafter (by simp)
  case passed =>
    intro u run idx it s hon hu hb hf hn hi hlen hpass hprob
    have hdone := itemDone_passed idx hpass hprob
    have hfence : (s.itemDone u .rotation idx false it run).fenceDue u = none := by
      rw [hdone, setTst_fenceDue, hf]
    refine .of_eq rfl (spareRotationEffect_item run hon hu hb hn hi hlen hfence) ?_
    generalize s.freeCycle u = c
    rw [hdone]
    have hafter := (setTst_only s u fun t => t.rotationPassed (max 1 (s.rel.rotation (unitWick u)).length)).step
      (inTest_only _ none c 788 1 true u)
    rw [inTest_tst, setTst_tst]
    refine ⟨rfl, rfl, fun n hn => ?_, hafter .rel (by simp), hafter⟩
    subst hn
    rw [inTest_passCount, setTst_passCount]
    rfl
  case postponed =>
    intro i e u s he hu hk ha hn hc hm hf
    refine .of_eq rfl (postponedEffect_spare he hu hk ha hn hc hm hf) ⟨State.setJob_job _ _, ?_, ?_⟩
    · rw [State.setJob_time]
      exact le_reach s _
    · exact ((reach_only s _).mono (by simp)).right (setJob_only _ _) (by simp)
  case vacated =>
    intro u runs i e w s hv he hw hr hf
    refine .of_eq rfl (vacatedTestEffect_passed hv he hw hr hf) ?_
    refine ⟨?_, ?_, ?_⟩
    · rw [setEntry_entry]
    · rw [setEntry_vacated, State.setRel_rel]
    · exact (setEntry_eq _ u _).trans rfl

end Sys2Proof.Machine
end

section
/-! # PROOFS. Every step keeps the stores of fixed depth within it (O6), and reset meets the invariants (O3). -/
namespace Sys2Proof.Machine

/-! ## The stores of fixed depth -/

/-- The return stack of each of the four threads of a Wick holds at most 32 addresses (R246). -/
def stacksFit (v : Vector Thread 4) : Prop := ∀ t : Fin 4, v[t].stack.length ≤ 32

/-- So do those of every Wick. -/
def wicksFit (v : Vector Wick 52) : Prop := ∀ w : WkId, stacksFit v[w].threads

/-- The return stack of each Saddler pair holds at most 64 addresses (R444). -/
def pairsFit (v : Vector Saddler 4) : Prop := ∀ p : Fin 4, v[p].stack.length ≤ 64

/-- The replay buffer of each link holds at most 1,024 flits (R398). -/
def linksFit (v : Vector UrLink 6) : Prop := ∀ u : Fin 6, v[u].replay.length ≤ 1024

/-- R523 for steps, and for the ends of the changes under way. -/
def stepsNear (step : Vector Nat 4) (moving : Vector (Option Nat) 4) : Prop :=
  ∀ q r : Fin 4, near step[q] step[r] = true ∧ near (moving[q].getD step[q]) step[r] = true ∧
    near (moving[q].getD step[q]) (moving[r].getD step[r]) = true

theorem upd_all {α : Type} {n : Nat} (P : α → Prop) {v : Vector α n} {i : Fin n} {f : α → α} (h : ∀ j : Fin n, P v[j])
    (hf : P (f v[i])) (j : Fin n) : P (upd v i f)[j] := by
  rw [upd_get]
  split
  · exact hf
  · exact h j

theorem map_all {α : Type} {n : Nat} (P : α → Prop) {v : Vector α n} {f : α → α} (h : ∀ j : Fin n, P v[j])
    (hf : ∀ x, P x → P (f x)) (j : Fin n) : P (v.map f)[j] := by
  rw [Fin.getElem_fin, Vector.getElem_map]
  exact hf _ (h j)

theorem wicksFit_upd {v : Vector Wick 52} {w : WkId} {f : Wick → Wick} (h : wicksFit v) (hf : stacksFit (f v[w]).threads) :
    wicksFit (upd v w f) := upd_all (fun k : Wick => stacksFit k.threads) h hf

theorem wicksFit_map {v : Vector Wick 52} {f : Wick → Wick} (h : wicksFit v)
    (hf : ∀ k : Wick, stacksFit k.threads → stacksFit (f k).threads) : wicksFit (v.map f) :=
  map_all (fun k : Wick => stacksFit k.threads) h hf

theorem pairsFit_upd {v : Vector Saddler 4} {p : Fin 4} {f : Saddler → Saddler} (h : pairsFit v) (hf : (f v[p]).stack.length ≤ 64) :
    pairsFit (upd v p f) := upd_all (fun q : Saddler => q.stack.length ≤ 64) h hf

theorem pairsFit_map {v : Vector Saddler 4} {f : Saddler → Saddler} (h : pairsFit v)
    (hf : ∀ q : Saddler, (f q).stack = q.stack) : pairsFit (v.map f) :=
  map_all (fun q : Saddler => q.stack.length ≤ 64) h fun q k => (hf q).symm ▸ k

theorem linksFit_upd {v : Vector UrLink 6} {u : Fin 6} {f : UrLink → UrLink} (h : linksFit v) (hf : (f v[u]).replay.length ≤ 1024) :
    linksFit (upd v u f) := upd_all (fun l : UrLink => l.replay.length ≤ 1024) h hf

theorem linksFit_updNat {v : Vector UrLink 6} {n : Nat} {f : UrLink → UrLink} (h : linksFit v)
    (hf : ∀ l : UrLink, (f l).replay = l.replay) : linksFit (updNat v n f) := by
  unfold updNat
  split
  · exact linksFit_upd h ((hf _).symm ▸ h _)
  · exact h

theorem linksFit_map {v : Vector UrLink 6} {f : UrLink → UrLink} (h : linksFit v)
    (hf : ∀ l : UrLink, l.replay.length ≤ 1024 → (f l).replay.length ≤ 1024) : linksFit (v.map f) :=
  map_all (fun l : UrLink => l.replay.length ≤ 1024) h hf

theorem wicksFit_reset : wicksFit (Vector.replicate 52 Wick.reset) := fun w t => by
  simp only [Fin.getElem_fin, Vector.getElem_replicate, Wick.reset]
  exact Nat.zero_le _

theorem pairsFit_reset : pairsFit (Vector.replicate 4 Saddler.reset) := fun p => by
  rw [Fin.getElem_fin, Vector.getElem_replicate]
  exact Nat.zero_le _

theorem linksFit_reset : linksFit (Vector.replicate 6 UrLink.reset) := fun u => by
  rw [Fin.getElem_fin, Vector.getElem_replicate]
  exact Nat.zero_le _

theorem UrLink.writeCfg_replay {v : W32} (l : UrLink) : (l.writeCfg v).replay = l.replay := by
  unfold UrLink.writeCfg
  dsimp only
  split
  · rfl
  · split <;> rfl

theorem UrLink.writeWindow_replay {reg : Nat} {v : W64} (l : UrLink) : (l.writeWindow reg v).replay = l.replay := by
  unfold UrLink.writeWindow
  split <;> rfl

/-- An ACK takes flits from the front of the replay buffer. -/
theorem UrLink.header_replay {l : UrLink} {f : Flit} {d : Nat} (h : l.replay.length ≤ d) : (l.header f).replay.length ≤ d := by
  unfold UrLink.header
  dsimp only
  split
  · rw [List.length_drop]
    exact Nat.le_trans (Nat.sub_le _ _) (Nat.le_trans (List.dropWhile_suffix _).length_le h)
  · exact h

/-- A link that comes up numbers its replay buffer anew. -/
theorem UrLink.comeUp_replay {l : UrLink} {p : LinkPeer} {d : Nat} (h : l.replay.length ≤ d) : (l.comeUp p).replay.length ≤ d := by
  simpa [UrLink.comeUp] using h

/-! ## The logs -/

theorem LogBlk.hostReset_startLog (l : LogBlk) : l.hostReset.startLog = l.startLog := by
  unfold LogBlk.hostReset
  split <;> rfl

theorem LogBlk.hostReset_smbus (l : LogBlk) : l.hostReset.smbus = l.smbus := by
  unfold LogBlk.hostReset
  split <;> rfl

/-! ## The throttle steps (R523, R524) -/

theorem stepsNear_reset : stepsNear (Vector.replicate 4 0) (Vector.replicate 4 none) := by
  unfold stepsNear
  decide

theorem MgmtBlk.write_near {m : MgmtBlk} {off : Nat} {v : W32} (h : stepsNear m.step m.moving) :
    stepsNear (m.write off v).step (m.write off v).moving := by
  unfold MgmtBlk.write
  split
  · exact h
  · dsimp only
    split <;> exact h
  · split <;> exact h
  · exact h

theorem near_self (a : Nat) : Machine.near a a = true := by simp [Machine.near]
theorem near_comm (a b : Nat) : Machine.near a b = Machine.near b a := Bool.and_comm _ _

theorem MgmtBlk.near_nextStep (m : MgmtBlk) (q : Fin 4) : Machine.near (m.nextStep q) m.step[q] = true := by
  unfold MgmtBlk.nextStep Machine.near
  split
  · simp; omega
  · split
    · simp; omega
    · simp

/-- A change that R524 lets begin ends within one index of every step, and of every end of a change. -/
theorem stepsNear_begin {m : MgmtBlk} {q : Fin 4} (h : stepsNear m.step m.moving) (hq : m.mayMove q (m.nextStep q) = true) :
    stepsNear m.step (upd m.moving q fun _ => some (m.nextStep q)) := by
  have hs := m.near_nextStep q
  have hr : ∀ r : Fin 4, r ≠ q → Machine.near m.step[r] (m.nextStep q) = true ∧ Machine.near (m.ending r) (m.nextStep q) = true ∧
      Machine.near (m.ending r) m.step[q] = true := fun r hne => by
    have := (List.all_eq_true.mp (Bool.and_eq_true_iff.mp hq).2) r (List.mem_finRange r)
    simpa [hne, and_assoc] using this
  intro a b
  obtain ⟨h1, h2, h3⟩ := h a b
  refine ⟨h1, ?_, ?_⟩
  · rw [upd_get]
    by_cases ha : q = a
    · subst ha
      rw [if_pos rfl, Option.getD_some]
      by_cases hb : b = q
      · subst hb; exact hs
      · rw [near_comm]; exact (hr b hb).1
    · rw [if_neg ha]; exact h2
  · rw [upd_get, upd_get]
    by_cases ha : q = a
    · subst ha
      rw [if_pos rfl, Option.getD_some]
      by_cases hb : q = b
      · rw [if_pos hb]; exact near_self _
      · rw [if_neg hb, near_comm]; exact (hr b fun e => hb e.symm).2.1
    · rw [if_neg ha]
      by_cases hb : q = b
      · subst hb
        rw [if_pos rfl]; exact (hr a fun e => ha e.symm).2.1
      · rw [if_neg hb]; exact h3

/-- The end of a change takes the place of its step. -/
theorem stepsNear_done {m : MgmtBlk} {q : Fin 4} {new : Nat} (h : stepsNear m.step m.moving) (hq : m.moving[q] = some new) :
    stepsNear (upd m.step q fun _ => new) (upd m.moving q fun _ => none) := by
  have hn : m.moving[q].getD m.step[q] = new := by rw [hq]; rfl
  have he : ∀ a : Fin 4, (upd m.moving q fun _ => none)[a].getD (upd m.step q fun _ => new)[a] = m.moving[a].getD m.step[a] := fun a => by
    rw [upd_get, upd_get]
    split
    next e => subst e; exact hn.symm
    · rfl
  have hst : ∀ b : Fin 4, (upd m.step q fun _ => new)[b] = m.moving[b].getD m.step[b] ∨
      (upd m.step q fun _ => new)[b] = m.step[b] := fun b => by
    rw [upd_get]
    split
    next e => subst e; exact .inl hn.symm
    · exact .inr rfl
  intro a b
  have key : ∀ c d : Fin 4, Machine.near (m.moving[c].getD m.step[c]) (upd m.step q fun _ => new)[d] = true := fun c d => by
    rcases hst d with e | e <;> rw [e]
    · exact (h c d).2.2
    · exact (h c d).2.1
  refine ⟨?_, ?_, ?_⟩
  · rcases hst a with e | e
    · rw [e]; exact key a b
    · rcases hst b with e' | e'
      · rw [e', near_comm]; exact e ▸ key b a
      · rw [e, e']; exact (h a b).1
  · rw [he]; exact key a b
  · rw [he, he]; exact (h a b).2.2

/-! ## The threads of a Wick -/

section
variable {k : Wick} {t : Fin 4}

theorem stacksFit_upd {v : Vector Thread 4} {f : Thread → Thread} (h : stacksFit v)
    (hf : ∀ th : Thread, th.stack.length ≤ 32 → (f th).stack.length ≤ 32) : stacksFit (upd v t f) :=
  upd_all (fun th : Thread => th.stack.length ≤ 32) h (hf _ (h t))

theorem stacksFit_map {v : Vector Thread 4} {f : Thread → Thread} (h : stacksFit v)
    (hf : ∀ th : Thread, th.stack.length ≤ 32 → (f th).stack.length ≤ 32) : stacksFit (v.map f) :=
  map_all (fun th : Thread => th.stack.length ≤ 32) h hf

theorem stacksFit_pass {r d : Nat} (h : stacksFit k.threads) : stacksFit (k.pass r d).threads := fun t => by
  rw [pass_thread]
  exact h t

theorem stacksFit_toSlot (h : stacksFit k.threads) : stacksFit (k.toSlot t).threads :=
  stacksFit_pass (r := k.slotOf t - k.rho) (d := 0) h

theorem stacksFit_swapBanks (h : stacksFit k.threads) : stacksFit (k.swapBanks t).threads := stacksFit_upd h fun _ k => k

/-- The entry to a handler pushes one address. -/
theorem stacksFit_enter {ret a b pc u} (h : stacksFit k.threads) (ht : k.threads[t].stack.length < 32) :
    stacksFit (k.enter t ret a b pc u).threads := by
  have e : (k.swapBanks t).threads[t].stack = k.threads[t].stack := by simp only [Wick.swapBanks, upd_self]
  refine stacksFit_pass (upd_all (fun th : Thread => th.stack.length ≤ 32) (stacksFit_swapBanks h) ?_)
  show ((k.swapBanks t).threads[t].stack).length < 32
  rwa [e]

theorem stacksFit_ofFn {f : Fin 4 → Thread} (h : ∀ t, (f t).stack.length ≤ 32) : stacksFit (Vector.ofFn f) := fun t => by
  rw [Fin.getElem_fin, Vector.getElem_ofFn]
  exact h t

theorem stacksFit_cpWrite {off v f now} (h : stacksFit k.threads) : stacksFit (k.cpWrite t off v f now).threads := by
  unfold Wick.cpWrite
  split; · exact h
  split; · exact h
  split; · exact stacksFit_upd h fun _ k => k
  split
  · dsimp only
    split
    · exact h
    · exact h
  split
  · refine stacksFit_upd h fun th k => ?_
    split
    next e =>
      rw [e] at k
      exact k
    · exact Nat.zero_le _
  split
  · refine stacksFit_upd h fun th k => ?_
    unfold Thread.waitRow
    extract_lets
    split
    · exact k
    · exact k
  split; · exact h
  exact h

end

section
variable {k : Wick} {t : Fin 4}

theorem stacksFit_catchUp {now : Nat} (h : stacksFit k.threads) : stacksFit (k.catchUp now).threads := by
  unfold Wick.catchUp
  split
  · exact stacksFit_pass h
  · exact h

/-- A recorded thread has at most 32 addresses (R218). -/
theorem stacksFit_put {b : List Byte} : stacksFit (k.put b).threads :=
  stacksFit_ofFn fun t => by simp [threadOf]

/-- An interrupt is entered only where the stack has room (R240). -/
theorem irqLine_depth {n : Fin 16} (h : k.irqLine t = some n) : k.threads[t].stack.length < 32 := by
  unfold Wick.irqLine at h
  dsimp only at h
  split at h
  next hc => simpa using (Bool.and_eq_true_iff.mp hc).2
  · cases h

theorem saddlerIrqLine_depth {q : Saddler} {n : Nat} (h : q.irqLine = some n) : q.stack.length < 64 := by
  unfold Saddler.irqLine at h
  split at h
  next hc => simpa using (Bool.and_eq_true_iff.mp hc).2
  · cases h

end

/-! ## The return stack that a run gives (R246, R272–R274) -/

/-- A run that gives a return stack gives one of at most d addresses. -/
def Run.stackWithin (d : Nat) (r : Run) : Prop := ∀ l, r.stack = some l → l.length ≤ d

theorem Run.stackWithin.of_none {d : Nat} {r : Run} (h : r.stack = none) : r.stackWithin d := fun _ e => nomatch h.symm.trans e

theorem Thread.finish_stack {th : Thread} {len : Nat} {r : Run} (hr : r.stackWithin 32) (h : th.stack.length ≤ 32) :
    (th.finish len r).stack.length ≤ 32 := by
  unfold Thread.finish
  dsimp only
  split
  next e => simpa using hr _ e
  · exact h

theorem Saddler.finish_stack {q : Saddler} {len : Nat} {r : Run} (hr : r.stackWithin 64) (h : q.stack.length ≤ 64) :
    (q.finish len r).stack.length ≤ 64 := by
  unfold Saddler.finish
  dsimp only
  split
  next e => simpa using hr _ e
  · exact h

section
variable {s : State} {c : Core} {x : Site}

theorem runDivide_stack {gd ga gb f} : (runDivide gd ga gb f s c).stack = none := by
  unfold runDivide
  split <;> rfl

theorem runLoad_stack {sz uns gd m gb} : (runLoad x sz uns gd m gb s c).stack = none := by
  unfold runLoad
  dsimp only
  split
  · rfl
  · split <;> rfl

theorem runStore_stack {sz gs m gb} : (runStore x sz gs m gb s c).stack = none := by
  unfold runStore
  dsimp only
  split <;> rfl

theorem runJump_stack {tgt} : (runJump x tgt s c).stack = none := by
  unfold runJump
  split <;> rfl

theorem runDrain_stack : (runDrain x s c).stack = none := by
  cases x <;> rfl

/-- CALL pushes one address, where the stack has room (R273). -/
theorem runCall_stack {tgt} : (runCall x tgt s c).stackWithin (stackDepth x) := by
  unfold runCall
  split
  · exact .of_none rfl
  · split
    · exact .of_none rfl
    next h =>
      rintro _ ⟨⟩
      exact Nat.lt_of_not_le h

/-- What a return leaves is the stack without its top. -/
theorem tail_within {d : Nat} {a : Nat} {r : List Nat} (h : c.stack.length ≤ d) (e : c.stack = a :: r) : r.length ≤ d := by
  rw [e] at h
  exact Nat.le_of_succ_le h

theorem runRet_stack {d : Nat} (h : c.stack.length ≤ d) : (runRet s c).stackWithin d := by
  unfold runRet
  split
  · exact .of_none rfl
  next e =>
    rintro _ ⟨⟩
    exact tail_within h e

theorem runReti_stack {d : Nat} (h : c.stack.length ≤ d) : (runReti s c).stackWithin d := by
  unfold runReti
  split
  · exact .of_none rfl
  · split
    · exact .of_none rfl
    next e =>
      rintro _ ⟨⟩
      exact tail_within h e

end

/-! ## What keeps the bounds

`Stays s t` goes from the innermost change of the state outwards, as `Keeps` does: one lemma for each operation of the model, in the order
of its files. A lemma of a change of a group takes what its bound needs, which is the identity where the bounded part stands. -/

/-- From one state to another the stores of fixed depth hold no more than it, and the quadrants lie within one throttle step of
each other, if they did. -/
structure Stays (s t : State) : Prop where
  wick : wicksFit s.wick → wicksFit t.wick
  sad : pairsFit s.sad → pairsFit t.sad
  startLog : s.log.startLog.length ≤ 256 → t.log.startLog.length ≤ 256
  smbus : s.log.smbus.length ≤ 64 → t.log.smbus.length ≤ 64
  links : linksFit s.ur.links → linksFit t.ur.links
  near : stepsNear s.mgmt.step s.mgmt.moving → stepsNear t.mgmt.step t.mgmt.moving

namespace Stays
variable {s t u : State}

theorem refl (s : State) : Stays s s := ⟨id, id, id, id, id, id⟩

/-- Groups replaced of which nothing is bounded. -/
theorem other {pe tm m ln dm hb fb jb nt ho ap rl st se cf mi} (h : Stays s t) :
    Stays s ⟨pe, tm, t.log, m, ln, t.wick, dm, hb, fb, jb, nt, t.ur, ho, ap, t.sad, rl, st, se, cf, t.mgmt, mi⟩ :=
  ⟨h.wick, h.sad, h.startLog, h.smbus, h.links, h.near⟩

/-- The Wicks, and perhaps groups of which nothing is bounded, replaced; so for the groups that follow. -/
theorem otherWick {pe tm m ln wk dm hb fb jb nt ho ap rl st se cf mi} (h : Stays s t) (wick : wicksFit t.wick → wicksFit wk) :
    Stays s ⟨pe, tm, t.log, m, ln, wk, dm, hb, fb, jb, nt, t.ur, ho, ap, t.sad, rl, st, se, cf, t.mgmt, mi⟩ :=
  ⟨wick ∘ h.wick, h.sad, h.startLog, h.smbus, h.links, h.near⟩

theorem otherLog {pe tm lg m ln dm hb fb jb nt ho ap sd rl st se cf mi} (h : Stays s t) (sad : pairsFit t.sad → pairsFit sd)
    (startLog : t.log.startLog.length ≤ 256 → lg.startLog.length ≤ 256) (smbus : t.log.smbus.length ≤ 64 → lg.smbus.length ≤ 64) :
    Stays s ⟨pe, tm, lg, m, ln, t.wick, dm, hb, fb, jb, nt, t.ur, ho, ap, sd, rl, st, se, cf, t.mgmt, mi⟩ :=
  ⟨h.wick, sad ∘ h.sad, startLog ∘ h.startLog, smbus ∘ h.smbus, h.links, h.near⟩

theorem otherUr {pe tm m ln dm hb fb jb nt ur ho ap rl st se cf mi} (h : Stays s t) (links : linksFit t.ur.links → linksFit ur.links) :
    Stays s ⟨pe, tm, t.log, m, ln, t.wick, dm, hb, fb, jb, nt, ur, ho, ap, t.sad, rl, st, se, cf, t.mgmt, mi⟩ :=
  ⟨h.wick, h.sad, h.startLog, h.smbus, links ∘ h.links, h.near⟩

theorem otherMgmt {pe tm m ln dm hb fb jb nt ho ap rl st se cf mg mi} (h : Stays s t)
    (near : stepsNear t.mgmt.step t.mgmt.moving → stepsNear mg.step mg.moving) :
    Stays s ⟨pe, tm, t.log, m, ln, t.wick, dm, hb, fb, jb, nt, t.ur, ho, ap, t.sad, rl, st, se, cf, mg, mi⟩ :=
  ⟨h.wick, h.sad, h.startLog, h.smbus, h.links, near ∘ h.near⟩

theorem setMem {m} (h : Stays s t) : Stays s (t.setMem m) := .other h

theorem ite {c : Prop} [Decidable c] (h : Stays s t) (k : Stays s u) : Stays s (if c then t else u) := by
  split <;> assumption

theorem when {c : Prop} [Decidable c] (h : Stays s t) (k : Stays s t → Stays s u) : Stays s (if c then u else t) := .ite (k h) h

theorem otherwise {c : Prop} [Decidable c] (h : Stays s t) (k : Stays s t → Stays s u) : Stays s (if c then t else u) :=
  .ite h (k h)

theorem ite_fst {α : Type} {c : Prop} [Decidable c] {x y : State × α} (h : Stays s x.1) (k : Stays s y.1) :
    Stays s (if c then x else y).1 := by
  split <;> assumption

theorem ite_run {c : Prop} [Decidable c] {x y : VRun} (h : Stays s x.st) (k : Stays s y.st) :
    Stays s (if c then x else y).st := by
  split <;> assumption

theorem ok (h : Stays s t) : Stays s (VRun.ok t).st := h

theorem foldl {α : Type} {f : State → α → State} {l : List α} (h : Stays s t) (hf : ∀ t x, Stays s t → Stays s (f t x)) :
    Stays s (l.foldl f t) := by
  induction l generalizing t with
  | nil => exact h
  | cons x l ih => exact ih (hf t x h)

theorem foldl_fst {α β : Type} {f : State × β → α → State × β} {l : List α} {x : State × β} (h : Stays s x.1)
    (hf : ∀ x a, Stays s x.1 → Stays s (f x a).1) : Stays s (l.foldl f x).1 := by
  induction l generalizing x with
  | nil => exact h
  | cons a l ih => exact ih (hf x a h)

theorem of_fst {α : Type} {x : State × α} {a : α} (h : Stays s x.1) (e : x = (t, a)) : Stays s t := by rw [e] at h; exact h

/-! ### Sys2Proof.Machine.Ops -/

theorem setTime {x} (h : Stays s t) : Stays s (t.setTime x) := .other h
theorem setLan {n f} (h : Stays s t) : Stays s (t.setLan n f) := .other h

/-- A Wick replaced: its return stacks stay within their depth, given what holds at the first state and here. -/
theorem setWickOf {n f} (h : Stays s t) (hf : wicksFit s.wick → wicksFit t.wick → stacksFit (f t.wick[n]).threads) :
    Stays s (t.setWick n f) :=
  ⟨fun k => wicksFit_upd (h.wick k) (hf k (h.wick k)), h.sad, h.startLog, h.smbus, h.links, h.near⟩

theorem setWick {n f} (h : Stays s t) (hf : ∀ k : Wick, stacksFit k.threads → stacksFit (f k).threads) :
    Stays s (t.setWick n f) := .setWickOf h fun _ k => hf _ (k n)

theorem setThread {n i f} (h : Stays s t)
    (hf : ∀ th : Thread, th.stack.length ≤ 32 → (f th).stack.length ≤ 32) :
    Stays s (t.setWick n fun k => k.updT i f) := .setWick h fun _ k => stacksFit_upd k hf

theorem pass {n r d} (h : Stays s t) : Stays s (t.setWick n fun k => k.pass r d) := .setWick h fun _ k => stacksFit_pass k
theorem slot {n i} (h : Stays s t) : Stays s (t.setWick n fun k => k.toSlot i) := .setWick h fun _ k => stacksFit_toSlot k
theorem loseSlot {n} (h : Stays s t) : Stays s (t.setWick n Wick.loseSlot) := .setWick h fun _ k => stacksFit_pass (r := 1) (d := 0) k
theorem portTake {n c} (h : Stays s t) : Stays s (t.setWick n fun k => k.portTake c) := .setWick h fun _ k => stacksFit_map k fun _ k => k

/-- An instruction's bytes are consumed, and W-cycles pass. -/
theorem advance {n i r d} {f : Thread → Thread} (h : Stays s t)
    (hf : ∀ th : Thread, th.stack.length ≤ 32 → (f th).stack.length ≤ 32) :
    Stays s (t.setWick n fun k => (k.updT i f).pass r d) := .setWick h fun _ k => stacksFit_pass (stacksFit_upd k hf)

theorem setEng {n f} (h : Stays s t) : Stays s (t.setEng n f) := .other h
theorem setHbm {n f} (h : Stays s t) : Stays s (t.setHbm n f) := .other h
theorem setFab {x} (h : Stays s t) : Stays s (t.setFab x) := .other h
theorem setJob {x} (h : Stays s t) : Stays s (t.setJob x) := .other h
theorem setNet {x} (h : Stays s t) : Stays s (t.setNet x) := .other h
theorem setUr {x} (h : Stays s t) (links : linksFit t.ur.links → linksFit x.links) : Stays s (t.setUr x) :=
  .otherUr h links
theorem setHost {x} (h : Stays s t) : Stays s (t.setHost x) := .other h
theorem setApp {x} (h : Stays s t) : Stays s (t.setApp x) := .other h

/-- A pair replaced: its return stack stays within its depth, given what holds at the first state and here. -/
theorem setSadOf {p f} (h : Stays s t) (hf : pairsFit s.sad → pairsFit t.sad → (f t.sad[p]).stack.length ≤ 64) :
    Stays s (t.setSad p f) :=
  ⟨h.wick, fun k => pairsFit_upd (h.sad k) (hf k (h.sad k)), h.startLog, h.smbus, h.links, h.near⟩

theorem setSad {p f} (h : Stays s t)
    (hf : ∀ q : Saddler, q.stack.length ≤ 64 → (f q).stack.length ≤ 64) : Stays s (t.setSad p f) :=
  .setSadOf h fun _ k => hf _ (k p)

theorem setRel {x} (h : Stays s t) : Stays s (t.setRel x) := .other h
theorem setStamp {x} (h : Stays s t) : Stays s (t.setStamp x) := .other h
theorem setSec {x} (h : Stays s t) : Stays s (t.setSec x) := .other h
theorem setCfg {x} (h : Stays s t) : Stays s (t.setCfg x) := .other h
theorem setMgmt {x} (h : Stays s t) (near : stepsNear t.mgmt.step t.mgmt.moving → stepsNear x.step x.moving) :
    Stays s (t.setMgmt x) := .otherMgmt h near
theorem setMisc {x} (h : Stays s t) : Stays s (t.setMisc x) := .other h
theorem emit {o} (h : Stays s t) : Stays s (t.emit o) := .other h
theorem fresh {n} (h : Stays s t) : Stays s (t.fresh n) := .other h
theorem msix {v} (h : Stays s t) : Stays s (t.msix v) := .ite (.other h) (.emit h)
theorem irqSource {n} (h : Stays s t) : Stays s (t.irqSource n) := .ite (.emit h) h
theorem sadLine {line} (h : Stays s t) : Stays s (t.sadLine line) := .otherLog h (pairsFit_map · fun _ => rfl) id id
theorem logAt {ftb code kind num items} (h : Stays s t) : Stays s (t.logAt ftb code kind num items) :=
  .otherLog h (pairsFit_map · fun _ => rfl) id id
theorem logEv {code kind num items} (h : Stays s t) : Stays s (t.logEv code kind num items) := .logAt h

theorem putRecord {e} (h : Stays s t) : Stays s (t.putRecord e) :=
  have w {a l i p} : Stays s { t with mem := t.mem.write a l, log := { t.log with index := i, phase := p } } := .otherLog h id id id
  .ite (.ite (.ite (.msix w) (.irqSource w)) w) (.otherLog h id id id)

theorem dropRecord (h : Stays s t) : Stays s t.dropRecord := .otherLog h id id id
theorem putOverflow (h : Stays s t) : Stays s t.putOverflow := .ite h (.putRecord (.otherLog h id id id))

theorem record {e} (h : Stays s t) : Stays s (t.record e) := by
  unfold State.record
  extract_lets _ u _ v
  have k : Stays s u := .otherLog h id id (fun k => by
    split
    · simp only [lastN, List.length_drop]
      omega
    · exact k)
  have k' : Stays s v := .putOverflow k
  refine .ite ?_ (.ite (.putRecord k') (.dropRecord k'))
  split
  next hl => exact .otherLog k id (fun _ => by simpa using hl) id
  · exact .dropRecord k

theorem drain (h : Stays s t) : Stays s t.drain := .foldl (.otherLog h id id id) (fun _ _ k => .record k)
theorem reach {n} (h : Stays s t) : Stays s (t.reach n) := .ite h (.other (.drain h))
theorem tick (h : Stays s t) : Stays s t.tick := .reach h
theorem hbmTemp {st temp} (h : Stays s t) : Stays s (t.hbmTemp st temp) := .when (.setHbm h) .logEv
theorem anchorClocks (h : Stays s t) : Stays s t.anchorClocks := .other h

theorem follow (h : Stays s t) : Stays s t.follow := by
  dsimp only [State.follow]
  split
  · exact .ite h (.logEv (.setTime h))
  · exact .when (.setTime (.ite h (.logEv (.setTime h)))) .logEv

theorem ptpChanged (h : Stays s t) : Stays s t.ptpChanged := .when (.setTime h) .follow

theorem writeRow {row mask data tag poison} (h : Stays s t) : Stays s (t.writeRow row mask data tag poison) :=
  .setMem h

theorem abandonChain {n} (h : Stays s t) : Stays s (t.abandonChain n) := by
  dsimp only [State.abandonChain]
  split
  · split
    · exact .ite (.fresh (.foldl h (fun _ _ k => .writeRow k))) h
    · exact h
  · exact h

theorem abandonChains (h : Stays s t) : Stays s t.abandonChains := .foldl h (fun _ _ k => .abandonChain k)

/-! ### Sys2Proof.Machine.Fabric -/

theorem targetLn {n line} (h : Stays s t) : Stays s (t.targetLn n line) := .ite h (.setLan h)
theorem targetWk {w} (h : Stays s t) : Stays s (t.targetWk w) := .ite h (.setWick h fun _ k => k)

theorem targetOwner {a} (h : Stays s t) : Stays s (t.targetOwner a) := by
  dsimp only [State.targetOwner]
  split
  · split
    · exact .targetLn h
    · exact h
  · split
    · exact .targetWk h
    · exact h
  · split
    · exact .targetWk h
    · exact h
  · split
    · exact .targetWk h
    · exact h
  · split
    · exact .targetWk h
    · exact h
  · exact h

theorem updCtr {m' f} (h : Stays s t) : Stays s (t.updCtr m' f) := .setFab h

theorem checkRow {row secs} (h : Stays s t) : Stays s (t.checkRow row secs) := by
  unfold State.checkRow
  extract_lets m e sb ce t₁ u t₂
  have h₁ : Stays s t₁ := .ite h (.updCtr h)
  have h₂ : Stays s t₂ := by
    unfold t₂
    split
    · exact h₁
    · exact .targetOwner (.logEv (.updCtr (.setMem h₁)))
  exact .ite (.targetOwner (.logEv (.updCtr (.other h₂)))) h₂

theorem readRow {row} (h : Stays s t) : Stays s (t.readRow row).1 := .checkRow h

theorem checkBlock {blk port cws} (h : Stays s t) : Stays s (t.checkBlock blk port cws).1 := by
  dsimp only [State.checkBlock]
  split
  · exact .ite (.logEv (.other h)) (.other h)
  · exact h

theorem readBlock {a port} (h : Stays s t) : Stays s (t.readBlock a port).1 := .checkBlock h
theorem outerWrite {a l} (h : Stays s t) : Stays s (t.outerWrite a l) := .setMem h

theorem seeHbm {port a n} (h : Stays s t) : Stays s (t.seeHbm port a n) := by
  dsimp only [State.seeHbm]
  split
  · exact .foldl h (fun _ _ k => .checkBlock k)
  · exact h

theorem outerRead {a n} (h : Stays s t) : Stays s (t.outerRead a n).1 := .seeHbm h

theorem localWrite {w off l} (h : Stays s t) : Stays s (t.localWrite w off l) :=
  .setMem h

theorem checkLine {w off access} (h : Stays s t) : Stays s (t.checkLine w off access).1 :=
  .ite_fst (.setWick h fun _ k => k) (.ite_fst (.targetWk (.logEv (.setWick h fun _ k => k))) h)

theorem checkElem {w y elem reader} (h : Stays s t) : Stays s (t.checkElem w y elem reader).1 :=
  .ite_fst (.setWick h fun _ k => k) (.ite_fst (.targetWk (.logEv (.setWick h fun _ k => k))) h)

theorem readVecRow {w r} (h : Stays s t) : Stays s (t.readVecRow w r).1 := by
  dsimp only [State.readVecRow]
  exact .foldl h (fun _ _ k => .checkRow k)

theorem writeVecRow {w r mask data tag poison} (h : Stays s t) : Stays s (t.writeVecRow w r mask data tag poison) :=
  .ite (.writeRow h) (.foldl h (fun _ _ k => .ite k (.writeRow k)))

theorem countRow {a} (h : Stays s t) : Stays s (t.countRow a) := by
  dsimp only [State.countRow]
  split
  · exact h
  · split
    · exact h
    · exact .ite h (.setFab h)

theorem countWait {a from_} (h : Stays s t) : Stays s (t.countWait a from_) := .updCtr h

theorem acceptWrite {wr} (h : Stays s t) : Stays s (t.acceptWrite wr) := by
  dsimp only [State.acceptWrite]
  split
  · exact .setFab h
  · split
    · exact .writeVecRow h
    · exact h
  · exact .writeRow h
  · exact h

theorem presentWrite {wr eng} (h : Stays s t) : Stays s (t.presentWrite wr eng) := by
  dsimp only [State.presentWrite]
  split
  · exact .acceptWrite h
  · exact .updCtr (.setFab h)

theorem takeCredits {i wr} (h : Stays s t) : Stays s (t.takeCredits i wr).1 := by
  dsimp only [State.takeCredits]
  split
  · exact .setFab h
  · exact h

theorem fabricWrite {wr eng} (h : Stays s t) : Stays s (t.fabricWrite wr eng).1 := by
  dsimp only [State.fabricWrite]
  split
  · exact h
  · refine .ite_fst (.presentWrite h) (.ite_fst (.logEv h) (.ite_fst (.presentWrite h) (.ite_fst (.setFab h) ?_)))
    split
    · exact .presentWrite (.of_fst (.takeCredits h) ‹_›)
    · exact .setFab (.of_fst (.takeCredits h) ‹_›)

theorem cross {src dst tick chan a d} (h : Stays s t) : Stays s (t.cross src dst tick chan a d) := .setFab h

theorem fabricRead {port chan a tick} (h : Stays s t) : Stays s (t.fabricRead port chan a tick) := by
  dsimp only [State.fabricRead]
  split
  · exact .setFab h
  · exact .cross (.readRow h)
  · split
    · exact .cross (.readVecRow h)
    · exact h
  · exact h

theorem setChan {e c f} (h : Stays s t) : Stays s (t.setChan e c f) := .setEng h

theorem endCollision {wr} (h : Stays s t) : Stays s (t.endCollision wr) := by
  dsimp only [State.endCollision]
  split
  · exact .setChan h
  · exact h

theorem acceptedAt {wr t'} (h : Stays s t) : Stays s (t.acceptedAt wr t') := by
  dsimp only [State.acceptedAt]
  split
  · exact .setChan h
  · exact h

theorem heldRetryEffect {addr engineRead} (h : Stays s t) : Stays s (Machine.heldRetryEffect addr engineRead t) := by
  dsimp only [Machine.heldRetryEffect]
  split
  · exact h
  · exact .ite (.updCtr h) (.acceptedAt (.endCollision (.acceptWrite (.setFab h))))

theorem crossingEffect {src dst resolved} (h : Stays s t) : Stays s (Machine.crossingEffect src dst resolved t) := by
  dsimp only [Machine.crossingEffect]
  split
  · exact h
  · split
    · exact h
    · exact .ite (.setFab (.reach h)) (.logEv (.setFab (.other (.reach h))))

theorem localRead {w off n} (h : Stays s t) : Stays s (t.localRead w off n).1 :=
  .ite_fst (.foldl_fst h (fun _ _ k => .checkLine k)) (.foldl_fst h (fun _ _ k => .checkElem k))

theorem localPut {w off l} (h : Stays s t) : Stays s (t.localPut w off l) :=
  .ite (.setMem (.localWrite h))
    (.setMem h)

theorem usePort {w off n} (h : Stays s t) : Stays s (t.usePort w off n) := .ite (.setWick h fun _ k => k) h

theorem localFabric {w port off n write} (h : Stays s t) : Stays s (t.localFabric w port off n write).1 := by
  dsimp only [State.localFabric]
  split
  · exact .ite_fst (.logEv h) (.localPut (.usePort h))
  · exact .emit (.localRead (.usePort h))

theorem localFabricEffect {w port off n write} (h : Stays s t) : Stays s (Machine.localFabricEffect w port off n write t) :=
  .ite h (.otherwise (.localFabric h) .emit)

/-! ### Sys2Proof.Machine.Rings -/

theorem updRing {k f} (h : Stays s t) : Stays s (t.updRing k f) := .other h
theorem ringError {k cause} (h : Stays s t) : Stays s (t.ringError k cause) := .logEv (.updRing h)

theorem flushStartLog (h : Stays s t) : Stays s t.flushStartLog :=
  .putOverflow (.foldl (.otherLog h id (fun _ => Nat.zero_le _) id) (fun _ _ k => .ite (.putRecord k) (.dropRecord k)))

theorem writeEvCfg {v} (h : Stays s t) : Stays s (t.writeEvCfg v) :=
  .ite (.ite h (.otherLog h id id id))
    (.ite (.ite (.putOverflow (.otherLog (.drain h) id id id)) (.flushStartLog (.otherLog (.drain h) id id id))) (.otherLog h id id id))

theorem writeRingCfg {r v} (h : Stays s t) : Stays s (t.writeRingCfg r v) := by
  dsimp only [State.writeRingCfg]
  split
  · exact .updRing h
  · exact .writeEvCfg h

theorem doorbellEffect {k value} (h : Stays s t) : Stays s (Machine.doorbellEffect k value t) :=
  .ite (.sadLine h) (.ite (.ringError (.sadLine h)) (.updRing (.sadLine h)))

theorem complete {k ep tag status r0 r1 fail} (h : Stays s t) : Stays s (t.complete k ep tag status r0 r1 fail) :=
  have w {a l f} : Stays s (({ t with mem := t.mem.write a l } : State).updRing k f) := .updRing
      (.other h)
  .ite h (.ite (.ringError h) (.ite (.ite (.msix w) (.irqSource w)) w))

theorem completeHeld {h' status r0 r1} (h : Stays s t) : Stays s (t.completeHeld h' status r0 r1) := .complete (.other h)
theorem setSerial {l} (h : Stays s t) : Stays s (t.setSerial l) := .other h

theorem takeNew {k io op used run} (h : Stays s t) (hf : ∀ t x, Stays s t → Stays s (run t x)) :
    Stays s (t.takeNew k io op used run) := by
  unfold State.takeNew
  refine .ite h (.ite (.ringError h) (.ite h ?_))
  extract_lets _ u
  have k : Stays s u := .setJob (.updRing (.seeHbm h))
  exact .ite (.complete k) (.ite (.setSerial k) (hf _ _ k))

theorem takeCommand {k io op used run} (h : Stays s t) (hf : ∀ t x, Stays s t → Stays s (run t x)) :
    Stays s (t.takeCommand k io op used run) := by
  dsimp only [State.takeCommand]
  split
  · exact .ite (hf _ _ (.setSerial h)) (.takeNew h (fun _ _ k => hf _ _ k))
  · exact .takeNew h (fun _ _ k => hf _ _ k)

theorem finish {c status r0 r1 io} (h : Stays s t) : Stays s (t.finish c status r0 r1 io) := .complete h

theorem ibWrite {i n} (h : Stays s t) : Stays s (t.ibWrite i n) := by
  dsimp only [State.ibWrite]
  split
  · exact h
  · split
    · exact .foldl (.setFab h) (fun _ _ k => .acceptWrite k)
    · exact h

theorem settleCredits (h : Stays s t) : Stays s t.settleCredits := .other (.foldl h (fun _ _ k => .countWait k))
theorem updIb {i f} (h : Stays s t) : Stays s (t.updIb i f) := .setApp h
theorem ibSendEffect {i value} (h : Stays s t) : Stays s (Machine.ibSendEffect i value t) :=
  .ite (.updIb h) (.ite (.updIb h) (.ibWrite h))

theorem ibSendCreditedEffect {i} (h : Stays s t) : Stays s (Machine.ibSendCreditedEffect i t) := by
  dsimp only [Machine.ibSendCreditedEffect]
  split
  · exact .ite h (.ibWrite (.updIb (.countWait h)))
  · exact h

/-! ### Sys2Proof.Machine.Start -/

theorem requestFence (h : Stays s t) : Stays s t.requestFence := .other h
theorem resetTo {k} (h : Stays s t) : Stays s (t.resetTo k) :=
  ⟨fun _ => wicksFit_reset, fun _ => pairsFit_reset, fun _ => Nat.zero_le _, (drain h).smbus,
    fun f => linksFit_map ((drain h).links f) fun l hl => by
      cases k with
      | warm => exact hl
      | powerOn => exact Nat.zero_le _
      | fundamental => exact Nat.zero_le _,
    fun _ => stepsNear_reset⟩

theorem loadSettings (h : Stays s t) : Stays s t.loadSettings := by
  refine .otherwise ⟨h.wick, h.sad, h.startLog, h.smbus, fun k u => ?_, h.near⟩ .logEv
  rw [Fin.getElem_fin, Vector.getElem_ofFn]
  exact h.links k u

theorem loadFence (h : Stays s t) : Stays s t.loadFence := by
  dsimp only [State.loadFence]
  exact .otherwise (.other h) .logEv

theorem startIdentity {sc} (h : Stays s t) : Stays s (t.startIdentity sc) := by
  dsimp only [State.startIdentity]
  split
  · exact .logEv (.when (.when (.other h) .logEv) .logEv)
  · exact .when (.when (.other h) .logEv) .logEv

theorem logSteer {n col used} (h : Stays s t) : Stays s (t.logSteer n col used) := .foldl h (fun _ _ k => .logEv k)
theorem startFenceLn {n} (h : Stays s t) : Stays s (t.startFenceLn n) := .logEv (.other h)
theorem startFenceWk {n} (h : Stays s t) : Stays s (t.startFenceWk n) := .logEv (.other h)

theorem startTestLn {f} (h : Stays s t) : Stays s (t.startTestLn f) := by
  dsimp only [State.startTestLn]
  refine .ite h (.ite (.startFenceLn h) ?_)
  split
  · refine .startFenceLn ?_
    split
    · exact .logEv h
    · exact h
  · exact .otherwise (.other (.logSteer (.logSteer (.setLan h)))) .startFenceLn

theorem startTestWk {w} (h : Stays s t) : Stays s (t.startTestWk w) := .ite h (.startFenceWk h)

theorem startTest {sc} (h : Stays s t) : Stays s (t.startTest sc) :=
  .otherwise (.foldl (.foldl h fun _ _ k => .startTestLn k) fun _ _ k => .startTestWk k) .requestFence

theorem trainHbm {sc} (h : Stays s t) : Stays s (t.trainHbm sc) := .foldl (.other h) (fun _ _ k => .ite (.logEv k) k)

theorem startFirmware (h : Stays s t) : Stays s t.startFirmware := by
  dsimp only [State.startFirmware]
  split
  · exact .otherLog h (pairsFit_map · fun _ => rfl) id id
  · exact .logEv (.otherLog h (pairsFit_map · fun _ => rfl) id id)

theorem startLibrary (h : Stays s t) : Stays s t.startLibrary := by
  dsimp only [State.startLibrary]
  split
  · exact .logEv (.other h)
  · exact .logEv (.logEv (.other h))

theorem unitStates (h : Stays s t) : Stays s t.unitStates :=
  .otherWick h fun k w => by
    rw [Fin.getElem_fin, Vector.getElem_ofFn]
    exact k w

theorem startReady {k cause micros} (h : Stays s t) : Stays s (t.startReady k cause micros) :=
  .logEv (.logEv (.other (.unitStates h)))

theorem reportTrip (h : Stays s t) : Stays s t.reportTrip := by
  dsimp only [State.reportTrip]
  split
  · exact .logEv (.otherMgmt h id)
  · exact h

theorem startUp {k cause sc} (h : Stays s t) : Stays s (t.startUp k cause sc) :=
  have read : Stays s ((t.resetTo k).reach (1000 * sc.micros)).loadSettings.loadFence := .loadFence (.loadSettings (.reach
      (.resetTo h)))
  .startReady (.other (.startLibrary (.startFirmware (.trainHbm (.startTest (.when (.reportTrip read) .startIdentity))))))

theorem warmUp {cause micros} (h : Stays s t) : Stays s (t.warmUp cause micros) :=
  .startReady (.startLibrary (.startFirmware (.reach (.resetTo (.anchorClocks (.abandonChains h))))))

theorem requestWarm {cause micros} (h : Stays s t) : Stays s (t.requestWarm cause micros) := .ite (.other h) (.warmUp h)

theorem askWarm {path} (h : Stays s t) : Stays s (t.askWarm path) := by
  dsimp only [State.askWarm]
  split
  · exact .otherwise (.fresh h) .other
  · exact .requestWarm (.fresh h)

theorem resetAfter {before} (h : Stays s t) : Stays s (t.resetAfter before) := by
  dsimp only [State.resetAfter]
  split
  · exact .ite (.warmUp (.other h)) h
  · exact h

theorem powerDown (h : Stays s t) : Stays s t.powerDown := .otherMgmt (.resetTo h) id
theorem trip {cause reading} (h : Stays s t) : Stays s (t.trip cause reading) := .otherMgmt (.powerDown h) id
theorem powerOnEffect {sc} (h : Stays s t) : Stays s (Machine.powerOnEffect sc t) := .ite h (.startUp (.otherMgmt h id))
theorem fundamentalEffect {sc} (h : Stays s t) : Stays s (Machine.fundamentalEffect sc t) := .ite (.startUp h) h
theorem warmResetEffect {value micros} (h : Stays s t) : Stays s (Machine.warmResetEffect value micros t) :=
  .ite (.requestWarm h) h
theorem vinRange {mv} (h : Stays s t) : Stays s (t.vinRange mv) := .logEv (.otherMgmt h id)

theorem configWriteStart (h : Stays s t) : Stays s (Machine.configWriteStart t) := by
  dsimp only [Machine.configWriteStart]
  split
  · exact .other h
  · exact h

theorem configWriteEnd {r ok leftOver} (h : Stays s t) : Stays s (t.configWriteEnd r ok leftOver) :=
  .ite (.logEv (.other h)) (.logEv (.other h))

theorem configWriteDoneEffect {firstOk secondOk leftOver} (h : Stays s t) :
    Stays s (Machine.configWriteDoneEffect firstOk secondOk leftOver t) := by
  dsimp only [Machine.configWriteDoneEffect]
  split
  · exact h
  · split
    · exact .warmUp (.configWriteEnd h)
    · exact .configWriteEnd h

/-! ### Sys2Proof.Machine.Mgmt -/

theorem throttleRequestEffect {r active reading} (h : Stays s t) :
    Stays s (Machine.throttleRequestEffect r active reading t) := by
  have k : Stays s { t with mgmt := (t.mgmt.request r active).retarget } := .otherMgmt h (fun k => by cases r <;> exact k)
  dsimp only [Machine.throttleRequestEffect]
  refine .ite ?_ h
  split
  · exact .logEv k
  · exact .logEv k
  · exact k

theorem externalThrottleEffect {asserted} (h : Stays s t) : Stays s (Machine.externalThrottleEffect asserted t) :=
  .ite h (.logEv (.otherMgmt h id))

theorem stepBeginEffect {q} (h : Stays s t) : Stays s (Machine.stepBeginEffect q t) := by
  unfold Machine.stepBeginEffect
  extract_lets new u
  have hu : u.mgmt = t.mgmt := by
    unfold u
    split
    · simp
    · rfl
  have ku : Stays s u := .ite (.anchorClocks (.settleCredits (.reach h))) h
  split
  next hc =>
    have hm : t.mgmt.mayMove q new = true := (Bool.and_eq_true_iff.mp hc).2
    exact .otherMgmt ku (fun k => by
      show stepsNear u.mgmt.step (upd u.mgmt.moving q fun _ => some new)
      rw [hu] at k ⊢
      exact stepsNear_begin k hm)
  · exact h

theorem stepDoneEffect {q} (h : Stays s t) : Stays s (Machine.stepDoneEffect q t) := by
  dsimp only [Machine.stepDoneEffect]
  split
  · exact h
  next e =>
    exact .logEv (.otherMgmt (.anchorClocks (.settleCredits (.reach h))) (fun k => by
      rw [anchorClocks_mgmt, settleCredits_mgmt, reach_mgmt] at k ⊢
      exact stepsNear_done k e))

theorem telemetryEffect {t'} (h : Stays s t) : Stays s (Machine.telemetryEffect t' t) :=
  .ite h (.when (.foldl (.otherMgmt h id) (fun _ _ k => .hbmTemp k)) .logEv)

theorem managementSupplyEffect {mv} (h : Stays s t) : Stays s (Machine.managementSupplyEffect mv t) :=
  have k := powerDown h
  .ite (.otherMgmt h id) ⟨k.wick, k.sad, k.startLog, fun _ => Nat.zero_le _, k.links, k.near⟩

theorem ppsEffect (h : Stays s t) : Stays s (Machine.ppsEffect t) := .other (.reach h)

theorem smbusOk {pec act} (h : Stays s t) (hf : ∀ t, Stays s t → Stays s (act t)) : Stays s (t.smbusOk pec act) :=
  .ite h (.ite (hf _ (.drain h)) (.emit h))

theorem smbusEventRead (h : Stays s t) : Stays s (Machine.smbusEventRead t) := by
  dsimp only [Machine.smbusEventRead]
  split
  · exact .emit h
  next e =>
    exact .emit (.otherLog (.fresh h) id id (fun k => by
      rw [State.fresh_log, e] at k
      exact Nat.le_of_succ_le k))

/-! ### Sys2Proof.Machine.Security -/

theorem buttonEffect {ms} (h : Stays s t) : Stays s (Machine.buttonEffect ms t) := .ite (.logEv (.other h)) h

theorem buttonExpiryEffect (h : Stays s t) : Stays s (Machine.buttonExpiryEffect t) := by
  dsimp only [Machine.buttonExpiryEffect]
  split
  · exact .other (.reach h)
  · exact h

theorem jumperEffect {fitted} (h : Stays s t) : Stays s (Machine.jumperEffect fitted t) :=
  .ite h (.when (.logEv (.other h)) .logEv)

theorem sealEffect {openReading} (h : Stays s t) : Stays s (Machine.sealEffect openReading t) := by
  unfold Machine.sealEffect
  extract_lets _ u
  have k : Stays s u := .other h
  exact .ite h (.ite (.logEv (.other k)) k)

theorem privileged {op needJumper needSeal work effect} (h : Stays s t) (hf : ∀ t, Stays s t → Stays s (effect t)) :
    Stays s (t.privileged op needJumper needSeal work effect) :=
  .logEv (.other (.ite (hf _ h) h))

theorem secEffect {op flashOk srcOk} (h : Stays s t) : Stays s (Machine.secEffect op flashOk srcOk t) := by
  dsimp only [Machine.secEffect]
  split
  · exact .privileged h fun _ k => .other k
  · exact .privileged h fun _ k => .other k
  · exact .privileged h fun _ k => .other k
  · exact .privileged h fun _ k => .other k
  · exact .privileged h fun _ k => .other k
  · exact .privileged h fun _ k => .other k
  · exact .privileged h fun _ k => .other k
  · exact .other h

theorem secCmdEffect {v} (h : Stays s t) : Stays s (Machine.secCmdEffect v t) := .fresh (.secEffect h)
theorem startAttest (h : Stays s t) : Stays s t.startAttest := .ite (.other h) h
theorem attestGoEffect {value} (h : Stays s t) : Stays s (Machine.attestGoEffect value t) := .ite (.startAttest (.other h)) h

theorem attestDoneEffect (h : Stays s t) : Stays s (Machine.attestDoneEffect t) := by
  dsimp only [Machine.attestDoneEffect]
  refine .ite h ?_
  split
  · exact .other (.fresh (.reach h))
  · exact h
  · exact .startAttest h

/-! ### Sys2Proof.Machine.Regs -/

theorem regRead4 {path off} (h : Stays s t) : Stays s (t.regRead4 path off).1 := by
  dsimp only [State.regRead4]
  refine .ite_fst h (.ite_fst (.setMisc h) ?_)
  split
  · exact h
  · refine .ite_fst (.setMisc h) (.ite_fst ?_ h)
    split
    · exact .setMisc h
    · exact h

theorem regRead {path off size} (h : Stays s t) : Stays s (t.regRead path off size).1 :=
  .ite_fst (.regRead4 h) (.ite_fst (.ite_fst h (.regRead4 (.regRead4 h))) h)

theorem clearCounters {off} (h : Stays s t) : Stays s (t.clearCounters off) := by
  unfold State.clearCounters
  refine .ite (.setTime h) <| .ite ?_ ?_
  · split
    · exact .setLan h
    · exact h
  refine .ite (.updCtr (.settleCredits h)) <| .ite ?_ ?_
  · split
    · exact .ite (.setWick h fun _ k => k) (.ite (.setWick h fun _ k => k) h)
    · exact h
  refine .ite ?_ <| .ite ?_ ?_
  · split
    · exact .setEng h
    · exact h
  · split
    · exact .setHbm h
    · exact h
  exact .ite (.setNet h) <| .ite (.setUr h (linksFit_updNat · fun _ => rfl)) <| .ite (.setRel h) <| .ite (.setMgmt h id) h

theorem counterClearEffect {off value} (h : Stays s t) : Stays s (Machine.counterClearEffect off value t) :=
  .ite (.clearCounters h) h
theorem steeringEffect {n col value} (h : Stays s t) : Stays s (Machine.steeringEffect n col value t) := .ite (.setLan h) h
theorem ethCfgEffect {p value} (h : Stays s t) : Stays s (Machine.ethCfgEffect p value t) := .ite h (.setNet h)
theorem rrscCommitEffect {slot value} (h : Stays s t) : Stays s (Machine.rrscCommitEffect slot value t) := .ite (.setNet h) h
theorem sadSwi {p v} (h : Stays s t) : Stays s (t.sadSwi p v) := 
  .setSad h fun _ k => by split <;> exact k

theorem regWrite32 {path off v} (h : Stays s t) : Stays s (t.regWrite32 path off v) := by
  unfold State.regWrite32
  refine .ite (.setMisc h) <| .ite (.ite (.setCfg h) h) <| .ite (.ite (.askWarm h) h) <| .ite ?_ ?_
  · split
    · exact h
    · split
      · exact .steeringEffect h
      · exact .steeringEffect h
      · exact .setLan h
      · exact .setLan h
      · exact h
  refine .ite ?_ ?_
  · split
    · exact .ite (.setWick h fun _ k => k) h
    · exact h
  refine .ite ?_ ?_
  · split
    · exact .setEng h
    · exact h
  refine .ite ?_ ?_
  · split
    · exact .ethCfgEffect h
    · exact h
  refine .ite (.otherwise (.ptpChanged (.setNet h)) .other) <| .ite ?_ ?_
  · split
    · exact h
    · exact .ite (.setNet h) (.ite (.rrscCommitEffect h) h)
  refine .ite (.setUr h id) <| .ite (.setUr h (linksFit_updNat · UrLink.writeCfg_replay)) <| .ite ?_ ?_
  · split
    · exact .doorbellEffect h
    · exact h
  refine .ite ?_ ?_
  · split
    · exact .writeRingCfg h
    · exact .updRing h
    · exact h
  refine .ite (.writeEvCfg h) <| .ite (.putOverflow (.otherLog h id id id)) <| .ite ?_ ?_
  · extract_lets i _ u
    have k : Stays s u := .other h
    exact .ite (.emit (.other k)) k
  refine .ite ?_ ?_
  · split
    · exact .setRel h
    · exact .setRel h
    · exact .setRel h
    · exact .clearCounters h
  refine .ite (.ite (.setSec h) ?_) ?_
  · split
    · exact .secCmdEffect h
    · exact .setSec h
    · exact .attestGoEffect h
    · exact h
  refine .ite (.setMgmt h MgmtBlk.write_near) <| .ite ?_ ?_
  · refine .ite (.setApp h) (.ite ?_ (.ite (.setApp h) (.ite (.setApp h) h)))
    split
    · exact .ite (.updIb h) h
    · exact .ibSendEffect h
    · exact h
  refine .ite ?_ ?_
  · split
    · split
      · exact .ite (.setSad h fun _ k => k) h
      · exact .sadSwi h
      · exact .ite (.setSad h fun _ k => k) h
      · exact h
    · exact h
  exact .ite (.clearCounters h) h

theorem regWrite64 {path off v} (h : Stays s t) : Stays s (t.regWrite64 path off v) := by
  unfold State.regWrite64
  refine .ite (.ite h (.setUr h (linksFit_updNat · UrLink.writeWindow_replay))) <| .ite ?_ ?_
  · split
    · exact .updRing h
    · exact .updRing h
    · exact h
  refine .ite (.ite h (.otherLog h id id id)) <| .ite (.otherLog h id id id) <|
    .ite (.setRel h) <| .ite (.setSec h) <| .ite (.setApp h) <| .ite ?_ h
  split
  · refine .ite (.setSad h fun _ k => ?_) h
    split
    · exact k
    next e =>
      rw [e] at k
      exact k
  · exact h

theorem regWrite4 {path off v} (h : Stays s t) : Stays s (t.regWrite4 path off v) :=
  .ite h (.ite (.setMisc h) (.ite (.regWrite64 (.setMisc h)) (.regWrite32 h)))

theorem regWrite {path off size v} (h : Stays s t) : Stays s (t.regWrite path off size v) :=
  .ite (.regWrite4 h) (.ite (.ite (.regWrite64 h) (.regWrite4 (.regWrite4 h))) h)

/-! ### Sys2Proof.Machine.Access -/

theorem mergeRead {row secs} (h : Stays s t) : Stays s (t.mergeRead row secs) := .ite h (.checkRow h)

theorem readPiece {who a n} (h : Stays s t) : Stays s (t.readPiece who a n).1 := by
  dsimp only [State.readPiece]
  split
  · exact .checkBlock h
  · exact .checkRow h
  · exact .checkRow h
  · split
    · exact .foldl h (fun _ _ k => .checkRow k)
    · exact h
  · split
    · exact .localRead h
    · exact h
  · split
    · exact .localRead h
    · exact h
  · split
    · exact .localRead h
    · exact h
  · exact h
  · exact h

theorem writePiece {a l} (h : Stays s t) : Stays s (t.writePiece a l) := by
  dsimp only [State.writePiece]
  split
  · exact .setMem h
  · exact .setMem (.mergeRead h)
  · exact .setMem (.mergeRead h)
  · split
    · exact .foldl (.foldl h fun _ _ k => .checkRow k) fun _ _ k => .setMem k
    · exact h
  · split
    · exact .localPut h
    · exact h
  · split
    · exact .localPut h
    · exact h
  · split
    · exact .localPut h
    · exact h
  · exact .setMem h
  · exact h

theorem logRefused {who a} (h : Stays s t) : Stays s (t.logRefused who a) := .logEv h

theorem logRefusedWrite {who a} (h : Stays s t) : Stays s (t.logRefusedWrite who a) := by
  dsimp only [State.logRefusedWrite]
  split
  · exact .logEv h
  · exact .logRefused h

theorem devRead {who a n} (h : Stays s t) : Stays s (t.devRead who a n).1 := by
  dsimp only [State.devRead]
  split
  · refine .logRefused (.foldl_fst h (fun _ _ k => ?_))
    split
    · exact .readPiece k
    · exact k
  · refine .foldl_fst h (fun _ _ k => ?_)
    split
    · exact .readPiece k
    · exact k

theorem devWrite {who a l} (h : Stays s t) : Stays s (t.devWrite who a l).1 := by
  dsimp only [State.devWrite]
  split
  · refine .logRefusedWrite (.foldl h (fun _ _ k => ?_))
    split
    · exact .writePiece k
    · exact k
  · refine .foldl h (fun _ _ k => ?_)
    split
    · exact .writePiece k
    · exact k

theorem regAccess {p off n write} (h : Stays s t) : Stays s (t.regAccess p off n write).1 := by
  dsimp only [State.regAccess]
  split
  · exact .regWrite h
  · exact .regRead h

theorem coreAccess {who p a n write} (h : Stays s t) : Stays s (t.coreAccess who p a n write).1 := by
  dsimp only [State.coreAccess]
  split
  · exact .regAccess h
  · exact .devWrite h
  · exact .devRead h

theorem bar2Effect {off n write} (h : Stays s t) : Stays s (Machine.bar2Effect off n write t) := by
  dsimp only [Machine.bar2Effect]
  split
  · exact .ite (.devWrite h) h
  · exact .ite (.emit (.devRead h)) h

theorem appCoreEffect {hart addr n write} (h : Stays s t) : Stays s (Machine.appCoreEffect hart addr n write t) :=
  .ite h (.ite (.emit (.coreAccess h)) (.when (.coreAccess h) .emit))

theorem configEffect {off write} (h : Stays s t) : Stays s (Machine.configEffect off write t) := by
  dsimp only [Machine.configEffect]
  refine .ite (.emit h) ?_
  split
  · exact .emit h
  · exact .setHost h

theorem hostResetEffect {kind} (h : Stays s t) : Stays s (Machine.hostResetEffect kind t) := 
  .logEv (.sadLine (.otherLog (.drain h) id (fun k => by rwa [LogBlk.hostReset_startLog])
    (smbus := fun k => by rwa [LogBlk.hostReset_smbus])))

/-! ### Sys2Proof.Machine.Flags -/

theorem classify {kind num cls code line} (h : Stays s t) : Stays s (t.classify kind num cls code line) :=
  .logEv (.ite h (.setRel h))

/-! ### Sys2Proof.Machine.Wick -/

theorem faultThread {w t' cause addr at_ u} (h : Stays s t) : Stays s (t.faultThread w t' cause addr at_ u) :=
  .logEv (.setWick h fun _ k => stacksFit_pass (stacksFit_upd k fun _ k => k))

theorem raise {w t' cause addr at_ force u} (h : Stays s t) : Stays s (t.raise w t' cause addr at_ force u) := by
  dsimp only [State.raise]
  split
  · exact .faultThread h
  next hc =>
    have hd : ¬ 32 ≤ t.wick[w].threads[t'].stack.length := fun c => hc (by rw [decide_eq_true c]; simp)
    refine .setWickOf h fun _ k => stacksFit_enter (stacksFit_upd (k w) fun _ k => k) ?_
    rw [Wick.updT, upd_self]
    exact Nat.lt_of_not_le hd

theorem poisonThread {w t' source where_} (h : Stays s t) : Stays s (t.poisonThread w t' source where_) :=
  .when (.setThread h fun _ k => k) .logEv

theorem residueWk {w t' part res} (h : Stays s t) : Stays s (t.residueWk w t' part res) := by
  dsimp only [State.residueWk]
  split
  · exact h
  · exact .targetWk (.classify (.logEv (.when (.setWick h fun _ k => stacksFit_pass k) .poisonThread)))

theorem drainEntry {w e} (h : Stays s t) : Stays s (t.drainEntry w e) :=
  .setMem (.localWrite (.checkLine h))

theorem drainOldest {w n} (h : Stays s t) : Stays s (t.drainOldest w n) := .foldl (.setWick h fun _ k => k) (fun _ _ k => .drainEntry k)

theorem loadPart {w t' a n} (h : Stays s t) : Stays s (t.loadPart w t' a n).1 := by
  dsimp only [State.loadPart]
  split
  · exact h
  · exact .when (.checkLine h) .poisonThread

theorem loadLocal {w t' a n} (h : Stays s t) : Stays s (t.loadLocal w t' a n).1 :=
  .portTake (.foldl_fst (.ite h (.setWick (.drainOldest h) fun _ k => k)) (fun _ _ k => .loadPart k))

theorem storeLocal {w t' a l} (h : Stays s t) : Stays s (t.storeLocal w t' a l).1 := .setWick (.ite h (.portTake (.drainOldest h))) fun _ k => k
theorem storeBufferDrainEffect {w} (h : Stays s t) : Stays s (Machine.storeBufferDrainEffect w t) :=
  .ite h (.setWick (.drainOldest h) fun _ k => k)

theorem refillEffect {w} (h : Stays s t) : Stays s (Machine.refillEffect w t) := by
  dsimp only [Machine.refillEffect]
  split
  · exact h
  · exact .ite (.logEv (.setWick (.checkLine (.setWick h fun _ k => k)) fun _ k => stacksFit_upd k fun _ k => k))
      (.setThread (.checkLine (.setWick h fun _ k => k)) fun _ k => k)

theorem issueWick {w t' res i h' run} (h : Stays s t) (hf : ∀ t x, Stays s t → Stays s (run t x).st)
    (hd : ∀ t c, c.stack.length ≤ 32 → (run t c).stackWithin 32) : Stays s (t.issueWick w t' res i h' run) := by
  unfold State.issueWick
  refine .ite h ?_
  extract_lets u th
  have ku : Stays s u := .slot h
  refine .ite h ?_
  split
  · exact .ite h (.loseSlot ku)
  · exact h
  · refine .ite h (.ite (.advance ku fun _ k => k) ?_)
    extract_lets r v
    have kr : Stays s r.st := hf _ _ ku
    split
    · exact .raise kr
    · refine .when (.setWickOf kr fun f k => stacksFit_pass ?_) .residueWk
      have hr : r.stackWithin 32 := hd _ _ (by simpa only [Thread.core, List.length_map] using ku.wick f w t')
      have k' {len} : stacksFit (upd r.st.wick[w].threads t' fun th => th.finish len r) :=
        stacksFit_upd (k w) fun _ => Thread.finish_stack hr
      split
      · exact stacksFit_swapBanks k'
      · exact k'

theorem restartPair {p} (h : Stays s t) : Stays s (t.restartPair p) := by
  have k : Stays s (t.setSad p Saddler.restart) := .setSad h fun _ _ => Nat.zero_le _
  exact .ite (.setJob (.foldl (.other (.foldl k (fun _ _ k => .complete k))) (fun _ _ k => .completeHeld k))) k

theorem raiseSad {p cause addr} (h : Stays s t) : Stays s (t.raiseSad p cause addr) := by
  dsimp only [State.raiseSad]
  split
  · exact .logEv (.restartPair h)
  next hc => exact .setSadOf h fun _ _ => Nat.lt_of_not_le fun c => hc (by rw [decide_eq_true c]; simp)

theorem issueSad {p i run} (h : Stays s t) (hf : ∀ t x, Stays s t → Stays s (run t x).st)
    (hd : ∀ t c, c.stack.length ≤ 64 → (run t c).stackWithin 64) : Stays s (t.issueSad p i run) := by
  unfold State.issueSad
  extract_lets q
  refine .ite h ?_
  split
  · exact h
  · refine .ite h (.ite (.setSad h fun _ k => k) ?_)
    extract_lets r
    have kr : Stays s r.st := hf _ _ h
    split
    · exact .raiseSad kr
    · exact .resetAfter (.setSadOf kr fun f k =>
        Saddler.finish_stack (hd _ _ (by simpa only [Saddler.core, List.length_map] using h.sad f p)) (k p))

/-- An instruction at its site keeps the bounds where its run does, and gives no return stack deeper than the site's. -/
theorem issue {x i h' run} (h : Stays s t) (hf : ∀ t x, Stays s t → Stays s (run t x).st)
    (hd : ∀ t c, c.stack.length ≤ stackDepth x → (run t c).stackWithin (stackDepth x) := by exact fun _ _ _ _ e => nomatch e) :
    Stays s (t.issue x i h' run) := by
  cases x with
  | wick => exact .issueWick h hf hd
  | sad => exact .issueSad h hf hd

theorem wickLoad {w c ea n uns r} (h : Stays s t) (e : t.wickLoad w c ea n uns = .ok r) : Stays s r.1 := by
  unfold State.wickLoad at e
  split at e
  · cases e
  · cases e
    exact h
  · cases e
    exact .loadLocal h

theorem wickStore {w c ea v n r} (h : Stays s t) (e : t.wickStore w c ea v n = .ok r) : Stays s r.1 := by
  unfold State.wickStore at e
  split at e
  · cases e
  · cases e
    exact .setWick h fun _ k => stacksFit_cpWrite k
  · cases e
    exact .storeLocal h

theorem sadLoad {p ea n uns r} (h : Stays s t) (e : t.sadLoad p ea n uns = .ok r) : Stays s r.1 := by
  unfold State.sadLoad at e
  split at e
  · cases e
  · cases e
    exact .coreAccess h

theorem sadStore {p ea v n r} (h : Stays s t) (e : t.sadStore p ea v n = .ok r) : Stays s r.1 := by
  unfold State.sadStore at e
  split at e
  · cases e
  · cases e
    exact .coreAccess h

theorem loadAt {x ea n uns r} (h : Stays s t) (e : t.loadAt x ea n uns = .ok r) : Stays s r.1 := by
  cases x with
  | wick => exact .wickLoad h e
  | sad => exact .sadLoad h e

theorem storeAt {x ea v n r} (h : Stays s t) (e : t.storeAt x ea v n = .ok r) : Stays s r.1 := by
  cases x with
  | wick => exact .wickStore h e
  | sad => exact .sadStore h e

theorem runLoad {x sz uns gd m gb c} (h : Stays s t) : Stays s (Machine.runLoad x sz uns gd m gb t c).st := by
  dsimp only [Machine.runLoad]
  split
  · exact h
  · split
    · exact h
    · rename_i e
      exact .loadAt h e

theorem runStore {x sz gs m gb c} (h : Stays s t) : Stays s (Machine.runStore x sz gs m gb t c).st := by
  dsimp only [Machine.runStore]
  split
  · exact h
  · rename_i e
    exact .storeAt h e

theorem storeEffect {x sz gs m' gb} (h : Stays s t) : Stays s (Machine.storeEffect x sz gs m' gb t) :=
  .issue h (fun _ _ k => .runStore k) fun _ _ _ => .of_none runStore_stack
theorem pageStore {x off sz gs m' gb} (h : Stays s t) : Stays s (Machine.pageStore x off sz gs m' gb t) := .ite (.storeEffect h) h

theorem wickInterruptEffect {w t'} (h : Stays s t) : Stays s (Machine.wickInterruptEffect w t' t) := by
  dsimp only [Machine.wickInterruptEffect]
  split
  · exact h
  next n e =>
    refine .ite h (.setWickOf h fun _ k => ?_)
    have k' : stacksFit (t.wick[w].toSlot t').threads := stacksFit_toSlot (k w)
    generalize t.wick[w].toSlot t' = v at e k'
    exact stacksFit_enter k' (irqLine_depth (k := v) e)

theorem consume {w t'} (h : Stays s t) : Stays s (t.consume w t') := .advance h fun _ k => k

theorem wickExceptionEffect {w t'} (h : Stays s t) : Stays s (Machine.wickExceptionEffect w t' t) := by
  dsimp only [Machine.wickExceptionEffect]
  refine .ite h ?_
  split
  · exact .raise h
  · refine .ite h ?_
    split
    · exact .ite (.consume (.slot h)) (.raise (.slot h))
    · exact .ite h (.ite (.consume (.slot h)) (.raise (.slot h)))
    · exact h

theorem wickHangEffect {w t'} (h : Stays s t) : Stays s (Machine.wickHangEffect w t' t) := by
  dsimp only [Machine.wickHangEffect]
  split
  · exact h
  · exact .ite h (.targetWk (.faultThread (.setThread (.when (.reach h) .slot) fun _ k => k)))

theorem rcwWaitEndEffect {w t'} (h : Stays s t) : Stays s (Machine.rcwWaitEndEffect w t' t) := by
  dsimp only [Machine.rcwWaitEndEffect]
  split
  · exact h
  · exact .ite (.setThread h fun _ k => k) h

theorem rcwStallEffect {w t'} (h : Stays s t) : Stays s (Machine.rcwStallEffect w t' t) := by
  dsimp only [Machine.rcwStallEffect]
  split
  · exact h
  · exact .ite h (.logEv (.setThread (.reach h) fun _ k => k))

/-! ### Sys2Proof.Machine.Base -/

theorem runAlu {gd f c} (h : Stays s t) : Stays s (Machine.runAlu gd f t c).st := h

theorem runDivide {gd ga gb f c} (h : Stays s t) : Stays s (Machine.runDivide gd ga gb f t c).st := by
  unfold Machine.runDivide
  split <;> exact h

theorem runJump {x tgt c} (h : Stays s t) : Stays s (Machine.runJump x tgt t c).st := by
  dsimp only [Machine.runJump]
  split
  · exact h
  · exact h

theorem runCall {x tgt c} (h : Stays s t) : Stays s (Machine.runCall x tgt t c).st := by
  unfold Machine.runCall
  split
  · exact h
  · split <;> exact h

theorem runRet {c} (h : Stays s t) : Stays s (Machine.runRet t c).st := by
  dsimp only [Machine.runRet]
  split
  · exact h
  · exact h

theorem runReti {c} (h : Stays s t) : Stays s (Machine.runReti t c).st := by
  unfold Machine.runReti
  split
  · exact h
  · split <;> exact h

theorem runDrain {x c} (h : Stays s t) : Stays s (Machine.runDrain x t c).st := by
  unfold Machine.runDrain
  split
  · exact .drainOldest h
  · exact h

/-! ### Sys2Proof.Machine.Hbm -/

theorem logMiss {st pc recIx port} (h : Stays s t) : Stays s (t.logMiss st pc recIx port) := .logEv (.other h)

theorem hbmArrive {st r} (h : Stays s t) : Stays s (t.hbmArrive st r) := by
  dsimp only [State.hbmArrive]
  split
  · exact .logMiss (.other h)
  · exact .other h

theorem txWrite {a frame data poison} (h : Stays s t) : Stays s (t.txWrite a frame data poison) := by
  dsimp only [State.txWrite]
  split
  · exact h
  · exact .ite (.logEv h) (.setUr h fun k => linksFit_upd k (k _))

theorem serveWrite {a r w} (h : Stays s t) : Stays s (t.serveWrite a r w) :=
  have k : Stays s (t.setMem (t.mem.writeSectors a w.1 w.2.1 w.2.2)) := .setMem h
  .ite (.txWrite k) k

theorem passSlot {st p} (h : Stays s t) : Stays s (t.passSlot st p) := .other h

theorem slotFor {st p t'} (h : Stays s t) : Stays s (t.slotFor st p t') := by
  have hr {u a port} (k : Stays s u) : Stays s (u.readBlock a port).1 := .readBlock k
  unfold State.slotFor
  -- An arbitrary function in place of the read, so that no comparison of terms evaluates it.
  obtain ⟨read, e⟩ : ∃ f, State.readBlock = f := ⟨_, rfl⟩
  rw [e] at hr ⊢
  extract_lets a fits
  split
  · exact .passSlot h
  · refine .ite ?_ (.ite h (.logMiss (.other h)))
    split
    · exact .serveWrite (.other h)
    · exact .other (hr (.other h))

theorem linkSlot {u m a slot} (h : Stays s t) : Stays s (t.linkSlot u m a slot) := by
  dsimp only [State.linkSlot]
  split
  · exact .ite (.setUr (.setMem h) fun k => linksFit_upd k (k _)) h
  · exact h

theorem hbmSlotEffect {st m' rep rec blk} (h : Stays s t) : Stays s (Machine.hbmSlotEffect st m' rep rec blk t) := by
  unfold Machine.hbmSlotEffect
  split
  · exact h
  · refine .ite h ?_
    extract_lets τ u a
    have k : Stays s u := .reach h
    refine .ite (.setHbm k) (.ite ?_ (.ite (.readBlock k) (.ite ?_ (.slotFor k))))
    · split
      rename_i e
      exact .other (.of_fst (.readBlock k) e)
    · split
      · exact .linkSlot k
      · exact k

theorem hbmReadDataEffect {st} (h : Stays s t) : Stays s (Machine.hbmReadDataEffect st t) := by
  dsimp only [Machine.hbmReadDataEffect]
  split
  · exact h
  · exact .cross (.setHbm (.reach h))

theorem hbmOpenEffect {port addr n write} (h : Stays s t) : Stays s (Machine.hbmOpenEffect port addr n write t) := by
  dsimp only [Machine.hbmOpenEffect]
  refine .ite h (.ite ?_ ?_)
  · split
    · exact .when (.logRefused h) .emit
    · exact h
  · split
    · exact .setMem h
    · exact .emit (.checkBlock h)

/-! ### Sys2Proof.Machine.Timetable -/

theorem completeInst {i} (h : Stays s t) : Stays s (t.completeInst i) := .setJob h

theorem startInst {kind i run} (h : Stays s t) (hf : ∀ t x, Stays s t → Stays s (run t x)) :
    Stays s (t.startInst kind i run) := by
  dsimp only [State.startInst]
  split
  · exact .ite (hf _ _ (.setJob (.reach h))) h
  · exact h

theorem openHbm (h : Stays s t) : Stays s t.openHbm := .other h

theorem freeWaits (h : Stays s t) : Stays s t.freeWaits :=
  .foldl (.setFab (.foldl h (fun _ _ k => .countWait k))) (fun _ _ k => .acceptWrite k)

/-! ### Sys2Proof.Machine.Lantern -/

theorem residueLn {n part bad} (h : Stays s t) : Stays s (t.residueLn n part bad) := .targetLn (.classify (.logEv (.setLan h)))

theorem accOverflow {n first k logIt idx} (h : Stays s t) : Stays s (t.accOverflow n first k logIt idx) := by
  dsimp only [State.accOverflow]
  split
  · exact h
  · exact .when (.setLan h) .logEv

theorem readRows {l} (h : Stays s t) : Stays s (t.readRows l).1 := .foldl_fst h (fun _ _ k => .readRow k)
theorem readBefore {base stop l} (h : Stays s t) : Stays s (t.readBefore base stop l).1 := .foldl_fst h (fun _ _ k => .readRow k)

theorem chainPass {c : ChainRun} {n zps x flt} (h : Stays s c.st) : Stays s (c.pass n zps x flt).st := by
  unfold ChainRun.pass
  extract_lets far atEnd
  split
  · exact h
  · refine .foldl (.accOverflow ?_) fun _ _ k => .residueLn k
    split
    · exact .logAt (.setLan (.readBefore (.readBefore (.readBefore h))))
    · exact .readBefore (.readBefore (.readBefore h))

theorem writeRows {l tag} (h : Stays s t) : Stays s (t.writeRows l tag) := .foldl h (fun _ _ k => .writeRow k)

theorem poisonRows {l tag} (h : Stays s t) : Stays s (t.poisonRows l tag) := by
  dsimp only [State.poisonRows]
  refine .foldl h (fun _ _ k => ?_)
  split
  · exact .writeRow k
  · exact .setMem k

theorem endChain {n inst a dest streamed occEnd} (h : Stays s t) : Stays s (t.endChain n inst a dest streamed occEnd) :=
  .when (.logAt (.setLan (.fresh (.poisonRows h)))) .targetLn

theorem runChain {n inst im ps ls ss preload flt} (h : Stays s t) : Stays s (t.runChain n inst im ps ls ss preload flt).1 := by
  unfold State.runChain
  extract_lets descs xs run drain dest spans st
  have k : Stays s run.st := List.foldlRecOn (motive := fun c : ChainRun => Stays s c.st) _ _ h fun _ k _ _ => .chainPass k
  have k' : Stays s st := .setLan k
  split
  · exact .endChain k'
  · exact .setLan (.fresh (.writeRows k'))

theorem chainEffect {i start flt} (h : Stays s t) : Stays s (Machine.chainEffect i start flt t) := by
  dsimp only [Machine.chainEffect]
  refine .startInst h (fun _ _ k => ?_)
  split
  · exact .runChain k
  · exact k

theorem haltedEndEffect {n} (h : Stays s t) : Stays s (Machine.haltedEndEffect n t) := by
  dsimp only [Machine.haltedEndEffect]
  split
  · exact .setLan (.reach h)
  · exact h

theorem lanternHangEffect {i start pass} (h : Stays s t) : Stays s (Machine.lanternHangEffect i start pass t) := by
  dsimp only [Machine.lanternHangEffect]
  refine .startInst h (fun _ _ k => ?_)
  split
  · exact .endChain (.fresh (.setLan k))
  · exact k

/-! ### Sys2Proof.Machine.Requant -/

theorem rqWrite {n map row mask d tag poison} (h : Stays s t) : Stays s (t.rqWrite n map row mask d tag poison) :=
  .ite (.fabricWrite h) (.writeRow h)

theorem runRequant {n inst im idx start op flt} (h : Stays s t) : Stays s (t.runRequant n inst im idx start op flt) := by
  dsimp only [State.runRequant]
  have k {rows} : Stays s (t.readRows rows).1 := .readRows h
  refine .foldl (.otherwise (.setLan (.when (.foldl (.foldl (.accOverflow ?_) fun _ _ k => .foldl k fun _ _ k => .rqWrite k)
    fun _ _ k => .foldl k fun _ _ k => .rqWrite k) fun k => .foldl k fun _ _ k => .rqWrite k)) .logEv) fun _ _ k => .residueLn k
  split
  · exact .logEv k
  · exact k

theorem requantEffect {i start flt} (h : Stays s t) : Stays s (Machine.requantEffect i start flt t) := by
  dsimp only [Machine.requantEffect]
  refine .startInst h (fun _ _ k => ?_)
  split
  · split
    · exact .runRequant k
    · exact k
  · exact k

theorem gavgRow {n zps o c r d} (h : Stays s t) : Stays s (t.gavgRow n zps o c r d).1 := by
  dsimp only [State.gavgRow]
  refine .foldl_fst h (fun _ _ k => ?_)
  split
  · exact k
  · refine .ite_fst ?_ k
    split
    · exact .readRow k
    · exact .readRow k

theorem gavgRunRow {g : GavgRun} {n zps o idx start c r} (h : Stays s g.st) : Stays s (g.row n zps o idx start c r).st := by
  unfold GavgRun.row
  split
  · exact h
  · extract_lets
    split
    rename_i e
    have k := Stays.of_fst (.readRow h) e
    extract_lets
    split
    · exact k
    · split
      all_goals
        rename_i e
        exact .of_fst (.gavgRow k) e

theorem runGavg {n inst im idx start o flt} (h : Stays s t) : Stays s (t.runGavg n inst im idx start o flt) := by
  unfold State.runGavg
  extract_lets g u dest spans
  have k : Stays s g.st := List.foldlRecOn (motive := fun g : GavgRun => Stays s g.st) _ _ h fun g k _ _ =>
    List.foldlRecOn (motive := fun g : GavgRun => Stays s g.st) _ _ k fun _ k _ _ => .gavgRunRow k
  have k' : Stays s u := by
    unfold u
    split
    · exact .logEv (.setLan k)
    · exact k
  split
  · exact .endChain (.setLan k')
  · exact .setLan (.foldl (.fresh (.writeRows (.accOverflow k'))) fun _ _ k => .residueLn k)

theorem gavgEffect {i start flt} (h : Stays s t) : Stays s (Machine.gavgEffect i start flt t) := by
  dsimp only [Machine.gavgEffect]
  refine .startInst h (fun _ _ k => ?_)
  split
  · split
    · exact .runGavg k
    · exact k
  · exact k

/-! ### Sys2Proof.Machine.Recovery -/

theorem stopped (h : Stays s t) : Stays s t.stopped :=
  .foldl (.foldl (.otherWick (.openHbm (.setJob h)) (fun k => wicksFit_map k fun _ k => by split <;> exact k))
    (fun _ _ k => .completeHeld k)) (fun _ _ k => .completeHeld k)

theorem stopAtOnce (h : Stays s t) : Stays s t.stopAtOnce := .ite (.stopped h) h

theorem tryStop (h : Stays s t) : Stays s t.tryStop := by
  dsimp only [State.tryStop]
  split
  · exact .ite (.stopped h) h
  · exact h

theorem setEntry {u f} (h : Stays s t) : Stays s (t.setEntry u f) := by
  dsimp only [State.setEntry]
  split
  · exact .setRel h
  · exact .setRel h

theorem setTst {u f} (h : Stays s t) : Stays s (t.setTst u f) := by
  dsimp only [State.setTst]
  split
  · exact .setLan h
  · exact .setWick h fun _ k => k

theorem setFenceDue {u r} (h : Stays s t) : Stays s (t.setFenceDue u r) := by
  dsimp only [State.setFenceDue]
  split
  · exact .setLan h
  · exact .setWick h fun _ k => k

theorem setIdle {u on} (h : Stays s t) : Stays s (t.setIdle u on) := by
  dsimp only [State.setIdle]
  split
  · exact .setLan h
  · exact .setWick h fun _ k => k

theorem copyLantern {l p} (h : Stays s t) : Stays s (t.copyLantern l p) :=
  .setLan (.setMem (.foldl h fun _ _ k => .checkRow k))

theorem copyWick {l p} (h : Stays s t) : Stays s (t.copyWick l p) :=
  .otherWick (.setMem (.setMem (.foldl (.foldl (.drainOldest h) fun _ _ k => .ite (.checkLine k) (.checkElem k)) fun _ _ k => .checkRow k)))
    fun k => wicksFit_upd k (k l)

theorem copyUnit {l p} (h : Stays s t) : Stays s (t.copyUnit l p) := by
  dsimp only [State.copyUnit]
  split
  · exact .copyLantern h
  · exact .copyWick h
  · exact h

theorem moveWaiting {u v} (h : Stays s t) : Stays s (t.moveWaiting u v) := .other h

theorem beginMove {u sp fence window} (h : Stays s t) : Stays s (t.beginMove u sp fence window) :=
  .setJob (.when (.setEntry (.setEntry (.moveWaiting (.copyUnit h)))) .setIdle)

theorem fenceUnit {u reason} (h : Stays s t) : Stays s (t.fenceUnit u reason) := by
  dsimp only [State.fenceUnit]
  refine .ite (.setFenceDue h) ?_
  split
  · exact .setIdle (.setEntry (.requestFence (.logEv (.setFenceDue h))))
  · exact .beginMove (.requestFence (.logEv (.setFenceDue h)))
  · exact .stopAtOnce (.logEv (.setIdle (.setEntry (.requestFence (.logEv (.setFenceDue h))))))

theorem endMove {m'} (h : Stays s t) : Stays s (t.endMove m') := by
  dsimp only [State.endMove]
  split
  · exact .setEntry (.setJob h)
  · exact .ite (.setRel (.setJob (.setEntry (.setJob h)))) (.setEntry (.setJob (.setEntry (.setJob h))))

theorem workEnd {a} (h : Stays s t) : Stays s (t.workEnd a) := by
  dsimp only [State.workEnd]
  split
  · exact .reach h
  · exact h

theorem unitMoveEffect {u} (h : Stays s t) : Stays s (Machine.unitMoveEffect u t) := by
  dsimp only [Machine.unitMoveEffect]
  refine .ite h ?_
  split
  · exact .fenceUnit (.workEnd h)
  · split
    · exact .logEv (.beginMove (.workEnd h))
    · exact .setJob (.workEnd h)
  · exact .workEnd h

theorem moveEndEffect {u} (h : Stays s t) : Stays s (Machine.moveEndEffect u t) := by
  dsimp only [Machine.moveEndEffect]
  split
  · exact .tryStop (.endMove (.reach h))
  · exact h

theorem spareShort {n isRow line} (h : Stays s t) : Stays s (t.spareShort n isRow line) := .ite h (.logEv h)

theorem testFences {u it} (h : Stays s t) : Stays s (t.testFences u it) := by
  dsimp only [State.testFences]
  refine .setFenceDue ?_
  split
  · exact .ite h (.spareShort h)
  · exact h

theorem noteLine {u it} (h : Stays s t) : Stays s (t.noteLine u it) := by
  dsimp only [State.noteLine]
  split
  · exact .setLan h
  · exact h

theorem targetItem {u it} (h : Stays s t) : Stays s (t.targetItem u it) := by
  dsimp only [State.targetItem]
  split
  · exact .targetLn h
  · exact .targetWk h

theorem testFailed {u idx it found} (h : Stays s t) : Stays s (t.testFailed u idx it found) := .logEv (.noteLine (.setRel h))

theorem itemPassed {u advance} (h : Stays s t) : Stays s (t.itemPassed u advance) :=
  .ite (.requestFence (.logEv (.setEntry (.setTst h)))) (.setTst h)

theorem itemDone {u src idx inPlace it run} (h : Stays s t) : Stays s (t.itemDone u src idx inPlace it run) := by
  dsimp only [State.itemDone]
  split
  · refine .ite (.testFences (.testFailed (.setTst h))) ?_
    split
    · exact .setLan (.classify (.setTst h))
    · exact .classify (.setTst h)
  · refine .ite ?_ (.when (.setTst h) .noteLine)
    split
    · exact .testFences (.logEv (.when (.setTst h) .noteLine))
    · exact .logEv (.when (.setTst h) .noteLine)
  · exact .ite (.setTst (.targetItem (.testFailed h))) (.itemPassed (.ite (.setTst h) h))

theorem runItems {u fuel budget runs} (h : Stays s t) : Stays s (t.runItems u fuel budget runs) := by
  induction fuel generalizing t budget runs with
  | zero => exact h
  | succ n ih =>
    unfold State.runItems
    split
    · exact h
    · split
      · exact h
      · exact .ite h (ih (.itemDone h))

theorem runWindow {u arg0 arg1 runs} (h : Stays s t) : Stays s (t.runWindow u arg0 arg1 runs) :=
  .ite h (.ite (.runItems h) (.runItems h))

theorem inTest {u inst start len passes on} (h : Stays s t) : Stays s (t.inTest u inst start len passes on) := by
  dsimp only [State.inTest]
  split
  · exact .setLan h
  · split
    · exact .setWick h fun _ k => k
    · exact h

theorem testWindowEffect {i runs} (h : Stays s t) : Stays s (Machine.testWindowEffect i runs t) := by
  dsimp only [Machine.testWindowEffect]
  split
  · exact h
  · split
    · exact h
    · exact .ite h (.inTest (.runWindow (.when (.setJob (.reach h)) .logEv)))

theorem postponedEffect {i} (h : Stays s t) : Stays s (Machine.postponedEffect i t) := by
  dsimp only [Machine.postponedEffect]
  split
  · exact h
  · split
    · exact h
    · exact .ite h (.otherwise (.reach h) .setJob)

theorem vacatedTestEffect {u runs} (h : Stays s t) : Stays s (Machine.vacatedTestEffect u runs t) := by
  dsimp only [Machine.vacatedTestEffect]
  split
  · exact h
  · refine .ite (.inTest (.runWindow h)) ?_
    split
    · exact .fenceUnit (.setEntry (.setRel (.inTest (.runWindow h))))
    · exact .setEntry (.setRel (.inTest (.runWindow h)))

theorem spareRotationEffect {u run} (h : Stays s t) : Stays s (Machine.spareRotationEffect u run t) := by
  dsimp only [Machine.spareRotationEffect]
  refine .ite h ?_
  split
  · exact .fenceUnit (.inTest (.runItems h))
  · exact .inTest (.runItems h)

theorem noteSweep {u runs} (h : Stays s t) : Stays s (t.noteSweep u runs) := by
  dsimp only [State.noteSweep]
  refine .foldl h (fun _ _ k => ?_)
  split
  · exact .ite (.noteLine k) k
  · exact k

theorem inSweep {n} (h : Stays s t) : Stays s (t.inSweep n) := .inTest h

theorem fullSweepEffect {u runs} (h : Stays s t) : Stays s (Machine.fullSweepEffect u runs t) := by
  unfold Machine.fullSweepEffect
  split
  · exact .ite (.setWick h fun _ k => k) h
  · refine .ite h (.ite (.noteSweep (.inSweep h)) ?_)
    extract_lets rows cols
    split
    · refine .noteSweep ?_
      split
      · exact .logEv (.inSweep h)
      · exact .inSweep h
    · rename_i l₁ ur uc _
      have k {n} : Stays s (((((t.setLan n fun _ => l₁).logSteer n false ur).logSteer n true uc).requestFence).inSweep n) :=
        .inSweep (.requestFence (.logSteer (.logSteer (.setLan h))))
      exact .ite (.logEv (.setLan (.setEntry k))) (.noteSweep k)

theorem sequencerEffect {cu} (h : Stays s t) : Stays s (Machine.sequencerEffect cu t) := .stopAtOnce (.logEv h)
theorem captureRecord {n im f first} (h : Stays s t) : Stays s (t.captureRecord n im f first).1 := .readRows (.readRows h)

theorem writeOpen {a l} (h : Stays s t) : Stays s (t.writeOpen a l) :=
  .setMem h

theorem capture {n im f first} (h : Stays s t) : Stays s (t.capture n im f first) :=
  .ite h (.ite (.logEv (.setRel (.writeOpen (.captureRecord (first := first) h)))) (.logEv h))

theorem replay {n im f ps flt} (h : Stays s t) : Stays s (t.replay n im f ps flt).1 := .runChain (.setLan h)
theorem unresolved {n f free} (h : Stays s t) : Stays s (t.unresolved n f free) := .classify (.setLan h)

theorem permanentChain {n im f ps flt reason} (h : Stays s t) : Stays s (t.permanentChain n im f ps flt reason) := by
  dsimp only [State.permanentChain]
  split
  · exact .fenceUnit (.setLan (.spareShort (.classify h)))
  · split
    · exact .endMove (.reach (.fenceUnit (.setLan (.spareShort (.classify h)))))
    · split
      · exact (.of_fst (.replay (.endMove (.reach (.fenceUnit (.setLan (.spareShort (.classify h))))))) ‹_›)
      · exact .unresolved (.of_fst (.replay (.endMove (.reach (.fenceUnit (.setLan (.spareShort (.classify h))))))) ‹_›)

theorem failedChainEffect {n replay1 replay2} (h : Stays s t) : Stays s (Machine.failedChainEffect n replay1 replay2 t) := by
  dsimp only [Machine.failedChainEffect]
  split
  · split
    · exact h
    · refine .ite (.permanentChain (.capture h)) ?_
      split
      · exact .setLan (.classify (.of_fst (.replay (.capture h)) ‹_›))
      · exact .ite (.permanentChain (.of_fst (.replay (.capture h)) ‹_›)) (.unresolved (.of_fst (.replay (.capture h)) ‹_›))
  · exact h

/-! ### Sys2Proof.Machine.Epochs -/

theorem endEpoch {e status r0} (h : Stays s t) : Stays s (t.endEpoch e status r0) := by
  dsimp only [State.endEpoch]
  split
  · exact .completeHeld (.setJob h)
  · exact .setJob h

theorem endEpochs (h : Stays s t) : Stays s t.endEpochs := .foldl h (fun _ _ k => .endEpoch k)
theorem logEpoch {ftb code e} (h : Stays s t) : Stays s (t.logEpoch ftb code e) := .logAt h
theorem discard {ftb code status e} (h : Stays s t) : Stays s (t.discard ftb code status e) := .endEpoch (.logEpoch (.setJob h))

theorem blockWrite {w code l} (h : Stays s t) : Stays s (t.blockWrite w code l) :=
  .ite (.localPut h) (.foldl h (fun _ _ k => .writeVecRow k))

theorem shadowWrite {b l} (h : Stays s t) : Stays s (t.shadowWrite b l) := .ite (.other h) (.foldl h (fun _ _ k => .blockWrite k))

theorem stageEffect {block} (h : Stays s t) : Stays s (Machine.stageEffect block t) := by
  dsimp only [Machine.stageEffect]
  split
  · refine .ite h (.ite (.endEpoch h) (.shadowWrite (.setJob (.outerRead ?_))))
    split
    · exact .ite (.discard h) h
    · exact h
  · exact h

theorem payloadEffect {block} (h : Stays s t) : Stays s (Machine.payloadEffect block t) := by
  dsimp only [Machine.payloadEffect]
  split
  · exact .ite h (.ite (.setJob (.sadLine h)) (.discard (.sadLine h)))
  · exact h

theorem decide_ {n c wins e} (h : Stays s t) : Stays s (t.decide_ n c wins e) :=
  .ite (.setJob h) (.ite (.discard h) (.ite (.discard h) (.logEpoch (.setJob h))))

theorem commitEffect {n} (h : Stays s t) : Stays s (Machine.commitEffect n t) :=
  .ite h (.ite (.reach h) (.foldl (.reach h) (fun _ _ k => .decide_ k)))

theorem switchBlock {b} (h : Stays s t) : Stays s (t.switchBlock b) := .ite (.other h) (.foldl h (fun _ _ k => .setWick k fun _ k => k))

theorem switchEpoch {n c} (h : Stays s t) : Stays s (t.switchEpoch n c) := by
  dsimp only [State.switchEpoch]
  split
  · exact .endEpoch (.setStamp (.setJob (.switchBlock h)))
  · exact h

theorem anchorEffect {n} (h : Stays s t) : Stays s (Machine.anchorEffect n t) :=
  .ite h (.setStamp (.setJob (.foldl (.reach h) (fun _ _ k => .switchEpoch k))))

theorem updateRun {io c} (h : Stays s t) : Stays s (Machine.updateRun io t c) := by
  dsimp only [Machine.updateRun]
  refine .ite (.finish h) ?_
  split
  · exact .finish h
  · exact .ite (.finish h) (.ite (.finish h) (.ite (.finish (.logEpoch (.setJob h))) (.other h)))

/-! ### Sys2Proof.Machine.Load -/

theorem placeWeights {body p} (h : Stays s t) : Stays s (t.placeWeights body p) := by
  dsimp only [State.placeWeights]
  split
  · split
    · exact .setMem h
    · exact h
  · exact .setMem h
  · exact .setMem h

theorem placeSeg {im body g} (h : Stays s t) : Stays s (t.placeSeg im body g) := by
  dsimp only [State.placeSeg]
  refine .foldl h (fun _ _ k => ?_)
  split
  · exact .setMem k
  · exact .setMem k
  · exact .setMem k
  · exact .setMem k

theorem placeBlock {body im b} (h : Stays s t) : Stays s (t.placeBlock body im b) :=
  .ite h (.foldl h fun _ _ k => .setMem k)

theorem placeParams {im} (h : Stays s t) : Stays s (t.placeParams im) := by
  dsimp only [State.placeParams]
  refine .foldl h (fun _ _ k => ?_)
  split
  · exact .setLan k
  · exact k

theorem placeQueues {im} (h : Stays s t) : Stays s (t.placeQueues im) := .fresh (.setMem h)

theorem placeImage {p} (h : Stays s t) : Stays s (t.placeImage p) :=
  .setStamp (.setFab (.placeQueues (.placeParams (.foldl (.foldl (.foldl (.otherWick (.setJob h) (fun k => wicksFit_map k fun _ _ =>
    stacksFit_map (stacksFit_map ‹_› fun _ k => k) fun _ _ => Nat.zero_le _)) fun _ _ k => .placeWeights k)
    fun _ _ k => .placeSeg k) fun _ _ k => .placeBlock k))))

theorem discardImage (h : Stays s t) : Stays s t.discardImage := .setJob (.endEpochs h)
theorem rejectImage {c r io} (h : Stays s t) : Stays s (t.rejectImage c r io) := .finish (.logEv h)

theorem loadRun {io placeError c} (h : Stays s t) : Stays s (Machine.loadRun io placeError t c) := by
  dsimp only [Machine.loadRun]
  refine .ite (.finish h) ?_
  split
  · exact .rejectImage (.seeHbm h)
  · exact .ite (.rejectImage (.discardImage (.seeHbm h))) (.finish (.logEv (.placeImage (.discardImage (.seeHbm h)))))

/-! ### Sys2Proof.Machine.Job -/

theorem bindRun {io c} (h : Stays s t) : Stays s (Machine.bindRun io t c) := by
  dsimp only [Machine.bindRun]
  split
  · exact .finish h
  · exact .finish h
  · exact .ite (.finish h) (.ite (.finish (.setJob (.seeHbm h))) (.finish (.seeHbm h)))

theorem joinGroups (h : Stays s t) : Stays s t.joinGroups := .foldl (.setNet h) (fun _ _ k => .emit k)

theorem armLink {u} (h : Stays s t) : Stays s (t.armLink u) :=
  .when (.when (.setUr h fun k => linksFit_upd k (k _)) .logEv) .logEv

theorem startRun {l base} (h : Stays s t) : Stays s (t.startRun l base) :=
  .joinGroups (.foldl (.other (.setJob h)) (fun _ _ k => .armLink k))

theorem launchLate {l} (h : Stays s t) : Stays s (t.launchLate l) := .logEv h

theorem armRun {io c} (h : Stays s t) : Stays s (Machine.armRun io t c) := by
  dsimp only [Machine.armRun]
  split
  · exact .ite (.finish h) (.ite (.finish (.launchLate h)) (.finish (.logEv (.setFab (.startRun h)))))
  · exact .finish h
  · exact .finish h

theorem stopRun {io c} (h : Stays s t) : Stays s (Machine.stopRun io t c) := .ite (.other h) (.finish h)

theorem stopAnchorEffect (h : Stays s t) : Stays s (Machine.stopAnchorEffect t) := by
  dsimp only [Machine.stopAnchorEffect]
  split
  · exact h
  · exact .ite h (.tryStop (.freeWaits (.setJob (.reach h))))

/-! ### Sys2Proof.Machine.Run -/

theorem wickStartEffect {i} (h : Stays s t) : Stays s (Machine.wickStartEffect i t) := by
  dsimp only [Machine.wickStartEffect]
  split
  · exact h
  · exact .ite (.startInst h (fun _ _ k => .setWick k fun _ k => stacksFit_upd (stacksFit_catchUp k) fun _ _ => Nat.zero_le _)) h

theorem releaseSome {region n total} (h : Stays s t) : Stays s (t.releaseSome region n total) := .setFab h

theorem creditSource {region} (h : Stays s t) : Stays s (t.creditSource region) := by
  dsimp only [State.creditSource]
  split
  · exact .irqSource h
  · exact h

theorem releaseStep {i e g} (h : Stays s t) : Stays s (t.releaseStep i e g) :=
  .ite (.tryStop (.completeInst (.setJob (.ite h (.creditSource (.releaseSome h)))))) (.setJob (.ite h (.creditSource
      (.releaseSome h))))

theorem releaseEffect {i} (h : Stays s t) : Stays s (Machine.releaseEffect i t) := by
  dsimp only [Machine.releaseEffect]
  split
  · split
    · exact h
    · exact .ite (.ite (.ite (.releaseStep h) h) (.startInst h (fun _ _ k => .releaseStep k))) h
  · exact h

theorem takeSlot {m' i count row n} (h : Stays s t) : Stays s (t.takeSlot m' i count row n) :=
  .setApp (.foldl h (fun _ _ k => .fabricRead k))

theorem mailRow {a b} (h : Stays s t) : Stays s (t.mailRow a b) := by
  dsimp only [State.mailRow]
  split
  · exact h
  · exact .ite (.tryStop (.completeInst (.setApp h))) (.setApp h)

theorem bankGrantEffect {bank} (h : Stays s t) : Stays s (Machine.bankGrantEffect bank t) := by
  dsimp only [Machine.bankGrantEffect]
  split
  · exact h
  · split
    · exact .acceptedAt (.countRow (.writeRow (.reach (.setFab h))))
    · exact .ite (.mailRow (.readRow (.reach (.setFab h)))) (.setFab (.readRow (.reach (.setFab h))))

theorem mailboxOutEffect {i} (h : Stays s t) : Stays s (Machine.mailboxOutEffect i t) := by
  dsimp only [Machine.mailboxOutEffect]
  refine .startInst h (fun _ _ k => ?_)
  split
  · exact k
  · exact .ite (.takeSlot k) (.tryStop (.completeInst (.logAt k)))

theorem recordWriteEffect (h : Stays s t) : Stays s (Machine.recordWriteEffect t) := by
  dsimp only [Machine.recordWriteEffect]
  split
  · exact h
  · exact .ite h (.irqSource (.ite (.setMem (.setApp h))
      (.setApp h)))

/-! ### Sys2Proof.Machine.Dma -/

theorem creditWaitEndEffect {region eng} (h : Stays s t) : Stays s (Machine.creditWaitEndEffect region eng t) := by
  dsimp only [Machine.creditWaitEndEffect]
  split
  · exact .ite h (.ite (.acceptedAt (.presentWrite (.countWait (.setFab (.ite_fst h (.takeCredits h)))))) (.ite_fst h
      (.takeCredits h)))
  · split
    · exact h
    · exact .ite (.setChan (.countWait h)) (.ite_fst h (.takeCredits h))

theorem logStall {region a port} (h : Stays s t) : Stays s (t.logStall region a port) := .logEv h

theorem creditStallEffect {region} (h : Stays s t) : Stays s (Machine.creditStallEffect region t) := by
  dsimp only [Machine.creditStallEffect]
  split
  · exact .logStall (.setFab (.reach h))
  · split
    · split
      · exact h
      · exact .logStall (.updIb (.reach h))
    · exact .ite h (.logStall (.setChan (.reach h)))

theorem makeCurrent {e c ix d first} (h : Stays s t) : Stays s (t.makeCurrent e c ix d first) := .setChan h

theorem dmaStartEffect {i} (h : Stays s t) : Stays s (Machine.dmaStartEffect i t) := by
  dsimp only [Machine.dmaStartEffect]
  split
  · exact h
  · refine .ite h (.startInst h (fun _ _ k => ?_))
    split
    · exact .tryStop (.completeInst k)
    · exact .makeCurrent (.setChan k)

theorem endOfCount {e c} (h : Stays s t) : Stays s (t.endOfCount e c) :=
  .otherWick (.setEng h) (fun k => wicksFit_map k fun _ k => k)


theorem descriptorCompleteEffect {e c} (h : Stays s t) : Stays s (Machine.descriptorCompleteEffect e c t) := by
  dsimp only [Machine.descriptorCompleteEffect]
  refine .ite h ?_
  split
  · exact .makeCurrent (.ite (.endOfCount h) h)
  · split
    · exact .tryStop (.completeInst (.setChan (.setChan (.ite (.endOfCount h) h))))
    · exact .setChan (.ite (.endOfCount h) h)

theorem dmaRowWaitEndEffect {e c} (h : Stays s t) : Stays s (Machine.dmaRowWaitEndEffect e c t) := .ite (.setChan h) h
theorem dmaWaitStallEffect {e c} (h : Stays s t) : Stays s (Machine.dmaWaitStallEffect e c t) :=
  .ite h (.logEv (.setChan (.reach h)))

theorem chanRead {e c a} (h : Stays s t) : Stays s (t.chanRead e c a).1 := by
  have hr {k o} : Stays s ((t.usePort k o 512).localRead k o 512).1 := .localRead (.usePort h)
  unfold State.chanRead
  -- An arbitrary function in place of the read, so that no comparison of terms evaluates it.
  obtain ⟨read, e⟩ : ∃ f, State.localRead = f := ⟨_, rfl⟩
  rw [e] at hr ⊢
  extract_lets port next
  split
  · exact .fabricRead h
  · exact .fabricRead h
  · exact .fabricRead h
  · split
    · exact .cross hr
    · exact h
  · split
    · exact .cross hr
    · exact h
  · split
    · exact .cross hr
    · exact h
  · exact .ite_fst (.hbmArrive h) (.cross (.readBlock h))
  · exact h

theorem ask {e c} (h : Stays s t) : Stays s (t.ask e c) := by
  dsimp only [State.ask]
  refine .ite (.setChan h) ?_
  split
  · exact .chanRead (.setChan h)
  · refine .ite h ?_
    split
    · exact (.of_fst (.chanRead (.setChan h)) ‹_›)
    · exact .setChan (.of_fst (.chanRead (.setChan h)) ‹_›)

theorem writeNeed {e c a} (h : Stays s t) : Stays s (t.writeNeed e c a).1 := by
  dsimp only [State.writeNeed]
  refine .ite_fst h ?_
  split
  · refine .ite_fst h ?_
    split
    · exact (.of_fst (.takeCredits h) ‹_›)
    · exact (.of_fst (.takeCredits h) ‹_›)
  · refine .ite_fst h ?_
    split
    · exact (.of_fst (.takeCredits h) ‹_›)
    · exact (.of_fst (.takeCredits h) ‹_›)
  · refine .ite_fst h ?_
    split
    · exact (.of_fst (.takeCredits h) ‹_›)
    · exact (.of_fst (.takeCredits h) ‹_›)
  · exact h
  · exact h
  · exact h

theorem localPieces {k : Fin 52} {port : Nat} {out : List (Nat × List (Byte × Byte × Bool))}
    {f : Nat × List (Byte × Byte × Bool) → Nat} (h : Stays s t) :
    Stays s (out.foldl (fun (r : State × Bool) o =>
      if r.2 then r.1.localFabric k port (f o) 0 (some (o.2.map (·.1))) else r) (t, true)).1 :=
  .foldl_fst h fun _ _ k => .ite_fst (.localFabric k) k

theorem dmaPut {e c eng blk out tag poison} (h : Stays s t) : Stays s (t.dmaPut e c eng blk out tag poison).1 := by
  unfold State.dmaPut
  extract_lets port data
  split
  · exact .fabricWrite h
  · exact .fabricWrite h
  · exact .fabricWrite h
  · split
    · exact .localPieces h
    · exact h
  · split
    · exact .localPieces h
    · exact h
  · split
    · exact .localPieces h
    · exact h
  · exact .ite_fst (.hbmArrive h) (.setMem h)
  · exact h

theorem copyPoison {e c a} (h : Stays s t) : Stays s (t.copyPoison e c a) := .ite h (.logEv (.setChan h))

theorem performBeats {e c eng} (h : Stays s t) : Stays s (t.performBeats e c eng) := by
  dsimp only [State.performBeats]
  split
  · exact .setChan h
  · split
    all_goals
      rename_i e
      have k := Stays.of_fst (.writeNeed h) e
    · exact .setChan k
    · exact .setChan k
    · exact .setChan k
    · split
      all_goals
        rename_i e
        have k := Stays.of_fst (.dmaPut k) e
      · exact .setChan k
      · exact .setChan (.when k .copyPoison)

theorem endWait {e c} (h : Stays s t) : Stays s (t.endWait e c) := by
  dsimp only [State.endWait]
  refine .setChan (.ite ?_ h)
  split
  · exact .countWait h
  · exact h

theorem dmaStepEffect {e eng} (h : Stays s t) : Stays s (Machine.dmaStepEffect e eng t) := by
  dsimp only [Machine.dmaStepEffect]
  split
  · exact h
  · split
    · exact h
    · exact .setEng (.when (.ask (.endWait (.setEng (.reach h)))) .performBeats)

theorem blockReturnedEffect {e c} (h : Stays s t) : Stays s (Machine.blockReturnedEffect e c t) := by
  dsimp only [Machine.blockReturnedEffect]
  split
  · exact h
  · exact .ite h (.setChan (.setFab (.setEng (.reach h))))

theorem busErrorEffect {e c write addr} (h : Stays s t) : Stays s (Machine.busErrorEffect e c write addr t) :=
  .ite h (.ite (.setChan (.setEng h)) (.logEv (.setChan h)))

theorem poisonRest {e c} (h : Stays s t) : Stays s (t.poisonRest e c) := .foldl h (fun _ _ k => .fabricWrite k)

theorem haltedCompletionEffect {e c} (h : Stays s t) : Stays s (Machine.haltedCompletionEffect e c t) := by
  dsimp only [Machine.haltedCompletionEffect]
  refine .ite h (.ite (.ite h (.setChan (.poisonRest h))) ?_)
  split
  · exact .tryStop (.completeInst (.setChan (.ite h (.setChan (.poisonRest h)))))
  · exact .setChan (.ite h (.setChan (.poisonRest h)))

/-! ### Sys2Proof.Machine.Time -/

theorem stepFtb {d} (h : Stays s t) : Stays s (t.stepFtb d) := .logEv (.setTime (.drain h))
theorem measured {offset} (h : Stays s t) : Stays s (t.measured offset) := .ite (.stepFtb (.setTime h)) (.setTime h)
theorem setPtp {p f} (h : Stays s t) : Stays s (t.setPtp p f) := .setTime h
theorem exchanged {p offset} (h : Stays s t) : Stays s (t.exchanged p offset) := .ite (.measured (.setTime h)) h

theorem ptpTake {p sfd m'} (h : Stays s t) : Stays s (t.ptpTake p sfd m') := by
  dsimp only [State.ptpTake]
  split
  · exact .follow (.setPtp h)
  · exact .ite (.setPtp h) h
  · exact .ite (.setPtp h) h
  · split
    · exact .ite (.exchanged (.setPtp h)) h
    · exact h

theorem sendDelayReq {p} (h : Stays s t) : Stays s (t.sendDelayReq p) := by
  dsimp only [State.sendDelayReq]
  split
  · exact h
  · exact .emit (.setPtp h)

theorem ptpEffect {p m} (h : Stays s t) : Stays s (Machine.ptpEffect p m t) := by
  unfold Machine.ptpEffect
  refine .ite h ?_
  split
  · rename_i sfd mac ip b
    cases ptpIn t.ptpDomain mac ip b with
    | none => exact h
    | some x => exact .ptpTake h
  · exact .sendDelayReq h
  · exact .follow (.setPtp h)

theorem ptpLockedEffect (h : Stays s t) : Stays s (Machine.ptpLockedEffect t) := by
  dsimp only [Machine.ptpLockedEffect]
  split
  · exact h
  · exact .ite (.fresh (.logEv (.setTime (.reach h)))) h

theorem ptpHoldoverEffect (h : Stays s t) : Stays s (Machine.ptpHoldoverEffect t) :=
  .ite (.fresh (.logEv (.setTime (.reach h)))) h

theorem excessLog {code kind num offset} (h : Stays s t) : Stays s (Machine.excessLog code kind num offset t) :=
  .logEv (.setTime (.reach h))

theorem ptpOffsetExcessEffect (h : Stays s t) : Stays s (Machine.ptpOffsetExcessEffect t) := .ite (.excessLog h) h
theorem urlanFtbOffsetEffect (h : Stays s t) : Stays s (Machine.urlanFtbOffsetEffect t) := .ite (.excessLog h) h

/-! ### Sys2Proof.Machine.Net -/

theorem setSlot {k f} (h : Stays s t) : Stays s (t.setSlot k f) := .setNet h
theorem updCnt {k f} (h : Stays s t) : Stays s (t.updCnt k f) := .setSlot h
theorem portLinkEffect {p sub up} (h : Stays s t) : Stays s (Machine.portLinkEffect p sub up t) := .ite h (.logEv (.setNet h))
theorem unmatched {p} (h : Stays s t) : Stays s (t.unmatched p) := .setNet h
theorem countSeq {k pathB seq} (h : Stays s t) : Stays s (t.countSeq k pathB seq) := .setSlot h
theorem accept {k b pathB n p} (h : Stays s t) : Stays s (t.accept k b pathB n p) := .setSlot h
theorem backlog {k b n stripe} (h : Stays s t) : Stays s (t.backlog k b n stripe) := .otherwise (.setSlot h) .logEv

theorem rrsEffect {k pathB p} (h : Stays s t) : Stays s (Machine.rrsEffect k pathB p t) := by
  dsimp only [Machine.rrsEffect]
  split
  · exact h
  · refine .ite h (.ite (.updCnt h) (.ite (.updCnt h) (.ite (.updCnt (.countSeq h)) ?_)))
    split
    · exact .updCnt (.countSeq h)
    · exact .ite (.updCnt (.countSeq h)) (.ite (.updCnt (.countSeq h)) (.ite (.backlog (.countSeq h)) (.accept (.countSeq h))))

theorem answerCtrl {p sub c} (h : Stays s t) : Stays s (t.answerCtrl p sub c) := by
  dsimp only [State.answerCtrl]
  split
  · exact .when (.sadLine h) .emit
  · exact .when (.sadLine h) .emit
  · exact .foldl (.sadLine h) (fun _ _ k => .emit k)
  · exact .sadLine h

theorem ethFrameEffect {p sub b} (h : Stays s t) : Stays s (Machine.ethFrameEffect p sub b t) := by
  dsimp only [Machine.ethFrameEffect]
  refine .ite h (.ite (.setNet h) (.ite h ?_))
  split
  · exact h
  · exact .answerCtrl h
  · exact .unmatched h
  · split
    · exact .rrsEffect h
    · exact .ite (.ptpEffect h) (.unmatched h)

theorem networkControlEffect {p sub b} (h : Stays s t) : Stays s (Machine.networkControlEffect p sub b t) := by
  dsimp only [Machine.networkControlEffect]
  refine .ite h ?_
  split
  · exact .answerCtrl h
  · exact h

theorem pathSilentEffect {k pathB n} (h : Stays s t) : Stays s (Machine.pathSilentEffect k pathB n t) := by
  dsimp only [Machine.pathSilentEffect]
  split
  · exact h
  · exact .ite h (.logEv (.setSlot (.reach h)))

theorem sendWrites {l} (h : Stays s t) : Stays s (t.sendWrites l) := .foldl h (fun _ _ k => .hbmArrive k)

theorem releaseStripe {slot b n k at_} (h : Stays s t) : Stays s (t.releaseStripe slot b n k at_) :=
  .when (.setSlot (.setStamp (.otherwise (.when h .seeHbm) .logAt))) .sendWrites

theorem writeHeld {slot b n k} (h : Stays s t) : Stays s (t.writeHeld slot b n k) := by
  dsimp only [State.writeHeld]
  split
  · exact .ite (.sendWrites (.setSlot h)) h
  · exact h

theorem ingressReleaseEffect {i} (h : Stays s t) : Stays s (Machine.ingressReleaseEffect i t) := by
  dsimp only [Machine.ingressReleaseEffect]
  split
  · exact h
  · split
    · exact h
    · exact .ite (.writeHeld h) (.ite h (.startInst h (fun _ _ k => .releaseStripe k)))

theorem egressSlotEffect {i} (h : Stays s t) : Stays s (Machine.egressSlotEffect i t) := by
  dsimp only [Machine.egressSlotEffect]
  split
  · exact h
  · split
    · exact h
    · exact .ite h (.ite (.setStamp (.setJob (.reach h))) (.ite (.setSlot (.setJob (.reach h))) (.setSlot (.setJob (.reach h)))))

theorem egressLateEffect {k} (h : Stays s t) : Stays s (Machine.egressLateEffect k t) := by
  dsimp only [Machine.egressLateEffect]
  split
  · split
    · exact .ite (.logAt (.setSlot h)) h
    · exact h
  · exact h

theorem sendBoth {k b at_ l} (h : Stays s t) : Stays s (t.sendBoth k b at_ l) :=
  .ite (.updCnt (.emit h)) (.updCnt (.emit (.updCnt (.emit h))))

theorem readEgressRow {port a n} (h : Stays s t) : Stays s (t.readEgressRow port a n) := .foldl h (fun _ _ k => .checkBlock k)

theorem egressPacketEffect {k delay} (h : Stays s t) : Stays s (Machine.egressPacketEffect k delay t) := by
  unfold Machine.egressPacketEffect
  split
  · exact .ite h (.setSlot (.sendBoth (.when (.when (.reach h) .readEgressRow) .logEv)))
  · exact h

theorem rrscLatchEffect {i} (h : Stays s t) : Stays s (Machine.rrscLatchEffect i t) := by
  dsimp only [Machine.rrscLatchEffect]
  split
  · exact h
  · exact .ite h (.setSlot (.reach h))

theorem missSlot {i k b t'} (h : Stays s t) : Stays s (t.missSlot i k b t') :=
  .tryStop (.completeInst (.logAt (.setSlot (.reach h))))

theorem sendSlot {i k b t' delay cmd} (h : Stays s t) : Stays s (t.sendSlot i k b t' delay cmd) :=
  .tryStop (.completeInst (.setSlot (.sendBoth (.when (.when (.reach h) .fresh) .logAt))))

theorem rrscSlotEffect {i delay} (h : Stays s t) : Stays s (Machine.rrscSlotEffect i delay t) := by
  dsimp only [Machine.rrscSlotEffect]
  split
  · exact h
  · split
    · exact h
    · exact .ite h (.ite (.startInst h (fun _ _ k => .missSlot k)) (.startInst h (fun _ _ k => .sendSlot k)))

theorem rrscMissedEffect {i} (h : Stays s t) : Stays s (Machine.rrscMissedEffect i t) := by
  dsimp only [Machine.rrscMissedEffect]
  split
  · exact h
  · exact .startInst h (fun _ _ k => .missSlot k)

/-! ### Sys2Proof.Machine.Complete -/

theorem freeStore {e i} (h : Stays s t) : Stays s (t.freeStore e i) := .ite (.setNet h) h

theorem reachEnd {e i} (h : Stays s t) : Stays s (t.reachEnd e i) := by
  unfold State.reachEnd
  split
  any_goals exact .foldl (.foldl h fun _ _ k => .when (.when k .reach) .reach) fun _ _ k => .ite (.setWick (.reach k) fun _ k => k) k
  · split
    · exact .reach h
    · exact h
  · exact h

theorem instanceCompleteEffect {i} (h : Stays s t) : Stays s (Machine.instanceCompleteEffect i t) := by
  dsimp only [Machine.instanceCompleteEffect]
  split
  · exact .ite (.tryStop (.completeInst (.freeStore (.reachEnd h)))) h
  · exact h

/-! ### Sys2Proof.Machine.Saddler -/

theorem saddlerInterruptEffect {p} (h : Stays s t) : Stays s (Machine.saddlerInterruptEffect p t) := by
  dsimp only [Machine.saddlerInterruptEffect]
  refine .ite h ?_
  split
  · exact h
  next e => exact .setSadOf h fun _ _ => saddlerIrqLine_depth e

theorem saddlerTimerEffect (h : Stays s t) : Stays s (Machine.saddlerTimerEffect t) :=
  .otherLog (.sadLine (.reach h)) (pairsFit_map · fun _ => rfl) id id

theorem saddlerExceptionEffect {p cause addr} (h : Stays s t) : Stays s (Machine.saddlerExceptionEffect p cause addr t) :=
  .ite h (.ite (.logEv (.restartPair h)) (.ite h (.ite (.setSad h fun _ k => k) (.raiseSad h))))

theorem saddlerDivergenceEffect {p} (h : Stays s t) : Stays s (Machine.saddlerDivergenceEffect p t) :=
  .ite h (.logEv (.when (.setSad (.restartPair h) fun _ k => k) fun k => .setSad k fun _ k => k))

theorem watchdogEffect {p} (h : Stays s t) : Stays s (Machine.watchdogEffect p t) := by
  dsimp only [Machine.watchdogEffect]
  split
  · exact h
  · exact .ite h (.logEv (.setSad (.restartPair (.reach h)) fun _ k => k))

/-! ### Sys2Proof.Machine.Snapshot -/

theorem snapReads {im} (h : Stays s t) : Stays s (t.snapReads im) :=
  .foldl (.foldl h (fun _ _ k => .checkRow k)) (fun _ _ k => .localRead (.localRead (.localRead k)))

theorem snapshotRun {io c} (h : Stays s t) : Stays s (Machine.snapshotRun io t c) := by
  dsimp only [Machine.snapshotRun]
  split
  · exact .ite (.finish h) (.ite (.finish h) (.ite (.finish h) (.other h)))
  · exact .finish h

theorem takeSnapshot {im r point} (h : Stays s t) : Stays s (t.takeSnapshot im r point) := by
  dsimp only [State.takeSnapshot]
  refine .stopped ?_
  split
  · exact .completeHeld (.logEv (.outerWrite (.snapReads h)))
  · exact .logEv (.outerWrite (.snapReads h))

theorem snapPointEffect {i} (h : Stays s t) : Stays s (Machine.snapPointEffect i t) := by
  dsimp only [Machine.snapPointEffect]
  split
  · refine .ite h ?_
    split
    · exact .ite (.takeSnapshot (.setJob (.reach h))) (.tryStop (.setJob (.reach h)))
    · exact .tryStop (.setJob (.reach h))
  · exact h

theorem putChunk {im n c b} (h : Stays s t) : Stays s (t.putChunk im n c b) := by
  unfold State.putChunk
  split
  · split
    · exact .setMem h
    · exact h
  · split
    · exact .setLan h
    · exact h
  · split
    · exact .setMem h
    · exact h
  · split
    · exact .setWick h fun _ _ => stacksFit_put
    · exact h
  · exact .setMem h
  · exact .other h
  · exact .setFab h
  · exact .setJob h
  · exact List.foldlRecOn (motive := fun a : Nat × State => Stays s a.2) _ _ h fun _ k _ _ => .setStamp (.setNet k)
  · exact .setFab (.setJob h)
  · exact h

theorem dropUnrecorded {kept} (h : Stays s t) : Stays s (t.dropUnrecorded kept) := .foldl h (fun _ _ k => .endEpoch k)

theorem resumeFrom {im b l} (h : Stays s t) : Stays s (t.resumeFrom im b l) :=
  .setStamp (.setJob (.foldl (.other (.startRun (.dropUnrecorded h))) (fun _ _ k => .putChunk k)))

theorem resumeRun {io c} (h : Stays s t) : Stays s (Machine.resumeRun io t c) := by
  dsimp only [Machine.resumeRun]
  split
  · exact .finish h
  · exact .finish h
  · exact .finish h
  · refine .ite (.finish h) (.ite (.finish (.logEv h)) (.ite (.finish h) ?_))
    split
    · exact .finish (.logEv (.outerRead h))
    · exact .ite (.finish (.outerRead h)) (.ite (.finish (.launchLate (.outerRead h))) (.finish (.logEv (.resumeFrom
        (.outerRead h)))))

theorem answerRecord {c io l r0 r1} (h : Stays s t) : Stays s (t.answerRecord c io l r0 r1) :=
  .ite (.finish h) (.finish (.outerWrite h))

/-! ### Sys2Proof.Machine.Stamp -/

theorem leafHashStartEffect {slot frame stripe} (h : Stays s t) : Stays s (Machine.leafHashStartEffect slot frame stripe t) := by
  dsimp only [Machine.leafHashStartEffect]
  split
  · exact .ite (.setStamp h) h
  · exact h

theorem leafHashDoneEffect {l} (h : Stays s t) : Stays s (Machine.leafHashDoneEffect l t) := by
  dsimp only [Machine.leafHashDoneEffect]
  split
  · exact .setStamp (.reach h)
  · exact h

theorem parentHashEffect {slot frame level idx} (h : Stays s t) : Stays s (Machine.parentHashEffect slot frame level idx t) := by
  dsimp only [Machine.parentHashEffect]
  split
  · refine .ite h ?_
    split
    · exact .setStamp (.reach h)
    · exact h
  · exact h

theorem recordFormEffect {slot m'} (h : Stays s t) : Stays s (Machine.recordFormEffect slot m' t) := by
  dsimp only [Machine.recordFormEffect]
  split
  · exact h
  · split
    · exact h
    · exact .ite h (.setStamp (.reach h))

theorem signatureDoneEffect (h : Stays s t) : Stays s (Machine.signatureDoneEffect t) := by
  dsimp only [Machine.signatureDoneEffect]
  split
  · exact .fresh (.setStamp (.reach h))
  · exact h

theorem ancPacketEffect {k} (h : Stays s t) : Stays s (Machine.ancPacketEffect k t) := by
  dsimp only [Machine.ancPacketEffect]
  split
  · exact h
  · split
    · exact h
    · exact .ite h (.when (.setStamp (.setSlot (.sendBoth (.reach h)))) .logAt)

/-! ### Sys2Proof.Machine.Vector -/

theorem runVec {x h' i len u at_ branch run} (h : Stays s t) (hf : ∀ t x, Stays s t → Stays s (run t x).st) :
    Stays s (t.runVec x h' i len u at_ branch run) := by
  unfold State.runVec
  extract_lets k c wait a r v
  refine .ite (.raise h) (.ite (.ite (.loseSlot h) h) ?_)
  have kr : Stays s r.st := hf _ _ (.pass h)
  split
  · exact .raise (.pass kr)
  · have kv : Stays s v := .setWick kr fun _ k => stacksFit_pass (stacksFit_upd k fun _ k => by split <;> exact k)
    split
    · exact .residueWk kv
    · exact kv

theorem issueVec {x i h' run} (h : Stays s t) (hf : ∀ t x, Stays s t → Stays s (run t x).st) :
    Stays s (t.issueVec x i h' run) := by
  dsimp only [State.issueVec]
  refine .ite ?_ (.ite h (.ite h ?_))
  · split
    · exact h
    · split
      · exact .ite (.runVec h (fun _ _ k => hf _ _ k)) h
      · exact h
  · split
    · exact .ite h (.loseSlot (.slot h))
    · exact h
    · exact .ite h (.ite (.advance (.slot h) fun _ k => k) (.runVec (.slot h) (fun _ _ k => hf _ _ k)))

theorem updThr {x f} (h : Stays s t)
    (hf : ∀ th : Thread, th.stack.length ≤ 32 → (f th).stack.length ≤ 32) : Stays s (t.updThr x f) :=
  .setThread h hf

theorem putG {x l} (h : Stays s t) : Stays s (t.putG x l) := .updThr h fun _ k => k

theorem runElems {x vd va b mk f n} (h : Stays s t) : Stays s (Machine.runElems x vd va b mk f t n).st := by
  unfold Machine.runElems
  extract_lets th
  split
  · exact h
  · exact .updThr h fun _ k => k

theorem vecOp {x i vd va b mk f} (h : Stays s t) : Stays s (Machine.vecOp x i vd va b mk f t) :=
  .issueVec h (fun _ _ k => .runElems k)

theorem vecRead {x r} (h : Stays s t) : Stays s (t.vecRead x r).1 := by
  dsimp only [State.vecRead]
  exact .when (.readVecRow h) .poisonThread

theorem gatherStep {x ga idx e} {g : Gather} {k} (h : Stays s g.st) : Stays s (Machine.gatherStep x ga idx e g k).st := by
  unfold Machine.gatherStep
  split
  · exact h
  · extract_lets a
    split
    · exact h
    · split
      rename_i e
      exact .of_fst (.vecRead h) e

/-! ### Sys2Proof.Machine.Taper -/

theorem updTap {x f} (h : Stays s t) : Stays s (t.updTap x f) := .setWick h fun _ k => k

theorem fetchElems {x y q p n} (h : Stays s t) : Stays s (t.fetchElems x y q p n).1 :=
  .foldl_fst h (fun _ _ k => .when (.checkElem k) .poisonThread)

theorem putAcc {x l j v} (h : Stays s t) : Stays s (t.putAcc x l j v) := .ite (.logEv (.updThr (.updTap h) fun _ k => k)) (.updTap h)

theorem tmacOnce {x a test clr px py gx gy} (h : Stays s t) : Stays s (t.tmacOnce x a test clr px py gx gy) := by
  unfold State.tmacOnce
  extract_lets
  split
  rename_i e
  have k := Stays.of_fst (.fetchElems h) e
  split
  rename_i e
  have k := Stays.of_fst (.fetchElems k) e
  exact .foldl k fun _ _ k => .when (.putAcc k) .updTap

theorem tmacRun {x a test px py n clr gx gy} (h : Stays s t) : Stays s (State.tmacRun x a test px py n clr gx gy t).1 := by
  induction n generalizing t clr gx gy with
  | zero =>
    have k : Stays s (t.tmacOnce x a test clr px py gx gy) := .tmacOnce h
    exact k
  | succ n ih => exact ih (.tmacOnce h)

theorem runTmac {x a test n} (h : Stays s t) : Stays s (Machine.runTmac x a test n t).st := by
  unfold Machine.runTmac
  dsimp only
  split
  · exact h
  · split
    · exact h
    · exact h
    · exact .putG (.tmacRun h)

theorem loadElem {w d y i} (h : Stays s t) : Stays s (t.loadElem w d y i).1 :=
  .ite_fst (.when (.checkElem h) .poisonThread) h

theorem loadRows {w d} (h : Stays s t) : Stays s (t.loadRows w d) := by
  dsimp only [State.loadRows]
  exact .ite h (.foldl h (fun _ _ k => .when (.readVecRow k) .poisonThread))

theorem loadLine {w d j} (h : Stays s t) : Stays s (t.loadLine w d j) := by
  dsimp only [State.loadLine]
  refine .foldl h fun _ _ k => .setMem ?_
  split
  · exact .loadElem k
  · exact k

theorem lineLoadDoneEffect {w} (h : Stays s t) : Stays s (Machine.lineLoadDoneEffect w t) := by
  dsimp only [Machine.lineLoadDoneEffect]
  split
  · exact h
  · exact .setWick (.foldl (.loadRows (.setWick h fun _ k => stacksFit_pass k)) (fun _ _ k => .loadLine k)) fun _ k => k

/-! ### Sys2Proof.Machine.Urlan -/

theorem updLink {u f} (h : Stays s t)
    (hf : ∀ l : UrLink, l.replay.length ≤ 1024 → (f l).replay.length ≤ 1024) : Stays s (t.updLink u f) :=
  .setUr h fun k => linksFit_upd k (hf _ (k u))

theorem header {u f} (h : Stays s t) : Stays s (t.updLink u fun l => l.header f) := .updLink h fun _ k => UrLink.header_replay k

theorem spareSwitch {u} (h : Stays s t) : Stays s (t.spareSwitch u) := by
  dsimp only [State.spareSwitch]
  split
  · exact h
  · exact .logEv (.updLink h fun _ _ => Nat.zero_le _)

theorem sendFlit {u kind flags seq frame index body} (h : Stays s t) : Stays s (t.sendFlit u kind flags seq frame index body) :=
  .emit (.updLink (.updLink h fun _ k => k) fun _ k => k)

theorem sendCtrl {u nak} (h : Stays s t) : Stays s (t.sendCtrl u nak) := .sendFlit h
theorem sendData {u seq b} (h : Stays s t) : Stays s (t.sendData u seq b) := .sendFlit h
theorem resend {u} (h : Stays s t) : Stays s (t.resend u) := .foldl h (fun _ _ k => .sendData k)
theorem badFlit {u} (h : Stays s t) : Stays s (t.badFlit u) := .updLink h fun _ k => k
theorem logLink {u} (h : Stays s t) : Stays s (t.logLink u) := .logEv h

theorem train {u peer} (h : Stays s t) : Stays s (t.train u peer) := by
  dsimp only [State.train]
  split
  · rename_i p _
    exact .resend (.updLink h fun _ k => UrLink.comeUp_replay (p := p) k)
  · exact .logEv (.updLink h fun _ k => k)
  · exact .updLink h fun _ k => k

theorem settleSpare {u} (h : Stays s t) : Stays s (t.settleSpare u) := by
  dsimp only [State.settleSpare]
  split
  · exact .spareSwitch h
  · exact .ite (.spareSwitch h) h
  · exact h

theorem linkTrainingEffect {u peer} (h : Stays s t) : Stays s (Machine.linkTrainingEffect u peer t) :=
  .ite (.settleSpare (.train h)) h

theorem linkRetrainEffect {u fecLost peer} (h : Stays s t) : Stays s (Machine.linkRetrainEffect u fecLost peer t) :=
  .ite h (.settleSpare (.when (.train h) .logLink))

theorem linkRetryEffect {u peer} (h : Stays s t) : Stays s (Machine.linkRetryEffect u peer t) :=
  .ite (.settleSpare (.when (.train (.reach h)) .logLink)) h

theorem dataSendEffect {u} (h : Stays s t) : Stays s (Machine.dataSendEffect u t) := by
  dsimp only [Machine.dataSendEffect]
  split
  · exact h
  next rest _ =>
    split
    · exact h
    next hc =>
      refine .sendData (.setUr (.updLink h fun _ k => k) fun k => linksFit_upd k ?_)
      have room : ¬ 1024 ≤ (t.ur.links[u]).replay.length := fun c => hc (by rw [decide_eq_true c]; simp)
      have same : ((t.updLink (t.ur.traffic u) fun k => { k with txQueue := rest }).ur.links[u]).replay = (t.ur.links[u]).replay := by
        simp only [State.updLink, State.setUr, upd_get]
        split
        next e => rw [e]
        · rfl
      rw [List.length_append, same]
      exact Nat.lt_of_not_le room

theorem ackTimerEffect {u} (h : Stays s t) : Stays s (Machine.ackTimerEffect u t) := .ite (.sendCtrl (.reach h)) h
theorem timeSendEffect {u} (h : Stays s t) : Stays s (Machine.timeSendEffect u t) := .ite (.sendFlit (.reach h)) h
theorem nak {u} (h : Stays s t) : Stays s (t.nak u) := .ite h (.sendCtrl (.updLink h fun _ k => k))
theorem takeData {u f} (h : Stays s t) : Stays s (t.takeData u f) := 
  .when (.updLink (.updLink h fun _ k => k) fun _ k => by split <;> exact k) .sendCtrl

theorem dataFlitEffect {u b} (h : Stays s t) : Stays s (Machine.dataFlitEffect u b t) := by
  dsimp only [Machine.dataFlitEffect]
  refine .ite h ?_
  split
  · exact .nak (.badFlit h)
  · exact .ite (.takeData (.header h)) (.nak (.header h))

theorem ctrlFlitEffect {u b} (h : Stays s t) : Stays s (Machine.ctrlFlitEffect u b t) := by
  dsimp only [Machine.ctrlFlitEffect]
  refine .ite h ?_
  split
  · exact .badFlit h
  · exact .ite (.resend (.updLink (.header h) fun _ k => k)) (.header h)

theorem uplinkTimeEffect {b} (h : Stays s t) : Stays s (Machine.uplinkTimeEffect b t) := by
  dsimp only [Machine.uplinkTimeEffect]
  split
  · exact h
  · refine .ite h ?_
    split
    · exact .badFlit h
    · exact .measured (.setTime (.header h))

theorem lateReleaseEffect {u st m' rep rec blk} (h : Stays s t) : Stays s (Machine.lateReleaseEffect u st m' rep rec blk t) := by
  dsimp only [Machine.lateReleaseEffect]
  split
  · exact h
  · exact .ite h (.ite (.logEv (.updLink (.setJob (.reach h)) fun _ k => k)) (.setJob (.reach h)))

theorem lateWriteEffect {u m ix} (h : Stays s t) : Stays s (Machine.lateWriteEffect u m ix t) := by
  dsimp only [Machine.lateWriteEffect]
  split
  · exact .ite (.setJob (.updLink (.setMem (.reach h)) fun _ k => k)) h
  · exact h

end Stays

/-! ## Every command -/

/-- Every command answers a next state, in which the bounds still hold. -/
theorem exec_stays (c : Instr) (s : State) : ∃ t, exec c s = .next t ∧ Stays s t := by
  have h := Stays.refl s
  cases c with
  | powerOnReset => exact ⟨_, rfl, .powerOnEffect h⟩
  | fundamentalReset => exact ⟨_, rfl, .fundamentalEffect h⟩
  | warmReset => exact ⟨_, rfl, .warmResetEffect h⟩
  | railOutOfRegulation => exact ⟨_, rfl, .ite (.other (.trip h)) h⟩
  | inputUndervoltage => exact ⟨_, rfl, .ite (.vinRange (.otherMgmt (.powerDown h) id)) h⟩
  | inputOvervoltage => exact ⟨_, rfl, .ite (.vinRange (.otherMgmt (.powerDown h) id)) h⟩
  | thermalTrip => exact ⟨_, rfl, .ite (.trip h) h⟩
  | saveSettings => exact ⟨_, rfl, .ite (.other h) h⟩
  | configRecordWrite => exact ⟨_, rfl, .configWriteStart h⟩
  | configWriteDone => exact ⟨_, rfl, .configWriteDoneEffect h⟩
  | serviceButtonPress => exact ⟨_, rfl, .buttonEffect h⟩
  | buttonWindowExpiry => exact ⟨_, rfl, .buttonExpiryEffect h⟩
  | debugJumper => exact ⟨_, rfl, .jumperEffect h⟩
  | sealBroken => exact ⟨_, rfl, .sealEffect h⟩
  | fwWrite => exact ⟨_, rfl, .secEffect h⟩
  | libWrite => exact ⟨_, rfl, .secEffect h⟩
  | rollbackCommit => exact ⟨_, rfl, .secEffect h⟩
  | configDefault => exact ⟨_, rfl, .secEffect h⟩
  | fenceClear => exact ⟨_, rfl, .secEffect h⟩
  | certWrite => exact ⟨_, rfl, .secEffect h⟩
  | identityZeroise => exact ⟨_, rfl, .secEffect h⟩
  | secBadOp => exact ⟨_, rfl, .ite h (.secEffect h)⟩
  | attestGo => exact ⟨_, rfl, .attestGoEffect h⟩
  | attestDone => exact ⟨_, rfl, .attestDoneEffect h⟩
  | throttleWindow => exact ⟨_, rfl, .otherMgmt h (fun k => by split <;> exact k)⟩
  | throttleRequest => exact ⟨_, rfl, .throttleRequestEffect h⟩
  | externalThrottle => exact ⟨_, rfl, .externalThrottleEffect h⟩
  | throttleStepBegin => exact ⟨_, rfl, .stepBeginEffect h⟩
  | throttleStep => exact ⟨_, rfl, .stepDoneEffect h⟩
  | smbusRegRead => exact ⟨_, rfl, .smbusOk h (fun _ k => .emit k)⟩
  | smbusRegWrite => exact ⟨_, rfl, .smbusOk h (fun _ k => .emit (.otherMgmt k (MgmtBlk.write_near)))⟩
  | smbusEventRead => exact ⟨_, rfl, .smbusOk h (fun _ k => .smbusEventRead k)⟩
  | smbusWarmReset => exact ⟨_, rfl, .smbusOk h (fun _ k => .ite (.requestWarm (.emit k)) (.emit k))⟩
  | flr => exact ⟨_, rfl, .ite (.hostResetEffect h) h⟩
  | hotReset => exact ⟨_, rfl, .ite (.hostResetEffect h) h⟩
  | configRequest => exact ⟨_, rfl, .ite (.configEffect h) h⟩
  | bar2Access => exact ⟨_, rfl, .ite (.bar2Effect h) h⟩
  | appCoreAccess => exact ⟨_, rfl, .ite (.appCoreEffect h) h⟩
  | bar2BaseWrite =>
    refine ⟨_, rfl, .ite ?_ h⟩
    split
    · exact .regWrite4 h
    · exact .regWrite4 h
    · exact .regWrite64 h
  | registerWrite => exact ⟨_, rfl, .ite (.regWrite h) h⟩
  | registerLowerHalfRead => exact ⟨_, rfl, .ite (.emit (.regRead h)) h⟩
  | ftbCountLowRead =>
    refine ⟨_, rfl, .ite ?_ h⟩
    split
    rename_i e
    exact .emit (.of_fst (.regRead4 h) e)
  | counterClear => exact ⟨_, rfl, .ite (.counterClearEffect h) h⟩
  | steeringWrite => exact ⟨_, rfl, .ite (.steeringEffect h) h⟩
  | dbSqWrite => exact ⟨_, rfl, .doorbellEffect h⟩
  | ringEnable => exact ⟨_, rfl, .ite (.writeRingCfg h) h⟩
  | ringDisable => exact ⟨_, rfl, .ite h (.writeRingCfg h)⟩
  | loadImage => exact ⟨_, rfl, .takeCommand h (fun _ _ k => .loadRun k)⟩
  | bindStream => exact ⟨_, rfl, .takeCommand h (fun _ _ k => .bindRun k)⟩
  | arm => exact ⟨_, rfl, .takeCommand h (fun _ _ k => .armRun k)⟩
  | updateParams => exact ⟨_, rfl, .takeCommand h (fun _ _ k => .updateRun k)⟩
  | snapshot => exact ⟨_, rfl, .takeCommand h (fun _ _ k => .snapshotRun k)⟩
  | resume => exact ⟨_, rfl, .takeCommand h (fun _ _ k => .resumeRun k)⟩
  | stop => exact ⟨_, rfl, .takeCommand h (fun _ _ k => .stopRun k)⟩
  | query => exact ⟨_, rfl, .takeCommand h (fun _ _ k => .answerRecord k)⟩
  | fenceQuery => exact ⟨_, rfl, .takeCommand h (fun _ _ k => .answerRecord k)⟩
  | unknownCommand => exact ⟨_, rfl, .takeCommand h (fun _ _ k => .finish k)⟩
  | stopAtAnchor => exact ⟨_, rfl, .stopAnchorEffect h⟩
  | mailboxOut => exact ⟨_, rfl, .mailboxOutEffect h⟩
  | mailboxRecordWrite => exact ⟨_, rfl, .recordWriteEffect h⟩
  | ibSend => exact ⟨_, rfl, .ibSendEffect h⟩
  | ibSendCredited => exact ⟨_, rfl, .ibSendCreditedEffect h⟩
  | saddlerInterrupt => exact ⟨_, rfl, .saddlerInterruptEffect h⟩
  | saddlerTimerTick => exact ⟨_, rfl, .saddlerTimerEffect h⟩
  | saddlerException => exact ⟨_, rfl, .saddlerExceptionEffect h⟩
  | saddlerDivergence => exact ⟨_, rfl, .saddlerDivergenceEffect h⟩
  | watchdog => exact ⟨_, rfl, .watchdogEffect h⟩
  | cpIrqSwiWrite =>
    refine ⟨_, rfl, ?_⟩
    split
    · exact .setWick h fun _ k => k
    · exact .sadSwi h
  | crossingRelease => exact ⟨_, rfl, .crossingEffect h⟩
  | ptpMessage => exact ⟨_, rfl, .ptpEffect h⟩
  | ptpLocked => exact ⟨_, rfl, .ptpLockedEffect h⟩
  | ptpHoldover => exact ⟨_, rfl, .ptpHoldoverEffect h⟩
  | ptpOffsetExcess => exact ⟨_, rfl, .ptpOffsetExcessEffect h⟩
  | uplinkTimeFlit => exact ⟨_, rfl, .uplinkTimeEffect h⟩
  | urlanFtbOffset => exact ⟨_, rfl, .urlanFtbOffsetEffect h⟩
  | commitPoint => exact ⟨_, rfl, .commitEffect h⟩
  | anchorSwitch => exact ⟨_, rfl, .anchorEffect h⟩
  | epochStageCopy => exact ⟨_, rfl, .stageEffect h⟩
  | epochPayloadComplete => exact ⟨_, rfl, .payloadEffect h⟩
  | chain => exact ⟨_, rfl, .chainEffect h⟩
  | requant => exact ⟨_, rfl, .requantEffect h⟩
  | gavg => exact ⟨_, rfl, .gavgEffect h⟩
  | haltedOccupancyEnd => exact ⟨_, rfl, .haltedEndEffect h⟩
  | lanternHang => exact ⟨_, rfl, .lanternHangEffect h⟩
  | failedChainHandling => exact ⟨_, rfl, .failedChainEffect h⟩
  | wickStart => exact ⟨_, rfl, .wickStartEffect h⟩
  | dmaStart => exact ⟨_, rfl, .dmaStartEffect h⟩
  | release => exact ⟨_, rfl, .releaseEffect h⟩
  | testWindow => exact ⟨_, rfl, .testWindowEffect h⟩
  | testWindowPostponed => exact ⟨_, rfl, .postponedEffect h⟩
  | unitMove => exact ⟨_, rfl, .unitMoveEffect h⟩
  | moveEnd => exact ⟨_, rfl, .moveEndEffect h⟩
  | fullSweep => exact ⟨_, rfl, .fullSweepEffect h⟩
  | sequencerDivergence => exact ⟨_, rfl, .sequencerEffect h⟩
  | snapshotPoint => exact ⟨_, rfl, .snapPointEffect h⟩
  | instanceComplete => exact ⟨_, rfl, .instanceCompleteEffect h⟩
  | fabricRowWrite => exact ⟨_, rfl, .ite h (.ite (.fabricWrite h) (.emit (.fabricWrite h)))⟩
  | fabricRowRead => exact ⟨_, rfl, .ite h (.fabricRead h)⟩
  | heldWriteRetry => exact ⟨_, rfl, .heldRetryEffect h⟩
  | mapStoreBankGrant => exact ⟨_, rfl, .bankGrantEffect h⟩
  | creditWaitEnd => exact ⟨_, rfl, .creditWaitEndEffect h⟩
  | creditStall => exact ⟨_, rfl, .creditStallEffect h⟩
  | wickInterruptEntry => exact ⟨_, rfl, .wickInterruptEffect h⟩
  | wickException => exact ⟨_, rfl, .wickExceptionEffect h⟩
  | wickHang => exact ⟨_, rfl, .wickHangEffect h⟩
  | storeBufferDrain => exact ⟨_, rfl, .storeBufferDrainEffect h⟩
  | instructionRefill => exact ⟨_, rfl, .refillEffect h⟩
  | localFabricAccess => exact ⟨_, rfl, .localFabricEffect h⟩
  | cpRcwWrite => exact ⟨_, rfl, .pageStore h⟩
  | rcwWaitEnd => exact ⟨_, rfl, .rcwWaitEndEffect h⟩
  | rcwStall => exact ⟨_, rfl, .rcwStallEffect h⟩
  | cpTaperOwnerWrite => exact ⟨_, rfl, .pageStore h⟩
  | cpRetWrite => exact ⟨_, rfl, .pageStore h⟩
  | addSub => exact ⟨_, rfl, .issue h (fun _ _ k => .runAlu k)⟩
  | andOrXor => exact ⟨_, rfl, .issue h (fun _ _ k => .runAlu k)⟩
  | shlShrSar => exact ⟨_, rfl, .issue h (fun _ _ k => .runAlu k)⟩
  | mul => exact ⟨_, rfl, .issue h (fun _ _ k => .runAlu k)⟩
  | mulhMulhu => exact ⟨_, rfl, .issue h (fun _ _ k => .runAlu k)⟩
  | divDivu => exact ⟨_, rfl, .issue h (fun _ _ k => .runDivide k) fun _ _ _ => .of_none runDivide_stack⟩
  | remRemu => exact ⟨_, rfl, .issue h (fun _ _ k => .runDivide k) fun _ _ _ => .of_none runDivide_stack⟩
  | immediateAlu => exact ⟨_, rfl, .issue h (fun _ _ k => .runAlu k)⟩
  | shiftImmediate => exact ⟨_, rfl, .issue h (fun _ _ k => .runAlu k)⟩
  | li => exact ⟨_, rfl, .issue h (fun _ _ k => .runAlu k)⟩
  | lis => exact ⟨_, rfl, .issue h (fun _ _ k => .runAlu k)⟩
  | crcs => exact ⟨_, rfl, .issue h (fun _ _ k => .runAlu k)⟩
  | par => exact ⟨_, rfl, .issue h (fun _ _ k => .runAlu k)⟩
  | brev => exact ⟨_, rfl, .issue h (fun _ _ k => .runAlu k)⟩
  | clz => exact ⟨_, rfl, .issue h (fun _ _ k => .runAlu k)⟩
  | load => exact ⟨_, rfl, .issue h (fun _ _ k => .runLoad k) fun _ _ _ => .of_none runLoad_stack⟩
  | store => exact ⟨_, rfl, .storeEffect h⟩
  | skip => exact ⟨_, rfl, .issue h (fun _ _ k => k)⟩
  | jmp => exact ⟨_, rfl, .issue h (fun _ _ k => .runJump k) fun _ _ _ => .of_none runJump_stack⟩
  | call => exact ⟨_, rfl, .issue h (fun _ _ k => .runCall k) fun _ _ _ => runCall_stack⟩
  | ret => exact ⟨_, rfl, .issue h (fun _ _ k => .runRet k) fun _ _ k => runRet_stack k⟩
  | reti => exact ⟨_, rfl, .issue h (fun _ _ k => .runReti k) fun _ _ k => runReti_stack k⟩
  | featr => exact ⟨_, rfl, .issue h (fun _ _ k => k)⟩
  | drain => exact ⟨_, rfl, .issue h (fun _ _ k => .runDrain k) fun _ _ _ => .of_none runDrain_stack⟩
  | halt => exact ⟨_, rfl, .issue h (fun _ _ k => k)⟩
  | nop => exact ⟨_, rfl, .issue h (fun _ _ k => k)⟩
  | vsetl => exact ⟨_, rfl, .issueVec h (fun _ _ k => .ite_run k (.putG (.updThr k fun _ k => k)))⟩
  | vld =>
    refine ⟨_, rfl, .issueVec h fun _ _ k => .ite_run k ?_⟩
    split
    · exact k
    · refine .setWick (.putG (.foldl k fun _ _ k => ?_)) fun _ k => k
      split
      rename_i e
      exact .updThr (.of_fst (.vecRead k) e) fun _ k => k
  | vst =>
    refine ⟨_, rfl, .issueVec h (fun _ _ k => .ite_run k ?_)⟩
    split
    · exact k
    · exact .setWick (.putG (.foldl k (fun _ _ k => .writeVecRow k))) fun _ k => k
  | vaddVsub => exact ⟨_, rfl, .vecOp h⟩
  | vmulVmacc => exact ⟨_, rfl, .vecOp h⟩
  | vmulhVmulhu => exact ⟨_, rfl, .vecOp h⟩
  | vandVorVxor => exact ⟨_, rfl, .vecOp h⟩
  | vshlVshrVsar => exact ⟨_, rfl, .vecOp h⟩
  | vrsr => exact ⟨_, rfl, .vecOp h⟩
  | vminVmax => exact ⟨_, rfl, .vecOp h⟩
  | vsaddVssub => exact ⟨_, rfl, .vecOp h⟩
  | vcmp => exact ⟨_, rfl, .issueVec h (fun _ _ k => .ite_run k (.updThr k fun _ k => k))⟩
  | vsel => exact ⟨_, rfl, .issueVec h (fun _ _ k => .ite_run k (.updThr k fun _ k => k))⟩
  | vmvs => exact ⟨_, rfl, .issueVec h (fun _ _ k => .ite_run k (.updThr k fun _ k => k))⟩
  | vmvx => exact ⟨_, rfl, .issueVec h (fun _ _ k => .ite_run k (.putG k))⟩
  | vslupVsldn => exact ⟨_, rfl, .issueVec h (fun _ _ k => .ite_run k (.updThr k fun _ k => k))⟩
  | vwidsVwidu => exact ⟨_, rfl, .issueVec h (fun _ _ k => .ite_run k (.updThr k fun _ k => k))⟩
  | vnrs => exact ⟨_, rfl, .issueVec h (fun _ _ k => .ite_run k (.updThr (.ite (.fresh k) k) fun _ k => k))⟩
  | vreduction => exact ⟨_, rfl, .issueVec h (fun _ _ k => .ite_run k (.putG k))⟩
  | vmpop => exact ⟨_, rfl, .issueVec h (fun _ _ k => .putG k)⟩
  | vcrc =>
    refine ⟨_, rfl, .issueVec h (fun _ _ k => .ite_run (.putG (.fresh k)) ?_)⟩
    split
    · exact k
    · exact .setWick (.putG (.vecRead k)) fun _ k => k
  | vgth =>
    refine ⟨_, rfl, .issueVec h fun u _ k => ?_⟩
    have hg {x ga idx e v l} : Stays s (List.foldl (gatherStep x ga idx e) ⟨u, v, none⟩ l).st :=
      List.foldlRecOn (motive := fun g : Gather => Stays s g.st) _ _ k fun _ k _ _ => .gatherStep k
    exact .setWick (.updThr hg fun _ k => k) fun _ k => k
  | tclr => exact ⟨_, rfl, .issueVec h (fun _ _ k => .ok (.updTap k))⟩
  | tsync => exact ⟨_, rfl, .issueVec h (fun _ _ k => k)⟩
  | tstat => exact ⟨_, rfl, .issueVec h (fun _ _ k => .ok (.updTap (.putG k)))⟩
  | tload => exact ⟨_, rfl, .issueVec h (fun _ _ k => .ite_run k (.ite_run (.setWick (.portTake (.foldl k (fun _ _ k => .ite
      (.poisonThread (.checkLine k)) (.checkLine k)))) fun _ k => k) (.portTake (.foldl k (fun _ _ k => .ite (.poisonThread (.checkLine k))
          (.checkLine k))))))⟩
  | lineLoadDone => exact ⟨_, rfl, .lineLoadDoneEffect h⟩
  | trep => exact ⟨_, rfl, .issueVec h (fun _ _ k => .ite_run (.runTmac k) (.updThr (.runTmac k) fun _ k => k))⟩
  | tsetc => exact ⟨_, rfl, .issueVec h (fun _ _ k => .ite_run (.ok (.updTap k)) k)⟩
  | tmac => exact ⟨_, rfl, .issueVec h (fun _ _ k => .runTmac k)⟩
  | tout => exact ⟨_, rfl, .issueVec h (fun _ _ k => .ite_run k (.ok (.updTap (.updThr k fun _ k => k))))⟩
  | texp => exact ⟨_, rfl, .issueVec h (fun _ _ k => .updThr k fun _ k => k)⟩
  | tnorm => exact ⟨_, rfl, .issueVec h (fun _ _ k => .foldl k (fun _ _ k => .ite k (.putAcc k)))⟩
  | tmacs => exact ⟨_, rfl, .issueVec h (fun _ _ k => .runTmac k)⟩
  | tsigr => exact ⟨_, rfl, .issueVec h (fun _ _ k => .ok (.updTap (.putG k)))⟩
  | dmaStep => exact ⟨_, rfl, .dmaStepEffect h⟩
  | dmaBlockReturned => exact ⟨_, rfl, .blockReturnedEffect h⟩
  | dmaDescriptorComplete => exact ⟨_, rfl, .descriptorCompleteEffect h⟩
  | dmaBusError => exact ⟨_, rfl, .busErrorEffect h⟩
  | haltedChannelCompletion => exact ⟨_, rfl, .haltedCompletionEffect h⟩
  | dmaRowWaitEnd => exact ⟨_, rfl, .dmaRowWaitEndEffect h⟩
  | dmaWaitStall => exact ⟨_, rfl, .dmaWaitStallEffect h⟩
  | hbmSlot => exact ⟨_, rfl, .hbmSlotEffect h⟩
  | hbmReadData => exact ⟨_, rfl, .hbmReadDataEffect h⟩
  | hbmOpenAccess => exact ⟨_, rfl, .hbmOpenEffect h⟩
  | hbmTempHigh => exact ⟨_, rfl, .hbmTemp h⟩
  | ethFrameReceived => exact ⟨_, rfl, .ethFrameEffect h⟩
  | rrsPacket => exact ⟨_, rfl, .rrsEffect h⟩
  | networkControlPacket => exact ⟨_, rfl, .networkControlEffect h⟩
  | portLink => exact ⟨_, rfl, .portLinkEffect h⟩
  | ethPortCfgWrite => exact ⟨_, rfl, .ite (.ethCfgEffect h) h⟩
  | ingressRelease => exact ⟨_, rfl, .ingressReleaseEffect h⟩
  | ingressPathSilent => exact ⟨_, rfl, .pathSilentEffect h⟩
  | egressSlot => exact ⟨_, rfl, .egressSlotEffect h⟩
  | egressPacket => exact ⟨_, rfl, .egressPacketEffect h⟩
  | egressLateSend => exact ⟨_, rfl, .egressLateEffect h⟩
  | stampAncPacket => exact ⟨_, rfl, .ancPacketEffect h⟩
  | rrscCommitGo => exact ⟨_, rfl, .ite (.rrscCommitEffect h) h⟩
  | rrscLatch => exact ⟨_, rfl, .rrscLatchEffect h⟩
  | rrscSlot => exact ⟨_, rfl, .rrscSlotEffect h⟩
  | rrscMissed => exact ⟨_, rfl, .rrscMissedEffect h⟩
  | linkTraining => exact ⟨_, rfl, .linkTrainingEffect h⟩
  | linkRetrain => exact ⟨_, rfl, .linkRetrainEffect h⟩
  | linkRetryTimer => exact ⟨_, rfl, .linkRetryEffect h⟩
  | urlanDataSend => exact ⟨_, rfl, .dataSendEffect h⟩
  | urlanDataFlit => exact ⟨_, rfl, .dataFlitEffect h⟩
  | urlanCtrlFlit => exact ⟨_, rfl, .ctrlFlitEffect h⟩
  | urlanAckTimer => exact ⟨_, rfl, .ackTimerEffect h⟩
  | urlanTimeSend => exact ⟨_, rfl, .timeSendEffect h⟩
  | urlanLateRelease => exact ⟨_, rfl, .lateReleaseEffect h⟩
  | urlanLateBlockWrite => exact ⟨_, rfl, .lateWriteEffect h⟩
  | urWindowWrite =>
    refine ⟨_, rfl, .ite ?_ h⟩
    split
    · exact .regWrite4 h
    · exact .regWrite4 h
    · exact .regWrite64 h
  | leafHashStart => exact ⟨_, rfl, .leafHashStartEffect h⟩
  | leafHashDone => exact ⟨_, rfl, .leafHashDoneEffect h⟩
  | parentHashDone => exact ⟨_, rfl, .parentHashEffect h⟩
  | stampRecordForm => exact ⟨_, rfl, .recordFormEffect h⟩
  | signatureDone => exact ⟨_, rfl, .signatureDoneEffect h⟩
  | telemetrySample => exact ⟨_, rfl, .telemetryEffect h⟩
  | managementSupply => exact ⟨_, rfl, .managementSupplyEffect h⟩
  | spareRotation => exact ⟨_, rfl, .spareRotationEffect h⟩
  | vacatedUnitTest => exact ⟨_, rfl, .vacatedTestEffect h⟩
  | ppsOut => exact ⟨_, rfl, .ite (.ppsEffect h) h⟩

/-! ## O6 and O3 -/

/-- The bound of every store of fixed depth, by the groups that hold them. -/
theorem withinDepths_iff (s : State) : s.withinDepths ↔ wicksFit s.wick ∧ pairsFit s.sad ∧ s.log.startLog.length ≤ 256 ∧
    s.log.smbus.length ≤ 64 ∧ linksFit s.ur.links := Iff.rfl

/-- A step keeps the bounds: a tick, or the front command on the rest of the queue. -/
theorem step_stays {s t : State} (h : step s = .next t) : Stays s t := by
  unfold step at h
  split at h
  · cases h
    exact .tick (.refl s)
  next c rest e =>
    obtain ⟨u, hu, k⟩ := exec_stays c { s with pending := rest }
    cases hu.symm.trans h
    exact ⟨k.wick, k.sad, k.startLog, k.smbus, k.links, k.near⟩

/-- Settles O6: every step keeps the bound of each group that holds a store of fixed depth. -/
theorem stepsStayWithinDepths : Obligations.StepsStayWithinDepths := by
  unfold Obligations.StepsStayWithinDepths
  intro s t hs h
  obtain ⟨hw, hp, hl, hm, hu⟩ := (withinDepths_iff s).mp hs
  have k := step_stays h
  exact (withinDepths_iff t).mpr ⟨k.wick hw, k.sad hp, k.startLog hl, k.smbus hm, k.links hu⟩

/-- Settles O3: memory is empty and so canonical (the form is the model's own, log 3), every step is 0, and every store is empty. -/
theorem resetMeetsTheInvariants : Obligations.ResetMeetsTheInvariants := by
  unfold Obligations.ResetMeetsTheInvariants
  exact ⟨MemBlk.reset_wf, stepsNear_reset, (withinDepths_iff _).mpr
    ⟨wicksFit_reset, pairsFit_reset, Nat.zero_le _, Nat.zero_le _, linksFit_reset⟩⟩

end Sys2Proof.Machine
end

section
/-! # PROOFS. Interrupts, exceptions, hangs and row-completion waits of the Wick's threads (O41). -/
namespace Sys2Proof.Machine

/-! ## The parts of a thread that only its own instructions change -/

theorem Thread.same.trans {a b c : Thread} (hab : Thread.same a b) (hbc : Thread.same b c) : Thread.same a c := by
  unfold Thread.same at *
  simp_all only [and_self]

theorem Thread.same.setPc {a b : Thread} (h : Thread.same a b) (pc : BitVec 18) : Thread.same { a with pc := pc } { b with pc := pc } := by
  obtain ⟨hrun, -, hrest⟩ := h
  exact ⟨hrun, rfl, hrest⟩

theorem slot_thread_same (s : State) (w : WkId) (t r : Fin 4) : Thread.same s.wick[w].threads[r] (s.slot w t).wick[w].threads[r] := by
  rw [slot_wick, toSlot_thread]
  exact Thread.same_refl _

theorem slot_victim (s : State) (w : WkId) (t r : Fin 4) : (s.slot w t).wick[w].threads[r].victim = s.wick[w].threads[r].victim := by
  rw [slot_wick, toSlot_thread]
  rfl

/-! ## Faults (R243) and entries to handlers (R240, R242) -/

section
variable (s : State) (w : WkId) (t : Fin 4) (cause : Byte) (addr : W64) (at_ : BitVec 18) (u : Nat)

theorem faultThread_thread : Thread.same { s.wick[w].threads[t] with run := .faulted } (s.faultThread w t cause addr at_ u).wick[w].threads[t] := by
  show Thread.same _ (upd s.wick w _)[w].threads[t]
  rw [upd_self]
  refine pass_same _ _ _ _ _ ?_
  rw [Wick.updT, upd_self]
  exact Thread.same_refl _

theorem faultThread_cause :
    (s.faultThread w t cause addr at_ u).wick[w].faultC = cause ∧ (s.faultThread w t cause addr at_ u).wick[w].faultPc = at_ := by
  have h : (s.faultThread w t cause addr at_ u).wick[w] = _ := upd_self s.wick w _
  rw [h]
  exact ⟨rfl, rfl⟩

theorem faultThread_newest : (s.faultThread w t cause addr at_ u).newest =
    some ⟨s.time.ftb, 0x0501, 2, w.1, detail [(1, t.1), (1, cause.toNat), (4, at_.toNat)]⟩ := rfl

theorem faultThread_only : Only [.wick, .log, .sad] s (s.faultThread w t cause addr at_ u) :=
  ((setWick_only s w _).mono (by simp)).right (logEv_only _ _ _ _ _) (by simp)

theorem raise_enters (halt : s.wick[w].threads[t].alt = false) (hlen : s.wick[w].threads[t].stack.length < 32) (h8 : cause ≠ 0x08)
    (h9 : cause ≠ 0x09) : s.raise w t cause addr at_ false u =
      s.setWick w fun k => (k.updT t fun th => { th with victim := .none }).enter t at_ (cause.setWidth 64) addr 0 u := by
  unfold State.raise
  dsimp only
  rw [halt, decide_eq_false (by omega), beq_eq_false_iff_ne.mpr h8, beq_eq_false_iff_ne.mpr h9]
  rfl

end

/-- A thread at whose handler an entry has arrived, but for its buffer. -/
def Thread.entered (th : Thread) (ret : BitVec 18) (g30 g31 : W64) (pc : BitVec 18) (acc : Vector (BitVec 56) 128) : Thread :=
  { th with g := regSet (regSet (bankSwap th.g th.shadowG).1 30 g30) 31 g31, shadowG := (bankSwap th.g th.shadowG).2
            alt := !th.alt, stack := ret :: th.stack, pc := pc, accSh := acc }

/-- Entry to a handler: the banks exchanged, the return address pushed, g30 and g31 of the new bank set. -/
theorem enter_thread (k : Wick) (t : Fin 4) (ret : BitVec 18) (g30 g31 : W64) (pc : BitVec 18) (u : Nat) :
    ∃ acc, Thread.same ((k.threads[t]).entered ret g30 g31 pc acc) (k.enter t ret g30 g31 pc u).threads[t] := by
  refine ⟨if k.owner == some t then k.taper.acc else k.threads[t].accSh, pass_same _ _ _ _ _ ?_⟩
  simp only [Wick.updT, Wick.swapBanks, upd_self]
  exact Thread.same_refl _

theorem enter_irqPend (k : Wick) (t : Fin 4) (ret : BitVec 18) (g30 g31 : W64) (pc : BitVec 18) (u : Nat) :
    (k.enter t ret g30 g31 pc u).irqPend = k.irqPend := pass_irqPend _ u 2

/-- A suppressed victim takes its bytes and its slot. -/
theorem consume_thread (s : State) (w : WkId) (t : Fin 4) :
    Thread.same { s.wick[w].threads[t] with pc := (s.consume w t).wick[w].threads[t].pc } (s.consume w t).wick[w].threads[t] ∧
    (s.consume w t).wick[w].threads[t].victim = .none ∧ (s.consume w t).wick[w].threads[t].pc = s.wick[w].threads[t].pc +
      BitVec.ofNat 18 (min (encodedLen s.wick[w].threads[t].buf) s.wick[w].threads[t].buf.length) := by
  unfold State.consume
  rw [State.setWick_wick, upd_self, pass_thread, Wick.updT, upd_self]
  exact ⟨Thread.same_refl _, rfl, rfl⟩

/-! ## Interrupts (R240) -/

section
variable {s : State} {w : WkId} {q : Fin 4}

theorem wickInterruptEffect_eq {n : Fin 16} (hrun : s.wick[w].threads[q].run = .running) (hvic : s.wick[w].threads[q].victim = .none)
    (hline : (s.wick[w].toSlot q).irqLine q = some n) :
    wickInterruptEffect w q s = s.setWick w fun _ =>
      ({ s.wick[w].toSlot q with irqPend := s.wick[w].irqPend &&& ~~~(BitVec.ofNat 16 (2 ^ n.1)) } : Wick).enter q s.wick[w].threads[q].pc (BitVec.ofNat 64 (0x80 + n.1)) 0 0x40 1 := by
  unfold wickInterruptEffect
  dsimp only
  rw [hline]
  dsimp only
  rw [if_neg (by rw [hrun, hvic]; decide), toSlot_irqPend, toSlot_thread]
  rfl

theorem wickInterruptEntry_enters {n : Fin 16} (hrun : s.wick[w].threads[q].run = .running) (hvic : s.wick[w].threads[q].victim = .none)
    (hline : (s.wick[w].toSlot q).irqLine q = some n) :
    Completes (.wickInterruptEntry w q) s fun t =>
      t.wick[w].threads[q].pc = 0x40 ∧ t.wick[w].threads[q].alt = !s.wick[w].threads[q].alt ∧
      t.wick[w].threads[q].stack = s.wick[w].threads[q].pc :: s.wick[w].threads[q].stack ∧
      t.wick[w].threads[q].g =
        regSet (regSet (bankSwap s.wick[w].threads[q].g s.wick[w].threads[q].shadowG).1 30 (BitVec.ofNat 64 (0x80 + n.1))) 31 0 ∧
      t.wick[w].irqPend = s.wick[w].irqPend &&& ~~~(BitVec.ofNat 16 (2 ^ n.1)) ∧ (∀ v : WkId, v ≠ w → t.wick[v] = s.wick[v]) ∧
      Only [.wick] s t := by
  refine ⟨wickInterruptEffect w q s, rfl, ?_⟩
  rw [wickInterruptEffect_eq hrun hvic hline]
  obtain ⟨acc, -, hpc, hg, -, hstack, halt, -⟩ := enter_thread ({ s.wick[w].toSlot q with
    irqPend := s.wick[w].irqPend &&& ~~~(BitVec.ofNat 16 (2 ^ n.1)) } : Wick) q s.wick[w].threads[q].pc (BitVec.ofNat 64 (0x80 + n.1)) 0 0x40 1
  refine ⟨?_, ?_, ?_, ?_, ?_, fun v hv => upd_other _ _ _ _ hv, setWick_only s w _⟩ <;> rw [State.setWick_wick, upd_self]
  · exact hpc
  · rw [halt]; simp only [Thread.entered, toSlot_thread, Thread.settle]
  · rw [hstack]; simp only [Thread.entered, toSlot_thread, Thread.settle]
  · rw [hg]; simp only [Thread.entered, toSlot_thread, Thread.settle]
  · exact enter_irqPend _ _ _ _ _ _ _

/-! ## Exceptions at fetch (R242, R270, R275, R278) -/

/-- An exception that the bytes of a slot raise: where no interrupt is entered in it and no second of a pair is ILLEGAL, what the
encoding comes to. -/
theorem wickExceptionEffect_eq (hrun : s.wick[w].threads[q].run = .running) (hpair : s.wick[w].illegalSecond q = none)
    (hirq : s.wick[w].threads[q].victim = .none → (s.wick[w].toSlot q).irqLine q = none) :
    wickExceptionEffect w q s =
      match decodeWick w q false .clean s.wick[w].testState (s.slot w q).wick[w].threads[q].buf with
      | .illegal => if s.wick[w].threads[q].victim == .suppress then (s.slot w q).consume w q
          else (s.slot w q).raise w q 0x01 0 s.wick[w].threads[q].pc false 1
      | .short =>
        if !(s.slot w q).wick[w].threads[q].runsPast then s
        else if s.wick[w].threads[q].victim == .suppress then (s.slot w q).consume w q
        else (s.slot w q).raise w q 0x02 0x40000 s.wick[w].threads[q].pc false 1
      | .ok _ _ => s := by
  have hpc := (slot_thread_same s w q q).2.1
  have hnone : ((s.slot w q).wick[w].threads[q].victim == .none && ((s.slot w q).wick[w].irqLine q).isSome) = false := by
    rw [slot_victim, slot_wick]
    by_cases hv : s.wick[w].threads[q].victim = .none
    · rw [hirq hv, hv]; rfl
    · rw [beq_eq_false_iff_ne.mpr hv]; rfl
  have htest : (s.slot w q).wick[w].testState = s.wick[w].testState := by rw [slot_wick, toSlot_testState]
  unfold wickExceptionEffect
  rw [if_neg (by rw [hrun]; decide), hpair]
  show (if ((s.slot w q).wick[w].threads[q].victim == .none && ((s.slot w q).wick[w].irqLine q).isSome) = true then s else
    match decodeWick w q false .clean (s.slot w q).wick[w].testState (s.slot w q).wick[w].threads[q].buf with
    | .illegal => if (s.slot w q).wick[w].threads[q].victim == .suppress then (s.slot w q).consume w q
        else (s.slot w q).raise w q 0x01 0 (s.slot w q).wick[w].threads[q].pc false 1
    | .short =>
      if !(s.slot w q).wick[w].threads[q].runsPast then s
      else if (s.slot w q).wick[w].threads[q].victim == .suppress then (s.slot w q).consume w q
      else (s.slot w q).raise w q 0x02 0x40000 (s.slot w q).wick[w].threads[q].pc false 1
    | .ok _ _ => s) = _
  rw [hnone, hpc, slot_victim, htest]
  rfl

/-- Bytes that are no instruction, or that run past local memory, trap where the thread is no suppressed victim. -/
theorem wickException_traps (hrun : s.wick[w].threads[q].run = .running) (hvic : s.wick[w].threads[q].victim ≠ .suppress)
    (hpair : s.wick[w].illegalSecond q = none) (hirq : s.wick[w].threads[q].victim = .none → (s.wick[w].toSlot q).irqLine q = none) :
    (decodeWick w q false .clean s.wick[w].testState (s.slot w q).wick[w].threads[q].buf = .illegal →
      Completes (.wickException w q) s fun t => Traps s t (.wick w q false .clean) 0x01 0) ∧
    (decodeWick w q false .clean s.wick[w].testState (s.slot w q).wick[w].threads[q].buf = .short →
      (s.slot w q).wick[w].threads[q].runsPast = true →
      Completes (.wickException w q) s fun t => Traps s t (.wick w q false .clean) 0x02 0x40000) := by
  have heq := wickExceptionEffect_eq hrun hpair hirq
  rw [beq_eq_false_iff_ne.mpr hvic] at heq
  refine ⟨fun hill => ⟨_, rfl, ?_⟩, fun hshort hpast => ⟨_, rfl, ?_⟩⟩
  · rw [hill] at heq
    rw [heq]
    exact raise_traps s w q false .clean 0x01 0 (by decide) (by decide)
  · rw [hshort, hpast] at heq
    rw [heq]
    exact raise_traps s w q false .clean 0x02 0x40000 (by decide) (by decide)

/-- An ILLEGAL second of a pair: its handler is entered with the address of the second, or the thread faults where the first is a taken
branch. -/
theorem wickException_second {p : PairFirst} (hrun : s.wick[w].threads[q].run = .running) (hpair : s.wick[w].illegalSecond q = some p) :
    (p.branch = false → s.wick[w].threads[q].alt = false → s.wick[w].threads[q].stack.length < 32 →
      Completes (.wickException w q) s fun t =>
        t.wick[w].threads[q].pc = 0 ∧ t.wick[w].threads[q].alt = true ∧ t.wick[w].threads[q].stack = p.next :: s.wick[w].threads[q].stack ∧
        t.wick[w].threads[q].g = regSet (regSet (bankSwap s.wick[w].threads[q].g s.wick[w].threads[q].shadowG).1 30 1) 31 0 ∧ Only [.wick] s t) ∧
    (p.branch = true → Completes (.wickException w q) s fun t =>
      t.wick[w].threads[q].run = .faulted ∧ t.wick[w].threads[q].g = s.wick[w].threads[q].g ∧ t.wick[w].faultPc = p.next ∧
      t.newest = some ⟨s.time.ftb, 0x0501, 2, w.1, detail [(1, q.1), (1, 1), (4, p.next.toNat)]⟩ ∧ Only [.wick, .log, .sad] s t) := by
  have heq : wickExceptionEffect w q s = s.raise w q 0x01 0 p.next p.branch 0 := by
    unfold wickExceptionEffect
    rw [if_neg (by rw [hrun]; decide), hpair]
  refine ⟨fun hbr halt hlen => ⟨_, rfl, ?_⟩, fun hbr => ⟨_, rfl, ?_⟩⟩
  · have henter : s.raise w q 0x01 0 p.next p.branch 0 = s.setWick w fun k =>
        (k.updT q fun th => { th with victim := .none }).enter q p.next 1 0 0 0 :=
      hbr ▸ raise_enters s w q 1 0 p.next 0 halt hlen (by decide) (by decide)
    rw [heq, henter]
    obtain ⟨acc, -, hpc, hg, -, hstack, halt', -⟩ :=
      enter_thread (s.wick[w].updT q fun th => { th with victim := .none }) q p.next 1 0 0 0
    rw [show (s.wick[w].updT q fun th => { th with victim := .none }).threads[q] = _ from upd_self _ _ _] at hg hstack halt'
    refine ⟨?_, ?_, ?_, ?_, setWick_only s w _⟩ <;> rw [State.setWick_wick, upd_self]
    · exact hpc
    · exact halt'.trans (congrArg (!·) halt)
    · exact hstack
    · exact hg
  · have hfault : s.raise w q 0x01 0 p.next p.branch 0 = s.faultThread w q 0x01 0 p.next 0 := if_pos (by simp [hbr])
    rw [heq, hfault]
    obtain ⟨hrun', -, hg, -⟩ := faultThread_thread s w q 0x01 0 p.next 0
    exact ⟨hrun', hg, (faultThread_cause s w q 0x01 0 p.next 0).2, rfl, faultThread_only s w q 0x01 0 p.next 0⟩

/-- A suppressed victim whose encoding is ILLEGAL is passed over. -/
theorem wickException_passes (hrun : s.wick[w].threads[q].run = .running) (hvic : s.wick[w].threads[q].victim = .suppress)
    (hpair : s.wick[w].illegalSecond q = none)
    (hill : decodeWick w q false .clean s.wick[w].testState (s.slot w q).wick[w].threads[q].buf = .illegal) :
    Completes (.wickException w q) s fun t =>
      Thread.same { s.wick[w].threads[q] with pc := t.wick[w].threads[q].pc } t.wick[w].threads[q] ∧ t.wick[w].threads[q].victim = .none ∧
      t.wick[w].threads[q].pc = s.wick[w].threads[q].pc +
        BitVec.ofNat 18 (min (encodedLen (s.slot w q).wick[w].threads[q].buf) (s.slot w q).wick[w].threads[q].buf.length) ∧ Only [.wick] s t := by
  refine ⟨_, rfl, ?_⟩
  have heq : wickExceptionEffect w q s = (s.slot w q).consume w q := by
    rw [wickExceptionEffect_eq hrun hpair (fun h => by rw [hvic] at h; cases h), hill, hvic]
    rfl
  rw [heq]
  obtain ⟨hsame, hnone, hpc⟩ := consume_thread (s.slot w q) w q
  rw [(slot_thread_same s w q q).2.1] at hpc
  exact ⟨((slot_thread_same s w q q).setPc _).trans hsame, hnone, hpc, (setWick_only s w _).step (setWick_only _ w _)⟩

/-! ## Hangs (R244) and waits for a map row (R155, R248) -/

/-- A targeted test begins on a Wick: beside its test state the Wick is as before. -/
theorem targetWk_wick (s : State) (w : WkId) : ∃ x, (s.targetWk w).wick[w] = { s.wick[w] with tst := x } := by
  unfold State.targetWk
  split
  · exact ⟨_, rfl⟩
  · exact ⟨_, upd_self s.wick w _⟩

/-- What the hang of a thread comes to at a count: a fault of cause 0x09, in the slot of the thread if it runs. -/
def State.hangAt (s : State) (w : WkId) (t : Fin 4) (limit : Nat) : State :=
  let s := s.reach limit
  let slot := decide (s.wick[w].threads[t].run = .running)
  let s := if slot then s.slot w t else s
  ((s.setWick w fun k => k.updT t fun th => { th with rcw := none }).faultThread w t 0x09 0 s.wick[w].threads[t].pc
    (if slot then 1 else 0)).targetWk w

theorem wickHangEffect_eq {a : Nat} (hstart : s.wick[w].threads[q].started = some a) (harm : s.job.state = .armed)
    (hhalt : s.wick[w].reachedHalt q = false) : wickHangEffect w q s = s.hangAt w q (a + 2 * s.job.period + 50000000) := by
  unfold wickHangEffect
  rw [hstart]
  dsimp only
  rw [if_neg (by rw [harm, hhalt]; decide)]
  rfl

theorem hangAt_eq (s : State) (w : WkId) (q : Fin 4) (limit : Nat) : ∃ (u : State) (n : Nat), limit ≤ u.time.ftb ∧
    s.hangAt w q limit = (u.faultThread w q 0x09 0 s.wick[w].threads[q].pc n).targetWk w := by
  have hpc : (s.reach limit).wick[w].threads[q].pc = s.wick[w].threads[q].pc := by rw [reach_wick]
  have hle := le_reach s limit
  unfold State.hangAt
  dsimp only
  by_cases hrun : (s.reach limit).wick[w].threads[q].run = .running
  · rw [decide_eq_true hrun, if_pos rfl, (slot_thread_same (s.reach limit) w q q).2.1, hpc]
    refine ⟨_, _, ?_, rfl⟩
    exact hle
  · rw [decide_eq_false hrun, if_neg (by decide), hpc]
    refine ⟨_, _, ?_, rfl⟩
    exact hle

/-- A thread past its time limit is FAULTED, and the fault is logged at the limit or later. -/
theorem wickHang_faults {a : Nat} (hstart : s.wick[w].threads[q].started = some a) (harm : s.job.state = .armed)
    (hhalt : s.wick[w].reachedHalt q = false) :
    Completes (.wickHang w q) s fun t =>
      t.wick[w].threads[q].run = .faulted ∧ a + 2 * s.job.period + 50000000 ≤ t.time.ftb ∧ t.wick[w].faultC = 0x09 ∧
      t.newest = some ⟨t.time.ftb, 0x0501, 2, w.1, detail [(1, q.1), (1, 9), (4, s.wick[w].threads[q].pc.toNat)]⟩ := by
  refine ⟨wickHangEffect w q s, rfl, ?_⟩
  rw [wickHangEffect_eq hstart harm hhalt]
  generalize a + 2 * s.job.period + 50000000 = limit
  obtain ⟨u, n, hle, heq⟩ := hangAt_eq s w q limit
  rw [heq]
  obtain ⟨x, hx⟩ := targetWk_wick (u.faultThread w q 0x09 0 s.wick[w].threads[q].pc n) w
  have hkeep := targetWk_only (u.faultThread w q 0x09 0 s.wick[w].threads[q].pc n) w
  have htime : ((u.faultThread w q 0x09 0 s.wick[w].threads[q].pc n).targetWk w).time = u.time := hkeep .time (by simp)
  rw [hx, htime, newest_congr (hkeep .log (by simp))]
  exact ⟨(faultThread_thread u w q 0x09 0 _ n).1, hle, (faultThread_cause u w q 0x09 0 _ n).1, rfl⟩

/-- A row-completion wait ends once the counter is above its row, and stays while it is not. -/
theorem rcwWaitEnd_ends {r : RcwWait} (hrcw : s.wick[w].threads[q].rcw = some r) (hrun : s.wick[w].threads[q].run = .waiting) :
    (r.row < s.fab.rowCount r.region r.buf →
      Completes (.rcwWaitEnd w q) s fun t =>
        t.wick[w].threads[q].run = .running ∧ t.wick[w].threads[q].rcw = none ∧ t.wick[w].threads[q].pc = s.wick[w].threads[q].pc ∧
        t.wick[w].threads[q].g = s.wick[w].threads[q].g ∧ Only [.wick] s t) ∧
    (s.fab.rowCount r.region r.buf ≤ r.row → Completes (.rcwWaitEnd w q) s fun t => t = s) := by
  have heq : rcwWaitEndEffect w q s = if s.wick[w].threads[q].run = .waiting ∧ r.row < s.fab.rowCount r.region r.buf then
      s.setWick w fun k => k.updT q fun th => { th with run := .running, rcw := none } else s := by
    unfold rcwWaitEndEffect
    rw [hrcw]
  refine ⟨fun hrow => ⟨_, rfl, ?_⟩, fun hrow => ⟨_, rfl, heq.trans (if_neg fun h => absurd h.2 (by omega))⟩⟩
  rw [heq, if_pos ⟨hrun, hrow⟩]
  refine ⟨?_, ?_, ?_, ?_, setWick_only s w _⟩ <;> rw [State.setWick_wick, upd_self, Wick.updT, upd_self]

/-- The thread waits on, with its wait marked, and RCW_STALL is logged at a count or later. -/
theorem rcwMarked_logs (s : State) (w : WkId) (q : Fin 4) (r : RcwWait) (n : Nat) (t : State)
    (ht : t = ((s.reach n).setWick w fun k => k.updT q fun th => { th with rcw := some { r with logged := true } }).logEv 0x0505 2 w.1
      [(1, q.1), (2, r.region), (1, r.buf), (4, r.row)]) :
    t.wick[w].threads[q].rcw = some { r with logged := true } ∧ t.wick[w].threads[q].run = s.wick[w].threads[q].run ∧ n ≤ t.time.ftb ∧
      t.newest = some ⟨t.time.ftb, 0x0505, 2, w.1, detail [(1, q.1), (2, r.region), (1, r.buf), (4, r.row)]⟩ ∧
      Only [.wick, .time, .mem, .log, .host, .misc, .sad] s t := by
  have hth : t.wick[w].threads[q] = { (s.reach n).wick[w].threads[q] with rcw := some { r with logged := true } } := by
    rw [ht]
    show (upd (s.reach n).wick w _)[w].threads[q] = _
    rw [upd_self, Wick.updT, upd_self]
  have hlog : t.newest = some ⟨t.time.ftb, 0x0505, 2, w.1, detail [(1, q.1), (2, r.region), (1, r.buf), (4, r.row)]⟩ := by rw [ht]; rfl
  have hftb : t.time.ftb = (s.reach n).time.ftb := by rw [ht]; rfl
  have honly : Only [.wick, .time, .mem, .log, .host, .misc, .sad] s t :=
    ht ▸ (((reach_only s n).mono (by simp)).right (setWick_only _ w _) (by simp)).right (logEv_only _ _ _ _ _) (by simp)
  exact ⟨by rw [hth], by rw [hth, reach_wick], hftb ▸ le_reach s n, hlog, honly⟩

/-- A wait of 1,000,000 ticks is logged, and the thread waits on. -/
theorem rcwStall_logs {r : RcwWait} (hrcw : s.wick[w].threads[q].rcw = some r) (hlog : r.logged = false) :
    Completes (.rcwStall w q) s fun t =>
      t.wick[w].threads[q].rcw = some { r with logged := true } ∧ t.wick[w].threads[q].run = s.wick[w].threads[q].run ∧
      r.since + 1000000 ≤ t.time.ftb ∧
      t.newest = some ⟨t.time.ftb, 0x0505, 2, w.1, detail [(1, q.1), (2, r.region), (1, r.buf), (4, r.row)]⟩ ∧
      Only [.wick, .time, .mem, .log, .host, .misc, .sad] s t := by
  refine ⟨rcwStallEffect w q s, rfl, rcwMarked_logs s w q r (r.since + 1000000) _ ?_⟩
  unfold rcwStallEffect
  rw [hrcw]
  dsimp only
  rw [if_neg (by rw [hlog]; decide)]

end

/-! ## O41 -/

/-- Settles O41 from the rules of the events above, one for each of its clauses; the bytes that a suppressed victim takes are the
model's choice (log 80). -/
theorem wickEventsEnterOrEndThreads : Obligations.WickEventsEnterOrEndThreads :=
  ⟨fun _ _ _ _ => wickInterruptEntry_enters, fun _ _ _ => wickException_traps, fun _ _ _ _ => wickException_second,
    fun _ _ _ => wickException_passes, fun _ _ _ _ => wickHang_faults, fun _ _ _ _ => rcwWaitEnd_ends, fun _ _ _ _ => rcwStall_logs⟩

end Sys2Proof.Machine
end

section
/-! # PROOFS. Store-buffer drains, refills, fabric accesses of local memory, and control-page stores (O42). -/
namespace Sys2Proof.Machine

/-! ## One Wick replaced -/

@[simp] theorem setWick_self (s : State) (w : WkId) (f : Wick → Wick) : (s.setWick w f).wick[w] = f s.wick[w] := upd_self s.wick w f

/-! ## Local memory through the remap (R231) and the correction (R232) -/

section
variable {s t : State} {w : WkId}

theorem localAddr_congr (hjob : t.job = s.job) (hrel : t.rel = s.rel) (hswap : t.wick[w].swapped = s.wick[w].swapped) :
    t.localAddr w = s.localAddr w := by
  funext off
  unfold State.localAddr State.remap
  rw [hjob, hrel, hswap]

theorem localAddr_setWick (f : Wick → Wick) (hswap : (f s.wick[w]).swapped = s.wick[w].swapped) :
    (s.setWick w f).localAddr w = s.localAddr w :=
  localAddr_congr rfl rfl (by rw [setWick_self, hswap])

theorem localBytes_setWick (f : Wick → Wick) (hswap : (f s.wick[w]).swapped = s.wick[w].swapped) (off n : Nat) :
    (s.setWick w f).localBytes w off n = s.localBytes w off n := by
  unfold State.localBytes
  rw [localAddr_setWick f hswap, State.setWick_mem]

theorem localWrite_setWick_mem (f : Wick → Wick) (hswap : (f s.wick[w]).swapped = s.wick[w].swapped) (off : Nat) (l : List Byte) :
    ((s.setWick w f).localWrite w off l).mem = (s.localWrite w off l).mem := by
  unfold State.localWrite
  rw [localAddr_setWick f hswap]
  rfl

/-- A line whose check finds nothing. -/
theorem checkLine_clean {off access : Nat} (h : s.mem.eccAt (s.localAddr w (off / 16 * 16)) = 0) : s.checkLine w off access = (s, false) := by
  unfold State.checkLine
  dsimp only
  rw [h, if_neg (by decide), if_neg (by decide)]

/-- An uncorrectable line. -/
theorem checkLine_bad {off access : Nat} (h : s.mem.eccAt (s.localAddr w (off / 16 * 16)) = 2) : (s.checkLine w off access).2 = true := by
  unfold State.checkLine
  dsimp only
  rw [h, if_neg (by decide), if_pos rfl]

/-- The check of a line counts what it finds, and may begin a targeted test; else its Wick is as before. -/
theorem checkLine_wick (s : State) (w : WkId) (off access : Nat) :
    ∃ ce ue x, (s.checkLine w off access).1.wick[w] = { s.wick[w] with lmCe := ce, lmUe := ue, tst := x } := by
  rcases hc : s.checkLine w off access with ⟨u, bad⟩
  unfold State.checkLine at hc
  dsimp only at hc
  split at hc
  · cases hc
    exact ⟨_, _, _, setWick_self s w _⟩
  split at hc
  · cases hc
    obtain ⟨x, hx⟩ := targetWk_wick ((s.setWick w fun k => { k with lmUe := satInc k.lmUe }).logEv 0x0503 2 w.1
      [(4, off / 16 * 16), (1, access)]) w
    have hw : ((s.setWick w fun k => { k with lmUe := satInc k.lmUe }).logEv 0x0503 2 w.1 [(4, off / 16 * 16), (1, access)]).wick[w] =
      { s.wick[w] with lmUe := satInc s.wick[w].lmUe } := setWick_self s w _
    exact ⟨_, _, _, hx.trans (by rw [hw])⟩
  · cases hc
    exact ⟨_, _, _, rfl⟩

end

/-! ## Drains and refills (R228, R229, R235) -/

section
variable {s : State} {w : WkId}

/-- The oldest entry of the store buffer is written, in the port's next two cycles. -/
theorem storeBufferDrain_writes {e : SbEntry} {rest : List SbEntry} (hsb : s.wick[w].sb = e :: rest)
    (hecc : s.mem.eccAt (s.localAddr w (e.addr / 16 * 16)) = 0) :
    Completes (.storeBufferDrain w) s fun t =>
      t.wick[w].sb = rest ∧ t.wick[w].port = max s.wick[w].port s.wick[w].wcyc + 2 ∧
      t.mem = (s.localWrite w e.addr e.bytes).mem.setEcc (s.localAddr w (e.addr / 16 * 16)) 0 ∧
      (∀ q : Fin 4, t.wick[w].threads[q] = s.wick[w].threads[q]) ∧ Only [.wick, .mem] s t := by
  refine ⟨storeBufferDrainEffect w s, rfl, ?_⟩
  let u : State := s.setWick w fun k => { k with sb := k.sb.drop 1 }
  have haddr : u.localAddr w = s.localAddr w := localAddr_setWick _ rfl
  have hclean : u.checkLine w e.addr 3 = (u, false) := checkLine_clean (by rw [haddr]; exact hecc)
  have heq : storeBufferDrainEffect w s =
      ((u.localWrite w e.addr e.bytes).setMem ((u.localWrite w e.addr e.bytes).mem.setEcc (s.localAddr w (e.addr / 16 * 16)) 0)).setWick w
        fun k => { k with port := k.portFree + 2 } := by
    unfold storeBufferDrainEffect
    rw [if_neg (by rw [hsb]; exact List.cons_ne_nil _ _)]
    have hone : s.drainOldest w 1 = u.drainEntry w e := by
      unfold State.drainOldest
      rw [hsb]
      rfl
    have hmem : (u.localWrite w e.addr e.bytes).localAddr w = s.localAddr w := haddr
    rw [hone, State.drainEntry, hclean]
    dsimp only
    rw [hmem]
  have hw : u.wick[w] = { s.wick[w] with sb := s.wick[w].sb.drop 1 } := upd_self _ _ _
  have ht : (storeBufferDrainEffect w s).wick[w] = { s.wick[w] with sb := rest, port := max s.wick[w].port s.wick[w].wcyc + 2 } := by
    rw [heq]
    refine (upd_self _ _ _).trans ?_
    show { u.wick[w] with port := u.wick[w].portFree + 2 } = _
    rw [hw, hsb]
    rfl
  refine ⟨by rw [ht], by rw [ht], ?_, fun _ => by rw [ht], ?_⟩ <;> rw [heq]
  · exact congrArg (MemBlk.setEcc · _ 0) (localWrite_setWick_mem _ rfl _ _)
  · exact ((((setWick_only s w _).mono (by simp)).right (setMem_only _ _) (by simp)).right (setMem_only _ _) (by simp)).right
      (setWick_only _ w _) (by simp)

/-- The refill of thread q, which the port serves next. -/
theorem refillEffect_eq {q : Fin 4} (hsb : s.wick[w].sb = []) (hq : s.wick[w].refillThread = some q) :
    refillEffect w s =
      let u := s.setWick w fun k => { k with port := s.wick[w].portFree + 1 }
      let c := u.checkLine w s.wick[w].threads[q].fetchAt 1
      if c.2 then
        (c.1.setWick w fun k => { (k.updT q fun th => { th with run := .faulted, victim := .none }) with
          faultV := true, faultT := q, faultC := 0x08, faultPc := s.wick[w].threads[q].pc, faultAddr := 0 }).logEv 0x0501 2 w.1
            [(1, q.1), (1, 0x08), (4, s.wick[w].threads[q].pc.toNat)]
      else c.1.setWick w fun k => k.updT q fun th => { th with coming := th.coming ++ [(s.wick[w].portFree + 2,
        c.1.localBytes w s.wick[w].threads[q].fetchAt (16 - s.wick[w].threads[q].fetchAt % 16))] } := by
  unfold refillEffect
  rw [if_pos hsb, hq]

theorem instructionRefill_brings {q : Fin 4} (hsb : s.wick[w].sb = []) (hq : s.wick[w].refillThread = some q)
    (hecc : s.mem.eccAt (s.localAddr w (s.wick[w].threads[q].fetchAt / 16 * 16)) = 0) :
    Completes (.instructionRefill w) s fun t =>
      t.wick[w].threads[q] = { s.wick[w].threads[q] with
        coming := s.wick[w].threads[q].coming ++ [(max s.wick[w].port s.wick[w].wcyc + 2,
          s.localBytes w s.wick[w].threads[q].fetchAt (16 - s.wick[w].threads[q].fetchAt % 16))] } ∧
      (∀ r : Fin 4, r ≠ q → t.wick[w].threads[r] = s.wick[w].threads[r]) ∧
      t.wick[w].port = max s.wick[w].port s.wick[w].wcyc + 1 ∧ Only [.wick] s t := by
  refine ⟨refillEffect w s, rfl, ?_⟩
  have hclean : (s.setWick w fun k => { k with port := s.wick[w].portFree + 1 }).checkLine w s.wick[w].threads[q].fetchAt 1 =
      (s.setWick w fun k => { k with port := s.wick[w].portFree + 1 }, false) :=
    checkLine_clean (by rw [localAddr_setWick _ (by rfl)]; exact hecc)
  have heq : refillEffect w s = (s.setWick w fun k => { k with port := s.wick[w].portFree + 1 }).setWick w fun k => k.updT q fun th =>
      { th with coming := th.coming ++ [(s.wick[w].portFree + 2,
        s.localBytes w s.wick[w].threads[q].fetchAt (16 - s.wick[w].threads[q].fetchAt % 16))] } := by
    rw [refillEffect_eq hsb hq]
    dsimp only
    rw [hclean, localBytes_setWick _ (by rfl)]
    rfl
  rw [heq]
  refine ⟨?_, fun r hr => ?_, ?_, (setWick_only s w _).step (setWick_only _ w _)⟩ <;> rw [setWick_self, setWick_self]
  · exact upd_self _ _ _
  · exact upd_other _ _ _ _ hr
  · rfl

theorem instructionRefill_faults {q : Fin 4} (hsb : s.wick[w].sb = []) (hq : s.wick[w].refillThread = some q)
    (hecc : s.mem.eccAt (s.localAddr w (s.wick[w].threads[q].fetchAt / 16 * 16)) = 2) :
    Completes (.instructionRefill w) s fun t =>
      t.wick[w].threads[q].run = .faulted ∧ t.wick[w].faultC = 0x08 ∧ t.wick[w].faultPc = s.wick[w].threads[q].pc ∧
      t.newest = some ⟨s.time.ftb, 0x0501, 2, w.1, detail [(1, q.1), (1, 8), (4, s.wick[w].threads[q].pc.toNat)]⟩ := by
  refine ⟨refillEffect w s, rfl, ?_⟩
  have hbad : ((s.setWick w fun k => { k with port := s.wick[w].portFree + 1 }).checkLine w s.wick[w].threads[q].fetchAt 1).2 = true :=
    checkLine_bad (by rw [localAddr_setWick _ (by rfl)]; exact hecc)
  rw [refillEffect_eq hsb hq]
  dsimp only
  rw [if_pos hbad]
  generalize hu : ((s.setWick w fun k => { k with port := s.wick[w].portFree + 1 }).checkLine w s.wick[w].threads[q].fetchAt 1).1 = u
  have htime : u.time = s.time := hu ▸ checkLine_only _ w _ 1 .time (by simp)
  have hself := setWick_self u w fun k => { (k.updT q fun th => { th with run := .faulted, victim := .none }) with
    faultV := true, faultT := q, faultC := 0x08, faultPc := s.wick[w].threads[q].pc, faultAddr := 0 }
  refine ⟨?_, congrArg Wick.faultC hself, congrArg Wick.faultPc hself, ?_⟩
  · exact (congrArg (fun k : Wick => k.threads[q].run) hself).trans (congrArg Thread.run (upd_self _ q _))
  · rw [newest_logEv, State.setWick_time, htime]

end

/-! ## Fabric accesses of local memory (R228, R230, R321) -/

section
variable {s : State} {w : WkId} {port off n : Nat}

/-- A read through the correction leaves the port of its Wick. -/
theorem localRead_port (s : State) (w : WkId) (n : Nat) (hoff : off < 0x00040000) :
    ((s.localRead w off n).1.wick[w]).port = s.wick[w].port := by
  unfold State.localRead
  rw [if_pos hoff]
  refine List.foldlRecOn (motive := fun a : State × Bool => (a.1.wick[w]).port = s.wick[w].port) _ _ rfl fun a ha i _ => ?_
  obtain ⟨_, _, _, hline⟩ := checkLine_wick a.1 w (off / 16 * 16 + 16 * i) 2
  exact (congrArg Wick.port hline).trans ha

theorem usePort_port (s : State) (w : WkId) (n : Nat) (hoff : off < 0x00040000) :
    ((s.usePort w off n).wick[w]).port = max s.wick[w].port s.wick[w].wcyc + (off % 16 + n + 15) / 16 := by
  have heq : s.usePort w off n = s.setWick w fun k => { k with port := k.portFree + (off % 16 + n + 15) / 16 } := if_pos hoff
  rw [heq, setWick_self]
  rfl

theorem usePort_only (s : State) (w : WkId) (off n : Nat) : Only [.wick] s (s.usePort w off n) := by
  unfold State.usePort
  split
  · exact setWick_only s w _
  · exact Only.refl _ s

theorem localPut_only (s : State) (w : WkId) (off : Nat) (l : List Byte) : Only [.mem] s (s.localPut w off l) := by
  unfold State.localPut
  split
  · exact (setMem_only s _).step (setMem_only _ _)
  · exact setMem_only s _

/-- A fabric access that nothing holds up at its source. -/
theorem localFabricEffect_eq {wr : Option (List Byte)} (hgo : ¬ (0x00080000 < off + (match wr with | some l => l.length | none => n) ∨
    s.moving (wickBase w.1) = true ∨
    s.portWaits (wickBase w.1 + off) (match wr with | some l => l.length | none => n) wr.isSome = true)) :
    localFabricEffect w port off n wr s = if (s.localFabric w port off n wr).2 then (s.localFabric w port off n wr).1
      else (s.localFabric w port off n wr).1.emit (.fabricError port (wickBase w.1 + off)) := if_neg hgo

theorem nothingHolds {len : Nat} {write : Bool} (hlen : off + len ≤ 0x00080000) (hmove : s.moving (wickBase w.1) = false)
    (hport : s.portWaits (wickBase w.1 + off) len write = false) :
    ¬ (0x00080000 < off + len ∨ s.moving (wickBase w.1) = true ∨ s.portWaits (wickBase w.1 + off) len write = true) := by
  rw [hmove, hport]
  simpa using hlen

theorem localFabricAccess_reads (hlen : off + n ≤ 0x00080000) (hmove : s.moving (wickBase w.1) = false)
    (hport : s.portWaits (wickBase w.1 + off) n false = false) :
    Completes (.localFabricAccess w port off n none) s fun t =>
      t = (((s.usePort w off n).localRead w off n).1).emit
        (.bytes (wickBase w.1 + off) ((s.usePort w off n).localRead w off n).2.1 ((s.usePort w off n).localRead w off n).2.2) ∧
      (off < 0x00040000 → t.wick[w].port = max s.wick[w].port s.wick[w].wcyc + (off % 16 + n + 15) / 16) := by
  refine ⟨_, rfl, ?_⟩
  rw [localFabricEffect_eq (wr := none) (nothingHolds hlen hmove hport)]
  refine ⟨rfl, fun hoff => ?_⟩
  rw [← usePort_port s w n hoff]
  exact localRead_port _ w n hoff

theorem localFabricAccess_writes {l : List Byte} (hlen : off + l.length ≤ 0x00080000) (hmove : s.moving (wickBase w.1) = false)
    (hport : s.portWaits (wickBase w.1 + off) l.length true = false)
    (hopen : s.job.state ≠ .armed ∨ 0x00040000 ≤ off ∨ s.inShadow w off l.length = true) :
    Completes (.localFabricAccess w port off n (some l)) s fun t =>
      t = (s.usePort w off l.length).localPut w off l ∧ Only [.mem, .wick] s t := by
  refine ⟨_, rfl, ?_⟩
  have hput : s.localFabric w port off n (some l) = ((s.usePort w off l.length).localPut w off l, true) := by
    unfold State.localFabric
    refine if_neg fun h => ?_
    simp only [Bool.and_eq_true, decide_eq_true_eq, beq_iff_eq, Bool.not_eq_true'] at h
    obtain ⟨⟨hoff, harm⟩, hshadow⟩ := h
    rcases hopen with h | h | h
    · exact h harm
    · omega
    · rw [hshadow] at h; cases h
  rw [localFabricEffect_eq (wr := some l) (nothingHolds hlen hmove hport), hput]
  exact ⟨rfl, ((usePort_only s w off _).mono (by simp)).right (localPut_only _ w off l) (by simp)⟩

/-- A write to local memory of an armed job outside a shadow is refused and logged (R230). -/
theorem localFabricAccess_refuses {l : List Byte} (hoff : off < 0x00040000) (hlen : off + l.length ≤ 0x00080000)
    (hmove : s.moving (wickBase w.1) = false) (hport : s.portWaits (wickBase w.1 + off) l.length true = false)
    (harm : s.job.state = .armed) (hshadow : s.inShadow w off l.length = false) :
    Completes (.localFabricAccess w port off n (some l)) s fun t =>
      t.newest = some ⟨s.time.ftb, 0x0504, 2, w.1, detail [(8, wickBase w.1 + off), (1, port)]⟩ ∧
      t.misc = (s.emit (.fabricError port (wickBase w.1 + off))).misc ∧ Only [.log, .sad, .misc] s t := by
  refine ⟨_, rfl, ?_⟩
  have hlog : s.localFabric w port off n (some l) = (s.logEv 0x0504 2 w.1 [(8, wickBase w.1 + off), (1, port)], false) := by
    unfold State.localFabric
    exact if_pos (by rw [decide_eq_true hoff, harm, hshadow]; rfl)
  rw [localFabricEffect_eq (wr := some l) (nothingHolds hlen hmove hport), hlog]
  exact ⟨rfl, rfl, ((logEv_only s _ _ _ _).mono (by simp)).right (emit_only _ _) (by simp)⟩

theorem localFabricAccess_waits {wr : Option (List Byte)} (hwait : s.moving (wickBase w.1) = true ∨
    s.portWaits (wickBase w.1 + off) (match wr with | some l => l.length | none => n) wr.isSome = true) :
    Completes (.localFabricAccess w port off n wr) s fun t => t = s :=
  ⟨_, rfl, if_pos (Or.inr hwait)⟩

end

/-! ## The control page (R245, R246, R248, R250) -/

/-- A write to CP_TAPER_OWNER with no Taper instruction before it stands as it is while W-cycles pass. -/
theorem pass_owner_none {k : Wick} {r d : Nat} (h : k.ownDue = none) : (k.pass r d).taperOwn = k.taperOwn := by
  unfold Wick.pass Wick.settleOwner
  dsimp only
  rw [h]

/-- One that waits for Taper instructions waits until the last of them is complete. -/
theorem pass_owner_due {k : Wick} {r d due : Nat} {v : W32} (h : k.ownDue = some (due, v)) (hdue : k.rho + r < due) :
    (k.pass r d).taperOwn = k.taperOwn ∧ (k.pass r d).ownDue = some (due, v) := by
  unfold Wick.pass Wick.settleOwner
  dsimp only
  rw [h]
  dsimp only
  rw [if_neg (by omega)]
  exact ⟨rfl, rfl⟩

theorem foldl_max_le_iff (l : List Nat) (a n : Nat) : l.foldl max a ≤ n ↔ a ≤ n ∧ ∀ x ∈ l, x ≤ n := by
  induction l generalizing a with
  | nil => simp
  | cons y l ih =>
    rw [List.foldl_cons, ih, Nat.max_le, List.forall_mem_cons, and_assoc]

/-- The last W-cycle of the TREPs under way at a Wick (R245). -/
def Wick.lastTrep (k : Wick) : Nat := (k.threads.toList.map fun th => th.trepEnd).foldl max 0

theorem lastTrep_le_iff (k : Wick) (n : Nat) : k.lastTrep ≤ n ↔ ∀ r : Fin 4, k.threads[r].trepEnd ≤ n := by
  unfold Wick.lastTrep
  rw [foldl_max_le_iff]
  constructor
  · intro h r
    exact h.2 _ (List.mem_map_of_mem (Vector.mem_toList_iff.mpr (Vector.getElem_mem _)))
  · intro h
    refine ⟨Nat.zero_le n, fun x hx => ?_⟩
    obtain ⟨th, hth, rfl⟩ := List.mem_map.mp hx
    obtain ⟨i, hi, rfl⟩ := Vector.getElem_of_mem (Vector.mem_toList_iff.mp hth)
    exact h ⟨i, hi⟩

/-- The registers of the page that are commands of their own (R245, R246, R248). -/
theorem cpWrite_owner (k : Wick) (t : Fin 4) (v : W32) (f : FabBlk) (now : Nat) : k.cpWrite t 0x0C v f now =
    if k.rho < k.lastTrep then { k with ownDue := some (k.lastTrep, v &&& 7) } else { k with taperOwn := v &&& 7, ownDue := none } := rfl

theorem cpWrite_ret (k : Wick) (t : Fin 4) (v : W32) (f : FabBlk) (now : Nat) : k.cpWrite t 0x10 v f now =
    k.updT t fun th => { th with stack := match th.stack with | _ :: r => v.setWidth 18 :: r | [] => [] } := rfl

theorem cpWrite_rcw (k : Wick) (t : Fin 4) (v : W32) (f : FabBlk) (now : Nat) : k.cpWrite t 0x14 v f now =
    k.updT t fun th => th.waitRow f now v := rfl

/-! ### CP_IRQ_SWI (R250) -/

/-- Pending bits set where a condition holds of their line. -/
theorem foldl_lines_bit (c : Fin 16 → Bool) (l : List (Fin 16)) (b : BitVec 16) (n : Fin 16) :
    (l.foldl (fun (b : BitVec 16) m => if c m then b ||| BitVec.ofNat 16 (2 ^ m.1) else b) b).getLsbD n.1 =
      (b.getLsbD n.1 || (decide (n ∈ l) && c n)) := by
  induction l generalizing b with
  | nil => simp
  | cons m l ih =>
    rw [List.foldl_cons, ih]
    have hbit : (BitVec.ofNat 16 (2 ^ m.1)).getLsbD n.1 = decide (n = m) := by
      rw [BitVec.getLsbD_ofNat, Nat.testBit_two_pow, decide_eq_true n.2, Bool.true_and]
      exact decide_eq_decide.mpr ⟨fun h => Fin.ext h.symm, fun h => h ▸ rfl⟩
    by_cases hc : c m = true
    · rw [if_pos hc, BitVec.getLsbD_or, hbit]
      by_cases hn : n = m
      · subst hn; simp [hc]
      · simp [hn]
    · rw [if_neg hc]
      by_cases hn : n = m
      · subst hn; simp [hc]
      · simp [hn]

theorem raiseIrq_bit (k : Wick) (p : Nat → W32 → Bool) (n : Fin 16) : (k.raiseIrq p).irqPend.getLsbD n.1 =
    (k.irqPend.getLsbD n.1 || (irqOn k.irqSrc[n] && p n.1 k.irqSrc[n])) := by
  have h := foldl_lines_bit (fun m => irqOn k.irqSrc[m] && p m.1 k.irqSrc[m]) (List.finRange 16) k.irqPend n
  rw [decide_eq_true (List.mem_finRange n), Bool.true_and] at h
  exact h

theorem cpIrqSwiWrite_pends (w : WkId) (q : Fin 4) (v : W32) (s : State) :
    Completes (.cpIrqSwiWrite (.wick w q) v) s fun t =>
      (∀ n : Fin 16, t.wick[w].irqPend.getLsbD n.1 =
        (s.wick[w].irqPend.getLsbD n.1 || (irqOn s.wick[w].irqSrc[n] && bit v.toNat n.1 && irqKind s.wick[w].irqSrc[n] == 2))) ∧
      Only [.wick] s t := by
  refine ⟨s.setWick w fun k => k.raiseIrq fun n src => bit v.toNat n && irqKind src == 2, rfl, fun n => ?_, setWick_only s w _⟩
  rw [setWick_self, raiseIrq_bit, Bool.and_assoc]

/-! ### Stores to the page -/

/-- A thread past an instruction of len bytes that writes registers. -/
def Thread.retired (th : Thread) (len : Nat) (writes : List (G × W64)) : Thread :=
  { th.advance len with g := regSets th.g writes, victim := .none }

/-- An instruction of a Wick that writes registers, beside what it makes of the state. -/
theorem issueWick_regs {s : State} {w : WkId} {q : Fin 4} {i : Instr} {len : Nat} {h : How} {run : State → Core → Run} {u : State}
    {writes : List (G × W64)} {n : Nat} (wide : Bool) (hi : Issues s w q i len)
    (hrun : run (s.slot w q) (s.coreAt (.wick w q wide .clean) len) = { Run.regs u writes with stall := n }) :
    ∃ pair, s.issueWick w q .clean i h run =
      u.setWick w fun k => { (k.updT q fun th => th.retired len writes).pass 1 n with pair := pair } := by
  rw [issueWick_eq s w q i len h run wide hi, hrun]
  exact ⟨_, rfl⟩

section
variable {s : State} {w : WkId} {q : Fin 4} {wide : Bool} {len off : Nat} {gs gb : G} {m : AMode}

/-- An aligned word of the page. -/
theorem scalarAt_page {ea : W64} (hea : ea.toNat = cpBase + off) (hoff : off + 4 ≤ 0x200) (hword : off % 4 = 0) :
    scalarAt ea 4 = .page off := by
  unfold scalarAt
  dsimp only
  unfold cpBase at *
  rw [hea, if_neg (by omega), if_neg (by omega), if_pos (by omega), Nat.add_sub_cancel_left]

/-- The Wick once a store to a word of the page has written it. -/
def State.pageWick (s : State) (w : WkId) (q : Fin 4) (off : Nat) (v : W64) : Wick :=
  (s.slot w q).wick[w].cpWrite q off (v.setWidth 32) s.fab s.time.ftb

/-- A store to a word of the page: the word is written in the thread's slot, and the store retires. -/
theorem pageStore_wick (hr : SiteReady s (.wick w q wide .clean) (.store (.wick w q wide .clean) .w gs m gb) len)
    (hea : (eaOf m (s.siteRegs (.wick w q wide .clean)) gb).1.toNat = cpBase + off) (hoff : off + 4 ≤ 0x200) (hword : off % 4 = 0) :
    ∃ writes pair, (pageStore (.wick w q wide .clean) off .w gs m gb s).wick[w] =
      { ((s.pageWick w q off (regGet (s.siteRegs (.wick w q wide .clean)) gs)).updT q fun th => th.retired len writes).pass 1 0 with
        pair := pair } ∧
      Only [.wick] s (pageStore (.wick w q wide .clean) off .w gs m gb s) := by
  obtain ⟨-, hi⟩ := hr
  have hpage : pageStore (.wick w q wide .clean) off .w gs m gb s =
      s.issueWick w q .clean (.store (.wick w q wide .clean) .w gs m gb) memHow (runStore (.wick w q wide .clean) .w gs m gb) :=
    if_pos (beq_iff_eq.mpr hea)
  have hrun : runStore (.wick w q wide .clean) .w gs m gb (s.slot w q) (s.coreAt (.wick w q wide .clean) len) =
      { Run.regs ((s.slot w q).setWick w fun _ => s.pageWick w q off (regGet (s.siteRegs (.wick w q wide .clean)) gs))
        (((eaOf m (s.siteRegs (.wick w q wide .clean)) gb).2.map fun b => (gb, b)).toList) with stall := 0 } := by
    unfold runStore State.storeAt State.wickStore
    dsimp only [State.coreAt]
    rw [show sizeBytes .w = 4 from rfl, scalarAt_page hea hoff hword]
    rfl
  obtain ⟨pair, heq⟩ := issueWick_regs (h := memHow) wide hi hrun
  rw [hpage, heq]
  refine ⟨_, pair, by rw [setWick_self, setWick_self], ?_⟩
  exact ((setWick_only s w _).step (setWick_only _ w _)).step (setWick_only _ w _)

/-- What the store leaves of its thread beside its registers: what the write to the page made of it, at the next instruction. -/
theorem pageStore_thread (hr : SiteReady s (.wick w q wide .clean) (.store (.wick w q wide .clean) .w gs m gb) len)
    (hea : (eaOf m (s.siteRegs (.wick w q wide .clean)) gb).1.toNat = cpBase + off) (hoff : off + 4 ≤ 0x200) (hword : off % 4 = 0)
    {th : Thread} (hth : (s.pageWick w q off (regGet (s.siteRegs (.wick w q wide .clean)) gs)).threads[q] = th) :
    let u := (pageStore (.wick w q wide .clean) off .w gs m gb s).wick[w].threads[q]
    u.run = th.run ∧ u.rcw = th.rcw ∧ u.stack = th.stack ∧ u.pc = th.pc + BitVec.ofNat 18 len := by
  obtain ⟨writes, pair, hwick, -⟩ := pageStore_wick hr hea hoff hword
  have hu : (pageStore (.wick w q wide .clean) off .w gs m gb s).wick[w].threads[q] = _ :=
    (congrArg (fun k : Wick => k.threads[q]) hwick).trans (pass_thread _ _ _ _)
  rw [Wick.updT, upd_self, hth] at hu
  rw [hu]
  exact ⟨rfl, rfl, rfl, rfl⟩

/-- A store to CP_RCW: the thread waits unless the counter is above the row already. -/
theorem cpRcwWrite_waits (hr : SiteReady s (.wick w q wide .clean) (.store (.wick w q wide .clean) .w gs m gb) len) (r : RcwWait)
    (hea : (eaOf m (s.siteRegs (.wick w q wide .clean)) gb).1.toNat = cpBase + 0x14)
    (hrow : r = ⟨bits ((regGet (s.siteRegs (.wick w q wide .clean)) gs).setWidth 32).toNat 31 20,
      bits ((regGet (s.siteRegs (.wick w q wide .clean)) gs).setWidth 32).toNat 19 19,
      bits ((regGet (s.siteRegs (.wick w q wide .clean)) gs).setWidth 32).toNat 18 0, s.time.ftb, false⟩) :
    Completes (.cpRcwWrite (.wick w q wide .clean) gs m gb) s fun t =>
      (s.fab.rowCount r.region r.buf ≤ r.row → t.wick[w].threads[q].run = .waiting ∧ t.wick[w].threads[q].rcw = some r) ∧
      (r.row < s.fab.rowCount r.region r.buf → t.wick[w].threads[q].run = .running) ∧
      t.sitePc (.wick w q wide .clean) = s.siteNext (.wick w q wide .clean) len ∧ Only [.wick] s t := by
  refine ⟨pageStore (.wick w q wide .clean) 0x14 .w gs m gb s, rfl, ?_⟩
  have hth : (s.pageWick w q 0x14 (regGet (s.siteRegs (.wick w q wide .clean)) gs)).threads[q] =
      if r.row < s.fab.rowCount r.region r.buf then (s.slot w q).wick[w].threads[q]
      else { (s.slot w q).wick[w].threads[q] with run := .waiting, rcw := some r } :=
    (upd_self _ q _).trans (by rw [hrow]; rfl)
  obtain ⟨hrun, hrcw, -, hpc⟩ := pageStore_thread hr hea (by decide) (by decide) hth
  obtain ⟨-, -, -, honly⟩ := pageStore_wick hr hea (by decide) (by decide)
  obtain ⟨srun, spc, -⟩ := slot_thread_same s w q q
  refine ⟨fun h => ?_, fun h => ?_, ?_, honly⟩
  · rw [if_neg (by omega)] at hrun hrcw
    exact ⟨hrun, hrcw⟩
  · rw [if_pos h] at hrun
    exact hrun.trans (srun.trans hr.2.1)
  · refine congrArg BitVec.toNat (hpc.trans ?_)
    split <;> exact congrArg (· + _) spc

/-- A store to CP_TAPER_OWNER with no TREP under way gives the owner at once. -/
theorem cpTaperOwnerWrite_owns (hr : SiteReady s (.wick w q wide .clean) (.store (.wick w q wide .clean) .w gs m gb) len)
    (hea : (eaOf m (s.siteRegs (.wick w q wide .clean)) gb).1.toNat = cpBase + 0x0C)
    (hdone : ∀ r : Fin 4, (s.slot w q).wick[w].threads[r].trepEnd ≤ (s.slot w q).wick[w].rho) :
    Completes (.cpTaperOwnerWrite (.wick w q wide .clean) gs m gb) s fun t =>
      t.wick[w].taperOwn = (regGet (s.siteRegs (.wick w q wide .clean)) gs).setWidth 32 &&& 7 ∧
      t.sitePc (.wick w q wide .clean) = s.siteNext (.wick w q wide .clean) len ∧ Only [.wick] s t := by
  refine ⟨pageStore (.wick w q wide .clean) 0x0C .w gs m gb s, rfl, ?_⟩
  have hpage : s.pageWick w q 0x0C (regGet (s.siteRegs (.wick w q wide .clean)) gs) = { (s.slot w q).wick[w] with
      taperOwn := (regGet (s.siteRegs (.wick w q wide .clean)) gs).setWidth 32 &&& 7, ownDue := none } := by
    rw [State.pageWick, cpWrite_owner, if_neg (Nat.not_lt.mpr ((lastTrep_le_iff _ _).mpr hdone))]
  obtain ⟨writes, pair, hwick, honly⟩ := pageStore_wick hr hea (by decide) (by decide)
  obtain ⟨-, -, -, hpc⟩ := pageStore_thread hr hea (by decide) (by decide) (congrArg (fun k : Wick => k.threads[q]) hpage)
  refine ⟨?_, congrArg BitVec.toNat (hpc.trans (congrArg (· + _) (slot_thread_same s w q q).2.1)), honly⟩
  rw [hwick, hpage]
  exact pass_owner_none rfl

/-- One with a TREP under way waits for it. -/
theorem cpTaperOwnerWrite_waits (hr : SiteReady s (.wick w q wide .clean) (.store (.wick w q wide .clean) .w gs m gb) len) (r : Fin 4)
    (hea : (eaOf m (s.siteRegs (.wick w q wide .clean)) gb).1.toNat = cpBase + 0x0C)
    (htrep : (s.slot w q).wick[w].rho + 1 < (s.slot w q).wick[w].threads[r].trepEnd) :
    Completes (.cpTaperOwnerWrite (.wick w q wide .clean) gs m gb) s fun t =>
      t.wick[w].taperOwn = (s.slot w q).wick[w].taperOwn ∧
      t.wick[w].ownDue.map (·.2) = some ((regGet (s.siteRegs (.wick w q wide .clean)) gs).setWidth 32 &&& 7) ∧
      t.sitePc (.wick w q wide .clean) = s.siteNext (.wick w q wide .clean) len ∧ Only [.wick] s t := by
  refine ⟨pageStore (.wick w q wide .clean) 0x0C .w gs m gb s, rfl, ?_⟩
  have hlast : (s.slot w q).wick[w].rho + 1 < (s.slot w q).wick[w].lastTrep :=
    htrep.trans_le ((lastTrep_le_iff _ _).mp le_rfl r)
  have hpage : s.pageWick w q 0x0C (regGet (s.siteRegs (.wick w q wide .clean)) gs) = { (s.slot w q).wick[w] with
      ownDue := some ((s.slot w q).wick[w].lastTrep, (regGet (s.siteRegs (.wick w q wide .clean)) gs).setWidth 32 &&& 7) } := by
    rw [State.pageWick, cpWrite_owner, if_pos (by omega)]
  obtain ⟨writes, pair, hwick, honly⟩ := pageStore_wick hr hea (by decide) (by decide)
  obtain ⟨-, -, -, hpc⟩ := pageStore_thread hr hea (by decide) (by decide) (congrArg (fun k : Wick => k.threads[q]) hpage)
  have howned : ((s.pageWick w q 0x0C (regGet (s.siteRegs (.wick w q wide .clean)) gs)).updT q fun th => th.retired len writes).ownDue =
      some ((s.slot w q).wick[w].lastTrep, (regGet (s.siteRegs (.wick w q wide .clean)) gs).setWidth 32 &&& 7) := by rw [hpage]; rfl
  obtain ⟨hown, hdue⟩ := pass_owner_due (r := 1) (d := 0) howned (by rw [hpage]; exact hlast)
  refine ⟨?_, ?_, congrArg BitVec.toNat (hpc.trans (congrArg (· + _) (slot_thread_same s w q q).2.1)), honly⟩ <;> rw [hwick]
  · exact hown.trans (by rw [hpage]; rfl)
  · exact congrArg (Option.map (·.2)) hdue

/-- A store to CP_RET replaces the top of the return stack. -/
theorem cpRetWrite_replaces (hr : SiteReady s (.wick w q wide .clean) (.store (.wick w q wide .clean) .w gs m gb) len)
    (a : BitVec 18) (l : List (BitVec 18)) (hea : (eaOf m (s.siteRegs (.wick w q wide .clean)) gb).1.toNat = cpBase + 0x10)
    (hstack : s.wick[w].threads[q].stack = a :: l) :
    Completes (.cpRetWrite (.wick w q wide .clean) gs m gb) s fun t =>
      t.wick[w].threads[q].stack = ((regGet (s.siteRegs (.wick w q wide .clean)) gs).setWidth 32).setWidth 18 :: l ∧
      t.sitePc (.wick w q wide .clean) = s.siteNext (.wick w q wide .clean) len ∧ Only [.wick] s t := by
  refine ⟨pageStore (.wick w q wide .clean) 0x10 .w gs m gb s, rfl, ?_⟩
  obtain ⟨-, spc, -, -, sstack, -⟩ := slot_thread_same s w q q
  have hth : (s.pageWick w q 0x10 (regGet (s.siteRegs (.wick w q wide .clean)) gs)).threads[q] = { (s.slot w q).wick[w].threads[q] with
      stack := ((regGet (s.siteRegs (.wick w q wide .clean)) gs).setWidth 32).setWidth 18 :: l } :=
    (upd_self _ q _).trans (by rw [sstack, hstack])
  obtain ⟨-, -, hs, hpc⟩ := pageStore_thread hr hea (by decide) (by decide) hth
  obtain ⟨-, -, -, honly⟩ := pageStore_wick hr hea (by decide) (by decide)
  exact ⟨hs, congrArg BitVec.toNat (hpc.trans (congrArg (· + _) spc)), honly⟩

end

/-! ## O42 -/

/-- Settles O42 from the rules above, one for each of its clauses. -/
theorem wickMemoriesAndControlPageAct : Obligations.WickMemoriesAndControlPageAct :=
  ⟨⟨fun _ _ _ _ => storeBufferDrain_writes, fun _ _ _ => instructionRefill_brings, fun _ _ _ => instructionRefill_faults,
    fun _ _ _ _ _ => localFabricAccess_reads, fun _ _ _ _ _ _ => localFabricAccess_writes, fun _ _ _ _ _ _ => localFabricAccess_refuses,
    fun _ _ _ _ _ _ => localFabricAccess_waits⟩,
    fun w q _ _ _ _ _ s hr => ⟨cpRcwWrite_waits hr, cpTaperOwnerWrite_owns hr, cpTaperOwnerWrite_waits hr, cpRetWrite_replaces hr,
      fun v => cpIrqSwiWrite_pends w q v s⟩⟩

end Sys2Proof.Machine
end

section
/-! # PROOFS. Scalar loads and stores of both sites (O40). -/
namespace Sys2Proof.Machine

/-! ## What an instruction that accesses local memory leaves (R228, R235) -/

section
variable {s u : State} {w : WkId} {q : Fin 4} {wide : Bool} {len : Nat}

theorem Thread.same.retired {a b : Thread} (h : Thread.same a b) (len : Nat) (writes : List (G × W64)) :
    Thread.same { a with g := regSets a.g writes, pc := a.pc + BitVec.ofNat 18 len } (b.retired len writes) := by
  obtain ⟨hrun, hpc, hg, hrest⟩ := h
  exact ⟨hrun, congrArg (· + _) hpc, congrArg (regSets · writes) hg, hrest⟩

/-- The thread once an instruction that writes registers has passed. -/
theorem retired_thread {a : Thread} (h : Thread.same a u.wick[w].threads[q]) (len : Nat) (writes : List (G × W64)) (n : Nat)
    (pair : Option PairFirst) : Thread.same { a with g := regSets a.g writes, pc := a.pc + BitVec.ofNat 18 len }
      (u.setWick w fun k => { (k.updT q fun th => th.retired len writes).pass 1 n with pair := pair }).wick[w].threads[q] := by
  rw [setWick_self]
  refine pass_same _ _ _ _ _ ?_
  rw [Wick.updT, upd_self]
  exact h.retired len writes

/-- An instruction that writes registers retires from a state in which its own effect has left what only instructions change. -/
theorem issueWick_regs_retires {i : Instr} {h : How} {run : State → Core → Run} {writes : List (G × W64)} {n : Nat}
    (hi : Issues s w q i len) (hrun : run (s.slot w q) (s.coreAt (.wick w q wide .clean) len) = { Run.regs u writes with stall := n })
    (hth : ∀ r : Fin 4, Thread.same s.wick[w].threads[r] u.wick[w].threads[r]) (hsb : u.wick[w].sb = s.wick[w].sb)
    (hirq : u.wick[w].irqPend = s.wick[w].irqPend) (htaper : u.wick[w].taper = s.wick[w].taper)
    (hothers : ∀ v : WkId, v ≠ w → u.wick[v] = s.wick[v]) (honly : Only [.wick] s u) :
    Retires s (s.issueWick w q .clean i h run) (.wick w q wide .clean) (regSets s.wick[w].threads[q].g writes)
      (s.siteNext (.wick w q wide .clean) len) (s.siteStack (.wick w q wide .clean)) := by
  obtain ⟨pair, heq⟩ := issueWick_regs (h := h) wide hi hrun
  have hnext : BitVec.ofNat 18 (s.siteNext (.wick w q wide .clean) len) = s.wick[w].threads[q].pc + BitVec.ofNat 18 len :=
    (BitVec.ofNat_toNat _ _).trans (BitVec.setWidth_eq _)
  have hstack : (s.siteStack (.wick w q wide .clean)).map (BitVec.ofNat 18 ·) = s.wick[w].threads[q].stack := ofNat_toNat_map 18 _
  rw [heq]
  refine ⟨?_, ⟨fun r hr => ?_, ?_, ?_, ?_, fun v hv => ?_⟩, honly.step (setWick_only u w _)⟩
  · rw [hnext, hstack]
    exact retired_thread (hth q) len writes n pair
  · rw [setWick_self]
    refine pass_same _ _ _ _ _ ?_
    rw [Wick.updT, upd_other _ _ _ _ hr]
    exact hth r
  · rw [setWick_self]
    exact (pass_sb _ _ _).trans hsb
  · rw [setWick_self]
    exact (pass_irqPend _ _ _).trans hirq
  · rw [setWick_self]
    exact (pass_taper _ _ _).trans htaper
  · exact (upd_other _ _ _ _ hv).trans (hothers v hv)

/-! ## Loads of local memory -/

theorem pass_swapped (k : Wick) (r d : Nat) : (k.pass r d).swapped = k.swapped := by
  obtain ⟨o, x, h⟩ := pass_eq k r d
  rw [h]

theorem toSlot_swapped (k : Wick) (t : Fin 4) : (k.toSlot t).swapped = k.swapped := pass_swapped k _ 0

theorem slot_localAddr (s : State) (w : WkId) (t : Fin 4) : (s.slot w t).localAddr w = s.localAddr w :=
  localAddr_setWick _ (toSlot_swapped _ t)

theorem slot_localBytes (s : State) (w : WkId) (t : Fin 4) (off n : Nat) : (s.slot w t).localBytes w off n = s.localBytes w off n :=
  localBytes_setWick _ (toSlot_swapped _ t) off n

/-- A load inside one line that overlaps no buffered store in part. -/
theorem loadLocal_whole (t : Fin 4) {a n : Nat} (hline : a % 16 + n ≤ 16) (hpart : partialAt s.wick[w].sb a n = 0) :
    s.loadLocal w t a n = ((s.loadPart w t a n).1.setWick w fun k => k.portTake 1, 0, (s.loadPart w t a n).2) := by
  unfold State.loadLocal halves
  rw [if_pos hline]
  simp only [List.map_cons, List.map_nil, List.foldl_cons, List.foldl_nil, hpart, Nat.max_self, if_pos, List.nil_append]
  rfl

theorem loadPart_empty (t : Fin 4) {a : Nat} (n : Nat) (hsb : s.wick[w].sb = []) (hecc : s.mem.eccAt (s.localAddr w (a / 16 * 16)) = 0) :
    s.loadPart w t a n = (s, s.localBytes w a n) := by
  unfold State.loadPart
  rw [hsb]
  show (let (u, bad) := s.checkLine w a 0
    let u := if bad then u.poisonThread w t 1 (a / 16 * 16) else u
    (u, u.localBytes w a n)) = _
  rw [checkLine_clean hecc]
  rfl

/-- The one buffered store, where the load matches it. -/
theorem youngest_one {e : SbEntry} {n : Nat} (hn : 0 < n) (hlen : e.bytes.length = n) : youngest [e] e.addr n = some (1, e) := by
  have hover : e.overlaps e.addr n = true := decide_eq_true ⟨by omega, by omega⟩
  simp [youngest, hover]

theorem partialAt_one {e : SbEntry} {n : Nat} (hn : 0 < n) (hlen : e.bytes.length = n) : partialAt [e] e.addr n = 0 := by
  unfold partialAt
  rw [youngest_one hn hlen]
  exact if_pos (by simp [SbEntry.exact, hlen])

theorem loadPart_one (t : Fin 4) {e : SbEntry} {n : Nat} (hn : 0 < n) (hsb : s.wick[w].sb = [e]) (hlen : e.bytes.length = n) :
    s.loadPart w t e.addr n = (s, e.bytes) := by
  unfold State.loadPart
  rw [hsb, youngest_one hn hlen]

theorem sizeBytes_pos (sz : Size) : 0 < sizeBytes sz := by cases sz <;> decide

/-- A load of local memory inside one line whose bytes are at hand retires with them. -/
theorem load_retires {a : Nat} {sz : Size} {uns : Bool} {gd gb : G} {m : AMode} {l : List Byte}
    (hr : SiteReady s (.wick w q wide .clean) (.load (.wick w q wide .clean) sz uns gd m gb) len) (hbase : (modeUpdates m && gd == gb) = false)
    (hea : scalarAt (eaOf m (s.siteRegs (.wick w q wide .clean)) gb).1 (sizeBytes sz) = .local_ a) (hline : a % 16 + sizeBytes sz ≤ 16)
    (hpart : partialAt s.wick[w].sb a (sizeBytes sz) = 0) (hload : (s.slot w q).loadPart w q a (sizeBytes sz) = (s.slot w q, l)) :
    Completes (.load (.wick w q wide .clean) sz uns gd m gb) s fun t =>
      Retires s t (.wick w q wide .clean) (regSets (s.siteRegs (.wick w q wide .clean)) ((gd, extend uns l) ::
        ((eaOf m (s.siteRegs (.wick w q wide .clean)) gb).2.map fun b => (gb, b)).toList))
        (s.siteNext (.wick w q wide .clean) len) (s.siteStack (.wick w q wide .clean)) := by
  obtain ⟨-, hi⟩ := hr
  refine ⟨s.issueWick w q .clean _ memHow (runLoad (.wick w q wide .clean) sz uns gd m gb), rfl, ?_⟩
  have hslot : (s.slot w q).wick[w] = (s.wick[w]).toSlot q := slot_wick s w q
  have hpart' : partialAt (s.slot w q).wick[w].sb a (sizeBytes sz) = 0 := by rw [hslot, toSlot_sb, hpart]
  have hrun : runLoad (.wick w q wide .clean) sz uns gd m gb (s.slot w q) (s.coreAt (.wick w q wide .clean) len) =
      { Run.regs ((s.slot w q).setWick w fun k => k.portTake 1) ((gd, extend uns l) ::
        ((eaOf m (s.siteRegs (.wick w q wide .clean)) gb).2.map fun b => (gb, b)).toList) with stall := 0 } := by
    unfold runLoad State.loadAt State.wickLoad
    dsimp only [State.coreAt]
    rw [hbase, hea]
    dsimp only
    rw [loadLocal_whole q hline hpart', hload]
    rfl
  have hwick : ((s.slot w q).setWick w fun k => k.portTake 1).wick[w] = ((s.wick[w]).toSlot q).portTake 1 := by rw [setWick_self, hslot]
  refine issueWick_regs_retires hi hrun (fun r => ?_) ?_ ?_ ?_ (fun v hv => ?_) ((setWick_only s w _).step (setWick_only _ w _))
  · rw [hwick, Wick.portTake]
    simp only [Fin.getElem_fin, Vector.getElem_map]
    exact hslot ▸ slot_thread_same s w q r
  · rw [hwick]
    exact toSlot_sb _ q
  · rw [hwick]
    exact toSlot_irqPend _ q
  · rw [hwick]
    exact toSlot_taper _ q
  · exact (upd_other _ _ _ _ hv).trans (slot_other s w v q hv)

/-! ## Stores of local memory -/

/-- A store inside one line, with room in the store buffer. -/
theorem storeLocal_room (t : Fin 4) {a : Nat} {l : List Byte} (hline : a % 16 + l.length ≤ 16) (hroom : s.wick[w].sb.length < 4) :
    s.storeLocal w t a l = (s.setWick w fun k => { k with sb := k.sb ++ [⟨a, l, t⟩] }, 0) := by
  have hwhole : slice l (a - a) l.length = l := by rw [Nat.sub_self, slice, List.drop_zero, List.take_length]
  unfold State.storeLocal halves
  rw [if_pos hline]
  simp only [List.length_cons, List.length_nil, List.map_cons, List.map_nil, hwhole]
  rw [show s.wick[w].sb.length + (0 + 1) - 4 = 0 by omega]
  rfl

/-- A store of local memory enters the buffer. -/
theorem store_enters {a : Nat} {sz : Size} {gs gb : G} {m : AMode}
    (hr : SiteReady s (.wick w q wide .clean) (.store (.wick w q wide .clean) sz gs m gb) len)
    (hea : scalarAt (eaOf m (s.siteRegs (.wick w q wide .clean)) gb).1 (sizeBytes sz) = .local_ a) (hline : a % 16 + sizeBytes sz ≤ 16)
    (hroom : s.wick[w].sb.length < 4) :
    Completes (.store (.wick w q wide .clean) sz gs m gb) s fun t =>
      t.wick[w].sb = s.wick[w].sb ++ [⟨a, leBytes (sizeBytes sz) (regGet (s.siteRegs (.wick w q wide .clean)) gs).toNat, q⟩] ∧
      t.siteRegs (.wick w q wide .clean) =
        regSets (s.siteRegs (.wick w q wide .clean)) ((eaOf m (s.siteRegs (.wick w q wide .clean)) gb).2.map fun b => (gb, b)).toList ∧
      t.sitePc (.wick w q wide .clean) = s.siteNext (.wick w q wide .clean) len ∧ Only [.wick] s t := by
  obtain ⟨-, hi⟩ := hr
  refine ⟨s.issueWick w q .clean _ memHow (runStore (.wick w q wide .clean) sz gs m gb), rfl, ?_⟩
  have hslot : (s.slot w q).wick[w] = (s.wick[w]).toSlot q := slot_wick s w q
  have hsb : (s.slot w q).wick[w].sb = s.wick[w].sb := by rw [hslot, toSlot_sb]
  have hrun : runStore (.wick w q wide .clean) sz gs m gb (s.slot w q) (s.coreAt (.wick w q wide .clean) len) =
      { Run.regs ((s.slot w q).setWick w fun k =>
          { k with sb := k.sb ++ [⟨a, leBytes (sizeBytes sz) (regGet (s.siteRegs (.wick w q wide .clean)) gs).toNat, q⟩] })
        ((eaOf m (s.siteRegs (.wick w q wide .clean)) gb).2.map fun b => (gb, b)).toList with stall := 0 } := by
    unfold runStore State.storeAt State.wickStore
    dsimp only [State.coreAt]
    rw [hea]
    dsimp only
    rw [storeLocal_room q (by rw [leBytes_length]; exact hline) (by rw [hsb]; exact hroom)]
  obtain ⟨pair, heq⟩ := issueWick_regs (h := memHow) wide hi hrun
  rw [heq]
  have hth : Thread.same s.wick[w].threads[q] ((s.slot w q).setWick w fun k => { k with sb := k.sb ++
      [⟨a, leBytes (sizeBytes sz) (regGet (s.siteRegs (.wick w q wide .clean)) gs).toNat, q⟩] }).wick[w].threads[q] := by
    rw [setWick_self]
    exact slot_thread_same s w q q
  obtain ⟨-, hpc, hg, -⟩ := retired_thread hth len _ 0 pair
  refine ⟨?_, hg, congrArg BitVec.toNat hpc, ((setWick_only s w _).step (setWick_only _ w _)).step (setWick_only _ w _)⟩
  rw [setWick_self, setWick_self, ← hsb]
  exact pass_sb _ 1 0

end

/-! ## Traps (R235, R259, R291) -/

/-- A load that updates its own base register is ILLEGAL. -/
theorem load_ownBase {x : Site} {len : Nat} {sz : Size} {uns : Bool} {gd gb : G} {m : AMode} {s : State}
    (hr : SiteReady s x (.load x sz uns gd m gb) len) (hm : modeUpdates m = true) (hbase : gd = gb) :
    Completes (.load x sz uns gd m gb) s fun t => Traps s t x 0x01 0 :=
  ⟨_, rfl, issue_traps s x _ len memHow _ 0x01 0 (by decide) (by decide) hr (if_pos (by rw [hm, hbase, beq_self_eq_true]; rfl))⟩

/-- A load whose access finds no address takes ADDRESS. -/
theorem load_traps {x : Site} {len : Nat} {sz : Size} {uns : Bool} {gd gb : G} {m : AMode} {s : State} {v : W64}
    (hr : SiteReady s x (.load x sz uns gd m gb) len) (hbase : (modeUpdates m && gd == gb) = false)
    (herr : (s.atSite x).loadAt x (eaOf m (s.siteRegs x) gb).1 (sizeBytes sz) uns = .error v) :
    Completes (.load x sz uns gd m gb) s fun t => Traps s t x 0x02 v := by
  refine ⟨_, rfl, issue_traps s x _ len memHow _ 0x02 v (by decide) (by decide) hr ?_⟩
  unfold runLoad
  dsimp only [State.coreAt]
  rw [hbase, herr]
  rfl

/-- So does a store. -/
theorem store_traps {x : Site} {len : Nat} {sz : Size} {gd gb : G} {m : AMode} {s : State} {v : W64}
    (hr : SiteReady s x (.store x sz gd m gb) len)
    (herr : (s.atSite x).storeAt x (eaOf m (s.siteRegs x) gb).1 (regGet (s.siteRegs x) gd) (sizeBytes sz) = .error v) :
    Completes (.store x sz gd m gb) s fun t => Traps s t x 0x02 v := by
  refine ⟨_, rfl, issue_traps s x _ len memHow _ 0x02 v (by decide) (by decide) hr ?_⟩
  unfold runStore
  dsimp only [State.coreAt]
  rw [herr]

theorem wickLoad_bad (s : State) (w : WkId) (t : Fin 4) {ea v : W64} {n : Nat} (uns : Bool) (h : scalarAt ea n = .bad v) :
    s.wickLoad w t ea n uns = .error v := by
  unfold State.wickLoad
  rw [h]

theorem wickStore_bad (s : State) (w : WkId) (t : Fin 4) {ea v : W64} (x : W64) {n : Nat} (h : scalarAt ea n = .bad v) :
    s.wickStore w t ea x n = .error v := by
  unfold State.wickStore
  rw [h]

theorem sadLoad_bad (s : State) (p : Fin 4) {ea : W64} {n : Nat} (uns : Bool) (h : sadAddr ea n = none) :
    s.sadLoad p ea n uns = .error ea := by
  unfold State.sadLoad
  rw [h]

theorem sadStore_bad (s : State) (p : Fin 4) {ea : W64} (x : W64) {n : Nat} (h : sadAddr ea n = none) : s.sadStore p ea x n = .error ea := by
  unfold State.sadStore
  rw [h]

/-! ## Reads by device address (R14, R28, R161) -/

section
variable (s : State)

theorem setMisc_only (x : MiscBlk) : Only [.misc] s (s.setMisc x) := by
  intro g hg
  cases g with
  | misc => exact absurd (List.mem_singleton_self _) hg
  | _ => rfl

theorem regRead4_only (p : Path) (off : Nat) : Only [.misc] s (s.regRead4 p off).1 := by
  unfold State.regRead4
  split
  · exact Only.refl _ s
  split
  · exact setMisc_only s _
  split
  · exact Only.refl _ s
  split
  · exact setMisc_only s _
  split
  · split
    · exact setMisc_only s _
    · exact Only.refl _ s
  · exact Only.refl _ s

theorem regRead_only (p : Path) (off n : Nat) : Only [.misc] s (s.regRead p off n).1 := by
  unfold State.regRead
  split
  · exact regRead4_only s p off
  split
  · split
    · exact Only.refl _ s
    · exact (regRead4_only s p off).step (regRead4_only _ p _)
  · exact Only.refl _ s

theorem readPiece_only (who : Agent) (a n : Nat) : Only [.mem, .fab, .log, .sad, .lan, .wick, .hbm] s (s.readPiece who a n).1 := by
  have hlocal (w : WkId) (o : Nat) : Only [.mem, .fab, .log, .sad, .lan, .wick, .hbm] s (s.localRead w o n).1 :=
    (localRead_only s w o n).mono (by simp)
  have hrow (row : Nat) (l : List Nat) : Only [.mem, .fab, .log, .sad, .lan, .wick, .hbm] s (s.checkRow row l) :=
    (checkRow_only s row l).mono (by simp)
  have hfree : Only [.mem, .fab, .log, .sad, .lan, .wick, .hbm] s s := Only.refl _ s
  unfold State.readPiece
  split
  · exact (checkBlock_only s _ _ _).mono (by simp)
  · exact hrow _ _
  · exact hrow _ _
  · split
    · exact Only.foldl _ (fun t _ => (checkRow_only t _ _).mono (by simp)) _ s
    · exact hfree
  iterate 3
    split
    · exact hlocal _ _
    · exact hfree
  · exact hfree
  · exact hfree

theorem devRead_only (who : Agent) (a n : Nat) : Only [.mem, .fab, .log, .sad, .lan, .wick, .hbm] s (s.devRead who a n).1 := by
  have hpieces : Only [.mem, .fab, .log, .sad, .lan, .wick, .hbm] s ((pieces a n).foldl (fun (acc : State × List Byte × Bool) p =>
      match acc.1.reaches who p.1 with
      | .open_ =>
        let (t, b, q) := acc.1.readPiece who p.1 p.2.2
        (t, acc.2.1 ++ b, acc.2.2 || q)
      | _ => (acc.1, acc.2.1 ++ List.replicate p.2.2 0, acc.2.2)) (s, [], false)).1 := by
    refine List.foldlRecOn (motive := fun c : State × List Byte × Bool => Only [.mem, .fab, .log, .sad, .lan, .wick, .hbm] s c.1) _ _
      (Only.refl _ s) fun c hc p _ => ?_
    dsimp only
    split
    · exact hc.step (readPiece_only c.1 who p.1 p.2.2)
    · exact hc
  unfold State.devRead
  dsimp only
  split
  · exact hpieces.right (logRefused_only _ who _) (by simp)
  · exact hpieces

/-- A read of a core or a pair by device address leaves the configuration unit. -/
theorem coreAccess_read_cfg (who : Agent) (p : Path) (a n : Nat) : (s.coreAccess who p a n none).1.cfg = s.cfg := by
  unfold State.coreAccess
  split
  · exact regRead_only s p _ n .cfg (by simp)
  · next h _ => cases h
  · exact devRead_only s who a n .cfg (by simp)

end

/-! ## Loads and stores of a pair (R291) -/

section
variable {s u : State} {p : Fin 4} {b : Bool} {len : Nat}

/-- An instruction of a pair that writes registers, beside what it makes of the state. -/
theorem issueSad_regs {i : Instr} {run : State → Core → Run} {writes : List (G × W64)} (hr : SiteReady s (.sad p b) i len)
    (hrun : run s (s.coreAt (.sad p b) len) = { Run.regs u writes with stall := 0 }) (hwarm : u.cfg.warmDue = s.cfg.warmDue) :
    (s.issueSad p i run).siteRegs (.sad p b) = regSets u.sad[p].g writes ∧ Only [.sad] u (s.issueSad p i run) := by
  have heq : s.issueSad p i run = u.setSad p fun k => k.finish len { Run.regs u writes with stall := 0 } := by
    rw [issueSad_eq s p b i len run hr, hrun]
    exact resetAfter_self _ s hwarm
  rw [heq]
  refine ⟨congrArg Saddler.g (upd_self u.sad p _), ?_⟩
  intro g hg
  cases g with
  | sad => exact absurd (List.mem_singleton_self _) hg
  | _ => rfl

theorem load_pair {a : Nat} {sz : Size} {uns : Bool} {gd gb : G} {m : AMode} {r : Answer}
    (hr : SiteReady s (.sad p b) (.load (.sad p b) sz uns gd m gb) len) (hbase : (modeUpdates m && gd == gb) = false)
    (hea : sadAddr (eaOf m (s.siteRegs (.sad p b)) gb).1 (sizeBytes sz) = some a)
    (hread : s.coreAccess (.sad p) (.saddler p) a (sizeBytes sz) none = (u, r)) :
    Completes (.load (.sad p b) sz uns gd m gb) s fun t =>
      t.siteRegs (.sad p b) =
        regSets u.sad[p].g ((gd, extend uns r.data) :: ((eaOf m (s.siteRegs (.sad p b)) gb).2.map fun b => (gb, b)).toList) ∧
      Only [.sad] u t := by
  refine ⟨s.issueSad p _ (runLoad (.sad p b) sz uns gd m gb), rfl, ?_⟩
  refine issueSad_regs hr ?_ ?_
  · unfold runLoad State.loadAt State.sadLoad
    dsimp only [State.coreAt]
    rw [hbase, hea]
    dsimp only
    rw [hread]
    rfl
  · have hcfg := coreAccess_read_cfg s (.sad p) (.saddler p) a (sizeBytes sz)
    rw [hread] at hcfg
    exact congrArg CfgBlk.warmDue hcfg

theorem store_pair {a : Nat} {sz : Size} {gs gb : G} {m : AMode} {r : Answer}
    (hr : SiteReady s (.sad p b) (.store (.sad p b) sz gs m gb) len)
    (hea : sadAddr (eaOf m (s.siteRegs (.sad p b)) gb).1 (sizeBytes sz) = some a)
    (hwrite : s.coreAccess (.sad p) (.saddler p) a (sizeBytes sz)
      (some (leBytes (sizeBytes sz) (regGet (s.siteRegs (.sad p b)) gs).toNat)) = (u, r))
    (hwarm : u.cfg.warmDue = s.cfg.warmDue) :
    Completes (.store (.sad p b) sz gs m gb) s fun t =>
      t.siteRegs (.sad p b) = regSets u.sad[p].g ((eaOf m (s.siteRegs (.sad p b)) gb).2.map fun b => (gb, b)).toList ∧ Only [.sad] u t := by
  refine ⟨s.issueSad p _ (runStore (.sad p b) sz gs m gb), rfl, issueSad_regs hr ?_ hwarm⟩
  unfold runStore State.storeAt State.sadStore
  dsimp only [State.coreAt]
  rw [hea]
  dsimp only
  rw [hwrite]

end

/-! ## O40 -/

/-- Settles O40 from the rules above, by the place of the access. -/
theorem loadsAndStoresReachTheirBytes : Obligations.LoadsAndStoresReachTheirBytes := by
  refine ⟨fun x len sz uns gd gb m s hr hm hbase => load_ownBase hr hm hbase, ?_, ?_, ?_, fun w q wide len a sz gs gb m s => store_enters,
    ?_, fun p b len a sz uns gd gb m u r s => load_pair, fun p b len a sz gs gb m u r s => store_pair⟩
  · intro w q wide len a sz uns gd gb m s x hr hbase hea hline hsb hecc
    have hpart : partialAt s.wick[w].sb a (sizeBytes sz) = 0 := by rw [hsb]; rfl
    have hsb' : (s.slot w q).wick[w].sb = [] := by rw [slot_wick, toSlot_sb, hsb]
    refine load_retires hr hbase hea hline hpart ?_
    rw [loadPart_empty q (sizeBytes sz) hsb' (by rw [slot_localAddr]; exact hecc), slot_localBytes]
  · intro w q wide len a sz uns gd gb m e s x hr hbase hea hline hsb haddr hlen
    subst haddr
    have hpart : partialAt s.wick[w].sb e.addr (sizeBytes sz) = 0 := by rw [hsb, partialAt_one (sizeBytes_pos sz) hlen]
    have hsb' : (s.slot w q).wick[w].sb = [e] := by rw [slot_wick, toSlot_sb, hsb]
    exact load_retires hr hbase hea hline hpart (loadPart_one q (sizeBytes_pos sz) hsb' hlen)
  · intro w q wide len v sz uns gd gb m s x hea
    exact ⟨fun hr hbase => load_traps hr hbase (wickLoad_bad _ w q uns hea), fun hr => store_traps hr (wickStore_bad _ w q _ hea)⟩
  · intro p b len sz uns gd gb m s x hea
    exact ⟨fun hr hbase => load_traps hr hbase (sadLoad_bad _ p uns hea), fun hr => store_traps hr (sadStore_bad _ p _ hea)⟩

end Sys2Proof.Machine
end

section
/-! # PROOFS. Instructions of the base set that write one register, and divisions (O36, O37). -/
namespace Sys2Proof.Machine

/-! ## Scalar registers (R253) -/

theorem regSet_zero (g : Vector W64 32) (v : W64) : regSet g 0 v = g := if_pos rfl

theorem regGet_zero (g : Vector W64 32) : regGet g 0 = 0 := if_pos rfl

theorem regGet_regSet_same (g : Vector W64 32) {r : G} (v : W64) (hr : r ≠ 0) : regGet (regSet g r v) r = v := by
  unfold regGet regSet
  rw [if_neg hr, if_neg hr, upd_self]

/-! ## Instructions whose one effect is a register or the address (R255, R264) -/

section
variable {s : State} {x : Site} {i : Instr} {len : Nat} {h : How} {gd : G}

/-- The value may depend on the state of the site, as FEATR's does. -/
theorem writeOne_retires {run : State → Core → Run} {v : W64} {n : Nat} (hr : SiteReady s x i len)
    (hrun : run (s.atSite x) (s.coreAt x len) = { Run.regs (s.atSite x) [(gd, v)] with stall := n }) :
    Retires s (s.issue x i h run) x (regSet (s.siteRegs x) gd v) (s.siteNext x len) (s.siteStack x) :=
  issue_retires s x i len h run [(gd, v)] none none .none n hr hrun

theorem runAlu_retires {f : Vector W64 32 → W64} (hr : SiteReady s x i len) :
    Retires s (s.issue x i h (runAlu gd f)) x (regSet (s.siteRegs x) gd (f (s.siteRegs x))) (s.siteNext x len) (s.siteStack x) :=
  writeOne_retires (n := 0) hr rfl

/-- An instruction that only passes. -/
theorem writeNone_retires {run : State → Core → Run} (hr : SiteReady s x i len)
    (hrun : run (s.atSite x) (s.coreAt x len) = Run.regs (s.atSite x) []) :
    Retires s (s.issue x i h run) x (s.siteRegs x) (s.siteNext x len) (s.siteStack x) :=
  issue_retires s x i len h run [] none none .none 0 hr hrun

end

/-! ## O36 -/

/-- Settles O36: each of these instructions issues as a `runAlu` of its tabled result. -/
theorem integerInstructionsWriteTheirResult : Obligations.IntegerInstructionsWriteTheirResult := by
  intro x len gd ga gb s g a b writes
  refine ⟨fun sub hr => ?_, fun op hr => ?_, fun op hr => ?_, fun hr => ?_, fun uns hr => ?_, fun op imm hr => ?_, fun op n hr => ?_,
    fun imm hr => ?_, fun imm hr => ?_, regSet_zero g a, regGet_zero _, regGet_regSet_same g a⟩
  all_goals exact ⟨_, rfl, runAlu_retires hr⟩

/-! ## Divisions (R264, R266) -/

section
variable {s : State} {x : Site} {i : Instr} {len : Nat} {h : How} {gd ga gb : G} {f : W64 → W64 → W64}

theorem runDivide_retires (hr : SiteReady s x i len) (hb : regGet (s.siteRegs x) gb ≠ 0) :
    Retires s (s.issue x i h (runDivide gd ga gb f)) x
      (regSet (s.siteRegs x) gd (f (regGet (s.siteRegs x) ga) (regGet (s.siteRegs x) gb))) (s.siteNext x len) (s.siteStack x) :=
  writeOne_retires (n := 32) hr (if_neg hb)

theorem runDivide_traps (hr : SiteReady s x i len) (hb : regGet (s.siteRegs x) gb = 0) :
    Traps s (s.issue x i h (runDivide gd ga gb f)) x 0x07 0 :=
  issue_traps s x i len h _ 0x07 0 (by decide) (by decide) hr (if_pos hb)

end

theorem udiv_mul_add_umod (a b : W64) : a.udiv b * b + a.umod b = a := by
  refine BitVec.eq_of_toNat_eq ?_
  show (a / b * b + a % b).toNat = a.toNat
  rw [BitVec.toNat_add, BitVec.toNat_mul, BitVec.toNat_udiv, BitVec.toNat_umod, Nat.mod_add_mod, Nat.div_add_mod', Nat.mod_eq_of_lt a.isLt]

theorem sdiv_mul_add_srem (a b : W64) : a.sdiv b * b + a.srem b = a := by
  refine BitVec.eq_of_toInt_eq ?_
  rw [BitVec.toInt_add, BitVec.toInt_mul, BitVec.toInt_sdiv, BitVec.toInt_srem, Int.bmod_mul_bmod, Int.bmod_add_bmod, Int.tdiv_mul_add_tmod]
  exact BitVec.toInt_bmod_cancel a

/-- The quotient wraps where −2^63 is divided by −1, and the law holds modulo 2^64. -/
theorem quotient_mul_add_remainder (uns : Bool) (a b : W64) : quotient uns a b * b + remainder uns a b = a := by
  cases uns with
  | true => exact udiv_mul_add_umod a b
  | false => exact sdiv_mul_add_srem a b

theorem remainder_unsigned_lt (a : W64) {b : W64} (hb : b ≠ 0) : (remainder true a b).toNat < b.toNat :=
  BitVec.umod_lt a ((BitVec.pos_iff_ne_zero b).mpr hb)

theorem remainder_signed_toInt (a b : W64) : (remainder false a b).toInt = a.toInt.tmod b.toInt := BitVec.toInt_srem a b

theorem remainder_signed_lt (a : W64) {b : W64} (hb : b ≠ 0) : (remainder false a b).toInt.natAbs < b.toInt.natAbs := by
  have hpos : 0 < b.toInt.natAbs := Int.natAbs_pos.mpr fun h => hb (BitVec.eq_of_toInt_eq h)
  rw [remainder_signed_toInt, Int.natAbs_tmod]
  exact Nat.mod_lt _ hpos

theorem remainder_signed_nonneg {a : W64} (b : W64) (ha : 0 ≤ a.toInt) : 0 ≤ (remainder false a b).toInt := by
  rw [remainder_signed_toInt]
  exact Int.tmod_nonneg _ ha

theorem remainder_signed_nonpos {a : W64} (b : W64) (ha : a.toInt ≤ 0) : (remainder false a b).toInt ≤ 0 := by
  have hneg : 0 ≤ (-a.toInt).tmod b.toInt := Int.tmod_nonneg _ (by omega)
  rw [Int.neg_tmod] at hneg
  rw [remainder_signed_toInt]
  omega

/-! ## O37 -/

/-- Settles O37 from the two outcomes of a division and the laws of its results. -/
theorem divisionsAnswerOrTrap : Obligations.DivisionsAnswerOrTrap := by
  refine ⟨fun x len uns gd ga gb s hb => ?_, fun x len uns gd ga gb s hb => ?_, fun uns a b hb => ?_⟩
  · exact ⟨fun hr => ⟨_, rfl, runDivide_retires hr hb⟩, fun hr => ⟨_, rfl, runDivide_retires hr hb⟩⟩
  · exact ⟨fun hr => ⟨_, rfl, runDivide_traps hr hb⟩, fun hr => ⟨_, rfl, runDivide_traps hr hb⟩⟩
  · refine ⟨quotient_mul_add_remainder uns a b, ?_, ?_, ?_, ?_⟩ <;> rintro rfl
    · exact remainder_unsigned_lt a hb
    · exact remainder_signed_lt a hb
    · exact remainder_signed_nonneg b
    · exact remainder_signed_nonpos b

end Sys2Proof.Machine
end

section
/-! # PROOFS. Bit operations, feature reads, NOP and DRAIN (O38). -/
namespace Sys2Proof.Machine

/-! ## Bits of a value (R264, R268) -/

theorem popBits_eq_countP (n v : Nat) : popBits n v = (List.range n).countP v.testBit := by
  induction n generalizing v with
  | zero => rfl
  | succ n ih =>
    have hlow : v % 2 = if v.testBit 0 = true then 1 else 0 := by
      rcases Nat.mod_two_eq_zero_or_one v with h | h <;> simp [Nat.testBit_zero, h]
    have hhigh : v.testBit ∘ Nat.succ = (v / 2).testBit := funext fun i => Nat.testBit_succ v i
    rw [popBits, ih, List.range_succ_eq_map, List.countP_cons, List.countP_map, hhigh, ← hlow, Nat.add_comm]

theorem reverseBits_lt (n v : Nat) : reverseBits n v < 2 ^ n := by
  induction n generalizing v with
  | zero => exact Nat.one_pos
  | succ n ih =>
    have hrest := ih (v / 2)
    have hlow : v % 2 * 2 ^ n ≤ 1 * 2 ^ n := Nat.mul_le_mul_right _ (by omega)
    rw [reverseBits, Nat.pow_succ]
    omega

theorem testBit_reverseBits {n i : Nat} (v : Nat) (hi : i < n) : (reverseBits n v).testBit i = v.testBit (n - 1 - i) := by
  induction n generalizing v with
  | zero => exact absurd hi (Nat.not_lt_zero i)
  | succ n ih =>
    rw [reverseBits, Nat.mul_comm, Nat.testBit_two_pow_mul_add _ (reverseBits_lt n _)]
    by_cases hlast : i < n
    · rw [if_pos hlast, ih _ hlast, Nat.testBit_div_two]
      congr 1
      omega
    · obtain rfl : i = n := by omega
      rw [if_neg hlast, Nat.sub_self, Nat.add_sub_cancel, Nat.sub_self, Nat.testBit_zero, Nat.testBit_zero, Nat.mod_mod]

theorem brev_double_bit (a : W64) {i : Nat} (hi : i < 64) : (BitVec.ofNat 64 (reverseBits 64 a.toNat)).getLsbD i = a.getLsbD (63 - i) := by
  rw [BitVec.getLsbD_ofNat, decide_eq_true hi, Bool.true_and, testBit_reverseBits _ hi]
  rfl

theorem brev_word_bit (a : W64) {i : Nat} (hi : i < 64) :
    (BitVec.ofNat 64 (reverseBits 32 (a.toNat % 2 ^ 32))).getLsbD i = (decide (i < 32) && a.getLsbD (31 - i)) := by
  rw [BitVec.getLsbD_ofNat, decide_eq_true hi, Bool.true_and]
  by_cases hlow : i < 32
  · rw [testBit_reverseBits _ hlow, Nat.testBit_mod_two_pow, decide_eq_true hlow, decide_eq_true (show 32 - 1 - i < 32 by omega)]
    rfl
  · have hzero : reverseBits 32 (a.toNat % 2 ^ 32) < 2 ^ i :=
      Nat.lt_of_lt_of_le (reverseBits_lt 32 _) (Nat.pow_le_pow_right (by decide) (by omega))
    rw [Nat.testBit_lt_two_pow hzero, decide_eq_false hlow, Bool.false_and]

theorem leadingZeros_zero : leadingZeros 0 = 64 := if_pos rfl

/-- The highest set bit stands at 63 less the leading zeros. -/
theorem leadingZeros_bounds {a : W64} (ha : a ≠ 0) :
    leadingZeros a < 64 ∧ 2 ^ (63 - leadingZeros a) ≤ a.toNat ∧ a.toNat < 2 ^ (64 - leadingZeros a) := by
  have hpos : a.toNat ≠ 0 := fun h => ha (BitVec.eq_of_toNat_eq h)
  have hlog : a.toNat.log2 < 64 := (Nat.log2_lt hpos).mpr a.isLt
  rw [show leadingZeros a = 63 - a.toNat.log2 from if_neg ha, show 63 - (63 - a.toNat.log2) = a.toNat.log2 by omega,
    show 64 - (63 - a.toNat.log2) = a.toNat.log2 + 1 by omega]
  exact ⟨by omega, Nat.log2_self_le hpos, Nat.lt_log2_self⟩

theorem leadingZeros_le (a : W64) : leadingZeros a ≤ 64 := by
  by_cases ha : a = 0
  · rw [ha, leadingZeros_zero]
  · exact (leadingZeros_bounds ha).1.le

theorem clz_toNat (a : W64) : (BitVec.ofNat 64 (leadingZeros a)).toNat = leadingZeros a := by
  rw [BitVec.toNat_ofNat]
  exact Nat.mod_eq_of_lt (Nat.lt_of_le_of_lt (leadingZeros_le a) (by decide))

theorem leadingZeros_upper (a : W64) : a.toNat < 2 ^ (64 - leadingZeros a) := by
  by_cases ha : a = 0
  · rw [ha, leadingZeros_zero]
    decide
  · exact (leadingZeros_bounds ha).2.2

/-! ## DRAIN (R277) -/

section
variable {s : State} {w : WkId} {q : Fin 4} {wide : Bool} {len : Nat}

theorem drainEntry_wick (s : State) (w : WkId) (e : SbEntry) :
    ∃ ce ue x, (s.drainEntry w e).wick[w] = { s.wick[w] with lmCe := ce, lmUe := ue, tst := x } :=
  checkLine_wick s w e.addr 3

theorem drainEntry_only (s : State) (w : WkId) (e : SbEntry) : Only [.wick, .log, .sad, .mem] s (s.drainEntry w e) :=
  ((checkLine_only s w e.addr 3).mono (by simp)).right ((setMem_only _ _).step (setMem_only _ _)) (by simp)

/-- The drain of the n oldest entries leaves of its Wick all but the store buffer and what the checks of the lines find. -/
theorem drainOldest_wick (s : State) (w : WkId) (n : Nat) : ∃ ce ue x,
    (s.drainOldest w n).wick[w] = { s.wick[w] with sb := s.wick[w].sb.drop n, lmCe := ce, lmUe := ue, tst := x } := by
  refine List.foldlRecOn (motive := fun u : State => ∃ ce ue x,
    u.wick[w] = { s.wick[w] with sb := s.wick[w].sb.drop n, lmCe := ce, lmUe := ue, tst := x }) _ _ ?_ ?_
  · exact ⟨s.wick[w].lmCe, s.wick[w].lmUe, s.wick[w].tst, setWick_self s w _⟩
  · rintro u ⟨_, _, _, hu⟩ e -
    obtain ⟨ce, ue, x, he⟩ := drainEntry_wick u w e
    exact ⟨ce, ue, x, he.trans (by rw [hu])⟩

theorem drainOldest_sb (s : State) (w : WkId) (n : Nat) : (s.drainOldest w n).wick[w].sb = s.wick[w].sb.drop n := by
  obtain ⟨_, _, _, h⟩ := drainOldest_wick s w n
  rw [h]

theorem drainOldest_threads (s : State) (w : WkId) (n : Nat) : (s.drainOldest w n).wick[w].threads = s.wick[w].threads := by
  obtain ⟨_, _, _, h⟩ := drainOldest_wick s w n
  rw [h]

theorem drainOldest_only (s : State) (w : WkId) (n : Nat) : Only [.wick, .log, .sad, .mem] s (s.drainOldest w n) :=
  ((setWick_only s w _).mono (by simp)).step (Only.foldl _ (fun t e => drainEntry_only t w e) _ _)

theorem drain_wick_empties (hr : SiteReady s (.wick w q wide .clean) (.drain (.wick w q wide .clean)) len) :
    Completes (.drain (.wick w q wide .clean)) s fun t =>
      t.wick[w].sb = [] ∧ t.wick[w].threads[q].pc.toNat = s.siteNext (.wick w q wide .clean) len ∧
      t.wick[w].threads[q].g = s.siteRegs (.wick w q wide .clean) ∧ t.job = s.job := by
  obtain ⟨-, hi⟩ := hr
  refine ⟨s.issueWick w q .clean _ aloneHow (runDrain (.wick w q wide .clean)), rfl, ?_⟩
  obtain ⟨pair, heq⟩ := issueWick_regs (h := aloneHow) (run := runDrain (.wick w q wide .clean)) wide hi rfl
  have hth : Thread.same s.wick[w].threads[q]
      ((s.slot w q).drainOldest w (s.slot w q).wick[w].sb.length).wick[w].threads[q] := by
    rw [drainOldest_threads]
    exact slot_thread_same s w q q
  obtain ⟨-, hpc, hg, -⟩ := retired_thread hth len [] (2 * (s.slot w q).wick[w].sb.length) pair
  rw [heq]
  refine ⟨?_, congrArg BitVec.toNat hpc, hg, drainOldest_only _ w _ .job (by simp)⟩
  calc
    _ = ((s.slot w q).drainOldest w (s.slot w q).wick[w].sb.length).wick[w].sb := by
      rw [setWick_self]
      exact pass_sb _ _ _
    _ = [] := by rw [drainOldest_sb, List.drop_length]

end

/-! ## O38 -/

/-- Settles O38: the results by their bits, and DRAIN by what its drains leave. -/
theorem bitInstructionsWriteTheirResult : Obligations.BitInstructionsWriteTheirResult := by
  intro x len gd ga gb s g a writes
  refine ⟨fun sz hr => ⟨_, rfl, _, rfl, runAlu_retires hr⟩, fun hr => ⟨_, ?par, _, rfl, runAlu_retires hr⟩,
    fun hr => ⟨_, fun i hi => brev_double_bit a hi, _, rfl, runAlu_retires hr⟩,
    fun hr => ⟨_, fun i hi => brev_word_bit a hi, _, rfl, runAlu_retires hr⟩, fun hr => ⟨_, ?clz, _, rfl, runAlu_retires hr⟩,
    fun n hr => ⟨_, rfl, _, rfl, writeOne_retires (n := 0) hr rfl⟩, fun hr => ⟨_, rfl, writeNone_retires hr rfl⟩, ?drainPair, ?drainWick⟩
  case par =>
    show BitVec.ofNat 64 (popBits 64 a.toNat % 2) = _
    rw [popBits_eq_countP, List.countP_eq_length_filter]
    rfl
  case clz =>
    show (BitVec.ofNat 64 (leadingZeros a)).toNat ≤ 64 ∧ _
    rw [clz_toNat]
    exact ⟨leadingZeros_le a, leadingZeros_upper a, fun ha => ⟨(leadingZeros_bounds ha).2.1, (leadingZeros_bounds ha).1⟩⟩
  case drainPair =>
    rintro p b rfl hr
    exact ⟨_, rfl, writeNone_retires hr rfl⟩
  case drainWick =>
    rintro w q wide rfl hr
    exact drain_wick_empties hr

end Sys2Proof.Machine
end

section
/-! # PROOFS. Control transfers, SKIP and HALT (O39). -/
namespace Sys2Proof.Machine

/-! ## What an instruction leaves at its site -/

theorem Thread.same.finish {a b : Thread} (h : Thread.same a b) (len : Nat) (r : Run) : Thread.same (a.finish len r) (b.finish len r) := by
  obtain ⟨hrun, hpc, hg, hshadow, hstack, hrest⟩ := h
  refine ⟨?_, ?_, ?_, hshadow, ?_, hrest⟩ <;> simp only [Thread.finish, Thread.advance, hrun, hpc, hg, hstack]

theorem updT_self (k : Wick) (q : Fin 4) (f : Thread → Thread) : (k.updT q f).threads[q] = f k.threads[q] := upd_self k.threads q f

section
variable {s : State} {w : WkId} {q p : Fin 4} {b : Bool} {wide : Bool} {len : Nat} {i : Instr} {h : How} {run : State → Core → Run} {r : Run}

/-- An instruction that leaves the rest of its Wick as its slot found it: the thread finishes it, and RETI then exchanges the banks. -/
theorem issueWick_next (hi : Issues s w q i len) (hrun : run (s.slot w q) (s.coreAt (.wick w q wide .clean) len) = r) (hexc : r.exc = none)
    (hst : r.st = s.slot w q) :
    ∃ pair, s.issue (.wick w q wide .clean) i h run = (s.slot w q).setWick w fun k =>
      { (if r.reti then (k.updT q fun th => th.finish len r).swapBanks q else k.updT q fun th => th.finish len r).pass 1 r.stall with
        pair := pair } := by
  show ∃ _, s.issueWick w q .clean i h run = _
  rw [issueWick_eq s w q i len h run wide hi, hrun]
  dsimp only
  rw [hexc, hst]
  exact ⟨_, rfl⟩

/-- The thread after an instruction other than RETI. -/
theorem issueWick_finish (hi : Issues s w q i len) (hrun : run (s.slot w q) (s.coreAt (.wick w q wide .clean) len) = r) (hexc : r.exc = none)
    (hst : r.st = s.slot w q) (hreti : r.reti = false) :
    Thread.same (s.wick[w].threads[q].finish len r) (s.issue (.wick w q wide .clean) i h run).wick[w].threads[q] ∧
    (s.issue (.wick w q wide .clean) i h run).wick[w].threads[q].victim = r.victim ∧
    Only [.wick] s (s.issue (.wick w q wide .clean) i h run) := by
  obtain ⟨pair, heq⟩ := issueWick_next (h := h) hi hrun hexc hst
  rw [hreti] at heq
  rw [heq]
  refine ⟨?_, ?_, (setWick_only s w _).step (setWick_only _ w _)⟩ <;> rw [setWick_self]
  · refine pass_same _ _ _ _ _ ?_
    rw [if_neg Bool.false_ne_true, updT_self]
    exact (slot_thread_same s w q q).finish len r
  · refine (congrArg Thread.victim (pass_thread _ 1 r.stall q)).trans ?_
    rw [if_neg Bool.false_ne_true, updT_self]
    rfl

/-- A thread whose banks are exchanged, beside its Taper's shadow bank (R240, R241). -/
def Thread.exchanged (th : Thread) (acc : Vector (BitVec 56) 128) : Thread :=
  { th with g := (bankSwap th.g th.shadowG).1, shadowG := (bankSwap th.g th.shadowG).2, alt := !th.alt, accSh := acc }

theorem swapBanks_thread (k : Wick) (q : Fin 4) : ∃ acc, (k.swapBanks q).threads[q] = k.threads[q].exchanged acc :=
  ⟨_, upd_self _ _ _⟩

theorem Thread.same.exchanged {a b : Thread} (h : Thread.same a b) (acc : Vector (BitVec 56) 128) :
    Thread.same (a.exchanged acc) (b.exchanged acc) := by
  unfold Thread.same at *
  simp only [Thread.exchanged, h, and_self]

/-- The thread after a RETI. -/
theorem issueWick_exchange (hi : Issues s w q i len) (hrun : run (s.slot w q) (s.coreAt (.wick w q wide .clean) len) = r) (hexc : r.exc = none)
    (hst : r.st = s.slot w q) (hreti : r.reti = true) :
    (∃ acc, Thread.same ((s.wick[w].threads[q].finish len r).exchanged acc) (s.issue (.wick w q wide .clean) i h run).wick[w].threads[q]) ∧
    Only [.wick] s (s.issue (.wick w q wide .clean) i h run) := by
  obtain ⟨pair, heq⟩ := issueWick_next (h := h) hi hrun hexc hst
  obtain ⟨acc, hswap⟩ := swapBanks_thread ((s.slot w q).wick[w].updT q fun th => th.finish len r) q
  rw [hreti] at heq
  rw [heq]
  refine ⟨⟨acc, ?_⟩, (setWick_only s w _).step (setWick_only _ w _)⟩
  rw [setWick_self]
  refine pass_same _ _ _ _ _ ?_
  rw [if_pos rfl, hswap, updT_self]
  exact ((slot_thread_same s w q q).finish len r).exchanged acc

theorem issueSad_finish (hr : SiteReady s (.sad p b) i len) (hrun : run s (s.coreAt (.sad p b) len) = r) (hexc : r.exc = none)
    (hst : r.st = s) : s.issue (.sad p b) i h run = s.setSad p fun k => k.finish len r := by
  show s.issueSad p i run = _
  rw [issueSad_eq s p b i len run hr, hrun]
  dsimp only
  rw [hexc, hst]
  exact resetAfter_self _ s rfl

theorem setSad_self (s : State) (p : Fin 4) (f : Saddler → Saddler) : (s.setSad p f).sad[p] = f s.sad[p] := upd_self s.sad p f

theorem setSad_only (s : State) (p : Fin 4) (f : Saddler → Saddler) : Only [.sad] s (s.setSad p f) := by
  intro g hg
  cases g with
  | sad => exact absurd (List.mem_singleton_self _) hg
  | _ => rfl

/-- A pair's program counter keeps bit 0 at 0 (R291). -/
theorem pairPc_toNat (a : BitVec 48) : (pairPc a).toNat = a.toNat / 2 * 2 := by
  have hshift : pairPc a = a >>> 1 <<< 1 := by
    refine BitVec.eq_of_getLsbD_eq fun j hj => ?_
    unfold pairPc
    rw [BitVec.getLsbD_and, BitVec.getLsbD_not, BitVec.getLsbD_shiftLeft, BitVec.getLsbD_ushiftRight, decide_eq_true hj]
    cases j with
    | zero => simp
    | succ j => simp [Nat.add_comm 1 j]
  rw [hshift, BitVec.toNat_shiftLeft, BitVec.toNat_ushiftRight, Nat.shiftRight_eq_div_pow, Nat.shiftLeft_eq]
  omega

end

/-! ## JMP, CALL and RET (R272, R273) -/

section
variable {s : State} {x : Site} {len : Nat} {tgt : Target} {i : Instr} {h : How}

/-- An instruction that goes to an address and may replace the return stack. -/
theorem transfer_retires {run : State → Core → Run} {a : Nat} {stk : Option (List Nat)} (hr : SiteReady s x i len)
    (hrun : run (s.atSite x) (s.coreAt x len) = { Run.regs (s.atSite x) [] with jump := some a, stack := stk }) :
    Retires s (s.issue x i h run) x (s.siteRegs x) a (stk.getD (s.siteStack x)) :=
  issue_retires s x i len h run [] (some a) stk .none 0 hr hrun

theorem jmp_retires {a : Nat} {v : W64} (hr : SiteReady s x (.jmp x tgt) len) (htgt : branchTarget x tgt (s.coreAt x len) = (some a, v)) :
    Completes (.jmp x tgt) s fun t => Retires s t x (s.siteRegs x) a (s.siteStack x) := by
  refine ⟨_, rfl, transfer_retires (stk := none) hr ?_⟩
  unfold runJump
  rw [htgt]
  rfl

theorem jmp_traps {v : W64} (hr : SiteReady s x (.jmp x tgt) len) (htgt : branchTarget x tgt (s.coreAt x len) = (none, v)) :
    Completes (.jmp x tgt) s fun t => Traps s t x 0x02 v := by
  refine ⟨_, rfl, issue_traps s x _ len plainHow _ 0x02 v (by decide) (by decide) hr ?_⟩
  unfold runJump
  rw [htgt]

theorem call_retires {a : Nat} {v : W64} (hr : SiteReady s x (.call x tgt) len) (htgt : branchTarget x tgt (s.coreAt x len) = (some a, v))
    (hroom : (s.siteStack x).length < stackDepth x) :
    Completes (.call x tgt) s fun t => Retires s t x (s.siteRegs x) a (s.siteNext x len :: s.siteStack x) := by
  refine ⟨_, rfl, transfer_retires (stk := some _) hr ?_⟩
  unfold runCall
  rw [htgt]
  exact if_neg (Nat.not_le.mpr hroom)

theorem call_overflows {a : Nat} {v : W64} (hr : SiteReady s x (.call x tgt) len) (htgt : branchTarget x tgt (s.coreAt x len) = (some a, v))
    (hfull : stackDepth x ≤ (s.siteStack x).length) : Completes (.call x tgt) s fun t => Traps s t x 0x04 0 := by
  refine ⟨_, rfl, issue_traps s x _ len plainHow _ 0x04 0 (by decide) (by decide) hr ?_⟩
  unfold runCall
  rw [htgt]
  exact if_pos hfull

theorem call_traps {v : W64} (hr : SiteReady s x (.call x tgt) len) (htgt : branchTarget x tgt (s.coreAt x len) = (none, v)) :
    Completes (.call x tgt) s fun t => Traps s t x 0x02 v := by
  refine ⟨_, rfl, issue_traps s x _ len plainHow _ 0x02 v (by decide) (by decide) hr ?_⟩
  unfold runCall
  rw [htgt]

theorem ret_retires {a : Nat} {r : List Nat} (hr : SiteReady s x (.ret x) len) (hstack : s.siteStack x = a :: r) :
    Completes (.ret x) s fun t => Retires s t x (s.siteRegs x) a r := by
  refine ⟨_, rfl, transfer_retires (stk := some r) hr ?_⟩
  unfold runRet
  dsimp only [State.coreAt]
  rw [hstack]

theorem ret_underflows (hr : SiteReady s x (.ret x) len) (hstack : s.siteStack x = []) :
    Completes (.ret x) s fun t => Traps s t x 0x05 0 := by
  refine ⟨_, rfl, issue_traps s x _ len plainHow _ 0x05 0 (by decide) (by decide) hr ?_⟩
  unfold runRet
  dsimp only [State.coreAt]
  rw [hstack]

end

/-! ## RETI (R241, R274) -/

section
variable {s : State} {w : WkId} {q p : Fin 4} {b wide : Bool} {x : Site} {len a : Nat} {r : List Nat}

theorem reti_illegal (hr : SiteReady s x (.reti x) len) (halt : s.siteAlt x = false) :
    Completes (.reti x) s fun t => Traps s t x 0x01 0 := by
  refine ⟨_, rfl, issue_traps s x _ len aloneHow _ 0x01 0 (by decide) (by decide) hr ?_⟩
  exact if_pos (show (!s.siteAlt x) = true by rw [halt]; rfl)

/-- RETI inside a handler: to the address popped, with the banks exchanged. -/
theorem runReti_inside {u : State} (halt : s.siteAlt x = true) (hstack : s.siteStack x = a :: r) :
    runReti u (s.coreAt x len) = { Run.regs u [] with jump := some a, stack := some r, reti := true, stall := 2 } := by
  refine (if_neg (show ¬(!s.siteAlt x) = true by rw [halt]; decide)).trans ?_
  dsimp only [State.coreAt]
  rw [hstack]

/-- A return stack read as numbers and written back. -/
theorem ofNat_toNat_of_map {n : Nat} {l : List (BitVec n)} (h : l.map (·.toNat) = a :: r) :
    (BitVec.ofNat n a).toNat = a ∧ (r.map (BitVec.ofNat n ·)).map (·.toNat) = r := by
  obtain ⟨c, l, rfl, rfl, rfl⟩ := List.map_eq_cons_iff.mp h
  rw [ofNat_toNat_map, BitVec.ofNat_toNat, BitVec.setWidth_eq]
  exact ⟨rfl, rfl⟩

theorem reti_wick (hr : SiteReady s (.wick w q wide .clean) (.reti (.wick w q wide .clean)) len)
    (halt : s.siteAlt (.wick w q wide .clean) = true) (hstack : s.siteStack (.wick w q wide .clean) = a :: r) :
    Completes (.reti (.wick w q wide .clean)) s fun t => t.siteAlt (.wick w q wide .clean) = false ∧
      t.sitePc (.wick w q wide .clean) = a ∧ t.siteStack (.wick w q wide .clean) = r ∧
      t.siteRegs (.wick w q wide .clean) = (bankSwap (s.siteRegs (.wick w q wide .clean)) s.wick[w].threads[q].shadowG).1 ∧
      Only [.wick, .sad] s t := by
  obtain ⟨-, hi⟩ := hr
  refine ⟨_, rfl, ?_⟩
  obtain ⟨hpop, hrest⟩ := ofNat_toNat_of_map hstack
  obtain ⟨⟨acc, -, hpc, hg, -, hstk, halt', -⟩, honly⟩ := issueWick_exchange (h := aloneHow) hi (runReti_inside halt hstack) rfl rfl rfl
  exact ⟨halt'.trans (congrArg (!·) halt), (congrArg BitVec.toNat hpc).trans hpop, (congrArg (List.map BitVec.toNat) hstk).trans hrest, hg,
    honly.mono (by simp)⟩

theorem reti_pair (hr : SiteReady s (.sad p b) (.reti (.sad p b)) len) (halt : s.siteAlt (.sad p b) = true)
    (hstack : s.siteStack (.sad p b) = a :: r) :
    Completes (.reti (.sad p b)) s fun t => t.siteAlt (.sad p b) = false ∧ t.sitePc (.sad p b) = a / 2 * 2 ∧ t.siteStack (.sad p b) = r ∧
      t.siteRegs (.sad p b) = (bankSwap (s.siteRegs (.sad p b)) s.sad[p].shadowG).1 ∧ Only [.wick, .sad] s t := by
  refine ⟨_, rfl, ?_⟩
  obtain ⟨hpop, hrest⟩ := ofNat_toNat_of_map hstack
  rw [issueSad_finish hr (runReti_inside halt hstack) rfl rfl]
  refine ⟨?_, ?_, ?_, ?_, (setSad_only s p _).mono (by simp)⟩
  · rw [State.siteAlt, setSad_self]
    exact congrArg (!·) halt
  · rw [State.sitePc, setSad_self]
    exact (pairPc_toNat _).trans (by rw [hpop])
  · rw [State.siteStack, setSad_self]
    exact hrest
  · rw [State.siteRegs, setSad_self]
    rfl

end

/-! ## SKIP (R269, R270) -/

section
variable {s : State} {x : Site} {len : Nat}

/-- What an instruction makes of the next one. -/
theorem issue_victim {i : Instr} {h : How} {run : State → Core → Run} {v : Victim} (hr : SiteReady s x i len)
    (hrun : run (s.atSite x) (s.coreAt x len) = { Run.regs (s.atSite x) [] with victim := v }) :
    (s.issue x i h run).siteVictim x = v := by
  cases x with
  | wick w q wide res =>
    obtain ⟨rfl, hi⟩ := hr
    obtain ⟨-, hvictim, -⟩ := issueWick_finish (h := h) (wide := wide) hi hrun rfl rfl rfl
    exact hvictim
  | sad p b =>
    rw [issueSad_finish hr hrun rfl rfl, State.siteVictim, setSad_self]
    rfl

theorem skip_decides {cc : Cond} {ga : G} {rhs : SkipRhs} : SiteReady s x (.skip x cc ga rhs) len →
    Completes (.skip x cc ga rhs) s fun t =>
      Retires s t x (s.siteRegs x) (s.siteNext x len) (s.siteStack x) ∧
      t.siteVictim x = (if condHolds cc (regGet (s.siteRegs x) ga)
        (match rhs with | .reg gb => regGet (s.siteRegs x) gb | .imm v => v.signExtend 64) then .suppress else .execute) :=
  fun hr => ⟨_, rfl, issue_retires s x _ len aloneHow _ [] none none _ 0 hr rfl, issue_victim hr rfl⟩

end

/-! ## HALT (R276) -/

section
variable {s : State} {w : WkId} {q p : Fin 4} {b wide : Bool} {len : Nat}

theorem halt_wick (hr : SiteReady s (.wick w q wide .clean) (.halt (.wick w q wide .clean)) len) :
    Completes (.halt (.wick w q wide .clean)) s fun t => t.siteRegs (.wick w q wide .clean) = s.siteRegs (.wick w q wide .clean) ∧
      t.sitePc (.wick w q wide .clean) = s.siteNext (.wick w q wide .clean) len ∧
      t.siteStack (.wick w q wide .clean) = s.siteStack (.wick w q wide .clean) ∧ t.wick[w].threads[q].run = .halted ∧
      Only [.wick, .sad] s t := by
  obtain ⟨-, hi⟩ := hr
  refine ⟨_, rfl, ?_⟩
  obtain ⟨⟨hrun, hpc, hg, -, hstack, -⟩, -, honly⟩ := issueWick_finish (h := aloneHow) (wide := wide)
    (run := fun u _ => { Run.regs u [] with halt := true }) hi rfl rfl rfl rfl
  exact ⟨hg, congrArg BitVec.toNat hpc, congrArg (List.map BitVec.toNat) hstack, hrun, honly.mono (by simp)⟩

theorem halt_pair (hr : SiteReady s (.sad p b) (.halt (.sad p b)) len) :
    Completes (.halt (.sad p b)) s fun t => t.siteRegs (.sad p b) = s.siteRegs (.sad p b) ∧
      t.sitePc (.sad p b) = s.siteNext (.sad p b) len / 2 * 2 ∧ t.siteStack (.sad p b) = s.siteStack (.sad p b) ∧
      t.sad[p].asleep = true ∧ Only [.wick, .sad] s t := by
  refine ⟨_, rfl, ?_⟩
  rw [issueSad_finish hr rfl rfl rfl]
  refine ⟨?_, ?_, ?_, ?_, (setSad_only s p _).mono (by simp)⟩
  · rw [State.siteRegs, setSad_self]
    rfl
  · rw [State.sitePc, setSad_self]
    exact pairPc_toNat _
  · rw [State.siteStack, setSad_self]
    rfl
  · rw [setSad_self]
    rfl

end

/-! ## O39 -/

/-- Settles O39 from the rules above; RETI inside a handler and HALT by the kind of site. -/
theorem controlTransfersActAsTabled : Obligations.ControlTransfersActAsTabled := by
  refine ⟨fun x len tgt s hr => ⟨fun a v => jmp_retires hr, fun v => jmp_traps hr⟩,
    fun x len tgt s hr => ⟨fun a v => call_retires hr, fun a v => call_overflows hr, fun v => call_traps hr⟩,
    fun x len s hr => ⟨fun a r => ret_retires hr, ret_underflows hr⟩, fun x len s => reti_illegal, ?reti,
    fun x len cc ga rhs s => skip_decides, ?halt⟩
  case reti =>
    intro x len a r s hr halt hstack
    cases x with
    | wick w q wide res =>
      obtain rfl : res = .clean := hr.1
      exact reti_wick hr halt hstack
    | sad p b => exact reti_pair hr halt hstack
  case halt =>
    intro x len s hr
    cases x with
    | wick w q wide res =>
      obtain rfl : res = .clean := hr.1
      exact halt_wick hr
    | sad p b => exact halt_pair hr

end Sys2Proof.Machine
end

section
/-! # PROOFS. The issue of a vector or Taper instruction: the state in which it acts, and its end (R221, R225, R242, R298). -/
namespace Sys2Proof.Machine

/-! ## The state in which it acts -/

/-- The state in which a vector or Taper instruction acts: its slot has come, and the beats under way have passed (R221, R298). -/
def State.runPoint (s : State) (x : VSite) (h : VHow) : State :=
  (s.slot x.w x.t).setWick x.w fun k => k.stall (k.beatWait h (k.issueCycle x))

/-- The rotation count of that slot. -/
def State.slotRho (s : State) (x : VSite) : Nat := (s.slot x.w x.t).wick[x.w].rho

/-- The end of an instruction alone in its slot: the thread goes on to the next one, and the slot and its stalls pass. -/
def State.endVec (u : State) (x : VSite) (len n : Nat) (busy : Wick → Nat) : State :=
  u.setWick x.w fun k => { (k.updT x.t fun th => { th.advance len with victim := .none }).pass 1 n with
    pair := none, vecBusy := busy k }

/-- No owner, repeat or load of the Taper keeps an instruction that needs it from its slot (R245, R313, R318). -/
def TaperFree (s : State) (x : VSite) (h : VHow) (i : Instr) : Prop :=
  h.taper = true → (s.slot x.w x.t).wick[x.w].owner = some x.t ∧ (s.slot x.w x.t).wick[x.w].trepRuns = false ∧
    (s.slot x.w x.t).wick[x.w].taperHeld i = false

/-- A thread with other bytes at hand and on their way. -/
def Thread.buffered (th : Thread) (b : List Byte) (c : List (Nat × List Byte)) : Thread := { th with buf := b, coming := c }

/-- State u has, of Wick x.w, what only instructions change as s has it, but that the thread of x is f of what it was. -/
structure VSame (s u : State) (x : VSite) (f : Thread → Thread) : Prop where
  thread : Thread.same (f (s.thr x)) (u.thr x)
  others : ∀ r : Fin 4, r ≠ x.t → Thread.same s.wick[x.w].threads[r] u.wick[x.w].threads[r]
  sb : u.wick[x.w].sb = s.wick[x.w].sb
  wicks : ∀ v : WkId, v ≠ x.w → u.wick[v] = s.wick[v]

/-- State u is one in which the instruction has not acted: its thread is as the slot found it, but for the bytes of its buffer. -/
structure AtPoint (s u : State) (x : VSite) : Prop where
  same : VSame s u x id
  thread : ∃ b c, u.thr x = (s.thrAt x).buffered b c
  rho : u.wick[x.w].rho = s.slotRho x
  taper : u.wick[x.w].taper = s.wick[x.w].taper

section
variable {s u : State} {x : VSite} {i : Instr} {len n : Nat} {h : VHow} {run : State → Nat → VRun} {r : VRun} {f g : Thread → Thread}
  {busy : Wick → Nat}

theorem toSlot_taperHeld (k : Wick) (t : Fin 4) (i : Instr) : (k.toSlot t).taperHeld i = k.taperHeld i := by
  unfold Wick.taperHeld
  rw [toSlot_taper]

theorem TReady.free (hr : TReady s x i len) : TaperFree s x h i := fun _ => by
  obtain ⟨-, howner, htrep, hheld⟩ := hr
  exact ⟨howner, htrep, by rw [slot_wick, toSlot_taperHeld, hheld]⟩

theorem taperFree_of_vector (hvec : h.taper = false) : TaperFree s x h i := fun htaper => by
  rw [hvec] at htaper
  cases htaper

/-- Loads that have landed at a count are none at it again. -/
theorem settle_settle (th : Thread) (rho c d : Nat) :
    ∃ b l, (th.settle rho c).settle rho d = (th.settle rho c).buffered b l := by
  have hnone : ((th.vloads.filter fun l => !(decide (l.due < rho))).filter fun l => decide (l.due < rho)) = [] := by
    simp [List.filter_filter]
  have hall : ((th.vloads.filter fun l => !(decide (l.due < rho))).filter fun l => !(decide (l.due < rho))) =
      th.vloads.filter fun l => !(decide (l.due < rho)) := by simp [List.filter_filter]
  refine ⟨((th.settle rho c).settle rho d).buf, ((th.settle rho c).settle rho d).coming, ?_⟩
  simp only [Thread.settle, Thread.buffered, hnone, hall, List.foldl_nil]

theorem pass_rho (k : Wick) (r d : Nat) : (k.pass r d).rho = k.rho + r := by
  obtain ⟨o, w, heq⟩ := pass_eq k r d
  rw [heq]

theorem pass_wcyc (k : Wick) (r d : Nat) : (k.pass r d).wcyc = k.wcyc + r + d := by
  obtain ⟨o, w, heq⟩ := pass_eq k r d
  rw [heq]

theorem toSlot_rho (k : Wick) (t : Fin 4) : (k.toSlot t).rho = k.rho + (k.slotOf t - k.rho) := pass_rho k _ 0

theorem runPoint_wick (s : State) (x : VSite) (h : VHow) :
    (s.runPoint x h).wick[x.w] = (s.wick[x.w].toSlot x.t).stall ((s.wick[x.w].toSlot x.t).beatWait h ((s.wick[x.w].toSlot x.t).issueCycle x)) := by
  rw [State.runPoint, setWick_self, slot_wick]

theorem runPoint_only (s : State) (x : VSite) (h : VHow) : Only [.wick] s (s.runPoint x h) :=
  (setWick_only s x.w _).step (setWick_only _ x.w _)

theorem runPoint_atPoint (s : State) (x : VSite) (h : VHow) : AtPoint s (s.runPoint x h) x := by
  have hwick := runPoint_wick s x h
  have hthread (q : Fin 4) : Thread.same s.wick[x.w].threads[q] (s.runPoint x h).wick[x.w].threads[q] := by
    rw [hwick]
    exact pass_same _ _ _ _ _ (slot_wick s x.w x.t ▸ slot_thread_same s x.w x.t q)
  refine ⟨⟨hthread x.t, fun q _ => hthread q, ?_, fun v hv => ?_⟩, ?_, ?_, ?_⟩
  · rw [hwick]
    exact (pass_sb _ _ _).trans (toSlot_sb _ _)
  · exact (upd_other _ _ _ _ hv).trans (slot_other s x.w v x.t hv)
  · rw [State.thrAt, State.thr, hwick, slot_wick, Wick.stall, pass_thread, toSlot_thread, Nat.add_zero, toSlot_rho]
    exact settle_settle _ _ _ _
  · rw [hwick]
    exact (pass_rho _ _ _).trans (by rw [State.slotRho, slot_wick, Nat.add_zero])
  · rw [hwick]
    exact (pass_taper _ _ _).trans (toSlot_taper _ _)

theorem AtPoint.fresh (h : AtPoint s u x) (m : Nat) : AtPoint s (u.fresh m) x :=
  ⟨⟨h.same.thread, h.same.others, h.same.sb, h.same.wicks⟩, h.thread, h.rho, h.taper⟩

theorem thrAt_same (s : State) (x : VSite) : Thread.same (s.thr x) (s.thrAt x) := slot_thread_same s x.w x.t x.t

theorem thrAt_g (s : State) (x : VSite) : (s.thrAt x).g = (s.thr x).g := by
  obtain ⟨-, -, hg, -⟩ := thrAt_same s x
  exact hg

theorem thrAt_m (s : State) (x : VSite) : (s.thrAt x).m = (s.thr x).m := by
  obtain ⟨-, -, -, -, -, -, -, -, hm, -⟩ := thrAt_same s x
  exact hm

/-! ## Its run and its end -/

/-- A vector or Taper instruction that its thread issues alone runs in its slot. -/
theorem issueVec_eq (hr : VReady s x i len) : s.issueVec x i h run = (s.slot x.w x.t).runVec x h i len 1 (s.thr x).pc false run := by
  obtain ⟨hpair, hres, hrun, hvic, hirq, hdec⟩ := hr
  have hwick : (s.slot x.w x.t).wick[x.w] = s.wick[x.w].toSlot x.t := slot_wick s x.w x.t
  have hpc : (s.slot x.w x.t).wick[x.w].threads[x.t].pc = s.wick[x.w].threads[x.t].pc := (slot_thread_same s x.w x.t x.t).2.1
  have hnone : (s.wick[x.w].threads[x.t].victim == .none && ((s.wick[x.w].toSlot x.t).irqLine x.t).isSome) = false := by
    by_cases hv : s.wick[x.w].threads[x.t].victim = .none
    · rw [hirq hv]
      exact Bool.and_false _
    · rw [beq_eq_false_iff_ne.mpr hv, Bool.false_and]
  unfold State.issueVec
  rw [hpair, if_neg Bool.false_ne_true, if_neg (by rw [hrun]; decide), show (s.setWick x.w fun k => k.toSlot x.t) = s.slot x.w x.t from rfl]
  dsimp only
  rw [slot_victim, hwick, hnone, if_neg Bool.false_ne_true, toSlot_testState, hres, ← hwick, hdec]
  dsimp only
  rw [if_neg (by simp), beq_eq_false_iff_ne.mpr hvic, if_neg Bool.false_ne_true, hpc]
  rfl

/-- The run of an instruction that nothing of the Taper keeps, up to its end. -/
theorem issueVec_run (hr : VReady s x i len) (hfree : TaperFree s x h i) (hrun : run (s.runPoint x h) (s.slotRho x) = r) :
    (∀ c a, r.exc = some (c, a) → s.issueVec x i h run = (r.st.setWick x.w fun k => k.stall r.stall).raise x.w x.t c a (s.thr x).pc false 1) ∧
    (r.exc = none → ∃ busy, s.issueVec x i h run = r.st.endVec x len r.stall busy) := by
  have hgo : (h.taper && (s.slot x.w x.t).wick[x.w].owner != some x.t) = false ∧
      (h.taper && ((s.slot x.w x.t).wick[x.w].trepRuns || (s.slot x.w x.t).wick[x.w].taperHeld i)) = false := by
    by_cases ht : h.taper = true
    · obtain ⟨howner, htrep, hheld⟩ := hfree ht
      rw [howner, htrep, hheld]
      simp
    · rw [Bool.not_eq_true] at ht
      rw [ht]
      exact ⟨rfl, rfl⟩
  have hres : x.res = .clean := hr.2.1
  rw [issueVec_eq hr]
  unfold State.runVec
  extract_lets k c wait p q v
  rw [hgo.1, hgo.2, if_neg Bool.false_ne_true, if_neg Bool.false_ne_true]
  have hq : q = r := hrun
  clear_value q
  subst hq
  refine ⟨fun e a hexc => by rw [hexc], fun hexc => ?_⟩
  rw [hexc]
  refine ⟨fun k => if q.beats = 0 then k.vecBusy else c + wait + q.beats, ?_⟩
  dsimp only
  split
  · rw [hres]
    rfl
  · rfl

end

end Sys2Proof.Machine
end

section
/-! # PROOFS. How a vector or Taper instruction retires or traps (R242, R298). -/
namespace Sys2Proof.Machine

section
variable {s u : State} {x : VSite} {i : Instr} {len n : Nat} {h : VHow} {run : State → Nat → VRun} {r : VRun} {f g : Thread → Thread}
  {busy : Wick → Nat} {c : Byte} {a : W64}

/-! ## Traps -/

/-- Entry to a handler, or FAULTED, from a state that differs from s in Wicks and not in what only instructions of the thread change. -/
theorem raise_traps_of {w : WkId} {t : Fin 4} {wide : Bool} {res : Residue} (hth : Thread.same s.wick[w].threads[t] u.wick[w].threads[t])
    (honly : Only [.wick] s u) (h8 : c ≠ 0x08) (h9 : c ≠ 0x09) :
    Traps s (u.raise w t c a s.wick[w].threads[t].pc false 1) (.wick w t wide res) c a := by
  obtain ⟨hrun, hpc, hg, hshadow, hstack, halt, -⟩ := hth
  refine ⟨fun h0 hlen => ?_, fun hfull => ?_⟩
  · rw [raise_enters u w t c a _ 1 (halt.trans h0) (by rw [hstack]; exact hlen) h8 h9]
    obtain ⟨acc, -, hpc', hg', -, hstack', halt', -⟩ :=
      enter_thread (u.wick[w].updT t fun th => { th with victim := .none }) t s.wick[w].threads[t].pc (c.setWidth 64) a 0 1
    rw [show (u.wick[w].updT t fun th => { th with victim := .none }).threads[t] = _ from upd_self _ _ _] at hg' hstack' halt'
    refine ⟨?_, ?_, ?_, ?_, honly.step (setWick_only u w _)⟩ <;> rw [setWick_self]
    · exact hpc'
    · exact halt'.trans (congrArg (!·) (halt.trans h0))
    · exact hstack'.trans (congrArg (_ :: ·) hstack)
    · exact hg'.trans (by rw [Thread.entered, hg, hshadow])
  · have hfault : u.raise w t c a s.wick[w].threads[t].pc false 1 = u.faultThread w t c a s.wick[w].threads[t].pc 1 := by
      refine if_pos ?_
      rcases hfull with h1 | h1
      · rw [halt, h1]
        rfl
      · rw [hstack, decide_eq_true h1]
        simp
    rw [hfault]
    obtain ⟨hrun', -, hg', -⟩ := faultThread_thread u w t c a s.wick[w].threads[t].pc 1
    refine ⟨hrun', hg'.trans hg, ?_, (honly.mono (by simp)).step (faultThread_only u w t c a _ 1)⟩
    rw [faultThread_newest, honly .time (by simp)]

/-- An instruction that ends in an exception, with nothing outside the Wick and nothing of its thread changed. -/
theorem issueVec_traps (hr : VReady s x i len) (hfree : TaperFree s x h i) (hrun : run (s.runPoint x h) (s.slotRho x) = r)
    (hexc : r.exc = some (c, a)) (hth : Thread.same (s.thr x) (r.st.thr x)) (honly : Only [.wick] s r.st) (h8 : c ≠ 0x08) (h9 : c ≠ 0x09) :
    Traps s (s.issueVec x i h run) (.wick x.w x.t x.wide .clean) c a := by
  rw [(issueVec_run hr hfree hrun).1 c a hexc]
  refine raise_traps_of ?_ (honly.step (setWick_only _ x.w _)) h8 h9
  rw [setWick_self]
  exact pass_same _ _ _ _ _ hth

/-- So does one that raises the exception before it acts. -/
theorem issueVec_raises (hr : VReady s x i len) (hfree : TaperFree s x h i)
    (hrun : run (s.runPoint x h) (s.slotRho x) = VRun.raise (s.runPoint x h) c a) (h8 : c ≠ 0x08) (h9 : c ≠ 0x09) :
    Traps s (s.issueVec x i h run) (.wick x.w x.t x.wide .clean) c a :=
  issueVec_traps hr hfree hrun rfl (runPoint_atPoint s x h).same.thread (runPoint_only s x h) h8 h9

/-- An instruction that raises ILLEGAL or VECTOR before it acts. -/
theorem completes_raises {c : Byte} {a : W64} (hexec : exec i s = .next (s.issueVec x i h run)) (hr : VReady s x i len)
    (hfree : TaperFree s x h i) (hrun : run (s.runPoint x h) (s.slotRho x) = VRun.raise (s.runPoint x h) c a) (h8 : c ≠ 0x08) (h9 : c ≠ 0x09) :
    Completes i s fun t => Traps s t (.wick x.w x.t x.wide .clean) c a :=
  ⟨_, hexec, issueVec_raises hr hfree hrun h8 h9⟩

/-- A Taper instruction of a thread that does not own the Taper takes TAPER_OWNER (R245, R307). -/
theorem issueVec_notOwner (hr : VReady s x i len) (htaper : h.taper = true) (howner : (s.slot x.w x.t).wick[x.w].owner ≠ some x.t) :
    Traps s (s.issueVec x i h run) (.wick x.w x.t x.wide .clean) 0x06 0 := by
  have heq : s.issueVec x i h run = (s.slot x.w x.t).raise x.w x.t 0x06 0 (s.thr x).pc false 1 := by
    rw [issueVec_eq hr]
    exact if_pos (by rw [htaper, bne_iff_ne.mpr howner]; rfl)
  rw [heq]
  exact raise_traps s x.w x.t x.wide .clean 0x06 0 (by decide) (by decide)

/-! ## Retirement -/

theorem thr_setWick (f : Wick → Wick) : (u.setWick x.w f).thr x = (f u.wick[x.w]).threads[x.t] := by rw [State.thr, setWick_self]

theorem thr_updThr (f : Thread → Thread) : (u.updThr x f).thr x = f (u.thr x) := by
  rw [State.updThr, thr_setWick, Wick.updT, upd_self]
  rfl

/-- Only what an update makes of the thread counts. -/
theorem updThr_congr (h : f (u.thr x) = g (u.thr x)) : u.updThr x f = u.updThr x g :=
  congrArg (fun th => u.updThr x fun _ => th) h

/-- The thread changes. -/
theorem VSame.updThr (h : VSame s u x f) {f' : Thread → Thread} (hg : Thread.same (f' (s.thr x)) (g (u.thr x))) : VSame s (u.updThr x g) x f' := by
  refine ⟨by rw [thr_updThr]; exact hg, fun q hq => ?_, ?_, fun v hv => (upd_other _ _ _ _ hv).trans (h.wicks v hv)⟩
  · rw [State.updThr, setWick_self, Wick.updT, upd_other _ _ _ _ hq]
    exact h.others q hq
  · rw [State.updThr, setWick_self]
    exact h.sb

/-- Registers of the thread are written. -/
theorem VSame.putG (h : VSame s u x f) (l : List (G × W64)) : VSame s (u.putG x l) x fun th => { f th with g := regSets (f th).g l } := by
  obtain ⟨hrun, hpc, hg, hrest⟩ := h.thread
  exact h.updThr ⟨hrun, hpc, congrArg (regSets · l) hg, hrest⟩

/-- The Wick changes, but for its threads and its store buffer. -/
theorem VSame.setWick (h : VSame s u x f) {k : Wick → Wick} (hth : (k u.wick[x.w]).threads = u.wick[x.w].threads)
    (hsb : (k u.wick[x.w]).sb = u.wick[x.w].sb) : VSame s (u.setWick x.w k) x f := by
  refine ⟨?_, fun q hq => ?_, ?_, fun v hv => (upd_other _ _ _ _ hv).trans (h.wicks v hv)⟩
  · rw [thr_setWick, hth]
    exact h.thread
  · rw [setWick_self, hth]
    exact h.others q hq
  · rw [setWick_self, hsb]
    exact h.sb

theorem VSame.updTap (h : VSame s u x f) (k : Taper → Taper) : VSame s (u.updTap x k) x f := h.setWick rfl rfl

/-- The thread after the end of its instruction. -/
theorem thr_endVec (u : State) (x : VSite) (len n : Nat) (busy : Wick → Nat) : (u.endVec x len n busy).thr x =
    ({ (u.thr x).advance len with victim := .none } : Thread).settle (u.wick[x.w].rho + 1) (u.wick[x.w].wcyc + 1 + n) := by
  rw [State.endVec, thr_setWick]
  refine (pass_thread _ 1 n x.t).trans ?_
  rw [Wick.updT, upd_self]
  rfl

theorem taper_endVec (u : State) (x : VSite) (len n : Nat) (busy : Wick → Nat) : (u.endVec x len n busy).wick[x.w].taper = u.wick[x.w].taper := by
  rw [State.endVec, setWick_self]
  exact pass_taper _ 1 n

theorem endVec_only (u : State) (x : VSite) (len n : Nat) (busy : Wick → Nat) : Only [.wick] u (u.endVec x len n busy) := setWick_only u x.w _

/-- The instruction retires from a state in which it has changed its thread. -/
theorem VSame.retires (h : VSame s u x f) (hpc : (f (s.thr x)).pc = (s.thr x).pc) : VRetires s (u.endVec x len n busy) x len f := by
  refine ⟨?_, fun q hq => ?_, ?_, fun v hv => (upd_other _ _ _ _ hv).trans (h.wicks v hv)⟩
  · rw [thr_endVec]
    refine settle_same _ _ _ _ ?_
    obtain ⟨hrun, hpc', hrest⟩ := h.thread
    exact ⟨hrun, congrArg (· + _) (hpc'.trans hpc), hrest⟩
  · rw [State.endVec, setWick_self]
    refine pass_same _ _ _ _ _ ?_
    rw [Wick.updT, upd_other _ _ _ _ hq]
    exact h.others q hq
  · rw [State.endVec, setWick_self]
    exact (pass_sb _ _ _).trans h.sb

/-- An instruction that acts and raises no exception comes to the end of the state that it leaves. -/
theorem issueVec_ends {b : Nat} (hr : VReady s x i len) (hfree : TaperFree s x h i)
    (hrun : run (s.runPoint x h) (s.slotRho x) = ⟨u, none, n, b⟩) :
    ∃ busy, s.issueVec x i h run = u.endVec x len n busy := (issueVec_run hr hfree hrun).2 rfl

theorem completes_ends {b : Nat} {P : State → Prop} (hexec : exec i s = .next (s.issueVec x i h run)) (hr : VReady s x i len)
    (hfree : TaperFree s x h i) (hrun : run (s.runPoint x h) (s.slotRho x) = ⟨u, none, n, b⟩) (hP : ∀ busy, P (u.endVec x len n busy)) :
    Completes i s P := by
  obtain ⟨busy, heq⟩ := issueVec_ends hr hfree hrun
  exact ⟨_, hexec.trans (congrArg Host.Outcome.next heq), hP busy⟩

theorem Completes.imp {i : Instr} {s : State} {P Q : State → Prop} (h : Completes i s P) (hPQ : ∀ t, P t → Q t) : Completes i s Q := by
  obtain ⟨t, ht, hP⟩ := h
  exact ⟨t, ht, hPQ t hP⟩

/-- It retires where it has changed its thread, and of its Wick what no other thread's instruction depends on. -/
theorem completes_retires {b : Nat} {gs : List Grp} {P : State → Prop} (hexec : exec i s = .next (s.issueVec x i h run))
    (hr : VReady s x i len) (hfree : TaperFree s x h i) (hsame : VSame s u x f) (honly : Only gs s u)
    (hrun : run (s.runPoint x h) (s.slotRho x) = ⟨u, none, n, b⟩)
    (hpc : (f (s.thr x)).pc = (s.thr x).pc) (hgs : [.wick] ⊆ gs)
    (hP : ∀ busy, VRetires s (u.endVec x len n busy) x len f → Only gs s (u.endVec x len n busy) → P (u.endVec x len n busy)) :
    Completes i s P :=
  completes_ends hexec hr hfree hrun fun busy => hP busy (hsame.retires hpc) (honly.right (endVec_only u x len n busy) hgs)

theorem updThr_only (u : State) (x : VSite) (f : Thread → Thread) : Only [.wick] u (u.updThr x f) := setWick_only u x.w _

theorem putG_only (u : State) (x : VSite) (l : List (G × W64)) : Only [.wick] u (u.putG x l) := setWick_only u x.w _

theorem updTap_only (u : State) (x : VSite) (f : Taper → Taper) : Only [.wick] u (u.updTap x f) := setWick_only u x.w _

theorem taper_updTap (f : Taper → Taper) : (u.updTap x f).wick[x.w].taper = f u.wick[x.w].taper := by rw [State.updTap, setWick_self]

theorem taper_updThr (f : Thread → Thread) : (u.updThr x f).wick[x.w].taper = u.wick[x.w].taper := by rw [State.updThr, setWick_self]; rfl

theorem tap_runPoint (s : State) (x : VSite) (h : VHow) : (s.runPoint x h).tap x = s.wick[x.w].taper := (runPoint_atPoint s x h).taper

end

end Sys2Proof.Machine
end

section
/-! # PROOFS. Elements of vector registers: packed rows, groups written, and loads that land (R234, R295, R296). -/
namespace Sys2Proof.Machine

/-! ## Elements of a row -/

/-- Element e, of w bits, of a row. -/
def rowElem (w : Nat) (r : Row) (e : Nat) : Nat := r.toNat / 2 ^ (w * e) % 2 ^ w

/-- The digits of a number formed digit by digit. -/
theorem foldr_digit (w n : Nat) (f : Nat → Nat) {e : Nat} (he : e < n) :
    ((List.range n).foldr (fun e acc => f e % 2 ^ w + 2 ^ w * acc) 0) / 2 ^ (w * e) % 2 ^ w = f e % 2 ^ w := by
  have hpos : 0 < 2 ^ w := Nat.two_pow_pos w
  induction n generalizing f e with
  | zero => omega
  | succ n ih =>
    rw [List.range_succ_eq_map, List.foldr_cons, List.foldr_map]
    cases e with
    | zero => rw [Nat.mul_zero, Nat.pow_zero, Nat.div_one, Nat.add_mul_mod_self_left, Nat.mod_mod]
    | succ e =>
      rw [Nat.mul_succ, Nat.add_comm (w * e), Nat.pow_add, ← Nat.div_div_eq_div_mul, Nat.add_mul_div_left _ _ hpos,
        Nat.div_eq_of_lt (Nat.mod_lt _ hpos), Nat.zero_add]
      exact ih (fun e => f (e + 1)) (by omega)

theorem foldr_digits_lt (w n : Nat) (f : Nat → Nat) : (List.range n).foldr (fun e acc => f e % 2 ^ w + 2 ^ w * acc) 0 < 2 ^ (w * n) := by
  have hpos : 0 < 2 ^ w := Nat.two_pow_pos w
  induction n generalizing f with
  | zero => simp
  | succ n ih =>
    rw [List.range_succ_eq_map, List.foldr_cons, List.foldr_map, Nat.mul_succ, Nat.add_comm (w * n), Nat.pow_add]
    have hrest := ih fun e => f (e + 1)
    have hlow := Nat.mod_lt (f 0) hpos
    calc _ < 2 ^ w + 2 ^ w * _ := Nat.add_lt_add_right hlow _
      _ = 2 ^ w * (_ + 1) := by rw [Nat.mul_succ, Nat.add_comm]
      _ ≤ 2 ^ w * 2 ^ (w * n) := Nat.mul_le_mul_left _ hrest

section
variable {w : Nat}

/-- A packed row holds what it is packed of. -/
theorem rowElem_packRow (hw : w ∣ 4096) (f : Nat → Nat) {e : Nat} (he : e < 4096 / w) : rowElem w (packRow w f) e = f e % 2 ^ w := by
  have hlt := foldr_digits_lt w (4096 / w) f
  rw [Nat.mul_div_cancel' hw] at hlt
  have hrow := (BitVec.toNat_ofNat _ _).trans (Nat.mod_eq_of_lt hlt)
  rw [rowElem, packRow, hrow]
  exact foldr_digit w _ f he

theorem rowElems_pos (hw : w ∣ 4096) : 0 < 4096 / w := Nat.div_pos (Nat.le_of_dvd (by decide) hw) (Nat.pos_of_dvd_of_pos hw (by decide))

/-- Bits of a packed row. -/
theorem getLsbD_packRow (f : Nat → Bool) {i : Nat} (hi : i < 4096) : (packRow 1 fun i => if f i then 1 else 0).getLsbD i = f i := by
  have helem := rowElem_packRow (w := 1) (by decide) (fun i => if f i then 1 else 0) (e := i) (by rw [Nat.div_one]; exact hi)
  rw [rowElem, Nat.one_mul] at helem
  rw [← BitVec.testBit_toNat, Nat.testBit_eq_decide_div_mod_eq, ← Nat.pow_one 2, helem]
  cases f i <;> rfl

/-- Element i of a group lies in one register of it (R295). -/
theorem elem_place (hw : w ∣ 4096) (i : Nat) : i * w / 4096 = i / (4096 / w) ∧ i * w % 4096 = w * (i % (4096 / w)) := by
  have hpos : 0 < w := Nat.pos_of_dvd_of_pos hw (by decide)
  obtain ⟨l, hl⟩ := hw
  have hdiv : 4096 / w = l := by rw [hl, Nat.mul_div_cancel_left _ hpos]
  rw [hdiv, hl, Nat.mul_comm w l, Nat.mul_div_mul_right _ _ hpos, Nat.mul_mod_mul_right, Nat.mul_comm w]
  exact ⟨rfl, rfl⟩

theorem elemAt_eq (hw : w ∣ 4096) (v : Vector Row 32) (n i : Nat) :
    elemAt v n w i = rowElem w (getOr v (n + i / (4096 / w)) 0) (i % (4096 / w)) := by
  obtain ⟨hquot, hrem⟩ := elem_place hw i
  rw [elemAt, hquot, hrem, rowElem]

theorem elemAt_lt (v : Vector Row 32) (n i : Nat) : elemAt v n w i < 2 ^ w := Nat.mod_lt _ (Nat.two_pow_pos w)

theorem elemAt_mod (v : Vector Row 32) (n i : Nat) : elemAt v n w i % 2 ^ w = elemAt v n w i := Nat.mod_eq_of_lt (elemAt_lt v n i)

end

/-! ## Registers by their numbers -/

section
variable {α : Type} {n : Nat}

theorem getOr_fin (v : Vector α n) (i : Fin n) (d : α) : getOr v i.1 d = v[i] := dif_pos i.2

theorem getOr_upd (v : Vector α n) (i : Fin n) (k : Nat) (f : α → α) (d : α) : getOr (upd v i f) k d = if k = i.1 then f v[i] else getOr v k d := by
  unfold getOr
  by_cases hk : k < n
  · rw [dif_pos hk, dif_pos hk]
    have hget := upd_get v i ⟨k, hk⟩ f
    simp only [Fin.ext_iff, eq_comm (a := i.1)] at hget
    exact hget
  · rw [dif_neg hk, dif_neg hk, if_neg (by omega)]

theorem getOr_updNat (v : Vector α n) {j : Nat} (hj : j < n) (k : Nat) (f : α → α) (d : α) :
    getOr (updNat v j f) k d = if k = j then f v[j] else getOr v k d := by
  have hfin := updNat_fin v ⟨j, hj⟩ f
  rw [show updNat v j f = upd v ⟨j, hj⟩ f from hfin]
  exact getOr_upd v ⟨j, hj⟩ k f d

/-- Registers n by n replaced: each of the group has its new value, and every other what it had. -/
theorem getOr_foldl_updNat (v : Vector α n) (a m : Nat) (ham : a + m ≤ n) (f : Nat → α) (k : Nat) (d : α) :
    getOr ((List.range m).foldl (fun v j => updNat v (a + j) fun _ => f j) v) k d = if a ≤ k ∧ k < a + m then f (k - a) else getOr v k d := by
  induction m with
  | zero => rw [if_neg (by omega)]; rfl
  | succ m ih =>
    rw [List.range_succ, List.foldl_append, List.foldl_cons, List.foldl_nil, getOr_updNat _ (by omega), ih (by omega)]
    by_cases hk : k = a + m
    · rw [if_pos hk, if_pos (by omega), hk, Nat.add_sub_cancel_left]
    · rw [if_neg hk]
      exact if_congr (by omega) rfl rfl

end

/-! ## Loads that land (R234) -/

/-- A register that no load reaches keeps its value as the loads land. -/
theorem getOr_land (l : List VLoad) (v : Vector Row 32) {k : Nat} (hk : ∀ p ∈ l, p.reg.1 ≠ k) (d : Row) :
    getOr (l.foldl (fun v p => upd v p.reg fun _ => p.data) v) k d = getOr v k d := by
  induction l generalizing v with
  | nil => rfl
  | cons p l ih =>
    rw [List.foldl_cons, ih _ fun q hq => hk q (List.mem_cons_of_mem p hq), getOr_upd]
    exact if_neg (hk p List.mem_cons_self).symm

section
variable {s u : State} {x : VSite} {len n : Nat} {busy : Wick → Nat}

/-- A register at the end of an instruction: loads of it that were due before land, and no others. -/
theorem getOr_endVec {k : Nat} (hk : ∀ p ∈ (u.thr x).vloads, p.due < u.wick[x.w].rho + 1 → p.reg.1 ≠ k) (d : Row) :
    getOr ((u.endVec x len n busy).thr x).v k d = getOr (u.thr x).v k d := by
  rw [thr_endVec]
  refine getOr_land _ _ (fun p hp => ?_) d
  obtain ⟨hmem, hdue⟩ := List.mem_filter.mp hp
  exact hk p hmem (of_decide_eq_true hdue)

/-- No load in flight as the slot comes is due before it. -/
theorem thrAt_due {p : VLoad} (hp : p ∈ (s.thrAt x).vloads) : s.slotRho x ≤ p.due := by
  rw [State.thrAt, slot_wick, toSlot_thread] at hp
  obtain ⟨-, hdue⟩ := List.mem_filter.mp hp
  rw [State.slotRho, slot_wick, toSlot_rho]
  simpa using hdue

theorem updThr_rho (u : State) (x : VSite) (f : Thread → Thread) : (u.updThr x f).wick[x.w].rho = u.wick[x.w].rho := by
  rw [State.updThr, setWick_self]
  rfl

/-! ## A group written (R234, R296) -/

/-- The register of number a + j of a group that is written. -/
def Thread.putRow (th : Thread) (vd w : Nat) (act : Nat → Bool) (f : Nat → Nat) (j : Nat) : Row :=
  packRow w fun e => if act (j * (4096 / w) + e) then f (j * (4096 / w) + e) else elemAt th.v vd w (j * (4096 / w) + e)

theorem getOr_putV (th : Thread) {vd w n : Nat} (hn : vd + n ≤ 32) (act : Nat → Bool) (f : Nat → Nat) {j : Nat} (hj : j < n) :
    getOr (th.putV vd w n act f).v (vd + j) 0 = th.putRow vd w act f j := by
  refine (getOr_foldl_updNat th.v vd n hn (th.putRow vd w act f) (vd + j) 0).trans ?_
  rw [if_pos (by omega), Nat.add_sub_cancel_left]

theorem rowElem_putRow (th : Thread) {vd w : Nat} (hw : w ∣ 4096) (act : Nat → Bool) (f : Nat → Nat) (i : Nat) :
    rowElem w (th.putRow vd w act f (i / (4096 / w))) (i % (4096 / w)) = if act i then f i % 2 ^ w else elemAt th.v vd w i := by
  have hsplit : i / (4096 / w) * (4096 / w) + i % (4096 / w) = i := Nat.div_add_mod' i _
  rw [Thread.putRow, rowElem_packRow hw _ (Nat.mod_lt i (rowElems_pos hw)), hsplit]
  split
  · rfl
  · rw [elemAt_mod]

/-- A load that a write of a group leaves in flight reaches no register in which an element was written. -/
theorem putV_keeps {th : Thread} {vd w n : Nat} (hw : w ∣ 4096) {act : Nat → Bool} {f : Nat → Nat} {p : VLoad}
    (hp : p ∈ (th.putV vd w n act f).vloads) {i : Nat} (hi : i / (4096 / w) < n) (hreg : p.reg.1 = vd + i / (4096 / w)) : act i = false := by
  obtain ⟨-, hdrop⟩ := List.mem_filter.mp hp
  rw [decide_eq_true ⟨by rw [hreg]; exact Nat.le_add_right _ _, by rw [hreg]; exact Nat.add_lt_add_left hi _⟩, Bool.true_and,
    Bool.not_eq_true', List.any_eq_false] at hdrop
  have hact := hdrop (i % (4096 / w)) (List.mem_range.mpr (Nat.mod_lt i (rowElems_pos hw)))
  rw [hreg, Nat.add_sub_cancel_left, Nat.div_add_mod'] at hact
  exact Bool.eq_false_iff.mpr hact

/-- A group written holds f on its active elements, and elsewhere what it held unless a load lands there. -/
theorem holds_putV (hat : AtPoint s u x) {vd : V} {w n : Nat} (hw : w ∣ 4096) (hn : vd.1 + n ≤ 32) (act : Nat → Bool) (f : Nat → Nat) (m : Nat) :
    Holds s ((u.updThr x fun t => t.putV vd.1 w n act f).endVec x len m busy) x vd w n act f := by
  obtain ⟨-, ⟨b, c, hth⟩, hrho, -⟩ := hat
  have hthr : (u.updThr x fun t => t.putV vd.1 w n act f).thr x = (u.thr x).putV vd.1 w n act f := thr_updThr _
  intro i hi
  have hreg : i / (4096 / w) < n := Nat.div_lt_of_lt_mul (by rw [Nat.mul_comm]; exact hi)
  have hheld : (∀ p ∈ ((u.thr x).putV vd.1 w n act f).vloads, p.due < s.slotRho x + 1 → p.reg.1 ≠ vd.1 + i / (4096 / w)) →
      elemAt ((u.updThr x fun t => t.putV vd.1 w n act f).endVec x len m busy |>.thr x).v vd.1 w i =
        if act i then f i % 2 ^ w else elemAt (s.thrAt x).v vd.1 w i := by
    rw [← hthr, ← hrho, ← updThr_rho u x]
    intro hland
    rw [elemAt_eq hw, getOr_endVec hland, hthr, getOr_putV _ hn act f hreg, rowElem_putRow _ hw, hth]
    rfl
  refine ⟨fun hact => ?_, fun hact hnot => ?_⟩
  · refine (hheld fun p hp _ hp' => ?_).trans (if_pos hact)
    rw [putV_keeps hw hp hreg hp'] at hact
    cases hact
  · refine (hheld fun p hp hdue hp' => hnot ?_).trans (if_neg (by rw [hact]; exact Bool.false_ne_true))
    obtain ⟨hmem, -⟩ := List.mem_filter.mp hp
    rw [hth] at hmem
    exact ⟨p, hmem, Nat.le_antisymm (Nat.lt_succ_iff.mp hdue) (thrAt_due hmem), by rw [hp', (elem_place hw i).1]⟩

end

/-! ## Groups -/

theorem sewBits_dvd (th : Thread) : th.sewBits ∣ 4096 := by
  have h (q : Fin 4) : 8 * 2 ^ q.1 ∣ 4096 := by revert q; decide
  exact h th.sew

/-- A register whose number is a multiple of 1, 2, 4 or 8 begins a group of as many. -/
theorem group_fits {vd : V} {n : Nat} (hn : n ∣ 32) (h : vd.1 % n = 0) : vd.1 + n ≤ 32 := by
  obtain ⟨a, ha⟩ := hn
  obtain ⟨b, hb⟩ := Nat.dvd_of_mod_eq_zero h
  have hlt : b < a := by
    by_contra hge
    have := Nat.mul_le_mul_left n (Nat.not_lt.mp hge)
    omega
  have := Nat.mul_le_mul_left n hlt
  rw [Nat.mul_succ] at this
  omega

theorem group_dvd (th : Thread) : th.group ∣ 32 := by
  have h (q : Fin 4) : 2 ^ q.1 ∣ 32 := by revert q; decide
  exact h th.grp

theorem aligned_head {n : Nat} {vd : V} {l : List V} (h : aligned n (vd :: l) = true) : vd.1 % n = 0 := by
  rw [aligned, List.all_cons, Bool.and_eq_true, beq_iff_eq] at h
  exact h.1

/-- A group of the thread's grouping. -/
theorem aligned_fits {th : Thread} {vd : V} {l : List V} (h : aligned th.group (vd :: l) = true) : vd.1 + th.group ≤ 32 :=
  group_fits (group_dvd th) (aligned_head h)

end Sys2Proof.Machine
end

section
/-! # PROOFS. TCLR and TSTAT (O8). -/
namespace Sys2Proof.Machine

section
variable {s : State} {x : VSite} {len : Nat} {gd : G}

/-- What TSTAT reads (R317). -/
def Taper.status (t : Taper) : W64 :=
  BitVec.ofNat 64 ((if t.ovf then 1 else 0) + (if t.sat then 2 else 0) + (if t.loader.isSome then 4 else 0))

theorem tclr_acts (hr : TReady s x (.tclr x) len) :
    Completes (.tclr x) s fun t => VRetires s t x len id ∧
      t.wick[x.w].taper = { s.wick[x.w].taper with acc := Vector.replicate 128 0 } ∧ Only [.wick] s t := by
  have hat := runPoint_atPoint s x (taperHow [] [] false none)
  refine completes_retires rfl hr.1 hr.free (hat.same.updTap _) ((runPoint_only s x _).step (updTap_only _ x _)) rfl rfl (List.Subset.refl _)
    fun busy hret honly => ⟨hret, ?_, honly⟩
  rw [taper_endVec, taper_updTap, hat.taper]

theorem tstat_acts (hr : TReady s x (.tstat x gd) len) :
    Completes (.tstat x gd) s fun t => VRetires s t x len (fun a => { a with g := regSet a.g gd s.wick[x.w].taper.status }) ∧
      t.wick[x.w].taper = { s.wick[x.w].taper with ovf := false, sat := false } ∧ Only [.wick] s t := by
  have hat := runPoint_atPoint s x (taperHow [] [gd] false none)
  have hsame := hat.same.putG [(gd, s.wick[x.w].taper.status)]
  rw [← hat.taper] at hsame ⊢
  refine completes_retires rfl hr.1 hr.free (hsame.updTap _)
    (((runPoint_only s x _).step (updThr_only _ x _)).step (updTap_only _ x _)) rfl rfl (List.Subset.refl _) fun busy hret honly => ⟨hret, ?_, honly⟩
  rw [taper_endVec, taper_updTap, State.putG, taper_updThr]

end

/-- Settles O8: each of the two acts on its Taper in the slot that has come. -/
theorem taperAccumulatorsClearAndStatusReads : Obligations.TaperAccumulatorsClearAndStatusReads :=
  ⟨fun _ _ _ hr => tclr_acts hr, fun _ _ _ _ hr => tstat_acts hr⟩

end Sys2Proof.Machine
end

section
/-! # PROOFS. Instructions that write a register group, and the elementwise ones (O43). -/
namespace Sys2Proof.Machine

section
variable {s u : State} {x : VSite} {i : Instr} {len : Nat} {h : VHow} {run : State → Nat → VRun}

/-! ## Instructions that write a group -/

/-- A group holds each value through its image at the element's width. -/
theorem Holds.congr {t : State} {vd : V} {w n : Nat} {act : Nat → Bool} {f g : Nat → Nat} (h : Holds s t x vd w n act f)
    (hfg : ∀ k, f k % 2 ^ w = g k % 2 ^ w) : Holds s t x vd w n act g :=
  fun k hk => ⟨fun hact => ((h k hk).1 hact).trans (hfg k), (h k hk).2⟩

/-- An instruction that writes the active elements of a group retires with them. -/
theorem completes_putV {gs : List Grp} {vd : V} {w n m b : Nat} {act : Nat → Bool} {f g : Nat → Nat}
    (hexec : exec i s = .next (s.issueVec x i h run)) (hr : VReady s x i len) (hfree : TaperFree s x h i) (hat : AtPoint s u x)
    (honly : Only gs s u) (hgs : [.wick] ⊆ gs)
    (hrun : run (s.runPoint x h) (s.slotRho x) = ⟨u.updThr x fun t => t.putV vd.1 w n act f, none, m, b⟩)
    (hw : w ∣ 4096) (hn : vd.1 + n ≤ 32) (hfg : ∀ k, f k % 2 ^ w = g k % 2 ^ w) :
    Completes i s fun t => VRetires s t x len id ∧ Holds s t x vd w n act g ∧ Only gs s t :=
  completes_retires hexec hr hfree (hat.same.updThr hat.same.thread) (honly.right (updThr_only u x _) hgs) hrun rfl hgs
    fun _ hret honly' => ⟨hret, (holds_putV hat hw hn act f m).congr hfg, honly'⟩

/-! ## The elementwise instructions (R301) -/

section
variable {vd va : V} {b : VRhs} {mk : VMask} {f : (w a b d : Nat) → Nat}

theorem runElems_writes (hat : AtPoint s u x) (n : Nat) (ha : aligned (s.thrAt x).group ([vd, va] ++ rhsRegs b) = true) :
    runElems x vd va b mk f u n = ⟨u.updThr x fun t => t.putV vd.1 (s.thrAt x).sewBits (s.thrAt x).group ((s.thrAt x).active mk) fun k =>
      f (s.thrAt x).sewBits (elemAt (s.thrAt x).v va.1 (s.thrAt x).sewBits k) ((s.thrAt x).rhs b k) (elemAt (s.thrAt x).v vd.1 (s.thrAt x).sewBits k),
      none, 0, beatsOf (s.thrAt x).vl (s.thrAt x).sewBits⟩ := by
  obtain ⟨-, ⟨p, c, hth⟩, -⟩ := hat
  unfold runElems
  rw [hth]
  dsimp only
  rw [show aligned ((s.thrAt x).buffered p c).group ([vd, va] ++ rhsRegs b) = true from ha]
  refine congrArg (VRun.mk · none 0 _) (updThr_congr ?_)
  rw [hth]
  rfl

theorem runElems_illegal (hat : AtPoint s u x) (n : Nat) (ha : aligned (s.thrAt x).group ([vd, va] ++ rhsRegs b) = false) :
    runElems x vd va b mk f u n = VRun.raise u 0x01 0 := by
  obtain ⟨-, ⟨p, c, hth⟩, -⟩ := hat
  unfold runElems
  rw [hth]
  exact if_pos (by rw [show aligned ((s.thrAt x).buffered p c).group ([vd, va] ++ rhsRegs b) = false from ha]; rfl)

/-- An elementwise instruction gives f on the active elements of its group, or is ILLEGAL where a group is misaligned. -/
theorem vecOp_gives (hexec : exec i s = .next (vecOp x i vd va b mk f s)) (hr : VReady s x i len) {g : Nat → Nat}
    (hfg : ∀ k, f (s.thrAt x).sewBits (elemAt (s.thrAt x).v va.1 (s.thrAt x).sewBits k) ((s.thrAt x).rhs b k)
      (elemAt (s.thrAt x).v vd.1 (s.thrAt x).sewBits k) % 2 ^ (s.thrAt x).sewBits = g k % 2 ^ (s.thrAt x).sewBits) :
    (aligned (s.thrAt x).group ([vd, va] ++ rhsRegs b) = true → Completes i s fun t =>
      VRetires s t x len id ∧ Holds s t x vd (s.thrAt x).sewBits (s.thrAt x).group ((s.thrAt x).active mk) g ∧ Only [.wick] s t) ∧
    (aligned (s.thrAt x).group ([vd, va] ++ rhsRegs b) = false →
      Completes i s fun t => Traps s t (.wick x.w x.t x.wide .clean) 0x01 0) := by
  have hat := runPoint_atPoint s x (vecHow (rhsScalars b) [])
  exact ⟨fun ha => completes_putV hexec hr (taperFree_of_vector rfl) hat (runPoint_only s x _) (List.Subset.refl _) (runElems_writes hat _ ha)
      (sewBits_dvd _) (aligned_fits ha) hfg,
    fun ha => completes_raises hexec hr (taperFree_of_vector rfl) (runElems_illegal hat _ ha) (by decide) (by decide)⟩

end

end

/-- Settles O43: each instruction is an elementwise one of the stated function. -/
theorem vectorArithmeticWritesItsGroup : Obligations.VectorArithmeticWritesItsGroup := by
  unfold Obligations.VectorArithmeticWritesItsGroup
  intro x len vd va b mk s th w A B D gives
  refine ⟨fun sub hr => vecOp_gives rfl hr fun k => ?_, fun acc hr => vecOp_gives rfl hr fun k => Nat.mod_mod _ _,
    fun uns hr => vecOp_gives rfl hr fun k => rfl, fun op hr => vecOp_gives rfl hr fun k => rfl, fun op hr => vecOp_gives rfl hr fun k => rfl,
    fun hr => vecOp_gives rfl hr fun k => rfl, fun op hr => vecOp_gives rfl hr fun k => rfl, fun sub hr => vecOp_gives rfl hr fun k => rfl⟩
  cases sub <;> exact Nat.mod_mod _ _

end Sys2Proof.Machine
end

section
/-! # PROOFS. Vector set-up, masks, moves and reductions (O44). -/
namespace Sys2Proof.Machine

section
variable {s u u' v : State} {x : VSite} {i : Instr} {len m b : Nat} {h : VHow} {run : State → Nat → VRun}

/-! ## The two shapes of a run -/

/-- A run that changes its thread where its operands are legal. -/
theorem threadRun {c : Bool} {F F' : Thread → Thread} (hc : c = false) (hu : u' = u) (hF : F (u.thr x) = F' (u.thr x)) :
    (if c = true then VRun.raise v 0x01 0 else ⟨u'.updThr x F, none, m, b⟩) = ⟨u.updThr x F', none, m, b⟩ := by
  rw [hc, hu, if_neg Bool.false_ne_true]
  exact congrArg (VRun.mk · none m b) (updThr_congr hF)

/-- A run that writes a scalar register where its operands are legal. -/
theorem scalarRun {c : Bool} {gd : G} {a a' : W64} (hc : c = false) (ha : a' = a) :
    (if c = true then VRun.raise v 0x01 0 else ⟨u.putG x [(gd, a')], none, m, b⟩) = ⟨u.putG x [(gd, a)], none, m, b⟩ := by
  rw [hc, ha, if_neg Bool.false_ne_true]

/-- An instruction that writes a scalar register retires with it. -/
theorem completes_putG {gd : G} {a : W64} (hexec : exec i s = .next (s.issueVec x i h run)) (hr : VReady s x i len) (hfree : TaperFree s x h i)
    (hrun : run (s.runPoint x h) (s.slotRho x) = ⟨(s.runPoint x h).putG x [(gd, a)], none, m, b⟩) :
    Completes i s fun t => VRetires s t x len (fun th => { th with g := regSet th.g gd a }) ∧ True ∧ Only [.wick] s t :=
  completes_retires hexec hr hfree ((runPoint_atPoint s x h).same.putG _) ((runPoint_only s x h).step (putG_only _ x _)) hrun rfl
    (List.Subset.refl _) fun _ hret honly => ⟨hret, trivial, honly⟩

/-! ## Masks (R296, R301) -/

theorem getLsbD_putMask (old : Row) (act f : Nat → Bool) {k : Nat} (hk : k < 4096) :
    (putMask old act f).getLsbD k = if act k then f k else old.getLsbD k := getLsbD_packRow _ hk

/-- What VCMP compares. -/
def Thread.compares (th : Thread) (cc : Cond) (va : V) (b : VRhs) (k : Nat) : Bool :=
  condHolds cc (BitVec.ofNat th.sewBits (elemAt th.v va.1 th.sewBits k)) (BitVec.ofNat th.sewBits (th.rhs b k))

theorem vcmp_writes {cc : Cond} {md : M} {va : V} {b : VRhs} {mk : VMask} (hr : VReady s x (.vcmp x cc md va b mk) len)
    (ha : aligned (s.thrAt x).group (va :: rhsRegs b) = true) :
    Completes (.vcmp x cc md va b mk) s fun t => VRetires s t x len (fun a => { a with m := (t.thr x).m }) ∧
      (∀ n : M, n ≠ md → (t.thr x).m[n] = (s.thr x).m[n]) ∧
      (∀ k, k < 4096 → (t.thr x).m[md].getLsbD k =
        if (s.thrAt x).active mk k then (s.thrAt x).compares cc va b k else (s.thr x).m[md].getLsbD k) ∧ Only [.wick] s t := by
  have hat := runPoint_atPoint s x (vecHow (rhsScalars b) [])
  obtain ⟨p, c, hth⟩ := hat.thread
  let masks : Vector Row 8 := upd (s.thrAt x).m md fun old => putMask old ((s.thrAt x).active mk) ((s.thrAt x).compares cc va b)
  have hsame : VSame s ((s.runPoint x (vecHow (rhsScalars b) [])).updThr x fun t => { t with m := masks }) x fun a => { a with m := masks } := by
    obtain ⟨h1, h2, h3, h4, h5, h6, h7, h8, -, hrest⟩ := hat.same.thread
    exact hat.same.updThr ⟨h1, h2, h3, h4, h5, h6, h7, h8, rfl, hrest⟩
  refine completes_retires rfl hr (taperFree_of_vector rfl) hsame ((runPoint_only s x _).step (updThr_only _ x _))
    (threadRun (by rw [hth]; exact congrArg (!·) ha) rfl (by rw [hth]; rfl)) rfl (List.Subset.refl _) fun busy hret honly => ?_
  obtain ⟨⟨-, -, -, -, -, -, -, -, hmask, -⟩, -⟩ := id hret
  have hmasks : _ = masks := hmask
  rw [hmasks, ← thrAt_m]
  refine ⟨hret, fun n hn => upd_other _ _ _ _ hn, fun k hk => ?_, honly⟩
  rw [upd_self]
  exact getLsbD_putMask _ _ _ hk

/-! ## VSETL (R294, R295) -/

theorem vsetl_sets {gd ga : G} {cfg : Byte} (hcfg : cfg.toNat < 16) (hr : VReady s x (.vsetl x gd ga cfg) len) :
    Completes (.vsetl x gd ga cfg) s fun t =>
      (t.thr x).vl = min (regGet (s.thrAt x).g ga).toNat (4096 * 2 ^ (cfg.toNat / 4 % 4) / (8 * 2 ^ (cfg.toNat % 4))) ∧
      (t.thr x).sew.1 = cfg.toNat % 4 ∧ (t.thr x).grp.1 = cfg.toNat / 4 % 4 ∧
      (t.thr x).g = regSet (s.thrAt x).g gd (BitVec.ofNat 64 (t.thr x).vl) ∧ Only [.wick] s t := by
  have hat := runPoint_atPoint s x ⟨[ga], [gd], false, true, false, false, none⟩
  obtain ⟨p, c, hth⟩ := hat.thread
  let vl := min (regGet (s.thrAt x).g ga).toNat (4096 * 2 ^ (cfg.toNat / 4 % 4) / (8 * 2 ^ (cfg.toNat % 4)))
  let sets (a : Thread) : Thread :=
    { a with sew := ⟨cfg.toNat % 4, Nat.mod_lt _ (by decide)⟩, grp := ⟨cfg.toNat / 4 % 4, Nat.mod_lt _ (by decide)⟩, vl := vl }
  have hsame : VSame s ((s.runPoint x ⟨[ga], [gd], false, true, false, false, none⟩).updThr x sets) x sets := by
    obtain ⟨h1, h2, h3, h4, h5, h6, h7, h8, h9, -, -, -, hrest⟩ := hat.same.thread
    exact hat.same.updThr ⟨h1, h2, h3, h4, h5, h6, h7, h8, h9, rfl, rfl, rfl, hrest⟩
  refine completes_retires rfl hr (taperFree_of_vector rfl) (hsame.putG [(gd, BitVec.ofNat 64 vl)])
    (((runPoint_only s x _).step (updThr_only _ x _)).step (putG_only _ x _)) (n := 0) (b := 0) ?_ rfl (List.Subset.refl _)
    fun busy hret honly => ?_
  · refine (if_neg (by omega)).trans ?_
    dsimp only
    rw [hth]
    rfl
  · obtain ⟨⟨-, -, hg, -, -, -, -, -, -, hvl, hsew, hgrp, -⟩, -⟩ := hret
    refine ⟨hvl, congrArg Fin.val hsew, congrArg Fin.val hgrp, ?_, honly⟩
    rw [hvl, thrAt_g]
    exact hg

end

/-! ## Widened groups (R301) -/

theorem wide_dvd {th : Thread} (h : th.wideOk = true) : 2 * th.sewBits ∣ 4096 ∧ 2 * th.group ∣ 32 := by
  have hsew (q : Fin 4) : q.1 ≤ 2 → 2 * (8 * 2 ^ q.1) ∣ 4096 := by revert q; decide
  have hgrp (q : Fin 4) : q.1 ≤ 2 → 2 * 2 ^ q.1 ∣ 32 := by revert q; decide
  obtain ⟨h1, h2⟩ := of_decide_eq_true h
  exact ⟨hsew _ h1, hgrp _ h2⟩

section
variable {s : State} {x : VSite} {len : Nat} {vd va vb : V} {gd ga gb : G} {mk : VMask}

/-! ## Selections, moves and slides (R301) -/

/-- Element i of the thread's group at va. -/
def Thread.elem (th : Thread) (va : V) (i : Nat) : Nat := elemAt th.v va.1 th.sewBits i

theorem vsel_selects {n : M} (hr : VReady s x (.vsel x vd va vb n) len) (ha : aligned (s.thrAt x).group [vd, va, vb] = true) :
    Completes (.vsel x vd va vb n) s fun t => VRetires s t x len id ∧
      Holds s t x vd (s.thrAt x).sewBits (s.thrAt x).group ((s.thrAt x).active none) (fun i =>
        if (s.thrAt x).m[n].getLsbD i then (s.thrAt x).elem va i
        else (s.thrAt x).elem vb i) ∧ Only [.wick] s t := by
  have hat := runPoint_atPoint s x (vecHow [] [])
  obtain ⟨p, c, hth⟩ := hat.thread
  exact completes_putV rfl hr (taperFree_of_vector rfl) hat (runPoint_only s x _) (List.Subset.refl _)
    (threadRun (by rw [hth]; exact congrArg (!·) ha) rfl (by rw [hth]; rfl)) (sewBits_dvd _) (aligned_fits ha) fun k => rfl

theorem vmvs_fills (hr : VReady s x (.vmvs x vd ga mk) len) (ha : aligned (s.thrAt x).group [vd] = true) :
    Completes (.vmvs x vd ga mk) s fun t => VRetires s t x len id ∧
      Holds s t x vd (s.thrAt x).sewBits (s.thrAt x).group ((s.thrAt x).active mk) (fun _ => (regGet (s.thrAt x).g ga).toNat) ∧
      Only [.wick] s t := by
  have hat := runPoint_atPoint s x (vecHow [ga] [])
  obtain ⟨p, c, hth⟩ := hat.thread
  exact completes_putV rfl hr (taperFree_of_vector rfl) hat (runPoint_only s x _) (List.Subset.refl _)
    (threadRun (by rw [hth]; exact congrArg (!·) ha) rfl (by rw [hth]; rfl)) (sewBits_dvd _) (aligned_fits ha) fun k => Nat.mod_mod _ _

theorem vmvx_reads (hr : VReady s x (.vmvx x gd va gb) len) (ha : aligned (s.thrAt x).group [va] = true) :
    Completes (.vmvx x gd va gb) s fun t => VRetires s t x len (fun a => { a with
      g := regSet a.g gd (if (s.thrAt x).vl ≤ (regGet (s.thr x).g gb).toNat then 0
        else BitVec.ofInt 64 (sgn (s.thrAt x).sewBits ((s.thrAt x).elem va (regGet (s.thr x).g gb).toNat))) }) ∧ True ∧ Only [.wick] s t := by
  obtain ⟨p, c, hth⟩ := (runPoint_atPoint s x (vecHow [gb] [gd])).thread
  refine completes_putG rfl hr (taperFree_of_vector rfl) (scalarRun (by rw [hth]; exact congrArg (!·) ha) ?_)
  rw [hth, ← thrAt_g]
  rfl

/-- The element that a slide brings to place i. -/
def Thread.slid (th : Thread) (down : Bool) (va : V) (k i : Nat) : Nat :=
  if down then (if i + k < th.vl then th.elem va (i + k) else 0)
  else if k ≤ i then th.elem va (i - k) else 0

theorem slide_moves {down : Bool} {k : BitVec 32} (hr : VReady s x (.vslupVsldn x down vd va k mk) len)
    (ha : aligned (s.thrAt x).group [vd, va] = true) :
    Completes (.vslupVsldn x down vd va k mk) s fun t => VRetires s t x len id ∧
      Holds s t x vd (s.thrAt x).sewBits (s.thrAt x).group ((s.thrAt x).active mk) ((s.thrAt x).slid down va k.toNat) ∧ Only [.wick] s t := by
  have hat := runPoint_atPoint s x (vecHow [] [])
  obtain ⟨p, c, hth⟩ := hat.thread
  exact completes_putV rfl hr (taperFree_of_vector rfl) hat (runPoint_only s x _) (List.Subset.refl _)
    (threadRun (by rw [hth]; exact congrArg (!·) ha) rfl (by rw [hth]; rfl)) (sewBits_dvd _) (aligned_fits ha) fun k => rfl

/-! ## Widening and narrowing (R301) -/

theorem widen_extends {uns : Bool} (hr : VReady s x (.vwidsVwidu x uns vd va mk) len) (hw : (s.thrAt x).wideOk = true)
    (hd : aligned (2 * (s.thrAt x).group) [vd] = true) (ha : aligned (s.thrAt x).group [va] = true) :
    Completes (.vwidsVwidu x uns vd va mk) s fun t => VRetires s t x len id ∧
      Holds s t x vd (2 * (s.thrAt x).sewBits) (2 * (s.thrAt x).group) ((s.thrAt x).active mk) (fun i =>
        if uns then (s.thrAt x).elem va i
        else img (2 * (s.thrAt x).sewBits) (sgn (s.thrAt x).sewBits ((s.thrAt x).elem va i))) ∧ Only [.wick] s t := by
  have hat := runPoint_atPoint s x (vecHow [] [])
  obtain ⟨p, c, hth⟩ := hat.thread
  obtain ⟨hbits, hgroup⟩ := wide_dvd hw
  refine completes_putV rfl hr (taperFree_of_vector rfl) hat (runPoint_only s x _) (List.Subset.refl _)
    (threadRun ?_ rfl (by rw [hth]; rfl)) hbits (group_fits hgroup (aligned_head hd)) fun k => rfl
  rw [hth]
  show (!(s.thrAt x).wideOk || !aligned (2 * (s.thrAt x).group) [vd] || !aligned (s.thrAt x).group [va]) = false
  rw [hw, hd, ha]
  rfl

/-- What VNRS makes of an element; for a shift of 2 SEW or more, which the spec leaves open, a free value (log 9). -/
def Thread.narrowed (th : Thread) (va : V) (imm : BitVec 32) (free i : Nat) : Nat :=
  if decide (2 * th.sewBits ≤ imm.toNat) then (Config.freeWord (free + i)).toNat % 2 ^ th.sewBits
  else img th.sewBits (satS th.sewBits (roundShift (sgn (2 * th.sewBits) (elemAt th.v va.1 (2 * th.sewBits) i)) imm.toNat))

theorem vnrs_narrows {imm : BitVec 32} (hr : VReady s x (.vnrs x vd va imm mk) len) (hw : (s.thrAt x).wideOk = true)
    (hd : aligned (s.thrAt x).group [vd] = true) (ha : aligned (2 * (s.thrAt x).group) [va] = true) {gs : List Grp} (hgs : [.wick] ⊆ gs)
    (hfree : 2 * (s.thrAt x).sewBits ≤ imm.toNat → .misc ∈ gs) :
    Completes (.vnrs x vd va imm mk) s fun t => VRetires s t x len id ∧
      Holds s t x vd (s.thrAt x).sewBits (s.thrAt x).group ((s.thrAt x).active mk) ((s.thrAt x).narrowed va imm s.misc.fresh) ∧ Only gs s t := by
  have hat := runPoint_atPoint s x (vecHow [] [])
  have honly := (runPoint_only s x (vecHow [] [])).mono hgs
  have hmisc : (s.runPoint x (vecHow [] [])).misc = s.misc := runPoint_only s x _ .misc (by simp)
  obtain ⟨p, c, hth⟩ := hat.thread
  have hlegal : (!((s.runPoint x (vecHow [] [])).thr x).wideOk || !aligned ((s.runPoint x (vecHow [] [])).thr x).group [vd] ||
      !aligned (2 * ((s.runPoint x (vecHow [] [])).thr x).group) [va]) = false := by
    rw [hth]
    show (!(s.thrAt x).wideOk || !aligned (s.thrAt x).group [vd] || !aligned (2 * (s.thrAt x).group) [va]) = false
    rw [hw, hd, ha]
    rfl
  by_cases hout : 2 * (s.thrAt x).sewBits ≤ imm.toNat
  · refine completes_putV (f := (s.thrAt x).narrowed va imm s.misc.fresh) rfl hr (taperFree_of_vector rfl) (hat.fresh 4096)
      (honly.right (fresh_only _ 4096) (by simpa using hfree hout)) hgs (threadRun hlegal ?_ ?_) (sewBits_dvd _) (aligned_fits hd) fun k => rfl
    · rw [hth]
      exact if_pos (decide_eq_true hout)
    · rw [show ((s.runPoint x (vecHow [] [])).fresh 4096).thr x = _ from hth, hth, hmisc]
      rfl
  · refine completes_putV (f := (s.thrAt x).narrowed va imm s.misc.fresh) rfl hr (taperFree_of_vector rfl) hat
      honly hgs (threadRun hlegal ?_ ?_) (sewBits_dvd _) (aligned_fits hd) fun k => rfl
    · rw [hth]
      exact if_neg (by rw [decide_eq_true_eq]; exact hout)
    · rw [hth, hmisc]
      rfl

/-! ## Reductions and counts (R301) -/

theorem reduction_sums {op : VRed} (hr : VReady s x (.vreduction x op gd va mk) len) (ha : aligned (s.thrAt x).group [va] = true) :
    Completes (.vreduction x op gd va mk) s fun t => VRetires s t x len (fun a => { a with
      g := regSet a.g gd (reduce op (s.thrAt x).sewBits (((List.range (s.thrAt x).vl).filter ((s.thrAt x).active mk)).map ((s.thrAt x).elem va))) }) ∧ True ∧ Only [.wick] s t := by
  obtain ⟨p, c, hth⟩ := (runPoint_atPoint s x (vecHow [] [gd])).thread
  exact completes_putG rfl hr (taperFree_of_vector rfl) (scalarRun (by rw [hth]; exact congrArg (!·) ha) (by rw [hth]; rfl))

theorem vmpop_counts {n : M} (hr : VReady s x (.vmpop x gd n) len) :
    Completes (.vmpop x gd n) s fun t => VRetires s t x len (fun a => { a with
      g := regSet a.g gd (BitVec.ofNat 64 ((List.range (s.thrAt x).vl).filter fun i => (s.thrAt x).m[n].getLsbD i).length) }) ∧ True ∧ Only [.wick] s t := by
  obtain ⟨p, c, hth⟩ := (runPoint_atPoint s x (vecHow [] [gd])).thread
  refine completes_putG rfl hr (taperFree_of_vector rfl) (m := 0) (b := 1) ?_
  dsimp only
  rw [hth]
  rfl

end

/-- Settles O44: each instruction is the rule of its subject above; VNRS by more than its operand is wide gives free values (log 9). -/
theorem vectorMovesMasksAndReductionsAnswer : Obligations.VectorMovesMasksAndReductionsAnswer := by
  unfold Obligations.VectorMovesMasksAndReductionsAnswer
  intro x len vd va vb gd ga gb b mk m s th w A done
  refine ⟨fun cc hr ha => vcmp_writes hr ha, vsel_selects, vmvs_fills, vmvx_reads, fun k => slide_moves, fun k => slide_moves,
    fun uns => widen_extends, fun imm hr hw hd ha himm => ?narrow, fun imm hr hw hd ha himm => ?free, fun op => reduction_sums, vmpop_counts,
    fun cfg hcfg hr => vsetl_sets hcfg hr, fun cfg hcfg hr => ?vsetl⟩
  case narrow =>
    have hfew : ¬ 2 * w ≤ imm.toNat := Nat.not_le.mpr himm
    obtain ⟨t, ht, hret, hholds, honly⟩ := vnrs_narrows hr hw hd ha (List.Subset.refl [Grp.wick]) fun hmany => absurd hmany hfew
    exact ⟨t, ht, hret, hholds.congr fun k => by rw [Thread.narrowed, decide_eq_false hfew, if_neg Bool.false_ne_true], honly⟩
  case free =>
    obtain ⟨t, ht, hret, hholds, honly⟩ := vnrs_narrows hr hw hd ha (gs := [.wick, .misc]) (by simp) fun _ => by simp
    exact ⟨t, ht, hret, ⟨_, hholds⟩, honly⟩
  case vsetl => exact completes_raises rfl hr (taperFree_of_vector rfl) (if_pos hcfg) (by decide) (by decide)

end Sys2Proof.Machine
end

section
/-! # PROOFS. What a read through the correction leaves as it was: the bytes of memory, and each Wick but for the marks and counts of
errors (R166, R167, R232, R247, R311, R321). -/
namespace Sys2Proof.Machine

/-! ## A state beside its marks and counts -/

/-- The thread beside the marks that poison and overflow leave on it (R247, R311). -/
def Thread.unmarked (th : Thread) : Thread := { th with poison := false, poisonLog := false, ovfLog := false }

/-- The Wick beside those marks, the counts of corrected and uncorrectable errors, and its targeted test. -/
def Wick.unmarked (k : Wick) : Wick :=
  { k with threads := k.threads.map Thread.unmarked, lmCe := 0, lmUe := 0, tst := TestSt.reset,
           taper := { k.taper with ceCount := 0, ueCount := 0 } }

/-- The Wicks beside their marks, the bytes of memory, and what the remap of a Wick's addresses rests on (R231). -/
def State.unmarked (s : State) : (WkId → Wick) × List Host.Cell × JobBlk × RelBlk :=
  (fun w => s.wick[w].unmarked, s.mem.cells, s.job, s.rel)

section
variable {s t u : State} {w : WkId} {x : VSite}

theorem unmarked_setWick (s : State) (w : WkId) {f : Wick → Wick} (h : (f s.wick[w]).unmarked = s.wick[w].unmarked) :
    (s.setWick w f).unmarked = s.unmarked := by
  refine Prod.ext (funext fun v => ?_) rfl
  show (upd s.wick w f)[v].unmarked = s.wick[v].unmarked
  rw [upd_get]
  split
  case isTrue hv => rw [h, hv]
  case isFalse => rfl

theorem unmarked_setMem (s : State) {y : MemBlk} (h : y.cells = s.mem.cells) : (s.setMem y).unmarked = s.unmarked :=
  Prod.ext rfl (Prod.ext h rfl)

theorem map_upd_unmarked {n : Nat} (v : Vector Thread n) (i : Fin n) {f : Thread → Thread} (h : (f v[i]).unmarked = v[i].unmarked) :
    (upd v i f).map Thread.unmarked = v.map Thread.unmarked := by
  refine Vector.ext fun j hj => ?_
  rw [Vector.getElem_map, Vector.getElem_map]
  have hget := upd_get v i ⟨j, hj⟩ f
  simp only [Fin.getElem_fin] at hget h
  rw [hget]
  split
  case isTrue hij => rw [h]; subst hij; rfl
  case isFalse => rfl

/-- A mark on a thread. -/
theorem unmarked_setThread (s : State) (w : WkId) (q : Fin 4) {f : Thread → Thread} (h : ∀ th, (f th).unmarked = th.unmarked) :
    (s.setWick w fun k => k.updT q f).unmarked = s.unmarked := by
  refine unmarked_setWick s w ?_
  have hmap := map_upd_unmarked s.wick[w].threads q (h _)
  unfold Wick.unmarked Wick.updT
  rw [hmap]

/-! ## The operations that leave no more than marks and counts -/

theorem poisonThread_unmarked (s : State) (w : WkId) (q : Fin 4) (source place : Nat) : (s.poisonThread w q source place).unmarked = s.unmarked := by
  have hmark : (s.setWick w fun k => k.updT q fun th => { th with poison := true, poisonLog := true }).unmarked = s.unmarked :=
    unmarked_setThread s w q fun _ => rfl
  unfold State.poisonThread
  dsimp only
  split
  · exact hmark
  · exact hmark

theorem targetWk_unmarked (s : State) (w : WkId) : (s.targetWk w).unmarked = s.unmarked := by
  unfold State.targetWk
  split
  · rfl
  · exact unmarked_setWick s w rfl

theorem targetLn_unmarked (s : State) (n : LnId) (line : Option (Bool × Nat)) : (s.targetLn n line).unmarked = s.unmarked := by
  unfold State.targetLn
  split <;> rfl

theorem targetOwner_unmarked (s : State) (a : Nat) : (s.targetOwner a).unmarked = s.unmarked := by
  unfold State.targetOwner
  split
  · split
    · exact targetLn_unmarked s _ none
    · rfl
  iterate 4
    split
    · exact targetWk_unmarked s _
    · rfl
  rfl

theorem checkLine_unmarked (s : State) (w : WkId) (off access : Nat) : (s.checkLine w off access).1.unmarked = s.unmarked := by
  unfold State.checkLine
  dsimp only
  split
  · exact unmarked_setWick s w rfl
  · split
    · exact (targetWk_unmarked _ w).trans (unmarked_setWick s w rfl)
    · rfl

theorem checkElem_unmarked (s : State) (w : WkId) (y : Bool) (elem reader : Nat) : (s.checkElem w y elem reader).1.unmarked = s.unmarked := by
  unfold State.checkElem
  extract_lets a e
  split
  · exact unmarked_setWick s w rfl
  · split
    · exact (targetWk_unmarked _ w).trans (unmarked_setWick s w rfl)
    · rfl

theorem checkRow_unmarked (s : State) (row : Nat) (secs : List Nat) : (s.checkRow row secs).unmarked = s.unmarked := by
  have herror (t : State) (y : MemBlk) (hy : y.cells = t.mem.cells) (m : Nat) (f : MemCtr → MemCtr) (code k n : Nat) (d : List (Nat × Nat)) :
      ((((t.setMem y).updCtr m f).logEv code k n d).targetOwner row).unmarked = t.unmarked :=
    (targetOwner_unmarked _ row).trans (unmarked_setMem t hy)
  unfold State.checkRow
  extract_lets m e sb ce t u v
  have ht : t.unmarked = s.unmarked := by
    unfold t
    split <;> rfl
  have hv : v.unmarked = s.unmarked := by
    rw [← ht]
    clear_value t
    unfold v
    split
    · rfl
    · exact herror t (t.mem.setPoison row true) rfl m _ _ _ _ _
  split
  · exact (herror v (({ v.mem.setPoison row true with sbEcc := Sparse.set 0 v.mem.sbEcc row 0 } : MemBlk).setTag row 0) rfl m
      _ _ _ _ _).trans hv
  · exact hv

theorem readVecRow_unmarked (s : State) (w : WkId) (r : Nat) : (s.readVecRow w r).1.unmarked = s.unmarked := by
  unfold State.readVecRow
  dsimp only
  exact List.foldlRecOn (motive := fun t : State => t.unmarked = s.unmarked) _ _ rfl fun t ht row _ => (checkRow_unmarked t row _).trans ht

theorem vecRead_unmarked (s : State) (x : VSite) (r : Nat) : (s.vecRead x r).1.unmarked = s.unmarked := by
  have hread := readVecRow_unmarked s x.w r
  unfold State.vecRead
  dsimp only
  split
  · exact (poisonThread_unmarked _ x.w x.t 0 r).trans hread
  · exact hread

/-! ## What follows of a state whose like is known -/

theorem wick_unmarked (h : t.unmarked = s.unmarked) (w : WkId) : t.wick[w].unmarked = s.wick[w].unmarked := congrFun (congrArg Prod.fst h) w

theorem cells_unmarked (h : t.unmarked = s.unmarked) : t.mem.cells = s.mem.cells := congrArg (fun a => a.2.1) h

theorem rho_unmarked (h : t.unmarked = s.unmarked) (w : WkId) : t.wick[w].rho = s.wick[w].rho := by
  have hrho := congrArg Wick.rho (wick_unmarked h w)
  exact hrho

theorem swapped_unmarked (h : t.unmarked = s.unmarked) (w : WkId) : t.wick[w].swapped = s.wick[w].swapped := by
  have hswap := congrArg Wick.swapped (wick_unmarked h w)
  exact hswap

theorem acc_unmarked (h : t.unmarked = s.unmarked) (w : WkId) : t.wick[w].taper.acc = s.wick[w].taper.acc :=
  congrArg (fun k => k.taper.acc) (wick_unmarked h w)

theorem thr_unmarked (h : t.unmarked = s.unmarked) (x : VSite) : (t.thr x).unmarked = (s.thr x).unmarked := by
  have hthreads := congrArg (fun k => k.threads[x.t]) (wick_unmarked h x.w)
  simp only [Wick.unmarked, Fin.getElem_fin, Vector.getElem_map] at hthreads
  exact hthreads

theorem vecAddr_congr (hjob : t.job = s.job) (hrel : t.rel = s.rel) (hswap : t.wick[w].swapped = s.wick[w].swapped) :
    t.vecAddr w = s.vecAddr w := by
  funext off
  unfold State.vecAddr State.remap
  rw [hjob, hrel, hswap]

theorem vecAddr_unmarked (h : t.unmarked = s.unmarked) (w : WkId) : t.vecAddr w = s.vecAddr w :=
  vecAddr_congr (congrArg (fun a => a.2.2.1) h) (congrArg (fun a => a.2.2.2) h) (swapped_unmarked h w)

theorem localAddr_unmarked (h : t.unmarked = s.unmarked) (w : WkId) : t.localAddr w = s.localAddr w :=
  localAddr_congr (congrArg (fun a => a.2.2.1) h) (congrArg (fun a => a.2.2.2) h) (swapped_unmarked h w)

theorem byte_unmarked (h : t.unmarked = s.unmarked) (a : Nat) : t.mem.byte a = s.mem.byte a := by
  unfold MemBlk.byte
  rw [cells_unmarked h]

theorem bytes_unmarked (h : t.unmarked = s.unmarked) (a n : Nat) : t.mem.bytes a n = s.mem.bytes a n := by
  unfold MemBlk.bytes
  rw [cells_unmarked h]

theorem localBytes_unmarked (h : t.unmarked = s.unmarked) (w : WkId) (off n : Nat) : t.localBytes w off n = s.localBytes w off n := by
  unfold State.localBytes MemBlk.byte
  rw [localAddr_unmarked h, cells_unmarked h]

theorem vecRowData_congr (haddr : t.vecAddr w = s.vecAddr w) (hcells : t.mem.cells = s.mem.cells) (r : Nat) :
    t.vecRowData w r = s.vecRowData w r := by
  unfold State.vecRowData MemBlk.bytes
  rw [haddr, hcells]

theorem vecRowData_unmarked (h : t.unmarked = s.unmarked) (w : WkId) (r : Nat) : t.vecRowData w r = s.vecRowData w r :=
  vecRowData_congr (vecAddr_unmarked h w) (cells_unmarked h) r

/-! ## Rows as vector instructions read them -/

theorem readVecRow_data (s : State) (w : WkId) (r : Nat) : (s.readVecRow w r).2.data = s.vecRowData w r := by
  have hbytes := bytes_unmarked (readVecRow_unmarked s w r)
  unfold State.readVecRow at hbytes ⊢
  dsimp only at hbytes ⊢
  unfold State.vecRowData
  simp only [hbytes]

theorem vecRead_data (s : State) (x : VSite) (r : Nat) : (s.vecRead x r).2 = s.vecRowData x.w r := readVecRow_data s x.w r

theorem poisonThread_only (s : State) (w : WkId) (q : Fin 4) (source place : Nat) : Only [.wick, .log, .sad] s (s.poisonThread w q source place) := by
  unfold State.poisonThread
  dsimp only
  split
  · exact ((setWick_only s w _).mono (by simp)).right (logEv_only _ _ _ _ _) (by simp)
  · exact (setWick_only s w _).mono (by simp)

theorem vecRead_only (s : State) (x : VSite) (r : Nat) : Only [.mem, .fab, .log, .sad, .lan, .wick] s (s.vecRead x r).1 := by
  have hread : Only [.mem, .fab, .log, .sad, .lan, .wick] s (s.readVecRow x.w r).1 := by
    unfold State.readVecRow
    dsimp only
    exact Only.foldl _ (fun t row => checkRow_only t row _) _ s
  unfold State.vecRead
  dsimp only
  split
  · exact hread.right (poisonThread_only _ x.w x.t 0 r) (by simp)
  · exact hread

end

end Sys2Proof.Machine
end

section
/-! # PROOFS. Accumulators of the Taper as results go into them (R311), and registers as results come out (R315). -/
namespace Sys2Proof.Machine

/-! ## One result -/

section
variable {s t u : State} {x : VSite}

/-- A result leaves its accumulator, OVF, a mark on its thread, and the log. -/
theorem putAcc_taper (s : State) (x : VSite) (l j : Nat) (v : Int) : (s.putAcc x l j v).wick[x.w].taper =
    { s.wick[x.w].taper with acc := updNat s.wick[x.w].taper.acc (accIx l j) fun _ => (acc56 v).1, ovf := s.wick[x.w].taper.ovf || (acc56 v).2 } := by
  unfold State.putAcc
  dsimp only
  split
  · exact (taper_updThr (u := s.updTap x _) _).trans (taper_updTap _)
  · exact taper_updTap _

theorem thr_updTap (f : Taper → Taper) : (u.updTap x f).thr x = u.thr x := thr_setWick _

theorem putAcc_thr (s : State) (x : VSite) (l j : Nat) (v : Int) : ((s.putAcc x l j v).thr x).unmarked = (s.thr x).unmarked := by
  unfold State.putAcc
  dsimp only
  split
  · refine (congrArg Thread.unmarked (thr_updThr (u := s.updTap x _) _)).trans ?_
    rw [thr_updTap]
    rfl
  · rw [thr_updTap]

theorem putAcc_only (s : State) (x : VSite) (l j : Nat) (v : Int) : Only [.wick, .log, .sad] s (s.putAcc x l j v) := by
  unfold State.putAcc
  dsimp only
  split
  · exact (((updTap_only s x _).step (updThr_only _ x _)).mono (by simp)).right (logEv_only _ _ _ _ _) (by simp)
  · exact (updTap_only s x _).mono (by simp)

/-! ## Results in turn -/

/-- Accumulator k of the Taper. -/
def State.accAt (s : State) (x : VSite) (k : Nat) : BitVec 56 := getOr s.wick[x.w].taper.acc k 0

theorem putAcc_accAt (s : State) (x : VSite) {l j : Nat} (hlj : accIx l j < 128) (v : Int) (k : Nat) :
    (s.putAcc x l j v).accAt x k = if k = accIx l j then (acc56 v).1 else s.accAt x k := by
  unfold State.accAt
  rw [putAcc_taper]
  exact getOr_updNat _ hlj _ _ _

/-- Results of which each changes an accumulator of its own, by what stood there: each stands in its accumulator at the end. -/
theorem foldl_accAt {α : Type} {step : State → α → State} {place : α → Nat} {val : α → BitVec 56 → BitVec 56} {l : List α}
    (hstep : ∀ s, ∀ a ∈ l, ∀ k, (step s a).accAt x k = if k = place a then val a (s.accAt x k) else s.accAt x k)
    (hplace : (l.map place).Nodup) (s : State) :
    (∀ a ∈ l, (l.foldl step s).accAt x (place a) = val a (s.accAt x (place a))) ∧
    (∀ k, k ∉ l.map place → (l.foldl step s).accAt x k = s.accAt x k) := by
  induction l generalizing s with
  | nil => simp
  | cons b l ih =>
    rw [List.map_cons, List.nodup_cons] at hplace
    obtain ⟨hnew, hrest⟩ := hplace
    obtain ⟨hin, hout⟩ := ih (fun s a ha => hstep s a (List.mem_cons_of_mem b ha)) hrest (step s b)
    have hb := hstep s b List.mem_cons_self
    refine ⟨fun a ha => ?_, fun k hk => ?_⟩
    · rw [List.foldl_cons]
      rcases List.mem_cons.mp ha with rfl | ha
      · rw [hout _ hnew, hb, if_pos rfl]
      · rw [hin a ha, hb, if_neg fun heq : place a = place b => hnew (heq ▸ List.mem_map_of_mem ha)]
    · rw [List.map_cons, List.mem_cons, not_or] at hk
      rw [List.foldl_cons, hout k hk.2, hb, if_neg hk.1]

/-- Steps that leave a part of a state leave it together. -/
theorem foldl_same {α β : Type} {step : State → α → State} (part : State → β) (hstep : ∀ s a, part (step s a) = part s) (l : List α) (s : State) :
    part (l.foldl step s) = part s :=
  List.foldlRecOn (motive := fun t : State => part t = part s) l step rfl fun t ht a _ => (hstep t a).trans ht

/-! ## What a thread beside its marks has -/

theorem Thread.g_unmarked {a b : Thread} (h : b.unmarked = a.unmarked) : b.g = a.g := by
  have hg := congrArg Thread.g h
  exact hg

theorem Thread.pc_unmarked {a b : Thread} (h : b.unmarked = a.unmarked) : b.pc = a.pc := by
  have hpc := congrArg Thread.pc h
  exact hpc

/-- The registers and the address at the end of an instruction. -/
theorem endVec_site (u : State) (x : VSite) (len n : Nat) (busy : Wick → Nat) :
    ((u.endVec x len n busy).thr x).g = (u.thr x).g ∧ ((u.endVec x len n busy).thr x).pc = (u.thr x).pc + BitVec.ofNat 18 len := by
  rw [thr_endVec]
  exact ⟨rfl, rfl⟩

theorem AtPoint.g (h : AtPoint s u x) : (u.thr x).g = (s.thr x).g := by
  obtain ⟨-, -, hg, -⟩ := h.same.thread
  exact hg

theorem AtPoint.pc (h : AtPoint s u x) : (u.thr x).pc = (s.thr x).pc := by
  obtain ⟨-, hpc, -⟩ := h.same.thread
  exact hpc

/-! ## Registers that results are written to (R315, R316) -/

/-- A register written by the Taper, at the end of the instruction: no load in flight reaches it. -/
theorem elemAt_putReg {th : Thread} {vd : V} {F : Row → Row} {len n e : Nat} {busy : Wick → Nat} (hth : u.thr x = th.putReg vd F) (he : e < 256) :
    elemAt ((u.endVec x len n busy).thr x).v vd.1 16 e = rowElem 16 (F th.v[vd]) e := by
  have hland : ∀ p ∈ (u.thr x).vloads, p.due < u.wick[x.w].rho + 1 → p.reg.1 ≠ vd.1 := fun p hp _ heq => by
    rw [hth] at hp
    obtain ⟨-, hdrop⟩ := List.mem_filter.mp hp
    rw [Fin.ext heq, bne_self_eq_false] at hdrop
    cases hdrop
  rw [elemAt_eq (by decide), show e / (4096 / 16) = 0 by omega, show e % (4096 / 16) = e by omega, Nat.add_zero, getOr_endVec hland, hth]
  exact congrArg (rowElem 16 · e) ((getOr_upd th.v vd vd.1 F 0).trans (if_pos rfl))

theorem rowElem_putAccElems (old : Row) (f : Nat → Nat) {e : Nat} (he : e < 256) :
    rowElem 16 (putAccElems old 16 0 f) e = if e < 128 then f e % 2 ^ 16 else rowElem 16 old e := by
  rw [putAccElems, rowElem_packRow (by decide) _ (by omega)]
  by_cases h : e < 128
  · rw [if_pos h, if_pos (by omega), Nat.sub_zero]
  · rw [if_neg h, if_neg (by omega), Nat.mod_mod, rowElem]

/-- The elements of a register of which the first 128 are results. -/
theorem elemAt_results {th : Thread} {vd : V} {f : Nat → Nat} {len n e : Nat} {busy : Wick → Nat}
    (hth : u.thr x = th.putReg vd fun old => putAccElems old 16 0 f) (he : e < 256) :
    elemAt ((u.endVec x len n busy).thr x).v vd.1 16 e = if e < 128 then f e % 2 ^ 16 else elemAt th.v vd.1 16 e := by
  have hreg : rowElem 16 th.v[vd] e = elemAt th.v vd.1 16 e := by
    rw [elemAt_eq (by decide), show e / (4096 / 16) = 0 by omega, show e % (4096 / 16) = e by omega, Nat.add_zero, getOr_fin]
  rw [elemAt_putReg hth he, rowElem_putAccElems _ _ he, hreg]

end

end Sys2Proof.Machine
end

section
/-! # PROOFS. Instructions of the Taper beside its multiplications and loads (O46). -/
namespace Sys2Proof.Machine

section
variable {s : State} {x : VSite} {len : Nat} {gd gb gl : G} {vd : V}

/-! ## Status and buffers (R308, R317, R318, R324) -/

theorem tsync_passes (hr : TReady s x (.tsync x) len) :
    Completes (.tsync x) s fun t => VRetires s t x len id ∧ t.wick[x.w].taper = s.wick[x.w].taper ∧ Only [.wick] s t := by
  have hat := runPoint_atPoint s x (taperHow [] [] false none)
  refine completes_retires rfl hr.1 hr.free hat.same (runPoint_only s x _) rfl rfl (List.Subset.refl _) fun busy hret honly => ⟨hret, ?_, honly⟩
  rw [taper_endVec, hat.taper]

theorem tsigr_reads (hr : TReady s x (.tsigr x gd) len) :
    Completes (.tsigr x gd) s fun t => VRetires s t x len (fun a => { a with g := regSet a.g gd (s.wick[x.w].taper.tsig.setWidth 64) }) ∧
      t.wick[x.w].taper = { s.wick[x.w].taper with tsig := 0xFFFFFFFF } ∧ Only [.wick] s t := by
  have hat := runPoint_atPoint s x (taperHow [] [gd] false none)
  have hsame := hat.same.putG [(gd, s.wick[x.w].taper.tsig.setWidth 64)]
  rw [← hat.taper] at hsame ⊢
  refine completes_retires rfl hr.1 hr.free (hsame.updTap _)
    (((runPoint_only s x _).step (putG_only _ x _)).step (updTap_only _ x _)) rfl rfl (List.Subset.refl _) fun busy hret honly => ⟨hret, ?_, honly⟩
  rw [taper_endVec, taper_updTap, State.putG, taper_updThr]

/-- The Taper with the start and the length of a circular buffer (R308). -/
def Taper.buffer (t : Taper) (c : Fin 8) (b l : Nat) : Taper := { t with tcb := upd t.tcb c fun _ => b, tcl := upd t.tcl c fun _ => l }

theorem tsetc_sets {c : Fin 8} (hl : 1 ≤ (regGet (s.thrAt x).g gl).toNat)
    (hfit : (regGet (s.thrAt x).g gb).toNat + (regGet (s.thrAt x).g gl).toNat ≤ 65536) (hr : TReady s x (.tsetc x c gb gl) len) :
    Completes (.tsetc x c gb gl) s fun t => VRetires s t x len id ∧ t.wick[x.w].taper =
      s.wick[x.w].taper.buffer c (regGet (s.thrAt x).g gb).toNat (regGet (s.thrAt x).g gl).toNat ∧ Only [.wick] s t := by
  have hat := runPoint_atPoint s x (taperHow [gb, gl] [] false none)
  rw [thrAt_g, ← hat.g] at hl hfit ⊢
  refine completes_retires rfl hr.1 hr.free (hat.same.updTap _) ((runPoint_only s x _).step (updTap_only _ x _)) (if_pos ⟨hl, by omega, hfit⟩) rfl
    (List.Subset.refl _) fun busy hret honly => ⟨hret, ?_, honly⟩
  rw [taper_endVec, taper_updTap, hat.taper]
  rfl

theorem tsetc_traps {c : Fin 8} (hfar : 65536 < (regGet (s.thrAt x).g gb).toNat + (regGet (s.thrAt x).g gl).toNat)
    (hr : TReady s x (.tsetc x c gb gl) len) :
    Completes (.tsetc x c gb gl) s fun t => Traps s t (.wick x.w x.t x.wide .clean) 0x03 (regGet (s.thrAt x).g gb) := by
  have hat := runPoint_atPoint s x (taperHow [gb, gl] [] false none)
  rw [thrAt_g, ← hat.g] at hfar ⊢
  exact completes_raises rfl hr.1 hr.free (if_neg (by omega)) (by decide) (by decide)

/-! ## Results read out (R315, R316) -/

/-- The Taper's results written out as S16 (R315). -/
def State.toutS16 (u : State) (x : VSite) (vd : V) (sh : Nat) : State :=
  (u.updThr x fun th => th.putReg vd fun old => putAccElems old 16 0 fun e => img 16 (toutValue 0 sh (accElem (u.tap x).acc e)).1).updTap x
    fun t => { t with sat := t.sat || (List.range 128).any fun e => (toutValue 0 sh (accElem (u.tap x).acc e)).2, acc := t.acc }

theorem tout_scales {sh : Byte} (hsh : sh.toNat ≤ 55) (hr : TReady s x (.tout x vd sh 0) len) :
    Completes (.tout x vd sh 0) s fun t => VRetires s t x len id ∧ t.wick[x.w].taper.acc = s.wick[x.w].taper.acc ∧
      (∀ e, e < 128 → elemAt (t.thr x).v vd.1 16 e = img 16 (satS 16 (roundShift (accElem s.wick[x.w].taper.acc e).toInt sh.toNat))) ∧
      (∀ e, 128 ≤ e → e < 256 → elemAt (t.thr x).v vd.1 16 e = elemAt (s.thrAt x).v vd.1 16 e) ∧ Only [.wick] s t := by
  have hat := runPoint_atPoint s x (taperHow [] [] true (some .taper))
  obtain ⟨p, c, hth⟩ := hat.thread
  have hsame : VSame s ((s.runPoint x (taperHow [] [] true (some .taper))).toutS16 x vd sh.toNat) x id :=
    (hat.same.updThr hat.same.thread).updTap _
  refine completes_retires (n := 0) (b := 0) rfl hr.1 hr.free hsame (((runPoint_only s x _).step (updThr_only _ x _)).step (updTap_only _ x _)) ?_ rfl
    (List.Subset.refl _) fun busy hret honly => ⟨hret, ?_, fun e he => ?_, fun e h1 h2 => ?_, honly⟩
  · refine (if_neg ?_).trans ?_
    · rintro (h | ⟨h, -⟩ | h | h)
      · cases h
      · cases h
      · omega
      · cases h
    · rfl
  · rw [taper_endVec, State.toutS16, taper_updTap, taper_updThr, hat.taper]
  · rw [elemAt_results (by rw [State.toutS16, thr_updTap, thr_updThr]) (by omega), if_pos he, ← hat.taper]
    exact Nat.mod_eq_of_lt (BitVec.isLt _)
  · rw [elemAt_results (by rw [State.toutS16, thr_updTap, thr_updThr]) h2, if_neg (by omega), hth]
    rfl

theorem signRun_lt (a : BitVec 56) : signRun a < 2 ^ 16 := by
  have hlen := (List.takeWhile_prefix (l := List.range 55) fun i => a.getLsbD (54 - i) == a.getLsbD 55).length_le
  rw [List.length_range] at hlen
  exact Nat.lt_of_le_of_lt hlen (by decide)

theorem texp_counts (hr : TReady s x (.texp x vd) len) :
    Completes (.texp x vd) s fun t => VRetires s t x len id ∧ t.wick[x.w].taper = s.wick[x.w].taper ∧
      (∀ e, e < 128 → elemAt (t.thr x).v vd.1 16 e = signRun (accElem s.wick[x.w].taper.acc e)) ∧ Only [.wick] s t := by
  have hat := runPoint_atPoint s x (taperHow [] [] true (some .taper))
  refine completes_retires rfl hr.1 hr.free (hat.same.updThr hat.same.thread) ((runPoint_only s x _).step (updThr_only _ x _)) rfl rfl
    (List.Subset.refl _) fun busy hret honly => ⟨hret, ?_, fun e he => ?_, honly⟩
  · rw [taper_endVec, taper_updThr, hat.taper]
  · rw [elemAt_results (thr_updThr _) (by omega), if_pos he, ← hat.taper]
    exact Nat.mod_eq_of_lt (signRun_lt _)

/-! ## TNORM (R316) -/

/-- The normalised value of an accumulator, for the shift that an element names. -/
def normalised (n : Int) (a : BitVec 56) : BitVec 56 :=
  if n = 0 then a else (acc56 (if 0 < n then a.toInt * 2 ^ n.toNat else roundShift a.toInt (-n).toNat)).1

/-- One accumulator normalised by the element of the register in v. -/
def State.normStep (x : VSite) (v : Vector Row 32) (vd : V) (s : State) (e : Nat) : State :=
  let n := clampInt (-55) 55 (sgn 16 (elemAt v vd.1 16 e))
  if n = 0 then s
  else s.putAcc x (e % 32) (e / 32)
    (if 0 < n then (accElem (s.tap x).acc e).toInt * 2 ^ n.toNat else roundShift (accElem (s.tap x).acc e).toInt (-n).toNat)

theorem normStep_accAt (s : State) (x : VSite) (v : Vector Row 32) (vd : V) {e : Nat} (he : e < 128) (k : Nat) :
    (s.normStep x v vd e).accAt x k = if k = accIx (e % 32) (e / 32) then
      normalised (clampInt (-55) 55 (sgn 16 (elemAt v vd.1 16 e))) (s.accAt x k) else s.accAt x k := by
  unfold State.normStep normalised
  extract_lets n
  split
  · rw [ite_self]
  · rw [putAcc_accAt s x (by unfold accIx; omega)]
    split
    case isTrue hk => rw [hk]; rfl
    case isFalse => rfl

theorem normStep_thr (s : State) (x : VSite) (v : Vector Row 32) (vd : V) (e : Nat) :
    ((s.normStep x v vd e).thr x).unmarked = (s.thr x).unmarked := by
  unfold State.normStep
  extract_lets n
  split
  · rfl
  · exact putAcc_thr s x _ _ _

theorem normStep_only (s : State) (x : VSite) (v : Vector Row 32) (vd : V) (e : Nat) : Only [.wick, .log, .sad] s (s.normStep x v vd e) := by
  unfold State.normStep
  extract_lets n
  split
  · exact Only.refl _ s
  · exact putAcc_only s x _ _ _

/-- The 128 results stand in accumulators of their own. -/
theorem accPlaces_nodup : ((List.range 128).map fun e => accIx (e % 32) (e / 32)).Nodup :=
  List.Nodup.map_on (fun a ha b hb heq => by rw [List.mem_range] at ha hb; unfold accIx at heq; omega) List.nodup_range

/-- All of them in turn. -/
def State.normalise (u : State) (x : VSite) (v : Vector Row 32) (vd : V) : State := (List.range 128).foldl (fun s e => s.normStep x v vd e) u

theorem normalise_thr (u : State) (x : VSite) (v : Vector Row 32) (vd : V) : ((u.normalise x v vd).thr x).unmarked = (u.thr x).unmarked :=
  foldl_same (fun s => (s.thr x).unmarked) (fun s e => normStep_thr s x v vd e) _ u

theorem normalise_only (u : State) (x : VSite) (v : Vector Row 32) (vd : V) : Only [.wick, .log, .sad] u (u.normalise x v vd) :=
  Only.foldl _ (fun s e => normStep_only s x v vd e) _ _

theorem normalise_acc (u : State) (x : VSite) (v : Vector Row 32) (vd : V) {e : Nat} (he : e < 128) :
    accElem (u.normalise x v vd).wick[x.w].taper.acc e =
      normalised (clampInt (-55) 55 (sgn 16 (elemAt v vd.1 16 e))) (accElem u.wick[x.w].taper.acc e) := by
  obtain ⟨hacc, -⟩ := foldl_accAt (x := x) (step := fun (s : State) e => s.normStep x v vd e) (place := fun e => accIx (e % 32) (e / 32))
    (l := List.range 128) (fun s e he k => normStep_accAt s x v vd (List.mem_range.mp he) k) accPlaces_nodup u
  exact hacc e (List.mem_range.mpr he)

theorem tnorm_normalises (hr : TReady s x (.tnorm x vd) len) :
    Completes (.tnorm x vd) s fun t => (t.thr x).g = (s.thr x).g ∧ (t.thr x).pc = (s.thr x).pc + BitVec.ofNat 18 len ∧
      (∀ e, e < 128 → accElem t.wick[x.w].taper.acc e =
        normalised (clampInt (-55) 55 (sgn 16 (elemAt (s.thrAt x).v vd.1 16 e))) (accElem s.wick[x.w].taper.acc e)) ∧
      Only [.wick, .log, .sad] s t := by
  have hat := runPoint_atPoint s x (taperHow [] [] true (some .taper))
  have hpoint := (runPoint_only s x (taperHow [] [] true (some .taper))).mono (show [Grp.wick] ⊆ [.wick, .log, .sad] by simp)
  have hrun (u : State) : VRun.ok (u.normalise x (u.thr x).v vd) = ⟨u.normalise x (u.thr x).v vd, none, 0, 0⟩ := rfl
  refine completes_ends rfl hr.1 hr.free (hrun _) fun busy => ?_
  generalize s.runPoint x (taperHow [] [] true (some .taper)) = u at hat hpoint
  obtain ⟨p, c, hth⟩ := hat.thread
  obtain ⟨hg, hpc⟩ := endVec_site (u.normalise x (u.thr x).v vd) x len 0 busy
  have hthr := normalise_thr u x (u.thr x).v vd
  refine ⟨?_, ?_, fun e he => ?_, (hpoint.step (normalise_only u x _ vd)).right (endVec_only _ x len 0 busy) (by simp)⟩
  · rw [hg, Thread.g_unmarked hthr, hat.g]
  · rw [hpc, Thread.pc_unmarked hthr, hat.pc]
  · rw [taper_endVec, ← hat.taper]
    refine (normalise_acc u x _ vd he).trans ?_
    rw [hth]
    rfl

end

/-- Settles O46: each clause is the rule of its instruction. -/
theorem taperInstructionsAct : Obligations.TaperInstructionsAct := by
  unfold Obligations.TaperInstructionsAct
  intro x len gd ga gb gl vd s th tp acts
  have hwide {i : Instr} {f : Thread → Thread} {p : Taper → Prop}
      (h : TReady s x i len → Completes i s fun t => VRetires s t x len f ∧ p t.wick[x.w].taper ∧ Only [.wick] s t) : acts i f p :=
    fun hr => (h hr).imp fun t ⟨hret, hp, honly⟩ => ⟨hret, hp, honly.mono (by simp)⟩
  refine ⟨hwide (p := fun q => q = { tp with acc := Vector.replicate 128 0 }) tclr_acts, hwide (p := fun q => q = tp) tsync_passes,
    hwide (p := fun q => q = { tp with ovf := false, sat := false }) tstat_acts, hwide (p := fun q => q = { tp with tsig := 0xFFFFFFFF }) tsigr_reads,
    fun c hl hfit => hwide (p := fun q => q = tp.buffer c _ _) (tsetc_sets hl hfit), fun c => tsetc_traps,
    fun sh => tout_scales, texp_counts, fun hr => (tnorm_normalises hr).imp ?_, fun i hi hr howner => ?_⟩
  · rintro t ⟨hg, hpc, hacc, honly⟩
    exact ⟨hg, hpc, fun e n he hn => hn ▸ hacc e he, honly⟩
  · simp only [List.mem_cons, List.not_mem_nil, or_false] at hi
    rcases hi with rfl | rfl | rfl | rfl | rfl | rfl <;> exact ⟨_, rfl, issueVec_notOwner hr rfl howner⟩

end Sys2Proof.Machine
end

section
/-! # PROOFS. Rows of the vector scratchpad as vector instructions read and write them (R168, R231, R299). -/
namespace Sys2Proof.Machine

section
variable {s u : State} {w : WkId} {x : VSite}

/-! ## The scratchpad at the point of an instruction -/

theorem runPoint_vecAddr (s : State) (x : VSite) (h : VHow) : (s.runPoint x h).vecAddr x.w = s.vecAddr x.w := by
  have honly := runPoint_only s x h
  refine vecAddr_congr (honly .job (by simp)) (honly .rel (by simp)) ?_
  rw [runPoint_wick]
  exact (pass_swapped _ _ _).trans (pass_swapped _ _ _)

/-- A state in which the instruction has not acted, with the rows of the scratchpad that s has. -/
structure RowsAt (s u : State) (x : VSite) : Prop extends AtPoint s u x where
  only : Only [.wick] s u
  addr : u.vecAddr x.w = s.vecAddr x.w

theorem runPoint_rowsAt (s : State) (x : VSite) (h : VHow) : RowsAt s (s.runPoint x h) x :=
  ⟨runPoint_atPoint s x h, runPoint_only s x h, runPoint_vecAddr s x h⟩

theorem RowsAt.mem (h : RowsAt s u x) : u.mem = s.mem := h.only .mem (by simp)

theorem RowsAt.row (h : RowsAt s u x) (r : Nat) : u.vecRowData x.w r = s.vecRowData x.w r := vecRowData_congr h.addr (by rw [h.mem]) r

/-! ## Rows written (R168) -/

theorem vecAddr_onlyMem (h : Only [.mem] s u) : u.vecAddr w = s.vecAddr w :=
  vecAddr_congr (h .job (by simp)) (h .rel (by simp)) (by rw [h .wick (by simp)])

/-- What a write of a row makes of memory depends on memory and on the addresses of the scratchpad. -/
theorem writeVecRow_mem (hmem : u.mem = s.mem) (haddr : u.vecAddr w = s.vecAddr w) (r : Nat) (mask : BitVec 16) (d : Row) (tag : Byte)
    (p : Bool) : (u.writeVecRow w r mask d tag p).mem = (s.writeVecRow w r mask d tag p).mem := by
  unfold State.writeVecRow
  rw [haddr]
  extract_lets addrs
  split
  · exact congrArg (MemBlk.writeRow · _ mask d tag p) hmem
  · refine List.foldl_rel (r := fun a b : State => a.mem = b.mem) hmem fun row _ a b hab => ?_
    extract_lets at_ m
    split
    · exact hab
    · exact congrArg (MemBlk.writeRow · _ _ _ tag p) hab

/-- The rows of a store, in turn. -/
def State.storeRows (s : State) (w : WkId) (n : Nat) (row : Nat → Nat) (d : Nat → Row) (tag : Byte) (p : Bool) : State :=
  (List.range n).foldl (fun u i => u.writeVecRow w (row i) 0xFFFF (d i) tag p) s

theorem storeRows_only (s : State) (w : WkId) (n : Nat) (row : Nat → Nat) (d : Nat → Row) (tag : Byte) (p : Bool) :
    Only [.mem] s (s.storeRows w n row d tag p) := Only.foldl _ (fun u _ => writeVecRow_only u w _ _ _ tag p) _ s

theorem storeRows_mem (hmem : u.mem = s.mem) (haddr : u.vecAddr w = s.vecAddr w) (n : Nat) (row : Nat → Nat) (d : Nat → Row) (tag : Byte)
    (p : Bool) : (u.storeRows w n row d tag p).mem = (s.storeRows w n row d tag p).mem := by
  refine (List.foldl_rel (r := fun a b : State => a.mem = b.mem ∧ a.vecAddr w = b.vecAddr w) ⟨hmem, haddr⟩ fun i _ a b hab => ?_).1
  obtain ⟨hm, ha⟩ := hab
  refine ⟨writeVecRow_mem hm ha _ _ _ tag p, ?_⟩
  rw [vecAddr_onlyMem (writeVecRow_only a w _ _ _ tag p), vecAddr_onlyMem (writeVecRow_only b w _ _ _ tag p), ha]

end

end Sys2Proof.Machine
end

section
/-! # PROOFS. Vector loads, stores, gathers and VCRC (O45). -/
namespace Sys2Proof.Machine

/-! ## What the instruction finds of its thread -/

section
variable {s u : State} {x : VSite}

theorem AtPoint.vl (h : AtPoint s u x) : (u.thr x).vl = (s.thr x).vl := by
  obtain ⟨-, -, -, -, -, -, -, -, -, hvl, -⟩ := h.same.thread
  exact hvl

theorem AtPoint.vfidx (h : AtPoint s u x) : (u.thr x).vfidx = (s.thr x).vfidx := by
  obtain ⟨-, -, -, -, -, -, -, -, -, -, -, -, hidx, -⟩ := h.same.thread
  exact hidx

theorem AtPoint.poison (h : AtPoint s u x) : (u.thr x).poison = (s.thr x).poison := by
  obtain ⟨-, -, -, -, -, -, -, hpoison, -⟩ := h.same.thread
  exact hpoison

theorem AtPoint.v (h : AtPoint s u x) : (u.thr x).v = (s.thrAt x).v := by
  obtain ⟨p, c, hth⟩ := h.thread
  rw [hth]
  rfl

theorem AtPoint.group (h : AtPoint s u x) : (u.thr x).group = (s.thrAt x).group := by
  obtain ⟨p, c, hth⟩ := h.thread
  rw [hth]
  rfl

theorem AtPoint.rows (h : AtPoint s u x) : (u.thr x).rows = (s.thrAt x).rows := by
  obtain ⟨p, c, hth⟩ := h.thread
  rw [hth]
  rfl

theorem AtPoint.sewBits (h : AtPoint s u x) : (u.thr x).sewBits = (s.thrAt x).sewBits := by
  obtain ⟨p, c, hth⟩ := h.thread
  rw [hth]
  rfl

end

/-! ## Rows loaded (R234, R299) -/

/-- More loads on their way. -/
def State.startLoads (u : State) (x : VSite) (l : List VLoad) : State := u.updThr x fun t => { t with vloads := t.vloads ++ l }

/-- The thread beside marks and loads on their way. -/
def Thread.unloaded (th : Thread) : Thread := { th.unmarked with vloads := [] }

theorem Thread.g_unloaded {a b : Thread} (h : b.unloaded = a.unloaded) : b.g = a.g := by
  have hg := congrArg Thread.g h
  exact hg

theorem Thread.pc_unloaded {a b : Thread} (h : b.unloaded = a.unloaded) : b.pc = a.pc := by
  have hpc := congrArg Thread.pc h
  exact hpc

/-- The load of one row of the scratchpad, on its way to register number vd + i. -/
def State.startRow (s : State) (x : VSite) (vd : V) (r0 due i : Nat) : State :=
  (s.vecRead x (r0 + i)).1.startLoads x ((toFin? 32 (vd.1 + i)).map fun v => (⟨v, (s.vecRead x (r0 + i)).2, due⟩ : VLoad)).toList

/-- State u has the rows and the thread of s, but for marks and loads on their way. -/
structure SameRows (s u : State) (x : VSite) : Prop where
  cells : u.mem.cells = s.mem.cells
  addr : u.vecAddr x.w = s.vecAddr x.w
  rho : u.wick[x.w].rho = s.wick[x.w].rho
  thread : (u.thr x).unloaded = (s.thr x).unloaded

section
variable {s t u : State} {x : VSite} {len n : Nat} {busy : Wick → Nat} {vd : V} {r0 due : Nat} {l : VLoad}

theorem Thread.vloads_unmarked {a b : Thread} (h : b.unmarked = a.unmarked) : b.vloads = a.vloads := by
  have hloads := congrArg Thread.vloads h
  exact hloads

theorem SameRows.trans (h : SameRows s t x) (h' : SameRows t u x) : SameRows s u x :=
  ⟨h'.cells.trans h.cells, h'.addr.trans h.addr, h'.rho.trans h.rho, h'.thread.trans h.thread⟩

theorem sameRows_of_unmarked (h : u.unmarked = s.unmarked) : SameRows s u x :=
  ⟨cells_unmarked h, vecAddr_unmarked h x.w, rho_unmarked h x.w, congrArg (fun th : Thread => { th with vloads := [] }) (thr_unmarked h x)⟩

theorem updThr_vecAddr (u : State) (x : VSite) (f : Thread → Thread) : (u.updThr x f).vecAddr x.w = u.vecAddr x.w := by
  refine vecAddr_congr rfl rfl ?_
  rw [State.updThr, setWick_self]
  rfl

theorem sameRows_updThr {f : Thread → Thread} (h : (f (u.thr x)).unloaded = (u.thr x).unloaded) : SameRows u (u.updThr x f) x :=
  ⟨rfl, updThr_vecAddr u x f, updThr_rho u x f, (congrArg Thread.unloaded (thr_updThr f)).trans h⟩

theorem startLoads_same (u : State) (x : VSite) (l : List VLoad) : SameRows u (u.startLoads x l) x := sameRows_updThr rfl

theorem startLoads_vloads (u : State) (x : VSite) (l : List VLoad) : ((u.startLoads x l).thr x).vloads = (u.thr x).vloads ++ l := by
  rw [State.startLoads, thr_updThr]

theorem startRow_same (s : State) (x : VSite) (vd : V) (r0 due i : Nat) : SameRows s (s.startRow x vd r0 due i) x :=
  (sameRows_of_unmarked (vecRead_unmarked s x (r0 + i))).trans (startLoads_same _ x _)

theorem startRow_vloads (s : State) (x : VSite) (vd : V) (r0 due i : Nat) : ((s.startRow x vd r0 due i).thr x).vloads =
    (s.thr x).vloads ++ ((toFin? 32 (vd.1 + i)).map fun v => (⟨v, s.vecRowData x.w (r0 + i), due⟩ : VLoad)).toList := by
  rw [State.startRow, startLoads_vloads, vecRead_data, Thread.vloads_unmarked (thr_unmarked (vecRead_unmarked s x (r0 + i)) x)]

theorem startRow_only (s : State) (x : VSite) (vd : V) (r0 due i : Nat) :
    Only [.mem, .fab, .log, .sad, .lan, .wick] s (s.startRow x vd r0 due i) := (vecRead_only s x _).right (updThr_only _ x _) (by simp)

/-- The rows of a load, in turn. -/
def State.startRows (s : State) (x : VSite) (vd : V) (r0 due : Nat) (is : List Nat) : State := is.foldl (fun u i => u.startRow x vd r0 due i) s

/-- A load on its way stays so as others start. -/
theorem startRows_keeps (hl : l ∈ (s.thr x).vloads) (is : List Nat) : l ∈ ((s.startRows x vd r0 due is).thr x).vloads :=
  List.foldlRecOn (motive := fun u : State => l ∈ (u.thr x).vloads) is _ hl fun u hu i _ => by
    rw [startRow_vloads]
    exact List.mem_append_left _ hu

theorem startRows_same (s : State) (x : VSite) (vd : V) (r0 due : Nat) (is : List Nat) : SameRows s (s.startRows x vd r0 due is) x :=
  List.foldlRecOn (motive := fun u : State => SameRows s u x) is _ ⟨rfl, rfl, rfl, rfl⟩ fun u hu i _ => hu.trans (startRow_same u x vd r0 due i)

theorem startRows_only (s : State) (x : VSite) (vd : V) (r0 due : Nat) (is : List Nat) :
    Only [.mem, .fab, .log, .sad, .lan, .wick] s (s.startRows x vd r0 due is) := Only.foldl _ (fun u i => startRow_only u x vd r0 due i) is s

/-- The rows of a load are on their way to the registers of its group. -/
theorem startRows_starts (s : State) (x : VSite) (vd : V) (r0 due : Nat) {is : List Nat} {i : Nat} (hi : i ∈ is) {v : V} (hv : v.1 = vd.1 + i) :
    (⟨v, s.vecRowData x.w (r0 + i), due⟩ : VLoad) ∈ ((s.startRows x vd r0 due is).thr x).vloads := by
  induction is generalizing s with
  | nil => cases hi
  | cons j is ih =>
    rw [State.startRows, List.foldl_cons]
    rcases List.mem_cons.mp hi with rfl | hi
    · refine startRows_keeps ?_ is
      rw [startRow_vloads, toFin?, dif_pos (hv ▸ v.2), Option.map_some, Option.toList_some]
      refine List.mem_append_right _ (List.mem_singleton.mpr ?_)
      exact congrArg (fun r : V => (⟨r, s.vecRowData x.w (r0 + i), due⟩ : VLoad)) (Fin.ext hv)
    · have hstep := startRow_same s x vd r0 due j
      rw [← vecRowData_congr hstep.addr hstep.cells]
      exact ih _ hi

/-- A load that is due after the slot of an instruction is on its way at its end. -/
theorem vloads_endVec (hl : l ∈ (u.thr x).vloads) (hdue : u.wick[x.w].rho < l.due) : l ∈ ((u.endVec x len n busy).thr x).vloads := by
  rw [thr_endVec]
  exact List.mem_filter.mpr ⟨hl, by simpa using hdue⟩

theorem thr_delay (u : State) (x : VSite) (n : Nat) : (u.setWick x.w fun k => k.delayLoader n).thr x = u.thr x := thr_setWick _

theorem delay_only (u : State) (x : VSite) (n : Nat) : Only [.wick] u (u.setWick x.w fun k => k.delayLoader n) := setWick_only u x.w _

theorem byte_cells {a b : MemBlk} (h : b.cells = a.cells) (p : Nat) : b.byte p = a.byte p := by
  unfold MemBlk.byte
  rw [h]

end

section
variable {s : State} {x : VSite} {len : Nat} {m : AMode} {gb gt : G} {v : V} {r0 : Nat}

/-- The state that a VLD leaves. -/
def State.afterVld (u : State) (x : VSite) (v : V) (r0 due n : Nat) (l : List (G × W64)) : State :=
  ((u.startRows x v r0 due (List.range n)).putG x l).setWick x.w fun k => k.delayLoader n

/-- An instruction that ends with rows on their way to a group. -/
theorem afterVld_ends {u : State} (hat : RowsAt s u x) {m n : Nat} {l : List (G × W64)} {busy : Wick → Nat} {t : State}
    (ht : t = (u.afterVld x v r0 (s.slotRho x + 6) n l).endVec x len m busy) :
    (∀ (j : Nat) (r : V), j < n → r.1 = v.1 + j → (⟨r, s.vecRowData x.w (r0 + j), s.slotRho x + 6⟩ : VLoad) ∈ (t.thr x).vloads) ∧
      (t.thr x).g = regSets (s.thr x).g l ∧ (t.thr x).pc = (s.thr x).pc + BitVec.ofNat 18 len ∧ (∀ a, t.mem.byte a = s.mem.byte a) ∧
      Only [.wick, .mem, .fab, .lan, .log, .sad] s t := by
  subst ht
  have hsame := startRows_same u x v r0 (s.slotRho x + 6) (List.range n)
  have hstart (j : Nat) (r : V) (hj : j < n) (hr : r.1 = v.1 + j) :=
    startRows_starts u x v r0 (s.slotRho x + 6) (List.mem_range.mpr hj) hr
  have honly := startRows_only u x v r0 (s.slotRho x + 6) (List.range n)
  unfold State.afterVld
  generalize u.startRows x v r0 (s.slotRho x + 6) (List.range n) = p at hsame hstart honly
  have hg : (p.thr x).g = (s.thr x).g := (Thread.g_unloaded hsame.thread).trans hat.g
  have hpc : (p.thr x).pc = (s.thr x).pc := (Thread.pc_unloaded hsame.thread).trans hat.pc
  have hthr : (((p.putG x l).setWick x.w fun k => k.delayLoader n).thr x) = { p.thr x with g := regSets (p.thr x).g l } :=
    (thr_delay _ x n).trans (thr_updThr _)
  have hrho : ((p.putG x l).setWick x.w fun k => k.delayLoader n).wick[x.w].rho = s.slotRho x := by
    rw [setWick_self]
    exact (updThr_rho p x _).trans (hsame.rho.trans hat.rho)
  obtain ⟨hg', hpc'⟩ := endVec_site ((p.putG x l).setWick x.w fun k => k.delayLoader n) x len m busy
  refine ⟨fun j r hj hr => ?_, ?_, ?_, fun a => ?_, ?_⟩
  · refine vloads_endVec ?_ ?_
    · rw [hthr, ← hat.row]
      exact hstart j r hj hr
    · rw [hrho]
      exact Nat.lt_add_of_pos_right (by decide)
  · rw [hg', hthr, ← hg]
  · rw [hpc', hthr, ← hpc]
  · exact (byte_cells hsame.cells a).trans (by rw [hat.mem])
  · exact ((hat.only.left (honly.right (putG_only p x l) (by simp)) (by simp)).right (delay_only _ x n) (by simp)).trans
      (endVec_only _ x len m busy) (by simp) (by simp)

theorem vld_loads (hr : VReady s x (.vld x v m gb) len) (ha : aligned (s.thrAt x).group [v] = true)
    (hrows : vecRows (eaOf m (s.thr x).g gb).1 (s.thrAt x).rows = some r0) :
    Completes (.vld x v m gb) s fun t =>
      (∀ (j : Nat) (r : V), j < (s.thrAt x).rows → r.1 = v.1 + j →
        (⟨r, s.vecRowData x.w (r0 + j), s.slotRho x + 6⟩ : VLoad) ∈ (t.thr x).vloads) ∧
      (t.thr x).g = regSets (s.thr x).g ((eaOf m (s.thr x).g gb).2.map fun b => (gb, b)).toList ∧
      (t.thr x).pc = (s.thr x).pc + BitVec.ofNat 18 len ∧ (∀ a, t.mem.byte a = s.mem.byte a) ∧
      Only [.wick, .mem, .fab, .lan, .log, .sad] s t := by
  have hat := runPoint_rowsAt s x ⟨modeReads m gb, if modeUpdates m then [gb] else [], true, true, false, false, none⟩
  refine completes_ends (u := State.afterVld _ x v r0 (s.slotRho x + 6) (s.thrAt x).rows _) (n := (s.thrAt x).rows - 1) (b := 0) rfl hr
    (taperFree_of_vector rfl) ?_ fun busy => afterVld_ends hat rfl
  dsimp only
  rw [hat.g, hat.group, hat.rows, ha, hrows]
  rfl

/-! ## Rows stored (R168, R299) -/

theorem VSame.of_wick {s u u' : State} {f : Thread → Thread} (h : VSame s u x f) (hwick : u'.wick = u.wick) : VSame s u' x f := by
  obtain ⟨hth, hothers, hsb, hwicks⟩ := h
  refine ⟨?_, ?_, ?_, ?_⟩
  · show Thread.same _ u'.wick[x.w].threads[x.t]
    rwa [hwick]
  · rwa [hwick]
  · rwa [hwick]
  · rwa [hwick]

theorem vst_stores (hr : VReady s x (.vst x v m gb gt) len) (ha : aligned (s.thrAt x).group [v] = true)
    (hrows : vecRows (eaOf m (s.thr x).g gb).1 (s.thrAt x).rows = some r0) :
    Completes (.vst x v m gb gt) s fun t =>
      t.mem = (s.storeRows x.w (s.thrAt x).rows (r0 + ·) (fun i => getOr (s.thrAt x).v (v.1 + i) 0)
        ((regGet (s.thr x).g gt).setWidth 8) (s.thr x).poison).mem ∧
      VRetires s t x len (fun a => { a with g := regSets a.g ((eaOf m a.g gb).2.map fun b => (gb, b)).toList }) ∧ Only [.wick, .mem] s t := by
  have hat := runPoint_rowsAt s x ⟨gt :: modeReads m gb, if modeUpdates m then [gb] else [], true, true, false, false, none⟩
  have hstore := storeRows_only (s.runPoint x ⟨gt :: modeReads m gb, if modeUpdates m then [gb] else [], true, true, false, false, none⟩) x.w
    (s.thrAt x).rows (r0 + ·) (fun i => getOr (s.thrAt x).v (v.1 + i) 0) ((regGet (s.thr x).g gt).setWidth 8) (s.thr x).poison
  have hmem := storeRows_mem hat.mem hat.addr (s.thrAt x).rows (r0 + ·) (fun i => getOr (s.thrAt x).v (v.1 + i) 0)
    ((regGet (s.thr x).g gt).setWidth 8) (s.thr x).poison
  have hsame := ((hat.same.of_wick (hstore .wick (by simp))).putG ((eaOf m (s.thr x).g gb).2.map fun b => (gb, b)).toList).setWick
    (k := fun k => k.delayLoader (s.thrAt x).rows) rfl rfl
  refine completes_retires (n := (s.thrAt x).rows - 1) (b := 0) rfl hr (taperFree_of_vector rfl) hsame
    (((hat.only.trans hstore (by simp) (by simp)).right (putG_only _ x _) (by simp)).right (delay_only _ x _) (by simp)) ?_ rfl (by simp)
    fun busy hret honly => ⟨?_, hret, honly⟩
  · dsimp only
    rw [hat.g, hat.group, hat.rows, hat.v, hat.poison, ha, hrows]
    rfl
  · exact hmem

/-! ## Addresses that are no rows (R300) -/

theorem vld_traps (hr : VReady s x (.vld x v m gb) len) (ha : aligned (s.thrAt x).group [v] = true)
    (hrows : vecRows (eaOf m (s.thr x).g gb).1 (s.thrAt x).rows = none) :
    Completes (.vld x v m gb) s fun t => Traps s t (.wick x.w x.t x.wide .clean) 0x03 (eaOf m (s.thr x).g gb).1 := by
  have hat := runPoint_atPoint s x ⟨modeReads m gb, if modeUpdates m then [gb] else [], true, true, false, false, none⟩
  refine completes_raises rfl hr (taperFree_of_vector rfl) ?_ (by decide) (by decide)
  dsimp only
  rw [hat.g, hat.group, hat.rows, ha, hrows]
  rfl

theorem vst_traps (hr : VReady s x (.vst x v m gb gt) len) (ha : aligned (s.thrAt x).group [v] = true)
    (hrows : vecRows (eaOf m (s.thr x).g gb).1 (s.thrAt x).rows = none) :
    Completes (.vst x v m gb gt) s fun t => Traps s t (.wick x.w x.t x.wide .clean) 0x03 (eaOf m (s.thr x).g gb).1 := by
  have hat := runPoint_atPoint s x ⟨gt :: modeReads m gb, if modeUpdates m then [gb] else [], true, true, false, false, none⟩
  refine completes_raises rfl hr (taperFree_of_vector rfl) ?_ (by decide) (by decide)
  dsimp only
  rw [hat.g, hat.group, hat.rows, ha, hrows]
  rfl

end

/-! ## VCRC (R301) -/

section
variable {s : State} {x : VSite} {len : Nat} {gd ga gb : G} {r : Nat}

/-- The CRC of a row of the scratchpad. -/
def State.rowCrc (s : State) (x : VSite) (gd gb : G) (r : Nat) : W32 :=
  (rowBytes (s.vecRowData x.w r)).foldl (crcByte (crcPoly (regGet (s.thr x).g gb))) ((regGet (s.thr x).g gd).setWidth 32)

theorem vcrc_reads (hr : VReady s x (.vcrc x gd ga gb) len) (hvl : 0 < (s.thr x).vl) (hrow : vecRows (regGet (s.thr x).g ga) 1 = some r) :
    Completes (.vcrc x gd ga gb) s fun t => (t.thr x).g = regSet (s.thr x).g gd ((s.rowCrc x gd gb r).setWidth 64) ∧
      (t.thr x).pc = (s.thr x).pc + BitVec.ofNat 18 len ∧ Only [.wick, .mem, .fab, .lan, .log, .sad] s t := by
  have hat := runPoint_rowsAt s x ⟨[ga, gb, gd], [gd], true, true, false, false, some .vector⟩
  refine completes_ends (n := 72) (b := 0) (u := ((((s.runPoint x ⟨[ga, gb, gd], [gd], true, true, false, false, some .vector⟩).vecRead x r).1.putG x
    [(gd, (s.rowCrc x gd gb r).setWidth 64)]).setWick x.w fun k => k.delayLoader 1)) rfl hr (taperFree_of_vector rfl) ?_ fun busy => ?_
  · dsimp only
    rw [hat.g, hat.vl, if_neg (by omega), hrow]
    dsimp only
    rw [vecRead_data, hat.row]
    rfl
  · generalize s.runPoint x ⟨[ga, gb, gd], [gd], true, true, false, false, some .vector⟩ = u at hat
    have hread := thr_unmarked (vecRead_unmarked u x r) x
    have honly := vecRead_only u x r
    generalize (u.vecRead x r).1 = p at hread honly
    have hthr : ((p.putG x [(gd, (s.rowCrc x gd gb r).setWidth 64)]).setWick x.w fun k => k.delayLoader 1).thr x =
        { p.thr x with g := regSet (p.thr x).g gd ((s.rowCrc x gd gb r).setWidth 64) } := (thr_delay _ x 1).trans (thr_updThr _)
    obtain ⟨hg, hpc⟩ := endVec_site ((p.putG x [(gd, (s.rowCrc x gd gb r).setWidth 64)]).setWick x.w fun k => k.delayLoader 1) x len 72 busy
    refine ⟨?_, ?_, ?_⟩
    · rw [hg, hthr, ← hat.g, ← Thread.g_unmarked hread]
    · rw [hpc, hthr, ← hat.pc, ← Thread.pc_unmarked hread]
    · exact (((hat.only.left honly (by simp)).right (putG_only p x _) (by simp)).right (delay_only _ x 1) (by simp)).trans
        (endVec_only _ x len 72 busy) (by simp) (by simp)

/-- With no elements the result is a free value, and no row is read (log 81). -/
theorem vcrc_free (hr : VReady s x (.vcrc x gd ga gb) len) (hvl : (s.thr x).vl = 0) :
    Completes (.vcrc x gd ga gb) s fun t => (∃ v : W32, (t.thr x).g = regSet (s.thr x).g gd (v.setWidth 64)) ∧
      (t.thr x).pc = (s.thr x).pc + BitVec.ofNat 18 len ∧ (t.thr x).poison = (s.thr x).poison ∧ Only [.wick, .misc] s t := by
  have hat := runPoint_atPoint s x ⟨[ga, gb, gd], [gd], true, true, false, false, some .vector⟩
  have honly := runPoint_only s x ⟨[ga, gb, gd], [gd], true, true, false, false, some .vector⟩
  have hmisc := honly .misc (by simp)
  refine completes_retires (n := 72) (b := 0) rfl hr (taperFree_of_vector rfl)
    ((hat.fresh 1).same.putG [(gd, ((Config.freeWord s.misc.fresh).setWidth 32).setWidth 64)])
    ((honly.trans (fresh_only _ 1) (c := [.wick, .misc]) (by simp) (by simp)).right (putG_only _ x _) (by simp)) ?_ rfl (by simp)
    fun busy hret honly => ?_
  · dsimp only
    rw [hat.vl, if_pos hvl, show (s.runPoint x _).misc = s.misc from hmisc]
    rfl
  · obtain ⟨⟨-, hpc, hg, -, -, -, -, hpoison, -⟩, -⟩ := hret
    exact ⟨⟨_, hg⟩, hpc, hpoison, honly⟩

end

/-! ## VGTH (R302, R303) -/

/-- The element of e bytes at an address of the scratchpad. -/
def State.element (s : State) (x : VSite) (e : Nat) (a : W64) : Nat :=
  (s.vecRowData x.w (a.toNat / 512)).toNat / 2 ^ (8 * (a.toNat % 512)) % 2 ^ (8 * e)

/-- The address of element k of a gather. -/
def gatherAddr (ga : W64) (idx : Row) (e k : Nat) : W64 := ga + BitVec.ofNat 64 (idx.toNat / 2 ^ (8 * e * k) % 2 ^ (8 * e) * e)

/-- A gather from state s that has brought the elements of the places in P, with no fault. -/
structure Gathered (s : State) (x : VSite) (ga : W64) (idx : Row) (e : Nat) (P : Nat → Prop) (g : Gather) : Prop where
  fault : g.fault = none
  st : g.st.unmarked = s.unmarked
  only : Only [.mem, .fab, .log, .sad, .lan, .wick] s g.st
  elem : ∀ k, P k → k < 4096 / (8 * e) → rowElem (8 * e) g.reg k = s.element x e (gatherAddr ga idx e k)

section
variable {s u : State} {x : VSite} {len e k : Nat} {ga : W64} {idx reg : Row} {P : Nat → Prop} {g : Gather} {vd vi : V} {gb : G}

theorem Gathered.step (h : Gathered s x ga idx e P g) (he : 8 * e ∣ 4096) (halign : (gatherAddr ga idx e k).toNat % e = 0)
    (hend : (gatherAddr ga idx e k).toNat + e ≤ 0x200000) : Gathered s x ga idx e (fun i => i = k ∨ P i) (gatherStep x ga idx e g k) := by
  obtain ⟨st, r, fault⟩ := g
  obtain ⟨rfl, hst, honly, helem⟩ := h
  have hstep : gatherStep x ga idx e ⟨st, r, none⟩ k = ⟨(st.vecRead x ((gatherAddr ga idx e k).toNat / 512)).1,
      packRow (8 * e) fun i => if i = k then s.element x e (gatherAddr ga idx e k) else rowElem (8 * e) r i, none⟩ := by
    have hdata := vecRead_data st x ((gatherAddr ga idx e k).toNat / 512)
    rw [vecRowData_unmarked hst] at hdata
    rw [State.element, ← hdata]
    unfold gatherAddr at halign hend ⊢
    unfold gatherStep
    dsimp only
    rw [if_neg (not_or.mpr ⟨not_not.mpr halign, Nat.not_lt.mpr hend⟩)]
    generalize st.vecRead x _ = q
    obtain ⟨t, d⟩ := q
    rfl
  have hread := vecRead_unmarked st x ((gatherAddr ga idx e k).toNat / 512)
  have honly' := vecRead_only st x ((gatherAddr ga idx e k).toNat / 512)
  rw [hstep]
  generalize (st.vecRead x ((gatherAddr ga idx e k).toNat / 512)).1 = t at hread honly' ⊢
  refine ⟨rfl, hread.trans hst, honly.step honly', fun i hi hlt => (rowElem_packRow he _ hlt).trans ?_⟩
  split
  case isTrue hik =>
    rw [hik]
    exact Nat.mod_mod _ _
  case isFalse hik =>
    rw [rowElem, Nat.mod_mod]
    exact helem i (hi.resolve_left hik) hlt

theorem Gathered.foldl (h : Gathered s x ga idx e P g) (he : 8 * e ∣ 4096) {l : List Nat}
    (hl : ∀ k ∈ l, (gatherAddr ga idx e k).toNat % e = 0 ∧ (gatherAddr ga idx e k).toNat + e ≤ 0x200000) :
    Gathered s x ga idx e (fun i => i ∈ l ∨ P i) (l.foldl (gatherStep x ga idx e) g) := by
  induction l generalizing g P with
  | nil =>
    obtain ⟨hfault, hst, honly, helem⟩ := h
    exact ⟨hfault, hst, honly, fun i hi => helem i (hi.resolve_left List.not_mem_nil)⟩
  | cons k l ih =>
    obtain ⟨halign, hend⟩ := hl k List.mem_cons_self
    obtain ⟨hfault, hst, honly, helem⟩ := ih (h.step he halign hend) fun j hj => hl j (List.mem_cons_of_mem k hj)
    exact ⟨hfault, hst, honly, fun i hi => helem i (by rw [List.mem_cons] at hi; tauto)⟩

/-- The 16 elements of a gather that begins with the first. -/
def State.gather (u : State) (x : VSite) (ga : W64) (idx reg : Row) (e : Nat) : Gather :=
  (List.range 16).foldl (gatherStep x ga idx e) ⟨u, reg, none⟩

/-- No element is brought after one that faults. -/
theorem gatherStep_faulted (h : g.fault.isSome) : gatherStep x ga idx e g k = g := by
  obtain ⟨st, r, fault⟩ := g
  obtain ⟨f, rfl⟩ := Option.isSome_iff_exists.mp h
  rfl

/-- A gather whose first element faults. -/
theorem gather_faults (h : (gatherAddr ga idx e 0).toNat % e ≠ 0 ∨ 0x200000 < (gatherAddr ga idx e 0).toNat + e) :
    u.gather x ga idx reg e = ⟨u, reg, some (0, gatherAddr ga idx e 0)⟩ := by
  have hfirst : gatherStep x ga idx e ⟨u, reg, none⟩ 0 = ⟨u, reg, some (0, gatherAddr ga idx e 0)⟩ := if_pos h
  rw [State.gather, List.range_succ_eq_map, List.foldl_cons, hfirst]
  exact List.foldlRecOn (motive := fun g => g = _) _ _ rfl fun g hg k _ => by
    rw [gatherStep_faulted (by rw [hg]; rfl), hg]

/-- The end of a gather. -/
def Gather.finish (g : Gather) (x : VSite) (vd : V) : VRun :=
  ⟨(g.st.updThr x fun t => { t with
      v := upd t.v vd fun _ => g.reg
      vloads := if g.fault.any fun f => decide (f.1 ≤ 0) then t.vloads else t.vloads.filter fun l => l.reg != vd
      vfidx := (g.fault.map Prod.fst).getD 0 }).setWick x.w fun k => k.delayLoader 16, g.fault.map fun f => (0x03, f.2), 16, 0⟩

theorem vgth_run (hat : AtPoint s u x) (hidx : (s.thr x).vfidx = 0) : ∃ run, exec (.vgth x vd gb vi) s =
    .next (s.issueVec x (.vgth x vd gb vi) ⟨[gb], [], true, true, false, false, none⟩ run) ∧
    ∀ n, run u n = (u.gather x (regGet (s.thr x).g gb) (s.thrAt x).v[vi] (s.thrAt x).v[vd] ((s.thrAt x).sewBits / 8)).finish x vd := by
  refine ⟨_, rfl, fun n => ?_⟩
  dsimp only
  rw [hat.g, hat.v, hat.sewBits, hat.vfidx, hidx]
  have hall : (List.range 16).filter (fun k => decide (0 ≤ k)) = List.range 16 := by simp
  rw [hall]
  unfold Gather.finish State.gather
  generalize (List.range 16).foldl _ _ = g
  obtain ⟨st, r, fault⟩ := g
  cases fault <;> rfl

theorem sewBits_bytes (th : Thread) : 8 * (th.sewBits / 8) = th.sewBits ∧ 16 ≤ 4096 / th.sewBits := by
  have h (q : Fin 4) : 8 * (8 * 2 ^ q.1 / 8) = 8 * 2 ^ q.1 ∧ 16 ≤ 4096 / (8 * 2 ^ q.1) := by revert q; decide
  exact h th.sew

/-- The state that a gather with no fault leaves. -/
def State.gathered (u : State) (x : VSite) (vd : V) (reg : Row) : State :=
  (u.updThr x fun t => { t with v := upd t.v vd fun _ => reg, vloads := t.vloads.filter fun l => l.reg != vd, vfidx := 0 }).setWick x.w
    fun k => k.delayLoader 16

theorem Gather.finish_clean (h : g.fault = none) : g.finish x vd = ⟨g.st.gathered x vd g.reg, none, 16, 0⟩ := by
  obtain ⟨st, r, fault⟩ := g
  obtain rfl : fault = none := h
  rfl

/-- The register that a gather has written, at its end: no load in flight reaches it. -/
theorem gathered_endVec (u : State) (x : VSite) (vd : V) (reg : Row) (len n : Nat) (busy : Wick → Nat) :
    (((u.gathered x vd reg).endVec x len n busy).thr x).v[vd] = reg ∧ (((u.gathered x vd reg).endVec x len n busy).thr x).vfidx = 0 ∧
      (((u.gathered x vd reg).endVec x len n busy).thr x).g = (u.thr x).g ∧
      (((u.gathered x vd reg).endVec x len n busy).thr x).pc = (u.thr x).pc + BitVec.ofNat 18 len := by
  have hthr : (u.gathered x vd reg).thr x = { u.thr x with
      v := upd (u.thr x).v vd fun _ => reg, vloads := (u.thr x).vloads.filter fun l => l.reg != vd, vfidx := 0 } :=
    (thr_delay _ x 16).trans (thr_updThr _)
  have hland : ∀ p ∈ ((u.gathered x vd reg).thr x).vloads, p.due < (u.gathered x vd reg).wick[x.w].rho + 1 → p.reg.1 ≠ vd.1 := fun p hp _ heq => by
    rw [hthr] at hp
    obtain ⟨-, hne⟩ := List.mem_filter.mp hp
    rw [Fin.ext heq, bne_self_eq_false] at hne
    cases hne
  obtain ⟨hg, hpc⟩ := endVec_site (u.gathered x vd reg) x len n busy
  refine ⟨?_, ?_, ?_, ?_⟩
  · rw [← getOr_fin _ vd 0, getOr_endVec hland, hthr, getOr_fin, upd_self]
  · rw [thr_endVec, hthr]
    rfl
  · rw [hg, hthr]
  · rw [hpc, hthr]

theorem gathered_only (u : State) (x : VSite) (vd : V) (reg : Row) : Only [.wick] u (u.gathered x vd reg) :=
  (updThr_only u x _).step (delay_only _ x 16)

theorem vgth_gathers {a : Nat → W64} (hr : VReady s x (.vgth x vd gb vi) len) (hidx : (s.thr x).vfidx = 0) (he : e = (s.thrAt x).sewBits / 8)
    (ha : ∀ k, a k = gatherAddr (regGet (s.thr x).g gb) (s.thrAt x).v[vi] e k)
    (hok : ∀ k, k < 16 → (a k).toNat % e = 0 ∧ (a k).toNat + e ≤ 0x200000) :
    Completes (.vgth x vd gb vi) s fun t => (∀ k, k < 16 → rowElem (8 * e) (t.thr x).v[vd] k = s.element x e (a k)) ∧
      (t.thr x).vfidx = 0 ∧ (t.thr x).g = (s.thr x).g ∧ (t.thr x).pc = (s.thr x).pc + BitVec.ofNat 18 len ∧
      Only [.wick, .mem, .fab, .lan, .log, .sad] s t := by
  have hat := runPoint_rowsAt s x ⟨[gb], [], true, true, false, false, none⟩
  obtain ⟨run, hexec, hrun⟩ := vgth_run (vd := vd) (vi := vi) (gb := gb) hat.toAtPoint hidx
  generalize hu : s.runPoint x ⟨[gb], [], true, true, false, false, none⟩ = u at hat hrun
  obtain ⟨hbytes, helems⟩ := sewBits_bytes (s.thrAt x)
  have hw : 8 * e = (s.thrAt x).sewBits := he ▸ hbytes
  have hstart : Gathered u x (regGet (s.thr x).g gb) (s.thrAt x).v[vi] e (fun _ => False) ⟨u, (s.thrAt x).v[vd], none⟩ :=
    ⟨rfl, rfl, Only.refl _ u, fun _ h => h.elim⟩
  have hall := hstart.foldl (l := List.range 16) (hw ▸ sewBits_dvd _) fun k hk => ha k ▸ hok k (List.mem_range.mp hk)
  rw [← he] at hrun
  unfold State.gather at hrun
  generalize (List.range 16).foldl _ _ = g at hall hrun
  obtain ⟨hfault, hst, honly, helem⟩ := hall
  refine completes_ends hexec hr (taperFree_of_vector rfl) (by rw [hu, hrun, g.finish_clean hfault]) fun busy => ?_
  obtain ⟨hv, hidx', hg, hpc⟩ := gathered_endVec g.st x vd g.reg len 16 busy
  refine ⟨fun k hk => ?_, hidx', ?_, ?_, ?_⟩
  · rw [hv, helem k (Or.inl (List.mem_range.mpr hk)) (by rw [hw]; omega), State.element, hat.row, ha k, State.element]
  · rw [hg, Thread.g_unmarked (thr_unmarked hst x), hat.g]
  · rw [hpc, Thread.pc_unmarked (thr_unmarked hst x), hat.pc]
  · exact ((hat.only.trans honly (by simp) (by simp)).right (gathered_only _ x vd _) (by simp)).right (endVec_only _ x len 16 busy) (by simp)

/-- An exception ends in FAULTED or at the handler. -/
theorem raise_ends (s : State) (w : WkId) (t : Fin 4) (c : Byte) (a : W64) (p : BitVec 18) (n : Nat) :
    s.raise w t c a p false n = s.faultThread w t c a p n ∨ s.raise w t c a p false n =
      s.setWick w fun k => (k.updT t fun th => { th with victim := .none }).enter t p (c.setWidth 64) a 0 n := ite_eq_or_eq _ _ _

theorem raise_vfidx (s : State) (w : WkId) (t : Fin 4) (c : Byte) (a : W64) (p : BitVec 18) (n : Nat) :
    (s.raise w t c a p false n).wick[w].threads[t].vfidx = s.wick[w].threads[t].vfidx := by
  rcases raise_ends s w t c a p n with h | h
  · obtain ⟨-, -, -, -, -, -, -, -, -, -, -, -, hidx, -⟩ := faultThread_thread s w t c a p n
    rw [h, hidx]
  · obtain ⟨acc, -, -, -, -, -, -, -, -, -, -, -, -, hidx, -⟩ :=
      enter_thread (s.wick[w].updT t fun th => { th with victim := .none }) t p (c.setWidth 64) a 0 n
    rw [h, setWick_self, hidx, Wick.updT, upd_self]
    rfl

/-- The place in a gather after an exception. -/
theorem issueVec_vfidx {i : Instr} {h : VHow} {run : State → Nat → VRun} {r : VRun} {c : Byte} {a : W64} (hr : VReady s x i len)
    (hfree : TaperFree s x h i) (hrun : run (s.runPoint x h) (s.slotRho x) = r) (hexc : r.exc = some (c, a))
    (hth : Thread.same (s.thr x) (r.st.thr x)) : ((s.issueVec x i h run).thr x).vfidx = (s.thr x).vfidx := by
  rw [(issueVec_run hr hfree hrun).1 c a hexc, State.thr, raise_vfidx, setWick_self]
  obtain ⟨-, -, -, -, -, -, -, -, -, -, -, -, hidx, -⟩ := pass_same r.st.wick[x.w] 0 r.stall x.t (s.thr x) hth
  exact hidx

/-- The end of a gather whose first element faults. -/
theorem finish_faulted (u : State) (x : VSite) (vd : V) (a : W64) : ∃ t, (⟨u, (u.thr x).v[vd], some (0, a)⟩ : Gather).finish x vd =
    ⟨t, some (0x03, a), 16, 0⟩ ∧ Only [.wick] u t ∧ t.thr x = { u.thr x with v := upd (u.thr x).v vd fun _ => (u.thr x).v[vd], vfidx := 0 } :=
  ⟨_, rfl, (updThr_only u x _).step (delay_only _ x 16), (thr_delay _ x 16).trans (thr_updThr _)⟩

theorem vgth_traps {a : W64} (hr : VReady s x (.vgth x vd gb vi) len) (hidx : (s.thr x).vfidx = 0) (he : e = (s.thrAt x).sewBits / 8)
    (ha : a = gatherAddr (regGet (s.thr x).g gb) (s.thrAt x).v[vi] e 0) (hbad : a.toNat % e ≠ 0 ∨ 0x200000 < a.toNat + e) :
    Completes (.vgth x vd gb vi) s fun t => Traps s t (.wick x.w x.t x.wide .clean) 0x03 a ∧ (t.thr x).vfidx = 0 := by
  have hat := runPoint_atPoint s x ⟨[gb], [], true, true, false, false, none⟩
  have honly := runPoint_only s x ⟨[gb], [], true, true, false, false, none⟩
  obtain ⟨run, hexec, hrun⟩ := vgth_run (vd := vd) (vi := vi) (gb := gb) hat hidx
  have hend := hrun (s.slotRho x)
  subst he
  rw [gather_faults (ha ▸ hbad), ← ha, ← hat.v] at hend
  obtain ⟨t, ht, honly', hthr⟩ := finish_faulted (s.runPoint x ⟨[gb], [], true, true, false, false, none⟩) x vd a
  have hsame : Thread.same (s.thr x) (t.thr x) := by
    obtain ⟨h1, h2, h3, h4, h5, h6, h7, h8, h9, h10, h11, h12, -, h14⟩ := hat.same.thread
    rw [hthr]
    exact ⟨h1, h2, h3, h4, h5, h6, h7, h8, h9, h10, h11, h12, hidx.symm, h14⟩
  have hfree : TaperFree s x ⟨[gb], [], true, true, false, false, none⟩ (.vgth x vd gb vi) := taperFree_of_vector rfl
  exact ⟨_, hexec, issueVec_traps hr hfree (hend.trans ht) rfl hsame (honly.step honly') (by decide) (by decide),
    (issueVec_vfidx hr hfree (hend.trans ht) rfl hsame).trans hidx⟩

end

/-- Settles O45: each clause is the rule of its instruction. VCRC of no elements has the model's free value (log 81), and VGTH names single
registers (log 31). -/
theorem vectorMemoryInstructionsReachTheirRows : Obligations.VectorMemoryInstructionsReachTheirRows :=
  ⟨fun _ _ _ _ _ _ _ hr ha hrows => vld_loads hr ha hrows, fun _ _ _ _ _ _ _ _ hr ha hrows => vst_stores hr ha hrows,
    fun _ _ _ _ _ _ _ ha hrows => ⟨fun hr => vld_traps hr ha hrows, fun hr => vst_traps hr ha hrows⟩,
    fun _ _ _ _ _ _ _ hr hvl hrow => vcrc_reads hr hvl hrow, fun _ _ _ _ _ _ hr hvl => vcrc_free hr hvl,
    fun _ _ _ _ _ _ _ _ hr hidx he ha => ⟨vgth_gathers hr hidx he ha, vgth_traps hr hidx he (ha 0)⟩⟩

end Sys2Proof.Machine
end

section
/-! # PROOFS. TMAC, TMACS and TREP (R309–R313, R324). -/
namespace Sys2Proof.Machine

/-! ## Elements fetched (R309, R321) -/

section
variable {s u : State} {x : VSite} {a : TmacArgs} {test clr : Bool} {px py q : Pointer} {gx gy p : Int} {y : Bool}

/-- An element passes through the correction. -/
def State.passElem (s : State) (x : VSite) (y : Bool) (e : Nat) : State :=
  if (s.checkElem x.w y e 0).2 then (s.checkElem x.w y e 0).1.poisonThread x.w x.t 1 e else (s.checkElem x.w y e 0).1

theorem passElem_unmarked (s : State) (x : VSite) (y : Bool) (e : Nat) : (s.passElem x y e).unmarked = s.unmarked := by
  have hcheck := checkElem_unmarked s x.w y e 0
  unfold State.passElem
  split
  · exact (poisonThread_unmarked _ x.w x.t 1 e).trans hcheck
  · exact hcheck

theorem passElem_only (s : State) (x : VSite) (y : Bool) (e : Nat) : Only [.wick, .log, .sad] s (s.passElem x y e) := by
  have hcheck := checkElem_only s x.w y e 0
  unfold State.passElem
  split
  · exact hcheck.step (poisonThread_only _ x.w x.t 1 e)
  · exact hcheck

theorem taperElem_unmarked (h : u.unmarked = s.unmarked) (w : WkId) (y : Bool) (e : Nat) : u.taperElem w y e = s.taperElem w y e := by
  unfold State.taperElem
  rw [bytes_unmarked h]

theorem fetchElems_succ (s : State) (x : VSite) (y : Bool) (q : Pointer) (p : Int) (n : Nat) : s.fetchElems x y q p (n + 1) =
    ((s.fetchElems x y q p n).1.passElem x y (q.elem p n),
     (s.fetchElems x y q p n).2 ++ [((s.fetchElems x y q p n).1.passElem x y (q.elem p n)).taperElem x.w y (q.elem p n)]) := by
  unfold State.fetchElems
  rw [List.range_succ, List.foldl_append]
  rfl

/-- A fetch leaves marks and counts, and brings the elements that its pointer names. -/
theorem fetchElems_brings (s : State) (x : VSite) (y : Bool) (q : Pointer) (p : Int) (n : Nat) :
    (s.fetchElems x y q p n).1.unmarked = s.unmarked ∧ (s.fetchElems x y q p n).2 = (List.range n).map (fun i => s.taperElem x.w y (q.elem p i)) ∧
      Only [.wick, .log, .sad] s (s.fetchElems x y q p n).1 := by
  induction n with
  | zero => exact ⟨rfl, rfl, Only.refl _ s⟩
  | succ n ih =>
    obtain ⟨hst, helems, honly⟩ := ih
    have hpass := (passElem_unmarked (s.fetchElems x y q p n).1 x y (q.elem p n)).trans hst
    rw [fetchElems_succ]
    refine ⟨hpass, ?_, honly.step (passElem_only _ x y _)⟩
    rw [helems, taperElem_unmarked hpass, List.range_succ, List.map_append]
    rfl

theorem getD_elems (f : Nat → Nat) {n i : Nat} (hi : i < n) : ((List.range n).map f).getD i 0 = f i := by
  rw [List.getD_eq_getElem _ _ (by simpa using hi)]
  simp

/-! ## One product and one iteration (R310, R311) -/

/-- The product that goes into accumulator j of lane l. -/
def tmacProduct (xs test : Bool) (ex ey : List Nat) (lj : Nat × Nat) : Int :=
  (if xs then sgn 16 (ex.getD lj.1 0) else (ex.getD lj.1 0 : Int)) * sgn 16 (ey.getD (if test then (lj.1 + 8 * lj.2) % 32 else lj.2) 0)

/-- It goes into its accumulator, and in TMACS into the signature too. -/
def State.addProduct (s : State) (x : VSite) (xs test clr : Bool) (ex ey : List Nat) (lj : Nat × Nat) : State :=
  if test then (s.putAcc x lj.1 lj.2 ((if clr then 0 else (s.accAt x (accIx lj.1 lj.2)).toInt) + tmacProduct xs test ex ey lj)).updTap x fun t =>
    { t with tsig := crcSteps 0x82F63B78 32 (img 32 (tmacProduct xs test ex ey lj)) t.tsig }
  else s.putAcc x lj.1 lj.2 ((if clr then 0 else (s.accAt x (accIx lj.1 lj.2)).toInt) + tmacProduct xs test ex ey lj)

theorem accAt_updTap {f : Taper → Taper} (h : (f u.wick[x.w].taper).acc = u.wick[x.w].taper.acc) (k : Nat) : (u.updTap x f).accAt x k = u.accAt x k := by
  rw [State.accAt, taper_updTap, h, State.accAt]

/-- An accumulator after a product has gone in. -/
def sumOf (clr : Bool) (product : Int) (old : BitVec 56) : BitVec 56 := (acc56 ((if clr then 0 else old.toInt) + product)).1

theorem addProduct_accAt (s : State) (x : VSite) (xs test clr : Bool) (ex ey : List Nat) {lj : Nat × Nat} (h : accIx lj.1 lj.2 < 128) (k : Nat) :
    (s.addProduct x xs test clr ex ey lj).accAt x k =
      if k = accIx lj.1 lj.2 then sumOf clr (tmacProduct xs test ex ey lj) (s.accAt x k) else s.accAt x k := by
  have hput := putAcc_accAt s x h ((if clr then 0 else (s.accAt x (accIx lj.1 lj.2)).toInt) + tmacProduct xs test ex ey lj) k
  have hsum : (if k = accIx lj.1 lj.2 then (acc56 ((if clr then 0 else (s.accAt x (accIx lj.1 lj.2)).toInt) + tmacProduct xs test ex ey lj)).1
      else s.accAt x k) = if k = accIx lj.1 lj.2 then sumOf clr (tmacProduct xs test ex ey lj) (s.accAt x k) else s.accAt x k := by
    split
    case isTrue hk => rw [hk, sumOf]
    case isFalse => rfl
  unfold State.addProduct
  split
  · exact ((accAt_updTap (by rfl) k).trans hput).trans hsum
  · exact hput.trans hsum

theorem addProduct_thr (s : State) (x : VSite) (xs test clr : Bool) (ex ey : List Nat) (lj : Nat × Nat) :
    ((s.addProduct x xs test clr ex ey lj).thr x).unmarked = (s.thr x).unmarked := by
  unfold State.addProduct
  split
  · rw [thr_updTap]
    exact putAcc_thr s x _ _ _
  · exact putAcc_thr s x _ _ _

theorem addProduct_only (s : State) (x : VSite) (xs test clr : Bool) (ex ey : List Nat) (lj : Nat × Nat) :
    Only [.wick, .log, .sad] s (s.addProduct x xs test clr ex ey lj) := by
  unfold State.addProduct
  split
  · exact (putAcc_only s x _ _ _).right (updTap_only _ x _) (by simp)
  · exact putAcc_only s x _ _ _

/-- The accumulators, lane by lane. -/
def lanes : List (Nat × Nat) := (List.range 32).flatMap fun l => (List.range 4).map fun j => (l, j)

theorem mem_lanes {lj : Nat × Nat} : lj ∈ lanes ↔ lj.1 < 32 ∧ lj.2 < 4 := by
  obtain ⟨l, j⟩ := lj
  simp [lanes]

theorem lanes_nodup : (lanes.map fun lj => accIx lj.1 lj.2).Nodup := by
  have hpairs : lanes.Nodup := (List.nodup_range (n := 32)).product (List.nodup_range (n := 4))
  refine List.Nodup.map_on (fun a ha b hb heq => ?_) hpairs
  obtain ⟨ha1, ha2⟩ := mem_lanes.mp ha
  obtain ⟨hb1, hb2⟩ := mem_lanes.mp hb
  unfold accIx at heq
  exact Prod.ext (by omega) (by omega)

/-- All the products in turn. -/
def State.addProducts (s : State) (x : VSite) (xs test clr : Bool) (ex ey : List Nat) : State :=
  lanes.foldl (fun s lj => s.addProduct x xs test clr ex ey lj) s

theorem addProducts_thr (s : State) (x : VSite) (xs test clr : Bool) (ex ey : List Nat) :
    ((s.addProducts x xs test clr ex ey).thr x).unmarked = (s.thr x).unmarked :=
  foldl_same (fun s => (s.thr x).unmarked) (fun s lj => addProduct_thr s x xs test clr ex ey lj) lanes s

theorem addProducts_only (s : State) (x : VSite) (xs test clr : Bool) (ex ey : List Nat) :
    Only [.wick, .log, .sad] s (s.addProducts x xs test clr ex ey) := Only.foldl _ (fun s lj => addProduct_only s x xs test clr ex ey lj) lanes s

theorem addProducts_accAt (s : State) (x : VSite) (xs test clr : Bool) (ex ey : List Nat) {l j : Nat} (hl : l < 32) (hj : j < 4) :
    (s.addProducts x xs test clr ex ey).accAt x (accIx l j) =
      sumOf clr (tmacProduct xs test ex ey (l, j)) (s.accAt x (accIx l j)) := by
  obtain ⟨hacc, -⟩ := foldl_accAt (x := x) (step := fun s lj => s.addProduct x xs test clr ex ey lj) (place := fun lj => accIx lj.1 lj.2)
    (val := fun lj => sumOf clr (tmacProduct xs test ex ey lj)) (l := lanes) (fun s lj h k => addProduct_accAt s x xs test clr ex ey
      (by obtain ⟨h1, h2⟩ := mem_lanes.mp h; unfold accIx; omega) k) lanes_nodup s
  exact hacc (l, j) (mem_lanes.mpr ⟨hl, hj⟩)

theorem tmacOnce_eq (s : State) (x : VSite) (a : TmacArgs) (test clr : Bool) (px py : Pointer) (gx gy : Int) :
    s.tmacOnce x a test clr px py gx gy = ((s.fetchElems x false px gx 32).1.fetchElems x true py gy (if test then 32 else 4)).1.addProducts x
      (bit a.fl.toNat 0) test clr (s.fetchElems x false px gx 32).2 ((s.fetchElems x false px gx 32).1.fetchElems x true py gy (if test then 32 else 4)).2 := by
  unfold State.tmacOnce
  generalize s.fetchElems x false px gx 32 = q
  obtain ⟨u, ex⟩ := q
  dsimp only
  generalize u.fetchElems x true py gy (if test then 32 else 4) = r
  obtain ⟨v, ey⟩ := r
  rfl

/-- The product of an X and a Y element of the Taper that pointers name. -/
def State.product (s : State) (x : VSite) (xs test : Bool) (px py : Pointer) (gx gy : Int) (l j : Nat) : Int :=
  (if xs then sgn 16 (s.taperElem x.w false (px.elem gx l)) else (s.taperElem x.w false (px.elem gx l) : Int)) *
    sgn 16 (s.taperElem x.w true (py.elem gy (if test then (l + 8 * j) % 32 else j : Nat)))

/-- One iteration adds to each accumulator its product, and leaves marks. -/
theorem tmacOnce_adds (s : State) (x : VSite) (a : TmacArgs) (test clr : Bool) (px py : Pointer) (gx gy : Int) :
    ((s.tmacOnce x a test clr px py gx gy).thr x).unmarked = (s.thr x).unmarked ∧ Only [.wick, .log, .sad] s (s.tmacOnce x a test clr px py gx gy) ∧
      ∀ l j, l < 32 → j < 4 → (s.tmacOnce x a test clr px py gx gy).accAt x (accIx l j) =
        sumOf clr (s.product x (bit a.fl.toNat 0) test px py gx gy l j) (s.accAt x (accIx l j)) := by
  obtain ⟨hx, hex, hxonly⟩ := fetchElems_brings s x false px gx 32
  obtain ⟨hy, hey, hyonly⟩ := fetchElems_brings (s.fetchElems x false px gx 32).1 x true py gy (if test then 32 else 4)
  have hboth := hy.trans hx
  rw [tmacOnce_eq]
  refine ⟨(addProducts_thr _ x _ _ _ _ _).trans (thr_unmarked hboth x), (hxonly.step hyonly).step (addProducts_only _ x _ _ _ _ _), fun l j hl hj => ?_⟩
  have hj' : (if test then (l + 8 * j) % 32 else j) < if test then 32 else 4 := by split <;> omega
  rw [addProducts_accAt _ x _ _ _ _ _ hl hj, hex, hey, tmacProduct, getD_elems _ hl, getD_elems _ hj', taperElem_unmarked hx, State.product,
    State.accAt, acc_unmarked hboth, State.accAt]

/-! ## Iterations (R312) -/

/-- Iterations leave marks on their thread, and nothing outside the Wick but the log. -/
theorem tmacRun_keeps (x : VSite) (a : TmacArgs) (test : Bool) (px py : Pointer) (n : Nat) (clr : Bool) (gx gy : Int) (s : State) :
    ((State.tmacRun x a test px py n clr gx gy s).1.thr x).unmarked = (s.thr x).unmarked ∧
      Only [.wick, .log, .sad] s (State.tmacRun x a test px py n clr gx gy s).1 := by
  induction n generalizing clr gx gy s with
  | zero =>
    obtain ⟨hthr, honly, -⟩ := tmacOnce_adds s x a test clr px py gx gy
    exact ⟨hthr, honly⟩
  | succ n ih =>
    obtain ⟨hthr, honly, -⟩ := tmacOnce_adds s x a test clr px py gx gy
    obtain ⟨hthr', honly'⟩ := ih false (px.step gx) (py.step gy) (s.tmacOnce x a test clr px py gx gy)
    exact ⟨hthr'.trans hthr, honly.step honly'⟩

/-- Linear pointers after n + 1 iterations. -/
theorem tmacRun_linear (x : VSite) (a : TmacArgs) (test : Bool) {px py : Pointer} (hx : px.buf = none) (hy : py.buf = none) (n : Nat) (clr : Bool)
    (gx gy : Int) (s : State) : (State.tmacRun x a test px py n clr gx gy s).2 = (gx + (n + 1) * px.inc, gy + (n + 1) * py.inc) := by
  have hstep {q : Pointer} (hq : q.buf = none) (p : Int) : q.step p = p + q.inc := by rw [Pointer.step, hq]
  induction n generalizing clr gx gy s with
  | zero =>
    rw [State.tmacRun, hstep hx, hstep hy]
    simp
  | succ n ih =>
    rw [State.tmacRun, ih, hstep hx, hstep hy]
    push_cast
    exact Prod.ext (by ring) (by ring)

/-- The n + 1 iterations from the pointers in registers. -/
def State.iterated (s : State) (x : VSite) (a : TmacArgs) (test : Bool) (px py : Pointer) (n : Nat) : State × Int × Int :=
  State.tmacRun x a test px py n (bit a.fl.toNat 1) (regGet (s.thr x).g a.gx).toNat (regGet (s.thr x).g a.gy).toNat s

theorem iterated_zero (s : State) (x : VSite) (a : TmacArgs) (test : Bool) (px py : Pointer) : s.iterated x a test px py 0 =
    (s.tmacOnce x a test (bit a.fl.toNat 1) px py (regGet (s.thr x).g a.gx).toNat (regGet (s.thr x).g a.gy).toNat,
      px.step (regGet (s.thr x).g a.gx).toNat, py.step (regGet (s.thr x).g a.gy).toNat) := rfl

theorem iterated_keeps (s : State) (x : VSite) (a : TmacArgs) (test : Bool) (px py : Pointer) (n : Nat) :
    ((s.iterated x a test px py n).1.thr x).unmarked = (s.thr x).unmarked ∧ Only [.wick, .log, .sad] s (s.iterated x a test px py n).1 :=
  tmacRun_keeps x a test px py n _ _ _ s

theorem iterated_linear (s : State) (x : VSite) (a : TmacArgs) (test : Bool) (ix iy : Int) (n : Nat) :
    (s.iterated x a test ⟨none, ix⟩ ⟨none, iy⟩ n).2 =
      ((regGet (s.thr x).g a.gx).toNat + (n + 1) * ix, (regGet (s.thr x).g a.gy).toNat + (n + 1) * iy) :=
  tmacRun_linear x a test rfl rfl n _ _ _ s

section
variable {n : Nat}

/-- A run whose pointers stay in range ends with its iterations done and its pointers stepped. -/
theorem runTmac_ends (hfl : a.fl.toNat < 4) (hp : pointers (s.tap x) a = (px, py)) (hx : px.fails (regGet (s.thr x).g a.gx).toNat n 32 = none)
    (hy : py.fails (regGet (s.thr x).g a.gy).toNat n (if test then 32 else 4) = none) : runTmac x a test n s =
      VRun.ok ((s.iterated x a test px py n).1.putG x
        [(a.gx, BitVec.ofInt 64 (s.iterated x a test px py n).2.1), (a.gy, BitVec.ofInt 64 (s.iterated x a test px py n).2.2)]) := by
  unfold runTmac
  rw [hp]
  dsimp only
  rw [if_neg (by omega), hx, hy]
  rfl

end

end

end Sys2Proof.Machine
end

section
/-! # PROOFS. The lines that the line loader writes (R318–R320). -/
namespace Sys2Proof.Machine

section
variable {s u b : State} {w : WkId} {d : Loader} {j i e y k : Nat} {P : Nat → Nat → Prop}

/-! ## What a load reads -/

/-- With no copies exchanged the vector scratchpad stands at its own addresses (R231). -/
theorem vecAddr_flat (h : s.wick[w].swapped = []) (off : Nat) : s.vecAddr w off = wickBase w.1 + 0x200000 + off := by
  have hcode : s.remap w (0x80000000 + off) = 0x80000000 + off := by
    unfold State.remap
    rw [h]
    cases s.job.image with
    | none => rfl
    | some im =>
      have hnone : im.blocks.find? (fun _ => false) = none := List.find?_eq_none.mpr fun _ _ => Bool.false_ne_true
      simp [hnone]
  unfold State.vecAddr
  rw [hcode]
  dsimp only
  rw [if_pos (by omega)]
  omega

/-- The rows that a load reads pass through the correction. -/
theorem loadRows_unmarked (s : State) (w : WkId) (d : Loader) : (s.loadRows w d).unmarked = s.unmarked := by
  unfold State.loadRows
  split
  · rfl
  · refine foldl_same State.unmarked (fun t r => ?_) _ s
    have hread := readVecRow_unmarked t w r
    dsimp only
    split
    · exact (poisonThread_unmarked _ w d.thread 0 r).trans hread
    · exact hread

theorem loadElem_state (hX : d.fromX = false) : (s.loadElem w d y k).1 = s := by
  unfold State.loadElem
  rw [hX]
  rfl

/-- An element of the scratchpad depends on the bytes that its addresses reach. -/
theorem loadElem_congr (hX : d.fromX = false) (haddr : u.vecAddr w = s.vecAddr w)
    (hbytes : ∀ o, u.mem.byte (s.vecAddr w o) = s.mem.byte (s.vecAddr w o)) : (u.loadElem w d y k).2 = (s.loadElem w d y k).2 := by
  unfold State.loadElem
  rw [hX, haddr]
  simp only [hbytes]
  rfl

/-! ## One element of a line (R319) -/

/-- Element i of destination line j. -/
def State.lineElem (s : State) (w : WkId) (d : Loader) (j i : Nat) : BitVec 16 :=
  match padIndex j d.h (d.mode 0) (d.mode 1) d.top, padIndex i d.w (d.mode 2) (d.mode 3) d.left with
  | some y, some k => (s.loadElem w d y k).2
  | _, _ => d.const

theorem lineElem_congr (hX : d.fromX = false) (haddr : u.vecAddr w = s.vecAddr w)
    (hbytes : ∀ o, u.mem.byte (s.vecAddr w o) = s.mem.byte (s.vecAddr w o)) (j i : Nat) : u.lineElem w d j i = s.lineElem w d j i := by
  unfold State.lineElem
  split
  · exact loadElem_congr hX haddr hbytes
  · rfl

/-- Its place in Taper X. -/
def Loader.place (d : Loader) (j i : Nat) : Nat := d.dst + j * d.dstStride + i

/-- An element of Taper X written. -/
def State.putX (u : State) (w : WkId) (e : Nat) (v : BitVec 16) : State :=
  u.setMem ((u.mem.write (wickBase w.1 + 0x00040000 + 2 * e) (leBytes 2 v.toNat)).setEcc (wickBase w.1 + 0x00040000 + 2 * e) 0)

theorem loadLine_eq (hX : d.fromX = false) (s : State) (j : Nat) :
    s.loadLine w d j = (List.range d.cols).foldl (fun u i => u.putX w (d.place j i) (u.lineElem w d j i)) s := by
  unfold State.loadLine
  refine congrArg (fun f => List.foldl f s (List.range d.cols)) (funext fun u => funext fun i => ?_)
  unfold State.lineElem
  cases padIndex j d.h (d.mode 0) (d.mode 1) d.top with
  | none => rfl
  | some y =>
    cases padIndex i d.w (d.mode 2) (d.mode 3) d.left with
    | none => rfl
    | some k =>
      have hst := loadElem_state (s := u) (w := w) (y := y) (k := k) hX
      dsimp only
      rw [hst]
      rfl

theorem putX_only (u : State) (w : WkId) (e : Nat) (v : BitVec 16) : Only [.mem] u (u.putX w e v) := setMem_only u _

theorem putX_byte (hwf : u.mem.wf) (e : Nat) (v : BitVec 16) (p : Nat) : (u.putX w e v).mem.byte p =
    if wickBase w.1 + 0x40000 + 2 * e ≤ p ∧ p < wickBase w.1 + 0x40000 + 2 * e + 2 then
      (leBytes 2 v.toNat).getD (p - (wickBase w.1 + 0x40000 + 2 * e)) 0 else u.mem.byte p :=
  MemBlk.byte_write hwf _ p _

theorem putX_taperElem (hwf : u.mem.wf) (e : Nat) (v : BitVec 16) (k : Nat) :
    (u.putX w e v).taperElem w false k = if k = e then v.toNat else u.taperElem w false k := by
  have hpair (s : State) : s.taperElem w false k = leNat [s.mem.byte (wickBase w.1 + 0x40000 + 2 * k), s.mem.byte (wickBase w.1 + 0x40000 + 2 * k + 1)] := rfl
  rw [hpair, hpair, putX_byte hwf, putX_byte hwf]
  by_cases hk : k = e
  · subst hk
    rw [if_pos (by omega), if_pos (by omega), if_pos rfl, Nat.sub_self, Nat.add_sub_cancel_left]
    exact (leNat_leBytes 2 v.toNat).trans (Nat.mod_eq_of_lt v.isLt)
  · rw [if_neg (by omega), if_neg (by omega), if_neg hk]

/-! ## Lines in turn -/

/-- A state reached from b by the writes of the elements in P: they stand in X, and the scratchpad is as it was. -/
structure LinesWritten (b : State) (w : WkId) (d : Loader) (P : Nat → Nat → Prop) (u : State) : Prop where
  wf : u.mem.wf
  only : Only [.mem] b u
  source : ∀ p, wickBase w.1 + 0x200000 ≤ p → u.mem.byte p = b.mem.byte p
  elem : ∀ j i, P j i → j < d.rows → i < d.cols → u.taperElem w false (d.place j i) = (b.lineElem w d j i).toNat

/-- A load whose lines do not overlap and lie in X, from the vector scratchpad at its own addresses. -/
structure LoadFits (b : State) (w : WkId) (d : Loader) : Prop where
  fromX : d.fromX = false
  flat : ∀ o, b.vecAddr w o = wickBase w.1 + 0x200000 + o
  cols : d.cols ≤ d.dstStride
  ends : d.dst + (d.rows - 1) * d.dstStride + d.cols ≤ 65536

theorem LoadFits.place_lt (h : LoadFits b w d) (hj : j < d.rows) (hi : i < d.cols) : d.place j i < 65536 := by
  have hrow := Nat.mul_le_mul_right d.dstStride (Nat.le_sub_one_of_lt hj)
  have hends := h.ends
  unfold Loader.place
  omega

theorem LoadFits.place_inj (h : LoadFits b w d) {j' i' : Nat} (hi : i < d.cols) (hi' : i' < d.cols) (heq : d.place j' i' = d.place j i) :
    j' = j ∧ i' = i := by
  have hcols := h.cols
  unfold Loader.place at heq
  have hline (j i : Nat) (hi : i < d.dstStride) : (j * d.dstStride + i) / d.dstStride = j := by
    rw [Nat.mul_comm, Nat.mul_add_div (by omega), Nat.div_eq_of_lt hi, Nat.add_zero]
  have hsum : j' * d.dstStride + i' = j * d.dstStride + i := by omega
  have hj := (hline j' i' (by omega)).symm.trans ((congrArg (· / d.dstStride) hsum).trans (hline j i (by omega)))
  rw [hj] at hsum
  exact ⟨hj, by omega⟩

theorem LinesWritten.step (h : LinesWritten b w d P u) (hfit : LoadFits b w d) (hj : j < d.rows) (hi : i < d.cols) :
    LinesWritten b w d (fun j' i' => (j' = j ∧ i' = i) ∨ P j' i') (u.putX w (d.place j i) (u.lineElem w d j i)) := by
  have hlt := hfit.place_lt hj hi
  have hval : u.lineElem w d j i = b.lineElem w d j i :=
    lineElem_congr hfit.fromX (vecAddr_onlyMem h.only) (fun o => h.source _ (by rw [hfit.flat]; omega)) j i
  refine ⟨MemBlk.setEcc_wf (MemBlk.write_wf h.wf _ _) _ _, h.only.step (putX_only u w _ _), fun p hp => ?_, fun j' i' hP hj' hi' => ?_⟩
  · rw [putX_byte h.wf, if_neg (by omega), h.source p hp]
  · rw [putX_taperElem h.wf, hval]
    split
    case isTrue heq =>
      obtain ⟨rfl, rfl⟩ := hfit.place_inj hi hi' heq
      rfl
    case isFalse hne => exact h.elem j' i' (hP.resolve_left fun ⟨h1, h2⟩ => hne (by rw [h1, h2])) hj' hi'

theorem LinesWritten.imp {Q : Nat → Nat → Prop} (h : LinesWritten b w d P u) (hQ : ∀ j i, i < d.cols → Q j i → P j i) : LinesWritten b w d Q u :=
  ⟨h.wf, h.only, h.source, fun j i hq hj hi => h.elem j i (hQ j i hi hq) hj hi⟩

/-- A whole line, element by element. -/
theorem LinesWritten.line (h : LinesWritten b w d P u) (hfit : LoadFits b w d) (hj : j < d.rows) {l : List Nat} (hl : ∀ i ∈ l, i < d.cols) :
    LinesWritten b w d (fun j' i' => (j' = j ∧ i' ∈ l) ∨ P j' i') (l.foldl (fun u i => u.putX w (d.place j i) (u.lineElem w d j i)) u) := by
  induction l generalizing u P with
  | nil => exact h.imp fun j' i' _ hQ => hQ.resolve_left fun hin => List.not_mem_nil hin.2
  | cons i l ih =>
    refine (ih (h.step hfit hj (hl i List.mem_cons_self)) fun k hk => hl k (List.mem_cons_of_mem i hk)).imp fun j' i' _ hQ => ?_
    rw [List.mem_cons] at hQ
    tauto

/-- The lines, one after the other. -/
theorem LinesWritten.lines (h : LinesWritten b w d P u) (hfit : LoadFits b w d) {l : List Nat} (hl : ∀ j ∈ l, j < d.rows) :
    LinesWritten b w d (fun j' i' => j' ∈ l ∨ P j' i') (l.foldl (fun u j => u.loadLine w d j) u) := by
  induction l generalizing u P with
  | nil => exact h.imp fun j' i' _ hQ => hQ.resolve_left List.not_mem_nil
  | cons j l ih =>
    have hline := h.line hfit (hl j List.mem_cons_self) (l := List.range d.cols) fun i hi => List.mem_range.mp hi
    rw [← loadLine_eq hfit.fromX] at hline
    refine (ih hline fun k hk => hl k (List.mem_cons_of_mem j hk)).imp fun j' i' hi' hQ => ?_
    rw [List.mem_cons] at hQ
    have := List.mem_range.mpr hi'
    tauto

end

end Sys2Proof.Machine
end

section
/-! # PROOFS. The Taper's multiplications and the line loader (O47). -/
namespace Sys2Proof.Machine

section
variable {s : State} {x : VSite} {len n : Nat} {a : TmacArgs} {px py : Pointer} {gn : G} {test : Bool}

theorem fails_point {u : State} (hat : AtPoint s u x) {p : Pointer} {g : G} {k m : Nat} (h : p.fails (regGet (s.thr x).g g).toNat k m = none) :
    p.fails (regGet (u.thr x).g g).toNat k m = none := by rwa [hat.g]

theorem product_congr {u : State} (hmem : u.mem = s.mem) (xs test : Bool) (px py : Pointer) (gx gy : Int) (l j : Nat) :
    u.product x xs test px py gx gy l j = s.product x xs test px py gx gy l j := by
  unfold State.product State.taperElem
  rw [hmem]

/-- An instruction that ends with iterations done: their marks, their pointers in registers, and nothing outside the Wick but the log. -/
theorem iterated_ends {u v p : State} (hat : RowsAt s u x) (hthr : (v.thr x).unmarked = (u.thr x).unmarked) (honly : Only [.wick, .log, .sad] u v)
    {l : List (G × W64)} (hg : (p.thr x).g = regSets (v.thr x).g l) (hpc : (p.thr x).pc = (v.thr x).pc) (hp : Only [.wick] v p) (n : Nat)
    (busy : Wick → Nat) :
    ((p.endVec x len n busy).thr x).g = regSets (s.thr x).g l ∧ ((p.endVec x len n busy).thr x).pc = (s.thr x).pc + BitVec.ofNat 18 len ∧
      Only [.wick, .log, .sad] s (p.endVec x len n busy) := by
  obtain ⟨hg', hpc'⟩ := endVec_site p x len n busy
  refine ⟨?_, ?_, ((hat.only.left honly (by simp)).right hp (by simp)).right (endVec_only p x len n busy) (by simp)⟩
  · rw [hg', hg, Thread.g_unmarked hthr, hat.g]
  · rw [hpc', hpc, Thread.pc_unmarked hthr, hat.pc]

theorem thr_putG (u : State) (x : VSite) (l : List (G × W64)) : (u.putG x l).thr x = { u.thr x with g := regSets (u.thr x).g l } := thr_updThr _

/-- TMAC or TMACS: one iteration, its pointers stepped. -/
theorem tmac_adds {i : Instr} (hexec : exec i s = .next (s.issueVec x i (taperHow [a.gx, a.gy] [a.gx, a.gy] false (some .taper))
      fun s _ => runTmac x a test 0 s)) (hr : TReady s x i len) (hfl : a.fl.toNat < 4)
    (hp : pointers s.wick[x.w].taper a = (px, py)) (hx : px.fails (regGet (s.thr x).g a.gx).toNat 0 32 = none)
    (hy : py.fails (regGet (s.thr x).g a.gy).toNat 0 (if test then 32 else 4) = none) :
    Completes i s fun t =>
      (∀ l j, l < 32 → j < 4 → getOr t.wick[x.w].taper.acc (accIx l j) 0 =
        sumOf (bit a.fl.toNat 1) (s.product x (bit a.fl.toNat 0) test px py (regGet (s.thr x).g a.gx).toNat (regGet (s.thr x).g a.gy).toNat l j)
          (getOr s.wick[x.w].taper.acc (accIx l j) 0)) ∧
      (t.thr x).g = regSets (s.thr x).g [(a.gx, BitVec.ofInt 64 (px.step (regGet (s.thr x).g a.gx).toNat)),
        (a.gy, BitVec.ofInt 64 (py.step (regGet (s.thr x).g a.gy).toNat))] ∧
      (t.thr x).pc = (s.thr x).pc + BitVec.ofNat 18 len ∧ Only [.wick, .log, .sad] s t := by
  have hat := runPoint_rowsAt s x (taperHow [a.gx, a.gy] [a.gx, a.gy] false (some .taper))
  have hrun := runTmac_ends (test := test) hfl ((congrArg (pointers · a) (tap_runPoint s x _)).trans hp) (fails_point hat.toAtPoint hx)
    (fails_point hat.toAtPoint hy)
  refine completes_ends hexec hr.1 hr.free hrun fun busy => ?_
  generalize s.runPoint x (taperHow [a.gx, a.gy] [a.gx, a.gy] false (some .taper)) = u at hat
  obtain ⟨hthr, honly, hacc⟩ := tmacOnce_adds u x a test (bit a.fl.toNat 1) px py (regGet (u.thr x).g a.gx).toNat (regGet (u.thr x).g a.gy).toNat
  rw [iterated_zero]
  rw [hat.g] at hthr honly hacc ⊢
  generalize u.tmacOnce x a test (bit a.fl.toNat 1) px py (regGet (s.thr x).g a.gx).toNat (regGet (s.thr x).g a.gy).toNat = v at hthr honly hacc ⊢
  let l : List (G × W64) := [(a.gx, BitVec.ofInt 64 (px.step (regGet (s.thr x).g a.gx).toNat)),
    (a.gy, BitVec.ofInt 64 (py.step (regGet (s.thr x).g a.gy).toNat))]
  have hput := thr_putG v x l
  obtain ⟨hg, hpc, honly'⟩ := iterated_ends (len := len) hat hthr honly (l := l) (by rw [hput]) (by rw [hput]) (putG_only v x l) 0 busy
  refine ⟨fun l j hl hj => ?_, hg, hpc, honly'⟩
  rw [taper_endVec, State.putG, taper_updThr, ← hat.taper, ← product_congr hat.mem]
  exact hacc l j hl hj

theorem tmac_gives (hr : TReady s x (.tmac x a) len) (hfl : a.fl.toNat < 4)
    (hp : pointers s.wick[x.w].taper a = (px, py)) (hx : px.fails (regGet (s.thr x).g a.gx).toNat 0 32 = none)
    (hy : py.fails (regGet (s.thr x).g a.gy).toNat 0 4 = none) :
    Completes (.tmac x a) s fun t =>
      (∀ l j vx vy, l < 32 → j < 4 →
        vx = (if bit a.fl.toNat 0 then sgn 16 (s.taperElem x.w false (px.elem (regGet (s.thr x).g a.gx).toNat l))
          else (s.taperElem x.w false (px.elem (regGet (s.thr x).g a.gx).toNat l) : Int)) →
        vy = sgn 16 (s.taperElem x.w true (py.elem (regGet (s.thr x).g a.gy).toNat j)) →
        getOr t.wick[x.w].taper.acc (accIx l j) 0 =
          (acc56 ((if bit a.fl.toNat 1 then 0 else (getOr s.wick[x.w].taper.acc (accIx l j) 0).toInt) + vx * vy)).1) ∧
      (t.thr x).g = regSets (s.thr x).g [(a.gx, BitVec.ofInt 64 (px.step (regGet (s.thr x).g a.gx).toNat)),
        (a.gy, BitVec.ofInt 64 (py.step (regGet (s.thr x).g a.gy).toNat))] ∧
      (t.thr x).pc = (s.thr x).pc + BitVec.ofNat 18 len ∧ Only [.wick, .log, .sad] s t :=
  (tmac_adds (test := false) rfl hr hfl hp hx hy).imp fun t ⟨hacc, hg, hpc, honly⟩ =>
    ⟨fun l j vx vy hl hj hvx hvy => by rw [hvx, hvy]; exact hacc l j hl hj, hg, hpc, honly⟩

theorem tmacs_gives (hr : TReady s x (.tmacs x a) len) (hfl : a.fl.toNat < 4)
    (hp : pointers s.wick[x.w].taper a = (px, py)) (hx : px.fails (regGet (s.thr x).g a.gx).toNat 0 32 = none)
    (hy : py.fails (regGet (s.thr x).g a.gy).toNat 0 32 = none) :
    Completes (.tmacs x a) s fun t =>
      (∀ l j vx vy, l < 32 → j < 4 →
        vx = (if bit a.fl.toNat 0 then sgn 16 (s.taperElem x.w false (px.elem (regGet (s.thr x).g a.gx).toNat l))
          else (s.taperElem x.w false (px.elem (regGet (s.thr x).g a.gx).toNat l) : Int)) →
        vy = sgn 16 (s.taperElem x.w true (py.elem (regGet (s.thr x).g a.gy).toNat ((l + 8 * j) % 32))) →
        getOr t.wick[x.w].taper.acc (accIx l j) 0 =
          (acc56 ((if bit a.fl.toNat 1 then 0 else (getOr s.wick[x.w].taper.acc (accIx l j) 0).toInt) + vx * vy)).1) ∧
      (t.thr x).pc = (s.thr x).pc + BitVec.ofNat 18 len ∧ Only [.wick, .log, .sad] s t :=
  (tmac_adds (test := true) rfl hr hfl hp hx hy).imp fun t ⟨hacc, _, hpc, honly⟩ =>
    ⟨fun l j vx vy hl hj hvx hvy => by rw [hvx, hvy]; exact hacc l j hl hj, hpc, honly⟩

/-! ## TREP (R312, R313) -/

/-- No bit of cb set: both pointers are linear. -/
theorem pointers_linear {t : Taper} (hcb : a.cb = 0) : pointers t a = (⟨none, a.ix.toInt⟩, ⟨none, a.iy.toInt⟩) := by
  unfold pointers
  rw [hcb]
  rfl

theorem trep_repeats (hr : TReady s x (.trep x gn test a) len) (hfl : a.fl.toNat < 4) (hcb : a.cb = 0)
    (hn : n = (regGet (s.thr x).g gn).toNat % 65536) (hp : pointers s.wick[x.w].taper a = (px, py))
    (hx : px.fails (regGet (s.thr x).g a.gx).toNat n 32 = none)
    (hy : py.fails (regGet (s.thr x).g a.gy).toNat n (if test then 32 else 4) = none) :
    Completes (.trep x gn test a) s fun t => (t.thr x).trepEnd = s.slotRho x + n + 2 ∧
      (t.thr x).g = regSets (s.thr x).g
        [(a.gx, BitVec.ofInt 64 ((regGet (s.thr x).g a.gx).toNat + (n + 1) * a.ix.toInt)),
         (a.gy, BitVec.ofInt 64 ((regGet (s.thr x).g a.gy).toNat + (n + 1) * a.iy.toInt))] ∧
      (t.thr x).pc = (s.thr x).pc + BitVec.ofNat 18 len ∧ Only [.wick, .log, .sad] s t := by
  have hat := runPoint_rowsAt s x { taperHow [gn, a.gx, a.gy] [a.gx, a.gy] false (some .taper) with alone := true }
  have hends := runTmac_ends (test := test) hfl ((congrArg (pointers · a) (tap_runPoint s x
    { taperHow [gn, a.gx, a.gy] [a.gx, a.gy] false (some .taper) with alone := true })).trans hp) (fails_point hat.toAtPoint hx)
    (fails_point hat.toAtPoint hy)
  rw [pointers_linear hcb, Prod.mk.injEq] at hp
  obtain ⟨rfl, rfl⟩ := hp
  generalize hu : s.runPoint x { taperHow [gn, a.gx, a.gy] [a.gx, a.gy] false (some .taper) with alone := true } = u at hat hends
  obtain ⟨hthr, honly⟩ := iterated_keeps u x a test ⟨none, a.ix.toInt⟩ ⟨none, a.iy.toInt⟩ n
  rw [iterated_linear, hat.g] at hends
  generalize (u.iterated x a test ⟨none, a.ix.toInt⟩ ⟨none, a.iy.toInt⟩ n).1 = v at hends hthr honly
  let l : List (G × W64) := [(a.gx, BitVec.ofInt 64 ((regGet (s.thr x).g a.gx).toNat + (n + 1) * a.ix.toInt)),
    (a.gy, BitVec.ofInt 64 ((regGet (s.thr x).g a.gy).toNat + (n + 1) * a.iy.toInt))]
  refine completes_ends (u := (v.putG x l).updThr x fun th => { th with trepEnd := s.slotRho x + n + 2 }) (n := 0) (b := 0) rfl hr.1 hr.free ?_
    fun busy => ?_
  · rw [hu]
    dsimp only
    rw [hat.g, ← hn, hends]
    rfl
  · have hput : ((v.putG x l).updThr x fun th => { th with trepEnd := s.slotRho x + n + 2 }).thr x =
        { v.thr x with g := regSets (v.thr x).g l, trepEnd := s.slotRho x + n + 2 } := by rw [thr_updThr, thr_putG]
    obtain ⟨hg, hpc, honly'⟩ := iterated_ends (len := len) hat hthr honly (l := l) (by rw [hput]) (by rw [hput])
      ((putG_only v x l).step (updThr_only _ x _)) 0 busy
    refine ⟨?_, hg, hpc, honly'⟩
    rw [thr_endVec, hput]
    rfl

end

/-! ## TLOAD (R318) -/

section
variable {s u : State} {x : VSite} {len a : Nat} {ga : G} {l : List Byte}

/-- A line of local memory passes through the correction. -/
def State.passLine (s : State) (x : VSite) (off : Nat) : State :=
  let (u, bad) := s.checkLine x.w off 0
  if bad then u.poisonThread x.w x.t 1 off else u

theorem passLine_unmarked (s : State) (x : VSite) (off : Nat) : (s.passLine x off).unmarked = s.unmarked := by
  have hcheck := checkLine_unmarked s x.w off 0
  unfold State.passLine
  dsimp only
  split
  · exact (poisonThread_unmarked _ x.w x.t 1 off).trans hcheck
  · exact hcheck

/-- The two lines of a descriptor read, at the port of local memory. -/
def State.descriptorRead (s : State) (x : VSite) (a : Nat) : State :=
  ([0, 16].foldl (fun s o => s.passLine x (a + o)) s).setWick x.w fun k => k.portTake 2

/-- The descriptor that is read, with its Wick and thread. -/
theorem descriptorRead_leaves (u : State) (x : VSite) (a : Nat) : (u.descriptorRead x a).localBytes x.w a 32 = u.localBytes x.w a 32 ∧
    (u.descriptorRead x a).wick[x.w].wcyc = u.wick[x.w].wcyc ∧ ((u.descriptorRead x a).thr x).pc = (u.thr x).pc := by
  have hpass := foldl_same State.unmarked (fun s o => passLine_unmarked s x (a + o)) [0, 16] u
  have hthr := thr_unmarked hpass x
  have hbytes := localBytes_unmarked hpass x.w a 32
  have hwick := wick_unmarked hpass x.w
  unfold State.descriptorRead
  generalize [0, 16].foldl (fun s o => s.passLine x (a + o)) u = v at hthr hbytes hwick
  have haddr : (v.setWick x.w fun k => k.portTake 2).localAddr x.w = v.localAddr x.w := localAddr_congr rfl rfl (by rw [setWick_self]; rfl)
  refine ⟨?_, ?_, ?_⟩
  · rw [← hbytes]
    unfold State.localBytes
    rw [haddr]
    rfl
  · rw [setWick_self]
    have hcyc := congrArg Wick.wcyc hwick
    exact hcyc
  · rw [thr_setWick, ← Thread.pc_unmarked hthr]
    unfold Wick.portTake
    simp only [Fin.getElem_fin, Vector.getElem_map]
    rfl

theorem tload_traps (hr : TReady s x (.tload x ga) len)
    (hbad : (regGet (s.thr x).g ga).toNat % 32 ≠ 0 ∨ 0x40000 ≤ (regGet (s.thr x).g ga).toNat) :
    Completes (.tload x ga) s fun t => Traps s t (.wick x.w x.t x.wide .clean) 0x02 (regGet (s.thr x).g ga) := by
  have hat := runPoint_atPoint s x { taperHow [ga] [] false none with mem := true }
  refine completes_raises rfl hr.1 hr.free ?_ (by decide) (by decide)
  dsimp only
  rw [hat.g]
  exact if_pos hbad

theorem runPoint_wcyc (s : State) (x : VSite) (h : VHow) : s.wick[x.w].wcyc ≤ (s.runPoint x h).wick[x.w].wcyc := by
  rw [runPoint_wick, Wick.stall, pass_wcyc, Wick.toSlot, pass_wcyc]
  omega

theorem runPoint_localAddr (s : State) (x : VSite) (h : VHow) : (s.runPoint x h).localAddr x.w = s.localAddr x.w := by
  have honly := runPoint_only s x h
  refine localAddr_congr (honly .job (by simp)) (honly .rel (by simp)) ?_
  rw [runPoint_wick]
  exact (pass_swapped _ _ _).trans (pass_swapped _ _ _)

/-- The line loader started (R318). -/
def State.startLoader (u : State) (x : VSite) (d : Loader) : State :=
  u.setWick x.w fun k => { k with taper := { k.taper with loader := some { d with endAt := k.issueCycle x + 2 + d.cycles } } }

theorem startLoader_endVec (u : State) (x : VSite) (d : Loader) (len n : Nat) (busy : Wick → Nat) :
    ((u.startLoader x d).endVec x len n busy).wick[x.w].taper.loader = some { d with endAt := u.wick[x.w].issueCycle x + 2 + d.cycles } ∧
      (((u.startLoader x d).endVec x len n busy).thr x).pc = (u.thr x).pc + BitVec.ofNat 18 len := by
  obtain ⟨-, hpc⟩ := endVec_site (u.startLoader x d) x len n busy
  refine ⟨?_, hpc.trans ?_⟩
  · rw [taper_endVec, State.startLoader, setWick_self]
  · rw [State.startLoader, thr_setWick]
    rfl

/-- What a TLOAD does in its slot. -/
def runTload (x : VSite) (ga : G) (s : State) (_ : Nat) : VRun :=
  let a := regGet (s.thr x).g ga
  if a.toNat % 32 ≠ 0 ∨ 0x40000 ≤ a.toNat then VRun.raise s 0x02 a
  else
    let v := s.descriptorRead x a.toNat
    let l := v.localBytes x.w a.toNat 32
    if (loaderOf x.t l 0).ok l then { VRun.ok (v.startLoader x (loaderOf x.t l 0)) with stall := 1 } else { VRun.raise v 0x03 a with stall := 1 }

theorem execTload_eq (x : VSite) (ga : G) (s : State) :
    exec (.tload x ga) s = .next (s.issueVec x (.tload x ga) { taperHow [ga] [] false none with mem := true } (runTload x ga)) := rfl

theorem tload_starts (hr : TReady s x (.tload x ga) len) (halign : (regGet (s.thr x).g ga).toNat % 32 = 0)
    (hend : (regGet (s.thr x).g ga).toNat < 0x40000) (hl : l = s.localBytes x.w (regGet (s.thr x).g ga).toNat 32)
    (hok : (loaderOf x.t l 0).ok l = true) :
    Completes (.tload x ga) s fun t => ∃ n, t.wick[x.w].taper.loader = some (loaderOf x.t l n) ∧
      s.wick[x.w].wcyc + 2 + (loaderOf x.t l 0).cycles ≤ n ∧ (t.thr x).pc = (s.thr x).pc + BitVec.ofNat 18 len := by
  have hat := runPoint_rowsAt s x { taperHow [ga] [] false none with mem := true }
  have hcyc := runPoint_wcyc s x { taperHow [ga] [] false none with mem := true }
  have hlocal : (s.runPoint x { taperHow [ga] [] false none with mem := true }).localBytes x.w (regGet (s.thr x).g ga).toNat 32 = l := by
    rw [hl, State.localBytes, runPoint_localAddr, hat.mem, State.localBytes]
  generalize hu : s.runPoint x { taperHow [ga] [] false none with mem := true } = u at hat hcyc hlocal
  obtain ⟨hbytes, hcyc', hpc⟩ := descriptorRead_leaves u x (regGet (s.thr x).g ga).toNat
  rw [hlocal] at hbytes
  have hissue : (u.descriptorRead x (regGet (s.thr x).g ga).toNat).wick[x.w].issueCycle x = u.wick[x.w].wcyc := by
    obtain ⟨⟨hpair, -⟩, -⟩ := hr
    rw [Wick.issueCycle, hpair, if_neg Bool.false_ne_true, hcyc']
  refine completes_ends (u := (u.descriptorRead x (regGet (s.thr x).g ga).toNat).startLoader x (loaderOf x.t l 0)) (n := 1) (b := 0)
    (execTload_eq x ga s) hr.1 hr.free ?_ fun busy => ?_
  · rw [hu, runTload]
    dsimp only
    rw [hat.g, if_neg (by omega), hbytes, if_pos hok]
    rfl
  · obtain ⟨hloader, hpc'⟩ := startLoader_endVec (u.descriptorRead x (regGet (s.thr x).g ga).toNat) x (loaderOf x.t l 0) len 1 busy
    rw [hissue] at hloader
    exact ⟨_, hloader, by omega, by rw [hpc', hpc, hat.pc]⟩

end

/-! ## LINE_LOAD_DONE (R319, R320) -/

section
variable {s : State} {w : WkId} {d : Loader} {l : List Byte}

theorem Loader.ok_fits (h : d.ok l = true) : d.cols ≤ d.dstStride ∧ d.dst + (d.rows - 1) * d.dstStride + d.cols ≤ 65536 := by
  unfold Loader.ok at h
  simp only [Bool.and_eq_true, decide_eq_true_eq] at h
  obtain ⟨⟨⟨⟨⟨⟨⟨⟨⟨⟨⟨-, hcols, -⟩, -⟩, -⟩, -⟩, -⟩, -⟩, -⟩, -⟩, hends⟩, -⟩, -⟩ := h
  exact ⟨hcols, hends⟩

/-- The state in which the lines of a load are written: its W-cycles have passed and its rows have been read. -/
def State.loadPoint (s : State) (w : WkId) (d : Loader) : State := (s.setWick w fun k => k.pass (d.endAt - k.wcyc) 0).loadRows w d

theorem loadPoint_unmarked (s : State) (w : WkId) (d : Loader) :
    (s.loadPoint w d).unmarked = (s.setWick w fun k => k.pass (d.endAt - k.wcyc) 0).unmarked := loadRows_unmarked _ w d

theorem loadPoint_fits (hok : d.ok l = true) (hX : d.fromX = false) (hswap : s.wick[w].swapped = []) : LoadFits (s.loadPoint w d) w d := by
  obtain ⟨hcols, hends⟩ := Loader.ok_fits hok
  refine ⟨hX, fun o => vecAddr_flat ?_ o, hcols, hends⟩
  rw [swapped_unmarked (loadPoint_unmarked s w d), setWick_self]
  exact (pass_swapped _ _ _).trans hswap

/-- The elements are those of the state before. -/
theorem loadPoint_lineElem (hX : d.fromX = false) (j i : Nat) : (s.loadPoint w d).lineElem w d j i = s.lineElem w d j i := by
  have hst := loadPoint_unmarked s w d
  have hpass : (s.setWick w fun k => k.pass (d.endAt - k.wcyc) 0).vecAddr w = s.vecAddr w :=
    vecAddr_congr rfl rfl (by rw [setWick_self]; exact pass_swapped _ _ _)
  exact lineElem_congr (s := s) hX ((vecAddr_unmarked hst w).trans hpass) (fun o => byte_unmarked hst _) j i

theorem loadPoint_wcyc (s : State) (w : WkId) (d : Loader) : d.endAt ≤ (s.loadPoint w d).wick[w].wcyc := by
  have hcyc := congrArg Wick.wcyc (wick_unmarked (loadPoint_unmarked s w d) w)
  have hcyc' : (s.loadPoint w d).wick[w].wcyc = _ := hcyc
  rw [hcyc', setWick_self]
  show d.endAt ≤ (s.wick[w].pass (d.endAt - s.wick[w].wcyc) 0).wcyc
  rw [pass_wcyc]
  omega

theorem lineLoadDone_writes (hload : s.wick[w].taper.loader = some d) (hok : d.ok l = true) (hX : d.fromX = false)
    (hswap : s.wick[w].swapped = []) (hwf : s.mem.wf) :
    Completes (.lineLoadDone w) s fun t => t.wick[w].taper.loader = none ∧ d.endAt ≤ t.wick[w].wcyc ∧
      ∀ j i, j < d.rows → i < d.cols → t.taperElem w false (d.place j i) = (s.lineElem w d j i).toNat := by
  have hkeeps : Keeps s (s.loadPoint w d) := .loadRows (.setWick (.refl s))
  have hstart : LinesWritten (s.loadPoint w d) w d (fun _ _ => False) (s.loadPoint w d) :=
    ⟨hkeeps.wf hwf, Only.refl _ _, fun _ _ => rfl, fun _ _ h => h.elim⟩
  have hlines := hstart.lines (loadPoint_fits hok hX hswap) (l := List.range d.rows) fun j hj => List.mem_range.mp hj
  have heffect : lineLoadDoneEffect w s = ((List.range d.rows).foldl (fun u j => u.loadLine w d j) (s.loadPoint w d)).setWick w fun k =>
      { k with taper := { k.taper with loader := none } } := by
    unfold lineLoadDoneEffect
    rw [hload]
    rfl
  generalize (List.range d.rows).foldl (fun u j => u.loadLine w d j) (s.loadPoint w d) = u at hlines heffect
  have hwick := hlines.only .wick (by simp)
  refine ⟨_, congrArg Host.Outcome.next heffect, ?_, ?_, fun j i hj hi => ?_⟩
  · rw [setWick_self]
  · rw [setWick_self, hwick]
    exact loadPoint_wcyc s w d
  · rw [← loadPoint_lineElem hX]
    exact hlines.elem j i (Or.inl (List.mem_range.mpr hj)) hj hi

end

/-- Settles O47: each clause is the rule of its instruction. That a TLOAD reads its descriptor from memory, that a TREP acts whole at its command,
and that a load writes its lines at its end are the model's choice (log 61). -/
theorem taperMultipliesAndLoads : Obligations.TaperMultipliesAndLoads :=
  ⟨fun _ _ _ _ _ _ hr hfl hp hx hy => tmac_gives hr hfl hp hx hy, fun _ _ _ _ _ _ hr hfl hp hx hy => tmacs_gives hr hfl hp hx hy,
    fun _ _ _ _ _ _ _ _ _ hr hfl hcb hn hp hx hy => trep_repeats hr hfl hcb hn hp hx hy,
    fun _ _ _ _ _ hr halign hend hl hok => tload_starts hr halign hend hl hok, fun _ _ _ _ hr hbad => tload_traps hr hbad,
    fun _ _ _ _ hload hok hX hswap hwf => lineLoadDone_writes hload hok hX hswap hwf⟩

end Sys2Proof.Machine
end
